-- ==== Sys2Proof/Word.lean ====
section
/-! DEFINITION. The word type of the part and its plainest arithmetic (R3, R8). -/

namespace Sys2Proof

/-- A 64-bit register or memory word (R200). -/
abbrev Word := BitVec 64

/-- One byte (R3). -/
abbrev Byte := BitVec 8

/-- sext(x, 64) of R8. -/
def sext64 {n : Nat} (x : BitVec n) : Word := x.signExtend 64

/-- zext(x, 64) of R8. -/
def zext64 {n : Nat} (x : BitVec n) : Word := x.setWidth 64

end Sys2Proof
end

