-- ==== Sys2Proof/Syntax.lean ====
section
/-! DEFINITION. The instruction set of the Ianis IN-4820 as plain data: one constructor per row of
spec/opcode_table.json. The first 270 rows are encoded instructions (R215 to R218, R252, R257) with the
operand fields of their encodings; the 137 rows after them are the part's own steps, which
95_what_each_step_holds.md calls "each whole and indivisible": they have no encoding, and their
arguments name the core, berth, address or value the step concerns. -/

namespace Sys2Proof

/-- One row of the opcode table. Register fields hold register numbers (`a`, `b`, `d`), a quad field the
number divided by 4 (R298), `imm` and `off` the immediates of R216, `w` and `q` the Q field (R254),
`t` the type code or its varying bits (R217), `k` the mask register. -/
inductive Instr
  | add (d a b : BitVec 6) (w : BitVec 1)
  | sub (d a b : BitVec 6) (w : BitVec 1)
  | and (d a b : BitVec 6) (w : BitVec 1)
  | or (d a b : BitVec 6) (w : BitVec 1)
  | xor (d a b : BitVec 6) (w : BitVec 1)
  | andn (d a b : BitVec 6) (w : BitVec 1)
  | shl (d a b : BitVec 6) (w : BitVec 1)
  | shr (d a b : BitVec 6) (w : BitVec 1)
  | sar (d a b : BitVec 6) (w : BitVec 1)
  | rol (d a b : BitVec 6) (w : BitVec 1)
  | min (d a b : BitVec 6) (w : BitVec 1)
  | max (d a b : BitVec 6) (w : BitVec 1)
  | minu (d a b : BitVec 6) (w : BitVec 1)
  | maxu (d a b : BitVec 6) (w : BitVec 1)
  | slt (d a b : BitVec 6) (w : BitVec 1)
  | sltu (d a b : BitVec 6) (w : BitVec 1)
  | mul (d a b : BitVec 6) (w : BitVec 1)
  | mulh (d a b : BitVec 6) (w : BitVec 1)
  | mulhu (d a b : BitVec 6) (w : BitVec 1)
  | mulhsu (d a b : BitVec 6) (w : BitVec 1)
  | div (d a b : BitVec 6) (w : BitVec 1)
  | divu (d a b : BitVec 6) (w : BitVec 1)
  | rem (d a b : BitVec 6) (w : BitVec 1)
  | remu (d a b : BitVec 6) (w : BitVec 1)
  | clz (d a : BitVec 6) (w : BitVec 1)
  | ctz (d a : BitVec 6) (w : BitVec 1)
  | popc (d a : BitVec 6) (w : BitVec 1)
  | brev (d a : BitVec 6) (w : BitVec 1)
  | bswap (d a : BitVec 6) (w : BitVec 1)
  | ilv2 (d a b : BitVec 6)
  | ilv3 (d a b : BitVec 6)
  | addi (d a : BitVec 6) (imm : BitVec 12)
  | andi (d a : BitVec 6) (imm : BitVec 12)
  | ori (d a : BitVec 6) (imm : BitVec 12)
  | xori (d a : BitVec 6) (imm : BitVec 12)
  | shli (d a s : BitVec 6)
  | shri (d a s : BitVec 6)
  | sari (d a s : BitVec 6)
  | slti (d a : BitVec 6) (imm : BitVec 12)
  | sltui (d a : BitVec 6) (imm : BitVec 12)
  | lui (d : BitVec 6) (imm : BitVec 18)
  | auipc (d : BitVec 6) (imm : BitVec 18)
  | beq (a b : BitVec 6) (off : BitVec 12)
  | bne (a b : BitVec 6) (off : BitVec 12)
  | blt (a b : BitVec 6) (off : BitVec 12)
  | bge (a b : BitVec 6) (off : BitVec 12)
  | bltu (a b : BitVec 6) (off : BitVec 12)
  | bgeu (a b : BitVec 6) (off : BitVec 12)
  | btag (a : BitVec 6) (off : BitVec 12) (t : BitVec 2)
  | dbnz (d : BitVec 6) (off : BitVec 12)
  | jal (d : BitVec 6) (off : BitVec 18)
  | jalr (d a : BitVec 6) (imm : BitVec 12)
  | rep (a : BitVec 6) (n : BitVec 4) (s : BitVec 5)
  | csetb (d a b : BitVec 6)
  | csetbx (d a b : BitVec 6)
  | candp (d a b : BitVec 6)
  | cseta (d a b : BitVec 6)
  | cgetb (d a : BitVec 6)
  | cgett (d a : BitVec 6)
  | cgetp (d a : BitVec 6)
  | ctod (d a : BitVec 6)
  | gtag (d a : BitVec 6)
  | gclr (d c : BitVec 6)
  | gmap (d f : BitVec 6)
  | ldb (d a : BitVec 6) (imm : BitVec 12)
  | ldbu (d a : BitVec 6) (imm : BitVec 12)
  | ldh (d a : BitVec 6) (imm : BitVec 12)
  | ldhu (d a : BitVec 6) (imm : BitVec 12)
  | ldw (d a : BitVec 6) (imm : BitVec 12)
  | ldwu (d a : BitVec 6) (imm : BitVec 12)
  | ldd (d a : BitVec 6) (imm : BitVec 12)
  | ldc (d a : BitVec 6) (imm : BitVec 12)
  | stb (d a : BitVec 6) (imm : BitVec 12)
  | sth (d a : BitVec 6) (imm : BitVec 12)
  | stw (d a : BitVec 6) (imm : BitVec 12)
  | std (d a : BitVec 6) (imm : BitVec 12)
  | stc (d a : BitVec 6) (imm : BitVec 12)
  | rld (d a : BitVec 6) (imm : BitVec 12)
  | ldx (d a b : BitVec 6) (s : BitVec 2)
  | stx (d a b : BitVec 6) (s : BitVec 2)
  | disc (a b : BitVec 6)
  | aadd (d a b : BitVec 6) (q : BitVec 2)
  | aand (d a b : BitVec 6) (q : BitVec 2)
  | aor (d a b : BitVec 6) (q : BitVec 2)
  | axor (d a b : BitVec 6) (q : BitVec 2)
  | amin (d a b : BitVec 6) (q : BitVec 2)
  | amax (d a b : BitVec 6) (q : BitVec 2)
  | aminu (d a b : BitVec 6) (q : BitVec 2)
  | amaxu (d a b : BitVec 6) (q : BitVec 2)
  | aswap (d a b : BitVec 6) (q : BitVec 2)
  | acas (d a b : BitVec 6) (q : BitVec 2)
  | aaddW (d a b : BitVec 6) (q : BitVec 2)
  | aandW (d a b : BitVec 6) (q : BitVec 2)
  | aorW (d a b : BitVec 6) (q : BitVec 2)
  | axorW (d a b : BitVec 6) (q : BitVec 2)
  | aminW (d a b : BitVec 6) (q : BitVec 2)
  | amaxW (d a b : BitVec 6) (q : BitVec 2)
  | aminuW (d a b : BitVec 6) (q : BitVec 2)
  | amaxuW (d a b : BitVec 6) (q : BitVec 2)
  | aswapW (d a b : BitVec 6) (q : BitVec 2)
  | acasW (d a b : BitVec 6) (q : BitVec 2)
  | radd (a b : BitVec 6) (w : BitVec 1)
  | rand (a b : BitVec 6) (w : BitVec 1)
  | ror (a b : BitVec 6) (w : BitVec 1)
  | rxor (a b : BitVec 6) (w : BitVec 1)
  | rmin (a b : BitVec 6) (w : BitVec 1)
  | rmax (a b : BitVec 6) (w : BitVec 1)
  | rminu (a b : BitVec 6) (w : BitVec 1)
  | rmaxu (a b : BitVec 6) (w : BitVec 1)
  | rfadd (a b : BitVec 6)
  | lrw (d a b : BitVec 6)
  | sch (d a b : BitVec 6)
  | relq (d a : BitVec 6)
  | loga (d a b : BitVec 6)
  | merge (a b : BitVec 6)
  | fenceAcq (s : BitVec 3)
  | fenceRel (s : BitVec 3)
  | fenceAr (s : BitVec 3)
  | fenceSc (s : BitVec 3)
  | waitge (a b : BitVec 6)
  | waitne (a b : BitVec 6)
  | binit (a b : BitVec 6)
  | barr (d a : BitVec 6)
  | bwait (d a b : BitVec 6)
  | baw (d a : BitVec 6)
  | bexp (a b : BitVec 6)
  | bkill (a : BitVec 6)
  | bqry (d a : BitVec 6)
  | copy (a : BitVec 4) (b : BitVec 6)
  | copynb (d : BitVec 6) (a : BitVec 4) (b : BitVec 6)
  | copyd (a : BitVec 4) (b : BitVec 6)
  | copyc (a : BitVec 4) (b : BitVec 6)
  | twany (d a : BitVec 6) (q : BitVec 1)
  | twall (d a : BitVec 6) (q : BitVec 1)
  | tff (d a : BitVec 6) (q : BitVec 1)
  | tclr (a : BitVec 6)
  | tget (d a : BitVec 6)
  | send (a : BitVec 4) (b : BitVec 6) (u : BitVec 1)
  | recv (d : BitVec 4) (b : BitVec 6)
  | recvnb (d : BitVec 4) (b : BitVec 6)
  | inq (d a : BitVec 6)
  | migrate (a : BitVec 6)
  | home
  | rank (d : BitVec 6)
  | portb (a b : BitVec 6)
  | portq (d a : BitVec 6)
  | launch (d a b : BitVec 6)
  | texit
  | tyield
  | lbnd (a : BitVec 6)
  | vadd (d a b : BitVec 5) (t k : BitVec 2)
  | vsub (d a b : BitVec 5) (t k : BitVec 2)
  | vmul (d a b : BitVec 5) (t k : BitVec 2)
  | vmin (d a b : BitVec 5) (t k : BitVec 2)
  | vmax (d a b : BitVec 5) (t k : BitVec 2)
  | vand (d a b : BitVec 5) (t k : BitVec 2)
  | vor (d a b : BitVec 5) (t k : BitVec 2)
  | vxor (d a b : BitVec 5) (t k : BitVec 2)
  | vshl (d a b : BitVec 5) (t k : BitVec 2)
  | vshr (d a b : BitVec 5) (t k : BitVec 2)
  | vsar (d a b : BitVec 5) (t k : BitVec 2)
  | vsadd (d a b : BitVec 5) (t k : BitVec 2)
  | vssub (d a b : BitVec 5) (t k : BitVec 2)
  | vabs (d a : BitVec 5) (t k : BitVec 2)
  | vfadd (d a b : BitVec 5) (t k : BitVec 2)
  | vfsub (d a b : BitVec 5) (t k : BitVec 2)
  | vfmul (d a b : BitVec 5) (t k : BitVec 2)
  | vfdiv (d a b : BitVec 5) (t k : BitVec 2)
  | vfmin (d a b : BitVec 5) (t k : BitVec 2)
  | vfmax (d a b : BitVec 5) (t k : BitVec 2)
  | vfabs (d a : BitVec 5) (t k : BitVec 2)
  | vfneg (d a : BitVec 5) (t k : BitVec 2)
  | vfsqrt (d a : BitVec 5) (t k : BitVec 2)
  | vfrcp (d a : BitVec 5) (t k : BitVec 2)
  | vfrsq (d a : BitVec 5) (t k : BitVec 2)
  | vfexp2 (d a : BitVec 5) (t k : BitVec 2)
  | vflog2 (d a : BitVec 5) (t k : BitVec 2)
  | vfma (d a b : BitVec 5) (t k : BitVec 2)
  | vfms (d a b : BitVec 5) (t k : BitVec 2)
  | vfnma (d a b : BitVec 5) (t k : BitVec 2)
  | vdot4 (d a b : BitVec 5) (t : BitVec 1) (k : BitVec 2)
  | vceq (d : BitVec 2) (a b : BitVec 5) (t : BitVec 3) (k : BitVec 2)
  | vcne (d : BitVec 2) (a b : BitVec 5) (t : BitVec 3) (k : BitVec 2)
  | vclt (d : BitVec 2) (a b : BitVec 5) (t : BitVec 3) (k : BitVec 2)
  | vcle (d : BitVec 2) (a b : BitVec 5) (t : BitVec 3) (k : BitVec 2)
  | vcltu (d : BitVec 2) (a b : BitVec 5) (t k : BitVec 2)
  | vcleu (d : BitVec 2) (a b : BitVec 5) (t k : BitVec 2)
  | vcvt (d a : BitVec 5) (r : BitVec 1) (f : BitVec 4) (t : BitVec 3) (k : BitVec 2)
  | vcvts (d a : BitVec 5) (f : BitVec 4) (t k : BitVec 2)
  | vrsum (d a : BitVec 5) (t : BitVec 3) (k : BitVec 2)
  | vrmin (d a : BitVec 5) (t : BitVec 3) (k : BitVec 2)
  | vrmax (d a : BitVec 5) (t : BitVec 3) (k : BitVec 2)
  | vperm (d a b : BitVec 5) (t : BitVec 3) (k : BitVec 2)
  | vslide (d a : BitVec 5) (sl : BitVec 7) (t : BitVec 3)
  | vbcast (d a : BitVec 5) (t : BitVec 3) (k : BitVec 2)
  | vext (d a : BitVec 5) (idx : BitVec 7) (t : BitVec 3)
  | vins (d a : BitVec 5) (idx : BitVec 7) (t : BitVec 3)
  | vrot (d a : BitVec 5) (sl : BitVec 7) (t : BitVec 3)
  | vld (d a i : BitVec 5) (t : BitVec 3) (k : BitVec 2)
  | vst (d a i : BitVec 5) (t : BitVec 3) (k : BitVec 2)
  | vlds (d a b : BitVec 5) (t : BitVec 3) (k : BitVec 2)
  | vsts (d a b : BitVec 5) (t : BitVec 3) (k : BitVec 2)
  | vgath (d a b : BitVec 5) (t : BitVec 3) (k : BitVec 2)
  | vscat (d a b : BitVec 5) (t : BitVec 3) (k : BitVec 2)
  | vunpk3 (d a s : BitVec 5) (t k : BitVec 2)
  | vtacc (d a b : BitVec 5) (k : BitVec 2)
  | vsel (d a b : BitVec 5) (t : BitVec 3) (k : BitVec 2)
  | kand (d a b : BitVec 2)
  | kor (d a b : BitVec 2)
  | kxor (d a b : BitVec 2)
  | knot (d a : BitVec 2)
  | kpop (d : BitVec 5) (a : BitVec 2) (t : BitVec 3)
  | mma (d : BitVec 2) (a b : BitVec 6)
  | mzero (d : BitVec 2) (f : BitVec 1)
  | mld (d : BitVec 2) (a : BitVec 6) (f : BitVec 1)
  | mst (d : BitVec 2) (a : BitVec 6) (e : BitVec 1)
  | msave (d a : BitVec 6)
  | mrst (a b : BitVec 6)
  | gang (d : BitVec 6)
  | mpf (a : BitVec 6)
  | smax (d a b : BitVec 6)
  | smass (d a b : BitVec 6)
  | sdraw (d b : BitVec 6)
  | sloc (d a b : BitVec 6)
  | grmask (d a b : BitVec 6)
  | grstep (d a b : BitVec 6)
  | tap (d a b : BitVec 6)
  | tsteer (a b : BitVec 6)
  | trap (a : BitVec 6)
  | eret (a : BitVec 4)
  | srr (d : BitVec 6) (r : BitVec 12)
  | srw (d : BitVec 6) (r : BitVec 12)
  | srx (d : BitVec 6) (r : BitVec 12)
  | oxw (a : BitVec 6) (n : BitVec 2)
  | sleep (a : BitVec 6)
  | time (d : BitVec 6)
  | rqpush (d : BitVec 6) (a : BitVec 4)
  | rqpop (d : BitVec 4)
  | rqpeek (d : BitVec 6)
  | gsave (a b : BitVec 6)
  | grst (a b : BitVec 6)
  | ifence (s : BitVec 3)
  | tlbi (a b : BitVec 6) (f : BitVec 2)
  | brk (n : BitVec 12)
  | silt (a b : BitVec 6)
  | lease (d a : BitVec 6)
  | cMov (d a : BitVec 5)
  | cAdd (d a : BitVec 5)
  | cSub (d a : BitVec 5)
  | cAnd (d a : BitVec 5)
  | cOr (d a : BitVec 5)
  | cXor (d a : BitVec 5)
  | cAddi (d i : BitVec 5)
  | cLi (d i : BitVec 5)
  | cShli (d i : BitVec 5)
  | cShri (d i : BitVec 5)
  | cSari (d i : BitVec 5)
  | cLdd (d i : BitVec 5)
  | cStd (d i : BitVec 5)
  | cLdw (d i : BitVec 5)
  | cStw (d i : BitVec 5)
  | cBeqz (d off : BitVec 5)
  | cBnez (d off : BitVec 5)
  | cJ (off : BitVec 10)
  | cJr (d : BitVec 5)
  | cRet
  | cRecv (d : BitVec 3)
  | cTff (d a : BitVec 5)
  | cTwany (d a : BitVec 5)
  | cGclr (d c : BitVec 5)
  | ctxidWrite (node : BitVec 12) (v : BitVec 64)
  | rankWrite (node : BitVec 12) (v : BitVec 64)
  | inqstatWrite (node : BitVec 12) (v : BitVec 64)
  | ovfbaseWrite (node : BitVec 12) (v : BitVec 64)
  | tvecWrite (node : BitVec 12) (v : BitVec 64)
  | tapenWrite (node : BitVec 12) (v : BitVec 64)
  | tapinvWrite (node : BitVec 12) (v : BitVec 64)
  | repeatWrite (v : BitVec 64)
  | mspillWrite (node : BitVec 12) (berth : BitVec 2) (v : BitVec 64)
  | prioWrite (node : BitVec 12) (berth : BitVec 2) (v : BitVec 64)
  | geomWrite (node : BitVec 12) (berth : BitVec 2) (v : BitVec 64)
  | tagsWrite (node : BitVec 12) (v : BitVec 64)
  | rqstatRecall (node : BitVec 12)
  | rqstatEvict (node : BitVec 12)
  | registerWrite (node : BitVec 12) (berth : BitVec 2) (r v : BitVec 64)
  | kslotLoad (slot : BitVec 12)
  | kslotRetire (slot : BitVec 12)
  | kslotTagclr
  | kslotPurge (ctx : BitVec 12)
  | kslotDone
  | l2colGo (target : BitVec 8)
  | columnFold (c : BitVec 3)
  | columnUnfold (c : BitVec 3)
  | homeFill (node ctx kslot : BitVec 12) (addr : BitVec 64)
  | homeRegistration (node ctx kslot : BitVec 12) (addr v : BitVec 64)
  | ownershipRevoke (node : BitVec 12) (addr : BitVec 64) (fwd : BitVec 1)
  | homeWriteback (node : BitVec 12) (addr : BitVec 64)
  | homeAmo (node : BitVec 12) (berth : BitVec 2) (ctx kslot : BitVec 12) (addr : BitVec 64) (op : BitVec 4) (w : BitVec 1) (v e : BitVec 64)
  | homeRed (node : BitVec 12) (berth : BitVec 2) (ctx kslot : BitVec 12) (addr : BitVec 64) (op : BitVec 4) (w : BitVec 1) (v : BitVec 64)
  | homeLoga (node : BitVec 12) (berth : BitVec 2) (ctx : BitVec 12) (kern : BitVec 1) (region : BitVec 64) (segrec : BitVec 32) (addr va : BitVec 64) (op : BitVec 2) (v : BitVec 32) (rank : BitVec 10) (seq : BitVec 16)
  | homeLrw (node : BitVec 12) (berth : BitVec 2) (ctx kslot : BitVec 12) (addr va : BitVec 64)
  | homeSch (node : BitVec 12) (berth : BitVec 2) (ctx kslot : BitVec 12) (addr : BitVec 64) (st : BitVec 1) (v : BitVec 64)
  | homeBarrier (node : BitVec 12) (berth : BitVec 2) (ctx kslot : BitVec 12) (addr : BitVec 64) (op : BitVec 3) (v : BitVec 64)
  | homeWaitRegister (node : BitVec 12) (berth : BitVec 2) (ctx kslot : BitVec 12) (addr : BitVec 64) (ne : BitVec 1) (v : BitVec 32)
  | waitValue (node : BitVec 12) (berth : BitVec 2) (v : BitVec 32)
  | homeDisc (node ctx kslot : BitVec 12) (addr : BitVec 64)
  | tlbWalk (node : BitVec 12) (va : BitVec 64)
  | memoryError (node : BitVec 12) (place : BitVec 3) (ctx kslot : BitVec 12) (addr : BitVec 64) (unc : BitVec 1)
  | nmsgArrive (src dst : BitVec 12)
  | umsgArrive (src dst : BitVec 12)
  | gportArrive (src dst : BitVec 12)
  | vportArrive (src dst : BitVec 12)
  | portOutboundSend (node : BitVec 12) (p : BitVec 4)
  | rwreqArrive (src dst : BitVec 12)
  | rwrspArrive (src dst : BitVec 12)
  | rwreqRetry (node : BitVec 12) (berth : BitVec 2)
  | dackArrive (node : BitVec 12) (epoch : BitVec 1)
  | gangbArrive (src dst : BitVec 12)
  | migDepart (node : BitVec 12) (berth : BitVec 2) (rank : BitVec 10)
  | migArrive (src dst : BitVec 12)
  | migResume (node : BitVec 12) (berth : BitVec 2)
  | migRetry (node : BitVec 12)
  | evictArrive (src dst : BitVec 12)
  | tlbiArrive (id : BitVec 16) (node : BitVec 12)
  | tlbiComplete (id : BitVec 16)
  | ifenceComplete (node : BitVec 12) (berth : BitVec 2)
  | copyStart (node : BitVec 12)
  | copyComplete (node : BitVec 12) (tag : BitVec 6)
  | mergePass (node : BitVec 12) (tag : BitVec 6)
  | mergeComplete (node : BitVec 12) (tag : BitVec 6)
  | engineSpill (node : BitVec 12)
  | engineReload (node : BitVec 12)
  | timerExpire (node : BitVec 12) (berth : BitVec 2)
  | trapEntry (node : BitVec 12)
  | machineEntry (node : BitVec 12) (reason : BitVec 2)
  | coreStart (node : BitVec 12)
  | dispatchSlot (isl : BitVec 1)
  | dependencyDecrement (isl : BitVec 1)
  | launchSweep (isl : BitVec 1)
  | launchEnd (isl : BitVec 1) (slot : BitVec 10)
  | occupancyWindow (isl : BitVec 1)
  | poolRebind (node : BitVec 12)
  | groupQuiesce (g : BitVec 5)
  | groupDrain (g : BitVec 5)
  | groupResume (g : BitVec 5)
  | gretSaveRetain (g : BitVec 5)
  | gretSaveImage (g : BitVec 5)
  | gretSaveRestore (g : BitVec 5)
  | gretSaveDone
  | gclkGateWrite (v : BitVec 64)
  | grailCtlWrite (v : BitVec 64)
  | railOk (g : BitVec 5)
  | wakeGmask (mask : BitVec 32) (src : BitVec 2)
  | wakeTon (src : BitVec 2)
  | wakeSrcRead
  | wakeArmWrite (v : BitVec 64)
  | cascadeFire (n : BitVec 4)
  | groupWake (g : BitVec 5)
  | torrentBringUp
  | torrentLeaveOn
  | dramSelfRefreshEnter
  | dramSelfRefreshExit
  | rillCoreRet (node : BitVec 12)
  | rillCoreWake (node : BitVec 12)
  | leaseExpire (node : BitVec 12) (berth : BitVec 2)
  | portageGo (v : BitVec 64)
  | portageAbort
  | portageTransit
  | portageCopy
  | portageRelease
  | siltFreeze
  | siltResume
  | siltRelease
  | freezeArrive (node : BitVec 12)
  | siltStop (node : BitVec 12)
  | capsuleBuild
  | capsuleRead (off len : BitVec 64)
  | capsuleRelease
  | queueBase (off n : BitVec 64)
  | keyBind (arg : BitVec 64)
  | windowSet (ctx vb : BitVec 64)
  | mailboxBadCommand (cmd : BitVec 8)
  | hostSubmission
  | hostSubmissionRetry
  | hostRead (off : BitVec 64) (n : BitVec 7)
  | hostWrite (off : BitVec 64) (n : BitVec 4) (v : BitVec 64)
  | getVersion
  | getCapabilities
  | negotiateAlgorithms
  | getDigests
  | getCertificate
  | challenge
  | getMeasurements
  | keyExchange
  | finish
  | heartbeat
  | endSession
  | linkDown (l : BitVec 1)
  | coldReset
  | warmReset
  | sleepDeadline (node : BitVec 12) (berth : BitVec 2)
  | mrspArrive (node : BitVec 12) (berth : BitVec 2)
  | mmaComplete (node : BitVec 12)
  | thermalLimit (g : BitVec 5) (on : BitVec 1)
  | powerOverBudget (g : BitVec 5) (on : BitVec 1)
  | rutuquaPairing (l : BitVec 1)
  | tdispMessage (m : BitVec 2)
  deriving DecidableEq, Repr

end Sys2Proof
end

