-- ==== Sys2Proof/WellFormed.lean ====
section
/-! DEFINITION. Which instructions are well formed: the reserved values that the field widths of Syntax do not already
exclude (R217, R255, R268, R276, R291, R298, R313, R320, R329, R330, R332, R337, R429). For the part's own steps: the
node they name is a core of R89. -/

namespace Sys2Proof

/-- A quad field must hold a multiple of 4 below 56 (R298, R429); the field holds the quotient. -/
def isQuad (q : BitVec 4) : Bool := q.toNat < 14

/-- Lane width in bits of type code T (R321). -/
def laneBits : Nat → Nat
  | 0 => 8
  | 1 => 16
  | 2 => 32
  | 3 => 64
  | 4 => 16
  | 5 => 16
  | _ => 32

/-- Lanes of a v register for type code T (R321). -/
def lanes (t : Nat) : Nat := 512 / laneBits t

/-- The pairs VCVTS accepts (R330): T is bf16, f16 or f32 (low bits 0, 1, 2) and F is a narrower bf16, f16, E4M3,
E5M2 or FP4. -/
def vcvtsPair (t f : Nat) : Bool :=
  f == 8 || f == 9 || f == 10 || (t == 2 && (f == 4 || f == 5))

/-- The nodes that are cores (R89). -/
def isCoreNode (n : BitVec 12) : Bool :=
  (n.toNat < 0x400 && n.toNat % 32 <= 16) || (0x800 <= n.toNat && n.toNat <= 0x808)

/-- Well-formedness of an instruction. Every `s` of VSLIDE and VROT is well formed (log 121). -/
def Instr.wellFormed (i : Instr) : Bool :=
  match i with
  | .add _ _ _ _ => true
  | .sub _ _ _ _ => true
  | .and _ _ _ _ => true
  | .or _ _ _ _ => true
  | .xor _ _ _ _ => true
  | .andn _ _ _ _ => true
  | .shl _ _ _ _ => true
  | .shr _ _ _ _ => true
  | .sar _ _ _ _ => true
  | .rol _ _ _ _ => true
  | .min _ _ _ _ => true
  | .max _ _ _ _ => true
  | .minu _ _ _ _ => true
  | .maxu _ _ _ _ => true
  | .slt _ _ _ _ => true
  | .sltu _ _ _ _ => true
  | .mul _ _ _ _ => true
  | .mulh _ _ _ _ => true
  | .mulhu _ _ _ _ => true
  | .mulhsu _ _ _ _ => true
  | .div _ _ _ _ => true
  | .divu _ _ _ _ => true
  | .rem _ _ _ _ => true
  | .remu _ _ _ _ => true
  | .clz _ _ _ => true
  | .ctz _ _ _ => true
  | .popc _ _ _ => true
  | .brev _ _ _ => true
  | .bswap _ _ _ => true
  | .ilv2 _ _ _ => true
  | .ilv3 _ _ _ => true
  | .addi _ _ _ => true
  | .andi _ _ _ => true
  | .ori _ _ _ => true
  | .xori _ _ _ => true
  | .shli _ _ _ => true
  | .shri _ _ _ => true
  | .sari _ _ _ => true
  | .slti _ _ _ => true
  | .sltui _ _ _ => true
  | .lui _ _ => true
  | .auipc _ _ => true
  | .beq _ _ _ => true
  | .bne _ _ _ => true
  | .blt _ _ _ => true
  | .bge _ _ _ => true
  | .bltu _ _ _ => true
  | .bgeu _ _ _ => true
  | .btag _ _ t => t.toNat != 3
  | .dbnz _ _ => true
  | .jal _ _ => true
  | .jalr _ _ _ => true
  | .rep _ _ _ => true
  | .csetb _ _ _ => true
  | .csetbx _ _ _ => true
  | .candp _ _ _ => true
  | .cseta _ _ _ => true
  | .cgetb _ _ => true
  | .cgett _ _ => true
  | .cgetp _ _ => true
  | .ctod _ _ => true
  | .gtag _ _ => true
  | .gclr d c => d.toNat + c.toNat <= 63
  | .gmap _ f => f.toNat < 5
  | .ldb _ _ _ => true
  | .ldbu _ _ _ => true
  | .ldh _ _ _ => true
  | .ldhu _ _ _ => true
  | .ldw _ _ _ => true
  | .ldwu _ _ _ => true
  | .ldd _ _ _ => true
  | .ldc _ _ _ => true
  | .stb _ _ _ => true
  | .sth _ _ _ => true
  | .stw _ _ _ => true
  | .std _ _ _ => true
  | .stc _ _ _ => true
  | .rld _ _ _ => true
  | .ldx _ _ _ _ => true
  | .stx _ _ _ _ => true
  | .disc _ _ => true
  | .aadd _ _ _ _ => true
  | .aand _ _ _ _ => true
  | .aor _ _ _ _ => true
  | .axor _ _ _ _ => true
  | .amin _ _ _ _ => true
  | .amax _ _ _ _ => true
  | .aminu _ _ _ _ => true
  | .amaxu _ _ _ _ => true
  | .aswap _ _ _ _ => true
  | .acas _ _ _ _ => true
  | .aaddW _ _ _ _ => true
  | .aandW _ _ _ _ => true
  | .aorW _ _ _ _ => true
  | .axorW _ _ _ _ => true
  | .aminW _ _ _ _ => true
  | .amaxW _ _ _ _ => true
  | .aminuW _ _ _ _ => true
  | .amaxuW _ _ _ _ => true
  | .aswapW _ _ _ _ => true
  | .acasW _ _ _ _ => true
  | .radd _ _ _ => true
  | .rand _ _ _ => true
  | .ror _ _ _ => true
  | .rxor _ _ _ => true
  | .rmin _ _ _ => true
  | .rmax _ _ _ => true
  | .rminu _ _ _ => true
  | .rmaxu _ _ _ => true
  | .rfadd _ _ => true
  | .lrw d _ b => d != b || d == 0
  | .sch _ _ _ => true
  | .relq _ _ => true
  | .loga _ _ _ => true
  | .merge _ _ => true
  | .fenceAcq _ => true
  | .fenceRel _ => true
  | .fenceAr _ => true
  | .fenceSc _ => true
  | .waitge _ _ => true
  | .waitne _ _ => true
  | .binit _ _ => true
  | .barr _ _ => true
  | .bwait _ _ _ => true
  | .baw _ _ => true
  | .bexp _ _ => true
  | .bkill _ => true
  | .bqry _ _ => true
  | .copy a _ => isQuad a
  | .copynb _ a _ => isQuad a
  | .copyd a _ => isQuad a
  | .copyc a _ => isQuad a
  | .twany _ _ _ => true
  | .twall _ _ _ => true
  | .tff _ _ _ => true
  | .tclr _ => true
  | .tget _ _ => true
  | .send a _ _ => isQuad a
  | .recv d b => isQuad d && b.toNat / 4 != d.toNat
  | .recvnb d b => isQuad d && b.toNat / 4 != d.toNat
  | .inq _ _ => true
  | .migrate _ => true
  | .home => true
  | .rank _ => true
  | .portb _ _ => true
  | .portq _ _ => true
  | .launch _ _ _ => true
  | .texit => true
  | .tyield => true
  | .lbnd _ => true
  | .vadd _ _ _ _ _ => true
  | .vsub _ _ _ _ _ => true
  | .vmul _ _ _ _ _ => true
  | .vmin _ _ _ _ _ => true
  | .vmax _ _ _ _ _ => true
  | .vand _ _ _ _ _ => true
  | .vor _ _ _ _ _ => true
  | .vxor _ _ _ _ _ => true
  | .vshl _ _ _ _ _ => true
  | .vshr _ _ _ _ _ => true
  | .vsar _ _ _ _ _ => true
  | .vsadd _ _ _ _ _ => true
  | .vssub _ _ _ _ _ => true
  | .vabs _ _ _ _ => true
  | .vfadd _ _ _ t _ => t.toNat != 3
  | .vfsub _ _ _ t _ => t.toNat != 3
  | .vfmul _ _ _ t _ => t.toNat != 3
  | .vfdiv _ _ _ t _ => t.toNat != 3
  | .vfmin _ _ _ t _ => t.toNat != 3
  | .vfmax _ _ _ t _ => t.toNat != 3
  | .vfabs _ _ t _ => t.toNat != 3
  | .vfneg _ _ t _ => t.toNat != 3
  | .vfsqrt _ _ t _ => t.toNat != 3
  | .vfrcp _ _ t _ => t.toNat != 3
  | .vfrsq _ _ t _ => t.toNat != 3
  | .vfexp2 _ _ t _ => t.toNat != 3
  | .vflog2 _ _ t _ => t.toNat != 3
  | .vfma _ _ _ t _ => t.toNat != 3
  | .vfms _ _ _ t _ => t.toNat != 3
  | .vfnma _ _ _ t _ => t.toNat != 3
  | .vdot4 _ _ _ _ _ => true
  | .vceq _ _ _ t _ => t.toNat != 7
  | .vcne _ _ _ t _ => t.toNat != 7
  | .vclt _ _ _ t _ => t.toNat != 7
  | .vcle _ _ _ t _ => t.toNat != 7
  | .vcltu _ _ _ _ _ => true
  | .vcleu _ _ _ _ _ => true
  | .vcvt _ _ _ f t _ => t.toNat != 7 && f.toNat != 7 && f.toNat < 13 && f.toNat != t.toNat
  | .vcvts _ _ f t _ => t.toNat != 3 && vcvtsPair t.toNat f.toNat
  | .vrsum _ _ t _ => t.toNat != 7
  | .vrmin _ _ t _ => t.toNat != 7
  | .vrmax _ _ t _ => t.toNat != 7
  | .vperm _ _ _ t _ => t.toNat != 7
  | .vslide _ _ _ t => t.toNat != 7
  | .vbcast _ _ t _ => t.toNat != 7
  | .vext _ _ idx t => t.toNat != 7 && idx.toNat < lanes t.toNat
  | .vins _ _ idx t => t.toNat != 7 && idx.toNat < lanes t.toNat
  | .vrot _ _ _ t => t.toNat != 7
  | .vld _ _ _ t _ => t.toNat != 7
  | .vst _ _ _ t _ => t.toNat != 7
  | .vlds _ _ _ t _ => t.toNat != 7
  | .vsts _ _ _ t _ => t.toNat != 7
  | .vgath _ _ _ t _ => t.toNat != 7
  | .vscat _ _ _ t _ => t.toNat != 7
  | .vunpk3 _ _ s t _ => t.toNat != 3 && s.toNat < 320 / lanes t.toNat
  | .vtacc _ _ _ _ => true
  | .vsel _ _ _ t _ => t.toNat != 7
  | .kand _ _ _ => true
  | .kor _ _ _ => true
  | .kxor _ _ _ => true
  | .knot _ _ => true
  | .kpop _ _ t => t.toNat != 7
  | .mma _ _ _ => true
  | .mzero _ _ => true
  | .mld _ _ _ => true
  | .mst _ _ _ => true
  | .msave _ _ => true
  | .mrst _ _ => true
  | .gang _ => true
  | .mpf _ => true
  | .smax _ _ _ => true
  | .smass _ _ _ => true
  | .sdraw _ _ => true
  | .sloc _ _ _ => true
  | .grmask _ _ _ => true
  | .grstep _ _ _ => true
  | .tap _ _ _ => true
  | .tsteer _ _ => true
  | .trap _ => true
  | .eret a => isQuad a
  | .srr _ _ => true
  | .srw _ _ => true
  | .srx _ _ => true
  | .oxw _ _ => true
  | .sleep _ => true
  | .time _ => true
  | .rqpush _ a => isQuad a
  | .rqpop d => isQuad d
  | .rqpeek _ => true
  | .gsave _ _ => true
  | .grst _ _ => true
  | .ifence _ => true
  | .tlbi a b f => f.toNat != 3 && (f.toNat == 1 || b == 0) && (f.toNat != 2 || a == 0)
  | .brk _ => true
  | .silt _ _ => true
  | .lease _ _ => true
  | .cMov _ _ => true
  | .cAdd _ _ => true
  | .cSub _ _ => true
  | .cAnd _ _ => true
  | .cOr _ _ => true
  | .cXor _ _ => true
  | .cAddi _ _ => true
  | .cLi _ _ => true
  | .cShli _ _ => true
  | .cShri _ _ => true
  | .cSari _ _ => true
  | .cLdd _ _ => true
  | .cStd _ _ => true
  | .cLdw _ _ => true
  | .cStw _ _ => true
  | .cBeqz _ _ => true
  | .cBnez _ _ => true
  | .cJ _ => true
  | .cJr _ => true
  | .cRet => true
  | .cRecv d => d != 0
  | .cTff _ _ => true
  | .cTwany _ _ => true
  | .cGclr _ _ => true
  | .ctxidWrite node _ => isCoreNode node
  | .rankWrite node _ => isCoreNode node
  | .inqstatWrite node _ => isCoreNode node
  | .ovfbaseWrite node _ => isCoreNode node
  | .tvecWrite node _ => isCoreNode node
  | .tapenWrite node _ => isCoreNode node
  | .tapinvWrite node _ => isCoreNode node
  | .repeatWrite _ => true
  | .mspillWrite node _ _ => isCoreNode node
  | .prioWrite node _ _ => isCoreNode node
  | .geomWrite node _ _ => isCoreNode node
  | .tagsWrite node _ => isCoreNode node
  | .rqstatRecall node => isCoreNode node
  | .rqstatEvict node => isCoreNode node
  | .registerWrite node _ _ _ => isCoreNode node
  | .kslotLoad _ => true
  | .kslotRetire _ => true
  | .kslotTagclr => true
  | .kslotPurge _ => true
  | .kslotDone => true
  | .l2colGo _ => true
  | .columnFold _ => true
  | .columnUnfold _ => true
  | .homeFill node _ _ _ => isCoreNode node
  | .homeRegistration node _ _ _ _ => isCoreNode node
  | .ownershipRevoke node _ _ => isCoreNode node
  | .homeWriteback node _ => isCoreNode node
  | .homeAmo node _ _ _ _ _ _ _ _ => isCoreNode node
  | .homeRed node _ _ _ _ _ _ _ => isCoreNode node
  | .homeLoga node _ _ _ _ _ _ _ _ _ _ _ => isCoreNode node
  | .homeLrw node _ _ _ _ _ => isCoreNode node
  | .homeSch node _ _ _ _ _ _ => isCoreNode node
  | .homeBarrier node _ _ _ _ _ _ => isCoreNode node
  | .homeWaitRegister node _ _ _ _ _ _ => isCoreNode node
  | .waitValue node _ _ => isCoreNode node
  | .homeDisc node _ _ _ => isCoreNode node
  | .tlbWalk node _ => isCoreNode node
  | .memoryError node _ _ _ _ _ => isCoreNode node
  | .nmsgArrive _ dst => isCoreNode dst
  | .umsgArrive _ dst => isCoreNode dst
  | .gportArrive _ dst => isCoreNode dst
  | .vportArrive _ dst => isCoreNode dst
  | .portOutboundSend node _ => isCoreNode node
  | .rwreqArrive _ dst => isCoreNode dst
  | .rwrspArrive _ dst => isCoreNode dst
  | .rwreqRetry node _ => isCoreNode node
  | .dackArrive node _ => isCoreNode node
  | .gangbArrive _ dst => isCoreNode dst
  | .migDepart node _ _ => isCoreNode node
  | .migArrive _ dst => isCoreNode dst
  | .migResume node _ => isCoreNode node
  | .migRetry node => isCoreNode node
  | .evictArrive _ dst => isCoreNode dst
  | .tlbiArrive _ node => isCoreNode node
  | .tlbiComplete _ => true
  | .ifenceComplete node _ => isCoreNode node
  | .copyStart node => isCoreNode node
  | .copyComplete node _ => isCoreNode node
  | .mergePass node _ => isCoreNode node
  | .mergeComplete node _ => isCoreNode node
  | .engineSpill node => isCoreNode node
  | .engineReload node => isCoreNode node
  | .timerExpire node _ => isCoreNode node
  | .trapEntry node => isCoreNode node
  | .machineEntry node _ => isCoreNode node
  | .coreStart node => isCoreNode node
  | .dispatchSlot _ => true
  | .dependencyDecrement _ => true
  | .launchSweep _ => true
  | .launchEnd _ _ => true
  | .occupancyWindow _ => true
  | .poolRebind node => isCoreNode node
  | .groupQuiesce _ => true
  | .groupDrain _ => true
  | .groupResume _ => true
  | .gretSaveRetain _ => true
  | .gretSaveImage _ => true
  | .gretSaveRestore _ => true
  | .gretSaveDone => true
  | .gclkGateWrite _ => true
  | .grailCtlWrite _ => true
  | .railOk _ => true
  | .wakeGmask _ _ => true
  | .wakeTon _ => true
  | .wakeSrcRead => true
  | .wakeArmWrite _ => true
  | .cascadeFire _ => true
  | .groupWake _ => true
  | .torrentBringUp => true
  | .torrentLeaveOn => true
  | .dramSelfRefreshEnter => true
  | .dramSelfRefreshExit => true
  | .rillCoreRet node => isCoreNode node
  | .rillCoreWake node => isCoreNode node
  | .leaseExpire node _ => isCoreNode node
  | .portageGo _ => true
  | .portageAbort => true
  | .portageTransit => true
  | .portageCopy => true
  | .portageRelease => true
  | .siltFreeze => true
  | .siltResume => true
  | .siltRelease => true
  | .freezeArrive node => isCoreNode node
  | .siltStop node => isCoreNode node
  | .capsuleBuild => true
  | .capsuleRead _ _ => true
  | .capsuleRelease => true
  | .queueBase _ _ => true
  | .keyBind _ => true
  | .windowSet _ _ => true
  | .mailboxBadCommand _ => true
  | .hostSubmission => true
  | .hostSubmissionRetry => true
  | .hostRead _ _ => true
  | .hostWrite _ _ _ => true
  | .getVersion => true
  | .getCapabilities => true
  | .negotiateAlgorithms => true
  | .getDigests => true
  | .getCertificate => true
  | .challenge => true
  | .getMeasurements => true
  | .keyExchange => true
  | .finish => true
  | .heartbeat => true
  | .endSession => true
  | .linkDown _ => true
  | .coldReset => true
  | .warmReset => true
  | .sleepDeadline node _ => isCoreNode node
  | .mrspArrive node _ => isCoreNode node
  | .mmaComplete node => isCoreNode node
  | .thermalLimit _ _ => true
  | .powerOverBudget _ _ => true
  | .rutuquaPairing _ => true
  | .tdispMessage _ => true

end Sys2Proof
end

