-- ==== Sys2Proof/Decode.lean ====
section
/-! DEFINITION. The decoder and the encoder (R213 to R218, R252 to R257). An instruction's bits are read as one
number, bit 0 the least significant bit of the first parcel (R213). `decode16` and `decode32` are total: a value that
is no instruction gives `none`, which the machine turns into the ILLEGAL trap of R219 step 2. The fixed bits
and fields of each row are those of spec/opcode_table.json, which follow R215, R216, R218, R252, R254 and R257. -/

namespace Sys2Proof

noncomputable section

/-- The value of bits [lo + len - 1 : lo] of `w`. -/
def bits (w lo len : Nat) : Nat := w / 2 ^ lo % 2 ^ len

/-- A field of `w`, as a bit vector. -/
def fld (w lo len : Nat) : BitVec len := BitVec.ofNat len (bits w lo len)

/-- An immediate split in two (R216): its high bits at `lo1`, its low bits at `lo2`. -/
def fld2 (w lo1 len1 lo2 len2 : Nat) : BitVec (len1 + len2) :=
  BitVec.ofNat (len1 + len2) (bits w lo1 len1 * 2 ^ len2 + bits w lo2 len2)

/-- Major 0x00 (R252). -/
def decMaj00 (w : Nat) : Option Instr :=
  if bits w 8 12 = 128 ∧ bits w 1 1 = 0 then
    some (.add (fld w 2 6) (fld w 26 6) (fld w 20 6) (fld w 0 1))
  else if bits w 8 12 = 384 ∧ bits w 1 1 = 0 then
    some (.sub (fld w 2 6) (fld w 26 6) (fld w 20 6) (fld w 0 1))
  else if bits w 8 12 = 640 ∧ bits w 1 1 = 0 then
    some (.and (fld w 2 6) (fld w 26 6) (fld w 20 6) (fld w 0 1))
  else if bits w 8 12 = 896 ∧ bits w 1 1 = 0 then
    some (.or (fld w 2 6) (fld w 26 6) (fld w 20 6) (fld w 0 1))
  else if bits w 8 12 = 1152 ∧ bits w 1 1 = 0 then
    some (.xor (fld w 2 6) (fld w 26 6) (fld w 20 6) (fld w 0 1))
  else if bits w 8 12 = 1408 ∧ bits w 1 1 = 0 then
    some (.andn (fld w 2 6) (fld w 26 6) (fld w 20 6) (fld w 0 1))
  else if bits w 8 12 = 1664 ∧ bits w 1 1 = 0 then
    some (.shl (fld w 2 6) (fld w 26 6) (fld w 20 6) (fld w 0 1))
  else if bits w 8 12 = 1920 ∧ bits w 1 1 = 0 then
    some (.shr (fld w 2 6) (fld w 26 6) (fld w 20 6) (fld w 0 1))
  else if bits w 8 12 = 2176 ∧ bits w 1 1 = 0 then
    some (.sar (fld w 2 6) (fld w 26 6) (fld w 20 6) (fld w 0 1))
  else if bits w 8 12 = 2432 ∧ bits w 1 1 = 0 then
    some (.rol (fld w 2 6) (fld w 26 6) (fld w 20 6) (fld w 0 1))
  else if bits w 8 12 = 2688 ∧ bits w 1 1 = 0 then
    some (.min (fld w 2 6) (fld w 26 6) (fld w 20 6) (fld w 0 1))
  else if bits w 8 12 = 2944 ∧ bits w 1 1 = 0 then
    some (.max (fld w 2 6) (fld w 26 6) (fld w 20 6) (fld w 0 1))
  else if bits w 8 12 = 3200 ∧ bits w 1 1 = 0 then
    some (.minu (fld w 2 6) (fld w 26 6) (fld w 20 6) (fld w 0 1))
  else if bits w 8 12 = 3456 ∧ bits w 1 1 = 0 then
    some (.maxu (fld w 2 6) (fld w 26 6) (fld w 20 6) (fld w 0 1))
  else if bits w 8 12 = 3712 ∧ bits w 1 1 = 0 then
    some (.slt (fld w 2 6) (fld w 26 6) (fld w 20 6) (fld w 0 1))
  else if bits w 8 12 = 3968 ∧ bits w 1 1 = 0 then
    some (.sltu (fld w 2 6) (fld w 26 6) (fld w 20 6) (fld w 0 1))
  else none

/-- Major 0x01 (R252). -/
def decMaj01 (w : Nat) : Option Instr :=
  if bits w 8 12 = 129 ∧ bits w 1 1 = 0 then
    some (.mul (fld w 2 6) (fld w 26 6) (fld w 20 6) (fld w 0 1))
  else if bits w 8 12 = 385 ∧ bits w 1 1 = 0 then
    some (.mulh (fld w 2 6) (fld w 26 6) (fld w 20 6) (fld w 0 1))
  else if bits w 8 12 = 641 ∧ bits w 1 1 = 0 then
    some (.mulhu (fld w 2 6) (fld w 26 6) (fld w 20 6) (fld w 0 1))
  else if bits w 8 12 = 897 ∧ bits w 1 1 = 0 then
    some (.mulhsu (fld w 2 6) (fld w 26 6) (fld w 20 6) (fld w 0 1))
  else if bits w 8 12 = 1153 ∧ bits w 1 1 = 0 then
    some (.div (fld w 2 6) (fld w 26 6) (fld w 20 6) (fld w 0 1))
  else if bits w 8 12 = 1409 ∧ bits w 1 1 = 0 then
    some (.divu (fld w 2 6) (fld w 26 6) (fld w 20 6) (fld w 0 1))
  else if bits w 8 12 = 1665 ∧ bits w 1 1 = 0 then
    some (.rem (fld w 2 6) (fld w 26 6) (fld w 20 6) (fld w 0 1))
  else if bits w 8 12 = 1921 ∧ bits w 1 1 = 0 then
    some (.remu (fld w 2 6) (fld w 26 6) (fld w 20 6) (fld w 0 1))
  else if bits w 8 18 = 2177 ∧ bits w 1 1 = 0 then
    some (.clz (fld w 2 6) (fld w 26 6) (fld w 0 1))
  else if bits w 8 18 = 2433 ∧ bits w 1 1 = 0 then
    some (.ctz (fld w 2 6) (fld w 26 6) (fld w 0 1))
  else if bits w 8 18 = 2689 ∧ bits w 1 1 = 0 then
    some (.popc (fld w 2 6) (fld w 26 6) (fld w 0 1))
  else if bits w 8 18 = 2945 ∧ bits w 1 1 = 0 then
    some (.brev (fld w 2 6) (fld w 26 6) (fld w 0 1))
  else if bits w 8 18 = 3201 ∧ bits w 1 1 = 0 then
    some (.bswap (fld w 2 6) (fld w 26 6) (fld w 0 1))
  else if bits w 8 12 = 3457 ∧ bits w 0 2 = 0 then
    some (.ilv2 (fld w 2 6) (fld w 26 6) (fld w 20 6))
  else if bits w 8 12 = 3713 ∧ bits w 0 2 = 0 then
    some (.ilv3 (fld w 2 6) (fld w 26 6) (fld w 20 6))
  else none

/-- Major 0x02 (R252). -/
def decMaj02 (w : Nat) : Option Instr :=
  if bits w 8 8 = 130 then
    some (.addi (fld w 2 6) (fld w 26 6) (fld2 w 0 2 16 10))
  else none

/-- Major 0x03 (R252). -/
def decMaj03 (w : Nat) : Option Instr :=
  if bits w 8 8 = 131 then
    some (.andi (fld w 2 6) (fld w 26 6) (fld2 w 0 2 16 10))
  else none

/-- Major 0x04 (R252). -/
def decMaj04 (w : Nat) : Option Instr :=
  if bits w 8 8 = 132 then
    some (.ori (fld w 2 6) (fld w 26 6) (fld2 w 0 2 16 10))
  else none

/-- Major 0x05 (R252). -/
def decMaj05 (w : Nat) : Option Instr :=
  if bits w 8 8 = 133 then
    some (.xori (fld w 2 6) (fld w 26 6) (fld2 w 0 2 16 10))
  else none

/-- Major 0x06 (R252). -/
def decMaj06 (w : Nat) : Option Instr :=
  if bits w 22 4 = 0 ∧ bits w 8 8 = 134 ∧ bits w 0 2 = 0 then
    some (.shli (fld w 2 6) (fld w 26 6) (fld w 16 6))
  else none

/-- Major 0x07 (R252). -/
def decMaj07 (w : Nat) : Option Instr :=
  if bits w 22 4 = 0 ∧ bits w 8 8 = 135 ∧ bits w 0 2 = 0 then
    some (.shri (fld w 2 6) (fld w 26 6) (fld w 16 6))
  else none

/-- Major 0x08 (R252). -/
def decMaj08 (w : Nat) : Option Instr :=
  if bits w 22 4 = 0 ∧ bits w 8 8 = 136 ∧ bits w 0 2 = 0 then
    some (.sari (fld w 2 6) (fld w 26 6) (fld w 16 6))
  else none

/-- Major 0x09 (R252). -/
def decMaj09 (w : Nat) : Option Instr :=
  if bits w 8 8 = 137 then
    some (.slti (fld w 2 6) (fld w 26 6) (fld2 w 0 2 16 10))
  else none

/-- Major 0x0A (R252). -/
def decMaj0A (w : Nat) : Option Instr :=
  if bits w 8 8 = 138 then
    some (.sltui (fld w 2 6) (fld w 26 6) (fld2 w 0 2 16 10))
  else none

/-- Major 0x0B (R252). -/
def decMaj0B (w : Nat) : Option Instr :=
  if bits w 8 8 = 139 then
    some (.lui (fld w 2 6) (fld2 w 0 2 16 16))
  else none

/-- Major 0x0C (R252). -/
def decMaj0C (w : Nat) : Option Instr :=
  if bits w 8 8 = 140 then
    some (.auipc (fld w 2 6) (fld2 w 0 2 16 16))
  else none

/-- Major 0x10 (R252). -/
def decMaj10 (w : Nat) : Option Instr :=
  if bits w 8 8 = 144 then
    some (.beq (fld w 2 6) (fld w 26 6) (fld2 w 0 2 16 10))
  else none

/-- Major 0x11 (R252). -/
def decMaj11 (w : Nat) : Option Instr :=
  if bits w 8 8 = 145 then
    some (.bne (fld w 2 6) (fld w 26 6) (fld2 w 0 2 16 10))
  else none

/-- Major 0x12 (R252). -/
def decMaj12 (w : Nat) : Option Instr :=
  if bits w 8 8 = 146 then
    some (.blt (fld w 2 6) (fld w 26 6) (fld2 w 0 2 16 10))
  else none

/-- Major 0x13 (R252). -/
def decMaj13 (w : Nat) : Option Instr :=
  if bits w 8 8 = 147 then
    some (.bge (fld w 2 6) (fld w 26 6) (fld2 w 0 2 16 10))
  else none

/-- Major 0x14 (R252). -/
def decMaj14 (w : Nat) : Option Instr :=
  if bits w 8 8 = 148 then
    some (.bltu (fld w 2 6) (fld w 26 6) (fld2 w 0 2 16 10))
  else none

/-- Major 0x15 (R252). -/
def decMaj15 (w : Nat) : Option Instr :=
  if bits w 8 8 = 149 then
    some (.bgeu (fld w 2 6) (fld w 26 6) (fld2 w 0 2 16 10))
  else none

/-- Major 0x16 (R252). -/
def decMaj16 (w : Nat) : Option Instr :=
  if bits w 28 4 = 0 ∧ bits w 8 8 = 150 then
    some (.btag (fld w 2 6) (fld2 w 0 2 16 10) (fld w 26 2))
  else none

/-- Major 0x17 (R252). -/
def decMaj17 (w : Nat) : Option Instr :=
  if bits w 26 6 = 0 ∧ bits w 8 8 = 151 then
    some (.dbnz (fld w 2 6) (fld2 w 0 2 16 10))
  else none

/-- Major 0x18 (R252). -/
def decMaj18 (w : Nat) : Option Instr :=
  if bits w 8 8 = 152 then
    some (.jal (fld w 2 6) (fld2 w 0 2 16 16))
  else none

/-- Major 0x19 (R252). -/
def decMaj19 (w : Nat) : Option Instr :=
  if bits w 8 8 = 153 then
    some (.jalr (fld w 2 6) (fld w 26 6) (fld2 w 0 2 16 10))
  else none

/-- Major 0x1A (R252). -/
def decMaj1A (w : Nat) : Option Instr :=
  if bits w 25 1 = 0 ∧ bits w 0 16 = 39424 then
    some (.rep (fld w 26 6) (fld w 16 4) (fld w 20 5))
  else none

/-- Major 0x20 (R252). -/
def decMaj20 (w : Nat) : Option Instr :=
  if bits w 8 12 = 160 ∧ bits w 0 2 = 0 then
    some (.csetb (fld w 2 6) (fld w 26 6) (fld w 20 6))
  else if bits w 8 12 = 416 ∧ bits w 0 2 = 0 then
    some (.csetbx (fld w 2 6) (fld w 26 6) (fld w 20 6))
  else if bits w 8 12 = 672 ∧ bits w 0 2 = 0 then
    some (.candp (fld w 2 6) (fld w 26 6) (fld w 20 6))
  else if bits w 8 12 = 928 ∧ bits w 0 2 = 0 then
    some (.cseta (fld w 2 6) (fld w 26 6) (fld w 20 6))
  else if bits w 8 18 = 1184 ∧ bits w 0 2 = 0 then
    some (.cgetb (fld w 2 6) (fld w 26 6))
  else if bits w 8 18 = 1440 ∧ bits w 0 2 = 0 then
    some (.cgett (fld w 2 6) (fld w 26 6))
  else if bits w 8 18 = 1696 ∧ bits w 0 2 = 0 then
    some (.cgetp (fld w 2 6) (fld w 26 6))
  else if bits w 8 18 = 1952 ∧ bits w 0 2 = 0 then
    some (.ctod (fld w 2 6) (fld w 26 6))
  else none

/-- Major 0x21 (R252). -/
def decMaj21 (w : Nat) : Option Instr :=
  if bits w 8 18 = 161 ∧ bits w 0 2 = 0 then
    some (.gtag (fld w 2 6) (fld w 26 6))
  else if bits w 26 6 = 0 ∧ bits w 8 12 = 417 ∧ bits w 0 2 = 0 then
    some (.gclr (fld w 2 6) (fld w 20 6))
  else if bits w 26 6 = 0 ∧ bits w 8 12 = 673 ∧ bits w 0 2 = 0 then
    some (.gmap (fld w 2 6) (fld w 20 6))
  else none

/-- Major 0x28 (R252). -/
def decMaj28 (w : Nat) : Option Instr :=
  if bits w 8 8 = 168 then
    some (.ldb (fld w 2 6) (fld w 26 6) (fld2 w 0 2 16 10))
  else none

/-- Major 0x29 (R252). -/
def decMaj29 (w : Nat) : Option Instr :=
  if bits w 8 8 = 169 then
    some (.ldbu (fld w 2 6) (fld w 26 6) (fld2 w 0 2 16 10))
  else none

/-- Major 0x2A (R252). -/
def decMaj2A (w : Nat) : Option Instr :=
  if bits w 8 8 = 170 then
    some (.ldh (fld w 2 6) (fld w 26 6) (fld2 w 0 2 16 10))
  else none

/-- Major 0x2B (R252). -/
def decMaj2B (w : Nat) : Option Instr :=
  if bits w 8 8 = 171 then
    some (.ldhu (fld w 2 6) (fld w 26 6) (fld2 w 0 2 16 10))
  else none

/-- Major 0x2C (R252). -/
def decMaj2C (w : Nat) : Option Instr :=
  if bits w 8 8 = 172 then
    some (.ldw (fld w 2 6) (fld w 26 6) (fld2 w 0 2 16 10))
  else none

/-- Major 0x2D (R252). -/
def decMaj2D (w : Nat) : Option Instr :=
  if bits w 8 8 = 173 then
    some (.ldwu (fld w 2 6) (fld w 26 6) (fld2 w 0 2 16 10))
  else none

/-- Major 0x2E (R252). -/
def decMaj2E (w : Nat) : Option Instr :=
  if bits w 8 8 = 174 then
    some (.ldd (fld w 2 6) (fld w 26 6) (fld2 w 0 2 16 10))
  else none

/-- Major 0x2F (R252). -/
def decMaj2F (w : Nat) : Option Instr :=
  if bits w 8 8 = 175 then
    some (.ldc (fld w 2 6) (fld w 26 6) (fld2 w 0 2 16 10))
  else none

/-- Major 0x30 (R252). -/
def decMaj30 (w : Nat) : Option Instr :=
  if bits w 8 8 = 176 then
    some (.stb (fld w 2 6) (fld w 26 6) (fld2 w 0 2 16 10))
  else none

/-- Major 0x31 (R252). -/
def decMaj31 (w : Nat) : Option Instr :=
  if bits w 8 8 = 177 then
    some (.sth (fld w 2 6) (fld w 26 6) (fld2 w 0 2 16 10))
  else none

/-- Major 0x32 (R252). -/
def decMaj32 (w : Nat) : Option Instr :=
  if bits w 8 8 = 178 then
    some (.stw (fld w 2 6) (fld w 26 6) (fld2 w 0 2 16 10))
  else none

/-- Major 0x33 (R252). -/
def decMaj33 (w : Nat) : Option Instr :=
  if bits w 8 8 = 179 then
    some (.std (fld w 2 6) (fld w 26 6) (fld2 w 0 2 16 10))
  else none

/-- Major 0x34 (R252). -/
def decMaj34 (w : Nat) : Option Instr :=
  if bits w 8 8 = 180 then
    some (.stc (fld w 2 6) (fld w 26 6) (fld2 w 0 2 16 10))
  else none

/-- Major 0x35 (R252). -/
def decMaj35 (w : Nat) : Option Instr :=
  if bits w 8 8 = 181 then
    some (.rld (fld w 2 6) (fld w 26 6) (fld2 w 0 2 16 10))
  else none

/-- Major 0x36 (R252). -/
def decMaj36 (w : Nat) : Option Instr :=
  if bits w 8 12 = 182 then
    some (.ldx (fld w 2 6) (fld w 26 6) (fld w 20 6) (fld w 0 2))
  else if bits w 8 12 = 438 then
    some (.stx (fld w 2 6) (fld w 26 6) (fld w 20 6) (fld w 0 2))
  else none

/-- Major 0x37 (R252). -/
def decMaj37 (w : Nat) : Option Instr :=
  if bits w 0 20 = 46848 then
    some (.disc (fld w 26 6) (fld w 20 6))
  else none

/-- Major 0x38 (R252). -/
def decMaj38 (w : Nat) : Option Instr :=
  if bits w 8 12 = 184 then
    some (.aadd (fld w 2 6) (fld w 26 6) (fld w 20 6) (fld w 0 2))
  else if bits w 8 12 = 440 then
    some (.aand (fld w 2 6) (fld w 26 6) (fld w 20 6) (fld w 0 2))
  else if bits w 8 12 = 696 then
    some (.aor (fld w 2 6) (fld w 26 6) (fld w 20 6) (fld w 0 2))
  else if bits w 8 12 = 952 then
    some (.axor (fld w 2 6) (fld w 26 6) (fld w 20 6) (fld w 0 2))
  else if bits w 8 12 = 1208 then
    some (.amin (fld w 2 6) (fld w 26 6) (fld w 20 6) (fld w 0 2))
  else if bits w 8 12 = 1464 then
    some (.amax (fld w 2 6) (fld w 26 6) (fld w 20 6) (fld w 0 2))
  else if bits w 8 12 = 1720 then
    some (.aminu (fld w 2 6) (fld w 26 6) (fld w 20 6) (fld w 0 2))
  else if bits w 8 12 = 1976 then
    some (.amaxu (fld w 2 6) (fld w 26 6) (fld w 20 6) (fld w 0 2))
  else if bits w 8 12 = 2232 then
    some (.aswap (fld w 2 6) (fld w 26 6) (fld w 20 6) (fld w 0 2))
  else if bits w 8 12 = 2488 then
    some (.acas (fld w 2 6) (fld w 26 6) (fld w 20 6) (fld w 0 2))
  else none

/-- Major 0x39 (R252). -/
def decMaj39 (w : Nat) : Option Instr :=
  if bits w 8 12 = 185 then
    some (.aaddW (fld w 2 6) (fld w 26 6) (fld w 20 6) (fld w 0 2))
  else if bits w 8 12 = 441 then
    some (.aandW (fld w 2 6) (fld w 26 6) (fld w 20 6) (fld w 0 2))
  else if bits w 8 12 = 697 then
    some (.aorW (fld w 2 6) (fld w 26 6) (fld w 20 6) (fld w 0 2))
  else if bits w 8 12 = 953 then
    some (.axorW (fld w 2 6) (fld w 26 6) (fld w 20 6) (fld w 0 2))
  else if bits w 8 12 = 1209 then
    some (.aminW (fld w 2 6) (fld w 26 6) (fld w 20 6) (fld w 0 2))
  else if bits w 8 12 = 1465 then
    some (.amaxW (fld w 2 6) (fld w 26 6) (fld w 20 6) (fld w 0 2))
  else if bits w 8 12 = 1721 then
    some (.aminuW (fld w 2 6) (fld w 26 6) (fld w 20 6) (fld w 0 2))
  else if bits w 8 12 = 1977 then
    some (.amaxuW (fld w 2 6) (fld w 26 6) (fld w 20 6) (fld w 0 2))
  else if bits w 8 12 = 2233 then
    some (.aswapW (fld w 2 6) (fld w 26 6) (fld w 20 6) (fld w 0 2))
  else if bits w 8 12 = 2489 then
    some (.acasW (fld w 2 6) (fld w 26 6) (fld w 20 6) (fld w 0 2))
  else none

/-- Major 0x3A (R252). -/
def decMaj3A (w : Nat) : Option Instr :=
  if bits w 1 19 = 23808 then
    some (.radd (fld w 26 6) (fld w 20 6) (fld w 0 1))
  else if bits w 1 19 = 56576 then
    some (.rand (fld w 26 6) (fld w 20 6) (fld w 0 1))
  else if bits w 1 19 = 89344 then
    some (.ror (fld w 26 6) (fld w 20 6) (fld w 0 1))
  else if bits w 1 19 = 122112 then
    some (.rxor (fld w 26 6) (fld w 20 6) (fld w 0 1))
  else if bits w 1 19 = 154880 then
    some (.rmin (fld w 26 6) (fld w 20 6) (fld w 0 1))
  else if bits w 1 19 = 187648 then
    some (.rmax (fld w 26 6) (fld w 20 6) (fld w 0 1))
  else if bits w 1 19 = 220416 then
    some (.rminu (fld w 26 6) (fld w 20 6) (fld w 0 1))
  else if bits w 1 19 = 253184 then
    some (.rmaxu (fld w 26 6) (fld w 20 6) (fld w 0 1))
  else if bits w 0 20 = 571904 then
    some (.rfadd (fld w 26 6) (fld w 20 6))
  else none

/-- Major 0x3B (R252). -/
def decMaj3B (w : Nat) : Option Instr :=
  if bits w 8 12 = 187 ∧ bits w 0 2 = 0 then
    some (.lrw (fld w 2 6) (fld w 26 6) (fld w 20 6))
  else if bits w 8 12 = 443 ∧ bits w 0 2 = 0 then
    some (.sch (fld w 2 6) (fld w 26 6) (fld w 20 6))
  else if bits w 8 18 = 699 ∧ bits w 0 2 = 0 then
    some (.relq (fld w 2 6) (fld w 26 6))
  else none

/-- Major 0x3C (R252). -/
def decMaj3C (w : Nat) : Option Instr :=
  if bits w 8 12 = 188 ∧ bits w 0 2 = 0 then
    some (.loga (fld w 2 6) (fld w 26 6) (fld w 20 6))
  else if bits w 0 20 = 113664 then
    some (.merge (fld w 26 6) (fld w 20 6))
  else none

/-- Major 0x3D (R252). -/
def decMaj3D (w : Nat) : Option Instr :=
  if bits w 5 27 = 1512 ∧ bits w 0 2 = 0 then
    some (.fenceAcq (fld w 2 3))
  else if bits w 5 27 = 1512 ∧ bits w 0 2 = 1 then
    some (.fenceRel (fld w 2 3))
  else if bits w 5 27 = 1512 ∧ bits w 0 2 = 2 then
    some (.fenceAr (fld w 2 3))
  else if bits w 5 27 = 1512 ∧ bits w 0 2 = 3 then
    some (.fenceSc (fld w 2 3))
  else none

/-- Major 0x3E (R252). -/
def decMaj3E (w : Nat) : Option Instr :=
  if bits w 0 20 = 48640 then
    some (.waitge (fld w 26 6) (fld w 20 6))
  else if bits w 0 20 = 114176 then
    some (.waitne (fld w 26 6) (fld w 20 6))
  else none

/-- Major 0x3F (R252). -/
def decMaj3F (w : Nat) : Option Instr :=
  if bits w 0 20 = 48896 then
    some (.binit (fld w 26 6) (fld w 20 6))
  else if bits w 8 18 = 447 ∧ bits w 0 2 = 0 then
    some (.barr (fld w 2 6) (fld w 26 6))
  else if bits w 8 12 = 703 ∧ bits w 0 2 = 0 then
    some (.bwait (fld w 2 6) (fld w 26 6) (fld w 20 6))
  else if bits w 8 18 = 959 ∧ bits w 0 2 = 0 then
    some (.baw (fld w 2 6) (fld w 26 6))
  else if bits w 0 20 = 311040 then
    some (.bexp (fld w 26 6) (fld w 20 6))
  else if bits w 0 26 = 376576 then
    some (.bkill (fld w 26 6))
  else if bits w 8 18 = 1727 ∧ bits w 0 2 = 0 then
    some (.bqry (fld w 2 6) (fld w 26 6))
  else none

/-- Major 0x40 (R252). -/
def decMaj40 (w : Nat) : Option Instr :=
  if bits w 26 2 = 0 ∧ bits w 0 20 = 49152 then
    some (.copy (fld w 28 4) (fld w 20 6))
  else if bits w 26 2 = 0 ∧ bits w 8 12 = 448 ∧ bits w 0 2 = 0 then
    some (.copynb (fld w 2 6) (fld w 28 4) (fld w 20 6))
  else if bits w 26 2 = 0 ∧ bits w 0 20 = 180224 then
    some (.copyd (fld w 28 4) (fld w 20 6))
  else if bits w 26 2 = 0 ∧ bits w 0 20 = 245760 then
    some (.copyc (fld w 28 4) (fld w 20 6))
  else none

/-- Major 0x41 (R252). -/
def decMaj41 (w : Nat) : Option Instr :=
  if bits w 8 18 = 193 ∧ bits w 1 1 = 0 then
    some (.twany (fld w 2 6) (fld w 26 6) (fld w 0 1))
  else if bits w 8 18 = 449 ∧ bits w 1 1 = 0 then
    some (.twall (fld w 2 6) (fld w 26 6) (fld w 0 1))
  else if bits w 8 18 = 705 ∧ bits w 1 1 = 0 then
    some (.tff (fld w 2 6) (fld w 26 6) (fld w 0 1))
  else if bits w 0 26 = 246016 then
    some (.tclr (fld w 26 6))
  else if bits w 8 18 = 1217 ∧ bits w 0 2 = 0 then
    some (.tget (fld w 2 6) (fld w 26 6))
  else none

/-- Major 0x42 (R252). -/
def decMaj42 (w : Nat) : Option Instr :=
  if bits w 26 2 = 0 ∧ bits w 1 19 = 24832 then
    some (.send (fld w 28 4) (fld w 20 6) (fld w 0 1))
  else if bits w 26 6 = 0 ∧ bits w 8 12 = 450 ∧ bits w 0 4 = 0 then
    some (.recv (fld w 4 4) (fld w 20 6))
  else if bits w 26 6 = 0 ∧ bits w 8 12 = 706 ∧ bits w 0 4 = 0 then
    some (.recvnb (fld w 4 4) (fld w 20 6))
  else if bits w 8 18 = 962 ∧ bits w 0 2 = 0 then
    some (.inq (fld w 2 6) (fld w 26 6))
  else none

/-- Major 0x43 (R252). -/
def decMaj43 (w : Nat) : Option Instr :=
  if bits w 0 26 = 49920 then
    some (.migrate (fld w 26 6))
  else if bits w 0 32 = 115456 then
    some (.home)
  else if bits w 8 24 = 707 ∧ bits w 0 2 = 0 then
    some (.rank (fld w 2 6))
  else none

/-- Major 0x44 (R252). -/
def decMaj44 (w : Nat) : Option Instr :=
  if bits w 0 20 = 50176 then
    some (.portb (fld w 26 6) (fld w 20 6))
  else if bits w 8 18 = 452 ∧ bits w 0 2 = 0 then
    some (.portq (fld w 2 6) (fld w 26 6))
  else none

/-- Major 0x45 (R252). -/
def decMaj45 (w : Nat) : Option Instr :=
  if bits w 8 12 = 197 ∧ bits w 0 2 = 0 then
    some (.launch (fld w 2 6) (fld w 26 6) (fld w 20 6))
  else if bits w 0 32 = 115968 then
    some (.texit)
  else if bits w 0 32 = 181504 then
    some (.tyield)
  else if bits w 0 26 = 247040 then
    some (.lbnd (fld w 26 6))
  else none

/-- Major 0x50 (R252). -/
def decMaj50 (w : Nat) : Option Instr :=
  if bits w 18 4 = 0 ∧ bits w 8 8 = 208 ∧ bits w 2 1 = 0 then
    some (.vadd (fld w 3 5) (fld w 27 5) (fld w 22 5) (fld w 0 2) (fld w 16 2))
  else if bits w 18 4 = 1 ∧ bits w 8 8 = 208 ∧ bits w 2 1 = 0 then
    some (.vsub (fld w 3 5) (fld w 27 5) (fld w 22 5) (fld w 0 2) (fld w 16 2))
  else if bits w 18 4 = 2 ∧ bits w 8 8 = 208 ∧ bits w 2 1 = 0 then
    some (.vmul (fld w 3 5) (fld w 27 5) (fld w 22 5) (fld w 0 2) (fld w 16 2))
  else if bits w 18 4 = 3 ∧ bits w 8 8 = 208 ∧ bits w 2 1 = 0 then
    some (.vmin (fld w 3 5) (fld w 27 5) (fld w 22 5) (fld w 0 2) (fld w 16 2))
  else if bits w 18 4 = 4 ∧ bits w 8 8 = 208 ∧ bits w 2 1 = 0 then
    some (.vmax (fld w 3 5) (fld w 27 5) (fld w 22 5) (fld w 0 2) (fld w 16 2))
  else if bits w 18 4 = 5 ∧ bits w 8 8 = 208 ∧ bits w 2 1 = 0 then
    some (.vand (fld w 3 5) (fld w 27 5) (fld w 22 5) (fld w 0 2) (fld w 16 2))
  else if bits w 18 4 = 6 ∧ bits w 8 8 = 208 ∧ bits w 2 1 = 0 then
    some (.vor (fld w 3 5) (fld w 27 5) (fld w 22 5) (fld w 0 2) (fld w 16 2))
  else if bits w 18 4 = 7 ∧ bits w 8 8 = 208 ∧ bits w 2 1 = 0 then
    some (.vxor (fld w 3 5) (fld w 27 5) (fld w 22 5) (fld w 0 2) (fld w 16 2))
  else if bits w 18 4 = 8 ∧ bits w 8 8 = 208 ∧ bits w 2 1 = 0 then
    some (.vshl (fld w 3 5) (fld w 27 5) (fld w 22 5) (fld w 0 2) (fld w 16 2))
  else if bits w 18 4 = 9 ∧ bits w 8 8 = 208 ∧ bits w 2 1 = 0 then
    some (.vshr (fld w 3 5) (fld w 27 5) (fld w 22 5) (fld w 0 2) (fld w 16 2))
  else if bits w 18 4 = 10 ∧ bits w 8 8 = 208 ∧ bits w 2 1 = 0 then
    some (.vsar (fld w 3 5) (fld w 27 5) (fld w 22 5) (fld w 0 2) (fld w 16 2))
  else if bits w 18 4 = 11 ∧ bits w 8 8 = 208 ∧ bits w 2 1 = 0 then
    some (.vsadd (fld w 3 5) (fld w 27 5) (fld w 22 5) (fld w 0 2) (fld w 16 2))
  else if bits w 18 4 = 12 ∧ bits w 8 8 = 208 ∧ bits w 2 1 = 0 then
    some (.vssub (fld w 3 5) (fld w 27 5) (fld w 22 5) (fld w 0 2) (fld w 16 2))
  else if bits w 18 9 = 13 ∧ bits w 8 8 = 208 ∧ bits w 2 1 = 0 then
    some (.vabs (fld w 3 5) (fld w 27 5) (fld w 0 2) (fld w 16 2))
  else none

/-- Major 0x51 (R252). -/
def decMaj51 (w : Nat) : Option Instr :=
  if bits w 18 4 = 0 ∧ bits w 8 8 = 209 ∧ bits w 2 1 = 1 then
    some (.vfadd (fld w 3 5) (fld w 27 5) (fld w 22 5) (fld w 0 2) (fld w 16 2))
  else if bits w 18 4 = 1 ∧ bits w 8 8 = 209 ∧ bits w 2 1 = 1 then
    some (.vfsub (fld w 3 5) (fld w 27 5) (fld w 22 5) (fld w 0 2) (fld w 16 2))
  else if bits w 18 4 = 2 ∧ bits w 8 8 = 209 ∧ bits w 2 1 = 1 then
    some (.vfmul (fld w 3 5) (fld w 27 5) (fld w 22 5) (fld w 0 2) (fld w 16 2))
  else if bits w 18 4 = 3 ∧ bits w 8 8 = 209 ∧ bits w 2 1 = 1 then
    some (.vfdiv (fld w 3 5) (fld w 27 5) (fld w 22 5) (fld w 0 2) (fld w 16 2))
  else if bits w 18 4 = 4 ∧ bits w 8 8 = 209 ∧ bits w 2 1 = 1 then
    some (.vfmin (fld w 3 5) (fld w 27 5) (fld w 22 5) (fld w 0 2) (fld w 16 2))
  else if bits w 18 4 = 5 ∧ bits w 8 8 = 209 ∧ bits w 2 1 = 1 then
    some (.vfmax (fld w 3 5) (fld w 27 5) (fld w 22 5) (fld w 0 2) (fld w 16 2))
  else if bits w 18 9 = 6 ∧ bits w 8 8 = 209 ∧ bits w 2 1 = 1 then
    some (.vfabs (fld w 3 5) (fld w 27 5) (fld w 0 2) (fld w 16 2))
  else if bits w 18 9 = 7 ∧ bits w 8 8 = 209 ∧ bits w 2 1 = 1 then
    some (.vfneg (fld w 3 5) (fld w 27 5) (fld w 0 2) (fld w 16 2))
  else if bits w 18 9 = 8 ∧ bits w 8 8 = 209 ∧ bits w 2 1 = 1 then
    some (.vfsqrt (fld w 3 5) (fld w 27 5) (fld w 0 2) (fld w 16 2))
  else if bits w 18 9 = 9 ∧ bits w 8 8 = 209 ∧ bits w 2 1 = 1 then
    some (.vfrcp (fld w 3 5) (fld w 27 5) (fld w 0 2) (fld w 16 2))
  else if bits w 18 9 = 10 ∧ bits w 8 8 = 209 ∧ bits w 2 1 = 1 then
    some (.vfrsq (fld w 3 5) (fld w 27 5) (fld w 0 2) (fld w 16 2))
  else if bits w 18 9 = 11 ∧ bits w 8 8 = 209 ∧ bits w 2 1 = 1 then
    some (.vfexp2 (fld w 3 5) (fld w 27 5) (fld w 0 2) (fld w 16 2))
  else if bits w 18 9 = 12 ∧ bits w 8 8 = 209 ∧ bits w 2 1 = 1 then
    some (.vflog2 (fld w 3 5) (fld w 27 5) (fld w 0 2) (fld w 16 2))
  else none

/-- Major 0x52 (R252). -/
def decMaj52 (w : Nat) : Option Instr :=
  if bits w 18 4 = 0 ∧ bits w 8 8 = 210 ∧ bits w 2 1 = 1 then
    some (.vfma (fld w 3 5) (fld w 27 5) (fld w 22 5) (fld w 0 2) (fld w 16 2))
  else if bits w 18 4 = 1 ∧ bits w 8 8 = 210 ∧ bits w 2 1 = 1 then
    some (.vfms (fld w 3 5) (fld w 27 5) (fld w 22 5) (fld w 0 2) (fld w 16 2))
  else if bits w 18 4 = 2 ∧ bits w 8 8 = 210 ∧ bits w 2 1 = 1 then
    some (.vfnma (fld w 3 5) (fld w 27 5) (fld w 22 5) (fld w 0 2) (fld w 16 2))
  else if bits w 18 4 = 3 ∧ bits w 8 8 = 210 ∧ bits w 0 2 = 2 then
    some (.vdot4 (fld w 3 5) (fld w 27 5) (fld w 22 5) (fld w 2 1) (fld w 16 2))
  else none

/-- Major 0x53 (R252). -/
def decMaj53 (w : Nat) : Option Instr :=
  if bits w 18 4 = 0 ∧ bits w 5 11 = 1688 then
    some (.vceq (fld w 3 2) (fld w 27 5) (fld w 22 5) (fld w 0 3) (fld w 16 2))
  else if bits w 18 4 = 1 ∧ bits w 5 11 = 1688 then
    some (.vcne (fld w 3 2) (fld w 27 5) (fld w 22 5) (fld w 0 3) (fld w 16 2))
  else if bits w 18 4 = 2 ∧ bits w 5 11 = 1688 then
    some (.vclt (fld w 3 2) (fld w 27 5) (fld w 22 5) (fld w 0 3) (fld w 16 2))
  else if bits w 18 4 = 3 ∧ bits w 5 11 = 1688 then
    some (.vcle (fld w 3 2) (fld w 27 5) (fld w 22 5) (fld w 0 3) (fld w 16 2))
  else if bits w 18 4 = 4 ∧ bits w 5 11 = 1688 ∧ bits w 2 1 = 0 then
    some (.vcltu (fld w 3 2) (fld w 27 5) (fld w 22 5) (fld w 0 2) (fld w 16 2))
  else if bits w 18 4 = 5 ∧ bits w 5 11 = 1688 ∧ bits w 2 1 = 0 then
    some (.vcleu (fld w 3 2) (fld w 27 5) (fld w 22 5) (fld w 0 2) (fld w 16 2))
  else none

/-- Major 0x54 (R252). -/
def decMaj54 (w : Nat) : Option Instr :=
  if bits w 18 4 = 0 ∧ bits w 8 8 = 212 then
    some (.vcvt (fld w 3 5) (fld w 27 5) (fld w 26 1) (fld w 22 4) (fld w 0 3) (fld w 16 2))
  else if bits w 26 1 = 0 ∧ bits w 18 4 = 1 ∧ bits w 8 8 = 212 ∧ bits w 2 1 = 1 then
    some (.vcvts (fld w 3 5) (fld w 27 5) (fld w 22 4) (fld w 0 2) (fld w 16 2))
  else none

/-- Major 0x55 (R252). -/
def decMaj55 (w : Nat) : Option Instr :=
  if bits w 18 9 = 0 ∧ bits w 8 8 = 213 then
    some (.vrsum (fld w 3 5) (fld w 27 5) (fld w 0 3) (fld w 16 2))
  else if bits w 18 9 = 1 ∧ bits w 8 8 = 213 then
    some (.vrmin (fld w 3 5) (fld w 27 5) (fld w 0 3) (fld w 16 2))
  else if bits w 18 9 = 2 ∧ bits w 8 8 = 213 then
    some (.vrmax (fld w 3 5) (fld w 27 5) (fld w 0 3) (fld w 16 2))
  else none

/-- Major 0x56 (R252). -/
def decMaj56 (w : Nat) : Option Instr :=
  if bits w 18 4 = 0 ∧ bits w 8 8 = 214 then
    some (.vperm (fld w 3 5) (fld w 27 5) (fld w 22 5) (fld w 0 3) (fld w 16 2))
  else if bits w 18 4 = 1 ∧ bits w 8 8 = 214 then
    some (.vslide (fld w 3 5) (fld w 27 5) (fld2 w 16 2 22 5) (fld w 0 3))
  else if bits w 18 9 = 2 ∧ bits w 8 8 = 214 then
    some (.vbcast (fld w 3 5) (fld w 27 5) (fld w 0 3) (fld w 16 2))
  else if bits w 18 4 = 3 ∧ bits w 8 8 = 214 then
    some (.vext (fld w 3 5) (fld w 27 5) (fld2 w 16 2 22 5) (fld w 0 3))
  else if bits w 18 4 = 4 ∧ bits w 8 8 = 214 then
    some (.vins (fld w 3 5) (fld w 27 5) (fld2 w 16 2 22 5) (fld w 0 3))
  else if bits w 18 4 = 5 ∧ bits w 8 8 = 214 then
    some (.vrot (fld w 3 5) (fld w 27 5) (fld2 w 16 2 22 5) (fld w 0 3))
  else none

/-- Major 0x57 (R252). -/
def decMaj57 (w : Nat) : Option Instr :=
  if bits w 18 4 = 0 ∧ bits w 8 8 = 215 then
    some (.vld (fld w 3 5) (fld w 27 5) (fld w 22 5) (fld w 0 3) (fld w 16 2))
  else if bits w 18 4 = 1 ∧ bits w 8 8 = 215 then
    some (.vst (fld w 3 5) (fld w 27 5) (fld w 22 5) (fld w 0 3) (fld w 16 2))
  else if bits w 18 4 = 2 ∧ bits w 8 8 = 215 then
    some (.vlds (fld w 3 5) (fld w 27 5) (fld w 22 5) (fld w 0 3) (fld w 16 2))
  else if bits w 18 4 = 3 ∧ bits w 8 8 = 215 then
    some (.vsts (fld w 3 5) (fld w 27 5) (fld w 22 5) (fld w 0 3) (fld w 16 2))
  else if bits w 18 4 = 4 ∧ bits w 8 8 = 215 then
    some (.vgath (fld w 3 5) (fld w 27 5) (fld w 22 5) (fld w 0 3) (fld w 16 2))
  else if bits w 18 4 = 5 ∧ bits w 8 8 = 215 then
    some (.vscat (fld w 3 5) (fld w 27 5) (fld w 22 5) (fld w 0 3) (fld w 16 2))
  else none

/-- Major 0x58 (R252). -/
def decMaj58 (w : Nat) : Option Instr :=
  if bits w 18 4 = 0 ∧ bits w 8 8 = 216 ∧ bits w 2 1 = 0 then
    some (.vunpk3 (fld w 3 5) (fld w 27 5) (fld w 22 5) (fld w 0 2) (fld w 16 2))
  else if bits w 18 4 = 1 ∧ bits w 8 8 = 216 ∧ bits w 0 3 = 2 then
    some (.vtacc (fld w 3 5) (fld w 27 5) (fld w 22 5) (fld w 16 2))
  else none

/-- Major 0x59 (R252). -/
def decMaj59 (w : Nat) : Option Instr :=
  if bits w 18 4 = 0 ∧ bits w 8 8 = 217 then
    some (.vsel (fld w 3 5) (fld w 27 5) (fld w 22 5) (fld w 0 3) (fld w 16 2))
  else if bits w 29 3 = 0 ∧ bits w 24 3 = 0 ∧ bits w 5 17 = 9928 ∧ bits w 0 3 = 0 then
    some (.kand (fld w 3 2) (fld w 27 2) (fld w 22 2))
  else if bits w 29 3 = 0 ∧ bits w 24 3 = 0 ∧ bits w 5 17 = 18120 ∧ bits w 0 3 = 0 then
    some (.kor (fld w 3 2) (fld w 27 2) (fld w 22 2))
  else if bits w 29 3 = 0 ∧ bits w 24 3 = 0 ∧ bits w 5 17 = 26312 ∧ bits w 0 3 = 0 then
    some (.kxor (fld w 3 2) (fld w 27 2) (fld w 22 2))
  else if bits w 29 3 = 0 ∧ bits w 5 22 = 34504 ∧ bits w 0 3 = 0 then
    some (.knot (fld w 3 2) (fld w 27 2))
  else if bits w 29 3 = 0 ∧ bits w 8 19 = 5337 then
    some (.kpop (fld w 3 5) (fld w 27 2) (fld w 0 3))
  else none

/-- Major 0x60 (R252). -/
def decMaj60 (w : Nat) : Option Instr :=
  if bits w 4 16 = 3584 ∧ bits w 0 2 = 0 then
    some (.mma (fld w 2 2) (fld w 26 6) (fld w 20 6))
  else if bits w 4 28 = 7680 ∧ bits w 1 1 = 0 then
    some (.mzero (fld w 2 2) (fld w 0 1))
  else if bits w 4 22 = 11776 ∧ bits w 1 1 = 0 then
    some (.mld (fld w 2 2) (fld w 26 6) (fld w 0 1))
  else if bits w 21 5 = 0 ∧ bits w 4 16 = 15872 ∧ bits w 0 2 = 0 then
    some (.mst (fld w 2 2) (fld w 26 6) (fld w 20 1))
  else if bits w 8 18 = 1248 ∧ bits w 0 2 = 0 then
    some (.msave (fld w 2 6) (fld w 26 6))
  else if bits w 0 20 = 385024 then
    some (.mrst (fld w 26 6) (fld w 20 6))
  else if bits w 8 24 = 1760 ∧ bits w 0 2 = 0 then
    some (.gang (fld w 2 6))
  else if bits w 0 26 = 516096 then
    some (.mpf (fld w 26 6))
  else none

/-- Major 0x68 (R252). -/
def decMaj68 (w : Nat) : Option Instr :=
  if bits w 8 12 = 232 ∧ bits w 0 2 = 0 then
    some (.smax (fld w 2 6) (fld w 26 6) (fld w 20 6))
  else if bits w 8 12 = 488 ∧ bits w 0 2 = 0 then
    some (.smass (fld w 2 6) (fld w 26 6) (fld w 20 6))
  else if bits w 26 6 = 0 ∧ bits w 8 12 = 744 ∧ bits w 0 2 = 0 then
    some (.sdraw (fld w 2 6) (fld w 20 6))
  else if bits w 8 12 = 1000 ∧ bits w 0 2 = 0 then
    some (.sloc (fld w 2 6) (fld w 26 6) (fld w 20 6))
  else if bits w 8 12 = 1256 ∧ bits w 0 2 = 0 then
    some (.grmask (fld w 2 6) (fld w 26 6) (fld w 20 6))
  else if bits w 8 12 = 1512 ∧ bits w 0 2 = 0 then
    some (.grstep (fld w 2 6) (fld w 26 6) (fld w 20 6))
  else if bits w 8 12 = 1768 ∧ bits w 0 2 = 0 then
    some (.tap (fld w 2 6) (fld w 26 6) (fld w 20 6))
  else if bits w 0 20 = 518144 then
    some (.tsteer (fld w 26 6) (fld w 20 6))
  else none

/-- Major 0x70 (R252). -/
def decMaj70 (w : Nat) : Option Instr :=
  if bits w 0 26 = 61440 then
    some (.trap (fld w 26 6))
  else if bits w 0 28 = 126976 then
    some (.eret (fld w 28 4))
  else if bits w 8 12 = 752 ∧ bits w 0 2 = 0 then
    some (.srr (fld w 2 6) (fld w 20 12))
  else if bits w 8 12 = 1008 ∧ bits w 0 2 = 0 then
    some (.srw (fld w 2 6) (fld w 20 12))
  else if bits w 8 12 = 1264 ∧ bits w 0 2 = 0 then
    some (.srx (fld w 2 6) (fld w 20 12))
  else if bits w 4 22 = 24320 ∧ bits w 0 2 = 0 then
    some (.oxw (fld w 26 6) (fld w 2 2))
  else if bits w 0 26 = 454656 then
    some (.sleep (fld w 26 6))
  else if bits w 8 24 = 2032 ∧ bits w 0 2 = 0 then
    some (.time (fld w 2 6))
  else if bits w 8 20 = 2288 ∧ bits w 0 2 = 0 then
    some (.rqpush (fld w 2 6) (fld w 28 4))
  else if bits w 8 24 = 2544 ∧ bits w 0 4 = 0 then
    some (.rqpop (fld w 4 4))
  else if bits w 8 24 = 2800 ∧ bits w 0 2 = 0 then
    some (.rqpeek (fld w 2 6))
  else if bits w 0 20 = 782336 then
    some (.gsave (fld w 26 6) (fld w 20 6))
  else if bits w 0 20 = 847872 then
    some (.grst (fld w 26 6) (fld w 20 6))
  else if bits w 5 27 = 28544 ∧ bits w 0 2 = 0 then
    some (.ifence (fld w 2 3))
  else if bits w 4 16 = 61184 ∧ bits w 0 2 = 0 then
    some (.tlbi (fld w 26 6) (fld w 20 6) (fld w 2 2))
  else if bits w 0 20 = 1044480 then
    some (.brk (fld w 20 12))
  else none

/-- Major 0x71 (R252). -/
def decMaj71 (w : Nat) : Option Instr :=
  if bits w 0 20 = 61696 then
    some (.silt (fld w 26 6) (fld w 20 6))
  else if bits w 8 18 = 497 ∧ bits w 0 2 = 0 then
    some (.lease (fld w 2 6) (fld w 26 6))
  else none

/-- The 32-bit map by major opcode (R252); an unassigned major is no instruction (R255). -/
def decMaj (w : Nat) : Option Instr :=
  match bits w 8 7 with
  | 0x00 => decMaj00 w
  | 0x01 => decMaj01 w
  | 0x02 => decMaj02 w
  | 0x03 => decMaj03 w
  | 0x04 => decMaj04 w
  | 0x05 => decMaj05 w
  | 0x06 => decMaj06 w
  | 0x07 => decMaj07 w
  | 0x08 => decMaj08 w
  | 0x09 => decMaj09 w
  | 0x0A => decMaj0A w
  | 0x0B => decMaj0B w
  | 0x0C => decMaj0C w
  | 0x10 => decMaj10 w
  | 0x11 => decMaj11 w
  | 0x12 => decMaj12 w
  | 0x13 => decMaj13 w
  | 0x14 => decMaj14 w
  | 0x15 => decMaj15 w
  | 0x16 => decMaj16 w
  | 0x17 => decMaj17 w
  | 0x18 => decMaj18 w
  | 0x19 => decMaj19 w
  | 0x1A => decMaj1A w
  | 0x20 => decMaj20 w
  | 0x21 => decMaj21 w
  | 0x28 => decMaj28 w
  | 0x29 => decMaj29 w
  | 0x2A => decMaj2A w
  | 0x2B => decMaj2B w
  | 0x2C => decMaj2C w
  | 0x2D => decMaj2D w
  | 0x2E => decMaj2E w
  | 0x2F => decMaj2F w
  | 0x30 => decMaj30 w
  | 0x31 => decMaj31 w
  | 0x32 => decMaj32 w
  | 0x33 => decMaj33 w
  | 0x34 => decMaj34 w
  | 0x35 => decMaj35 w
  | 0x36 => decMaj36 w
  | 0x37 => decMaj37 w
  | 0x38 => decMaj38 w
  | 0x39 => decMaj39 w
  | 0x3A => decMaj3A w
  | 0x3B => decMaj3B w
  | 0x3C => decMaj3C w
  | 0x3D => decMaj3D w
  | 0x3E => decMaj3E w
  | 0x3F => decMaj3F w
  | 0x40 => decMaj40 w
  | 0x41 => decMaj41 w
  | 0x42 => decMaj42 w
  | 0x43 => decMaj43 w
  | 0x44 => decMaj44 w
  | 0x45 => decMaj45 w
  | 0x50 => decMaj50 w
  | 0x51 => decMaj51 w
  | 0x52 => decMaj52 w
  | 0x53 => decMaj53 w
  | 0x54 => decMaj54 w
  | 0x55 => decMaj55 w
  | 0x56 => decMaj56 w
  | 0x57 => decMaj57 w
  | 0x58 => decMaj58 w
  | 0x59 => decMaj59 w
  | 0x60 => decMaj60 w
  | 0x68 => decMaj68 w
  | 0x70 => decMaj70 w
  | 0x71 => decMaj71 w
  | _ => none

/-- The 16-bit map by OP5 (R218, R257). -/
def decOp5 (w : Nat) : Option Instr :=
  match bits w 10 5 with
  | 1 => if bits w 10 6 = 1 then some (.cMov (fld w 5 5) (fld w 0 5)) else none
  | 2 => if bits w 10 6 = 2 then some (.cAdd (fld w 5 5) (fld w 0 5)) else none
  | 3 => if bits w 10 6 = 3 then some (.cSub (fld w 5 5) (fld w 0 5)) else none
  | 4 => if bits w 10 6 = 4 then some (.cAnd (fld w 5 5) (fld w 0 5)) else none
  | 5 => if bits w 10 6 = 5 then some (.cOr (fld w 5 5) (fld w 0 5)) else none
  | 6 => if bits w 10 6 = 6 then some (.cXor (fld w 5 5) (fld w 0 5)) else none
  | 7 => if bits w 10 6 = 7 then some (.cAddi (fld w 5 5) (fld w 0 5)) else none
  | 8 => if bits w 10 6 = 8 then some (.cLi (fld w 5 5) (fld w 0 5)) else none
  | 9 => if bits w 10 6 = 9 then some (.cShli (fld w 5 5) (fld w 0 5)) else none
  | 10 => if bits w 10 6 = 10 then some (.cShri (fld w 5 5) (fld w 0 5)) else none
  | 11 => if bits w 10 6 = 11 then some (.cSari (fld w 5 5) (fld w 0 5)) else none
  | 12 => if bits w 10 6 = 12 then some (.cLdd (fld w 5 5) (fld w 0 5)) else none
  | 13 => if bits w 10 6 = 13 then some (.cStd (fld w 5 5) (fld w 0 5)) else none
  | 14 => if bits w 10 6 = 14 then some (.cLdw (fld w 5 5) (fld w 0 5)) else none
  | 15 => if bits w 10 6 = 15 then some (.cStw (fld w 5 5) (fld w 0 5)) else none
  | 16 => if bits w 10 6 = 16 then some (.cBeqz (fld w 5 5) (fld w 0 5)) else none
  | 17 => if bits w 10 6 = 17 then some (.cBnez (fld w 5 5) (fld w 0 5)) else none
  | 18 => if bits w 10 6 = 18 then some (.cJ (fld w 0 10)) else none
  | 19 => if bits w 0 5 = 0 ∧ bits w 10 6 = 19 then some (.cJr (fld w 5 5)) else none
  | 20 => if bits w 0 16 = 20480 then some (.cRet) else none
  | 21 => if bits w 0 7 = 0 ∧ bits w 10 6 = 21 then some (.cRecv (fld w 7 3)) else none
  | 22 => if bits w 10 6 = 22 then some (.cTff (fld w 5 5) (fld w 0 5)) else none
  | 23 => if bits w 10 6 = 23 then some (.cTwany (fld w 5 5) (fld w 0 5)) else none
  | 24 => if bits w 10 6 = 24 then some (.cGclr (fld w 5 5) (fld w 0 5)) else none
  | _ => none

/-- A candidate stands only when it is well formed: its reserved values are refused (R255). -/
def keepWellFormed (o : Option Instr) : Option Instr :=
  match o with
  | some i => if i.wellFormed then some i else none
  | none => none

/-- Decode of a 32-bit instruction (R213: bit 15 of the first parcel is 1). -/
def decode32 (w : Nat) : Option Instr :=
  if bits w 15 1 = 1 then keepWellFormed (decMaj w) else none

/-- Decode of a 16-bit instruction (R213: bit 15 is 0). -/
def decode16 (w : Nat) : Option Instr :=
  if bits w 15 1 = 0 then keepWellFormed (decOp5 w) else none

/-- What a fetched pair of parcels is (R213, R219 step 2): an instruction and its length in bytes, or no instruction with
the value EVAL takes. `w` holds the first parcel in its low half and the second, if fetched, above it. -/
inductive Decoded
  | instr (i : Instr) (len : Nat)
  | illegal (w : Nat) (len : Nat)
  deriving DecidableEq, Repr

/-- The decoder on the bits of one or two parcels (R213). -/
def decodeBits (w : Nat) : Decoded :=
  if bits w 15 1 = 0 then
    match decode16 (bits w 0 16) with
    | some i => .instr i 2
    | none => .illegal (bits w 0 16) 2
  else
    match decode32 (bits w 0 32) with
    | some i => .instr i 4
    | none => .illegal (bits w 0 32) 4

/-- The value of little-endian bytes (R3). -/
def bytesToNat : List (BitVec 8) → Nat
  | [] => 0
  | b :: bs => b.toNat + 256 * bytesToNat bs

/-- The bytes of a value, least significant first (R3). -/
def natToBytes : Nat → Nat → List (BitVec 8)
  | 0, _ => []
  | n + 1, w => BitVec.ofNat 8 w :: natToBytes n (w / 256)

/-- The instruction at the head of a list of bytes, total on any bytes. -/
def decodeBytes (bs : List (BitVec 8)) : Decoded := decodeBits (bytesToNat (bs.take 4))

/-- The instruction the decoder reads from bits numbered as the opcode table numbers them: the words are laid
out as the part stores them (R213) and given to the decoder. -/
def decodeTableWord (nbits w : Nat) : Option Instr :=
  match decodeBytes (natToBytes 4 (bits w 0 nbits)) with
  | .instr i len => if 8 * len = nbits then some i else none
  | .illegal _ _ => none

/-- A field's value at bit `lo` of a word. -/
def put (v lo : Nat) : Nat := v * 2 ^ lo

/-- The encoding of an encoded instruction: its number of bits and its value (R215, R218). The part's steps
have no encoding. -/
def encode (i : Instr) : Option (Nat × Nat) :=
  match i with
  | .add d a b w => some (32, put a.toNat 26 + put b.toNat 20 + 0x8000 + put d.toNat 2 + w.toNat)
  | .sub d a b w => some (32, put a.toNat 26 + put b.toNat 20 + 0x18000 + put d.toNat 2 + w.toNat)
  | .and d a b w => some (32, put a.toNat 26 + put b.toNat 20 + 0x28000 + put d.toNat 2 + w.toNat)
  | .or d a b w => some (32, put a.toNat 26 + put b.toNat 20 + 0x38000 + put d.toNat 2 + w.toNat)
  | .xor d a b w => some (32, put a.toNat 26 + put b.toNat 20 + 0x48000 + put d.toNat 2 + w.toNat)
  | .andn d a b w => some (32, put a.toNat 26 + put b.toNat 20 + 0x58000 + put d.toNat 2 + w.toNat)
  | .shl d a b w => some (32, put a.toNat 26 + put b.toNat 20 + 0x68000 + put d.toNat 2 + w.toNat)
  | .shr d a b w => some (32, put a.toNat 26 + put b.toNat 20 + 0x78000 + put d.toNat 2 + w.toNat)
  | .sar d a b w => some (32, put a.toNat 26 + put b.toNat 20 + 0x88000 + put d.toNat 2 + w.toNat)
  | .rol d a b w => some (32, put a.toNat 26 + put b.toNat 20 + 0x98000 + put d.toNat 2 + w.toNat)
  | .min d a b w => some (32, put a.toNat 26 + put b.toNat 20 + 0xA8000 + put d.toNat 2 + w.toNat)
  | .max d a b w => some (32, put a.toNat 26 + put b.toNat 20 + 0xB8000 + put d.toNat 2 + w.toNat)
  | .minu d a b w => some (32, put a.toNat 26 + put b.toNat 20 + 0xC8000 + put d.toNat 2 + w.toNat)
  | .maxu d a b w => some (32, put a.toNat 26 + put b.toNat 20 + 0xD8000 + put d.toNat 2 + w.toNat)
  | .slt d a b w => some (32, put a.toNat 26 + put b.toNat 20 + 0xE8000 + put d.toNat 2 + w.toNat)
  | .sltu d a b w => some (32, put a.toNat 26 + put b.toNat 20 + 0xF8000 + put d.toNat 2 + w.toNat)
  | .mul d a b w => some (32, put a.toNat 26 + put b.toNat 20 + 0x8100 + put d.toNat 2 + w.toNat)
  | .mulh d a b w => some (32, put a.toNat 26 + put b.toNat 20 + 0x18100 + put d.toNat 2 + w.toNat)
  | .mulhu d a b w => some (32, put a.toNat 26 + put b.toNat 20 + 0x28100 + put d.toNat 2 + w.toNat)
  | .mulhsu d a b w => some (32, put a.toNat 26 + put b.toNat 20 + 0x38100 + put d.toNat 2 + w.toNat)
  | .div d a b w => some (32, put a.toNat 26 + put b.toNat 20 + 0x48100 + put d.toNat 2 + w.toNat)
  | .divu d a b w => some (32, put a.toNat 26 + put b.toNat 20 + 0x58100 + put d.toNat 2 + w.toNat)
  | .rem d a b w => some (32, put a.toNat 26 + put b.toNat 20 + 0x68100 + put d.toNat 2 + w.toNat)
  | .remu d a b w => some (32, put a.toNat 26 + put b.toNat 20 + 0x78100 + put d.toNat 2 + w.toNat)
  | .clz d a w => some (32, put a.toNat 26 + 0x88100 + put d.toNat 2 + w.toNat)
  | .ctz d a w => some (32, put a.toNat 26 + 0x98100 + put d.toNat 2 + w.toNat)
  | .popc d a w => some (32, put a.toNat 26 + 0xA8100 + put d.toNat 2 + w.toNat)
  | .brev d a w => some (32, put a.toNat 26 + 0xB8100 + put d.toNat 2 + w.toNat)
  | .bswap d a w => some (32, put a.toNat 26 + 0xC8100 + put d.toNat 2 + w.toNat)
  | .ilv2 d a b => some (32, put a.toNat 26 + put b.toNat 20 + 0xD8100 + put d.toNat 2)
  | .ilv3 d a b => some (32, put a.toNat 26 + put b.toNat 20 + 0xE8100 + put d.toNat 2)
  | .addi d a imm => some (32, put a.toNat 26 + put (bits imm.toNat 0 10) 16 + 0x8200 + put d.toNat 2 + bits imm.toNat 10 2)
  | .andi d a imm => some (32, put a.toNat 26 + put (bits imm.toNat 0 10) 16 + 0x8300 + put d.toNat 2 + bits imm.toNat 10 2)
  | .ori d a imm => some (32, put a.toNat 26 + put (bits imm.toNat 0 10) 16 + 0x8400 + put d.toNat 2 + bits imm.toNat 10 2)
  | .xori d a imm => some (32, put a.toNat 26 + put (bits imm.toNat 0 10) 16 + 0x8500 + put d.toNat 2 + bits imm.toNat 10 2)
  | .shli d a s => some (32, put a.toNat 26 + put s.toNat 16 + 0x8600 + put d.toNat 2)
  | .shri d a s => some (32, put a.toNat 26 + put s.toNat 16 + 0x8700 + put d.toNat 2)
  | .sari d a s => some (32, put a.toNat 26 + put s.toNat 16 + 0x8800 + put d.toNat 2)
  | .slti d a imm => some (32, put a.toNat 26 + put (bits imm.toNat 0 10) 16 + 0x8900 + put d.toNat 2 + bits imm.toNat 10 2)
  | .sltui d a imm => some (32, put a.toNat 26 + put (bits imm.toNat 0 10) 16 + 0x8A00 + put d.toNat 2 + bits imm.toNat 10 2)
  | .lui d imm => some (32, put (bits imm.toNat 0 16) 16 + 0x8B00 + put d.toNat 2 + bits imm.toNat 16 2)
  | .auipc d imm => some (32, put (bits imm.toNat 0 16) 16 + 0x8C00 + put d.toNat 2 + bits imm.toNat 16 2)
  | .beq a b off => some (32, put b.toNat 26 + put (bits off.toNat 0 10) 16 + 0x9000 + put a.toNat 2 + bits off.toNat 10 2)
  | .bne a b off => some (32, put b.toNat 26 + put (bits off.toNat 0 10) 16 + 0x9100 + put a.toNat 2 + bits off.toNat 10 2)
  | .blt a b off => some (32, put b.toNat 26 + put (bits off.toNat 0 10) 16 + 0x9200 + put a.toNat 2 + bits off.toNat 10 2)
  | .bge a b off => some (32, put b.toNat 26 + put (bits off.toNat 0 10) 16 + 0x9300 + put a.toNat 2 + bits off.toNat 10 2)
  | .bltu a b off => some (32, put b.toNat 26 + put (bits off.toNat 0 10) 16 + 0x9400 + put a.toNat 2 + bits off.toNat 10 2)
  | .bgeu a b off => some (32, put b.toNat 26 + put (bits off.toNat 0 10) 16 + 0x9500 + put a.toNat 2 + bits off.toNat 10 2)
  | .btag a off t => some (32, put t.toNat 26 + put (bits off.toNat 0 10) 16 + 0x9600 + put a.toNat 2 + bits off.toNat 10 2)
  | .dbnz d off => some (32, put (bits off.toNat 0 10) 16 + 0x9700 + put d.toNat 2 + bits off.toNat 10 2)
  | .jal d off => some (32, put (bits off.toNat 0 16) 16 + 0x9800 + put d.toNat 2 + bits off.toNat 16 2)
  | .jalr d a imm => some (32, put a.toNat 26 + put (bits imm.toNat 0 10) 16 + 0x9900 + put d.toNat 2 + bits imm.toNat 10 2)
  | .rep a n s => some (32, put a.toNat 26 + put s.toNat 20 + put n.toNat 16 + 0x9A00)
  | .csetb d a b => some (32, put a.toNat 26 + put b.toNat 20 + 0xA000 + put d.toNat 2)
  | .csetbx d a b => some (32, put a.toNat 26 + put b.toNat 20 + 0x1A000 + put d.toNat 2)
  | .candp d a b => some (32, put a.toNat 26 + put b.toNat 20 + 0x2A000 + put d.toNat 2)
  | .cseta d a b => some (32, put a.toNat 26 + put b.toNat 20 + 0x3A000 + put d.toNat 2)
  | .cgetb d a => some (32, put a.toNat 26 + 0x4A000 + put d.toNat 2)
  | .cgett d a => some (32, put a.toNat 26 + 0x5A000 + put d.toNat 2)
  | .cgetp d a => some (32, put a.toNat 26 + 0x6A000 + put d.toNat 2)
  | .ctod d a => some (32, put a.toNat 26 + 0x7A000 + put d.toNat 2)
  | .gtag d a => some (32, put a.toNat 26 + 0xA100 + put d.toNat 2)
  | .gclr d c => some (32, put c.toNat 20 + 0x1A100 + put d.toNat 2)
  | .gmap d f => some (32, put f.toNat 20 + 0x2A100 + put d.toNat 2)
  | .ldb d a imm => some (32, put a.toNat 26 + put (bits imm.toNat 0 10) 16 + 0xA800 + put d.toNat 2 + bits imm.toNat 10 2)
  | .ldbu d a imm => some (32, put a.toNat 26 + put (bits imm.toNat 0 10) 16 + 0xA900 + put d.toNat 2 + bits imm.toNat 10 2)
  | .ldh d a imm => some (32, put a.toNat 26 + put (bits imm.toNat 0 10) 16 + 0xAA00 + put d.toNat 2 + bits imm.toNat 10 2)
  | .ldhu d a imm => some (32, put a.toNat 26 + put (bits imm.toNat 0 10) 16 + 0xAB00 + put d.toNat 2 + bits imm.toNat 10 2)
  | .ldw d a imm => some (32, put a.toNat 26 + put (bits imm.toNat 0 10) 16 + 0xAC00 + put d.toNat 2 + bits imm.toNat 10 2)
  | .ldwu d a imm => some (32, put a.toNat 26 + put (bits imm.toNat 0 10) 16 + 0xAD00 + put d.toNat 2 + bits imm.toNat 10 2)
  | .ldd d a imm => some (32, put a.toNat 26 + put (bits imm.toNat 0 10) 16 + 0xAE00 + put d.toNat 2 + bits imm.toNat 10 2)
  | .ldc d a imm => some (32, put a.toNat 26 + put (bits imm.toNat 0 10) 16 + 0xAF00 + put d.toNat 2 + bits imm.toNat 10 2)
  | .stb d a imm => some (32, put a.toNat 26 + put (bits imm.toNat 0 10) 16 + 0xB000 + put d.toNat 2 + bits imm.toNat 10 2)
  | .sth d a imm => some (32, put a.toNat 26 + put (bits imm.toNat 0 10) 16 + 0xB100 + put d.toNat 2 + bits imm.toNat 10 2)
  | .stw d a imm => some (32, put a.toNat 26 + put (bits imm.toNat 0 10) 16 + 0xB200 + put d.toNat 2 + bits imm.toNat 10 2)
  | .std d a imm => some (32, put a.toNat 26 + put (bits imm.toNat 0 10) 16 + 0xB300 + put d.toNat 2 + bits imm.toNat 10 2)
  | .stc d a imm => some (32, put a.toNat 26 + put (bits imm.toNat 0 10) 16 + 0xB400 + put d.toNat 2 + bits imm.toNat 10 2)
  | .rld d a imm => some (32, put a.toNat 26 + put (bits imm.toNat 0 10) 16 + 0xB500 + put d.toNat 2 + bits imm.toNat 10 2)
  | .ldx d a b s => some (32, put a.toNat 26 + put b.toNat 20 + 0xB600 + put d.toNat 2 + s.toNat)
  | .stx d a b s => some (32, put a.toNat 26 + put b.toNat 20 + 0x1B600 + put d.toNat 2 + s.toNat)
  | .disc a b => some (32, put a.toNat 26 + put b.toNat 20 + 0xB700)
  | .aadd d a b q => some (32, put a.toNat 26 + put b.toNat 20 + 0xB800 + put d.toNat 2 + q.toNat)
  | .aand d a b q => some (32, put a.toNat 26 + put b.toNat 20 + 0x1B800 + put d.toNat 2 + q.toNat)
  | .aor d a b q => some (32, put a.toNat 26 + put b.toNat 20 + 0x2B800 + put d.toNat 2 + q.toNat)
  | .axor d a b q => some (32, put a.toNat 26 + put b.toNat 20 + 0x3B800 + put d.toNat 2 + q.toNat)
  | .amin d a b q => some (32, put a.toNat 26 + put b.toNat 20 + 0x4B800 + put d.toNat 2 + q.toNat)
  | .amax d a b q => some (32, put a.toNat 26 + put b.toNat 20 + 0x5B800 + put d.toNat 2 + q.toNat)
  | .aminu d a b q => some (32, put a.toNat 26 + put b.toNat 20 + 0x6B800 + put d.toNat 2 + q.toNat)
  | .amaxu d a b q => some (32, put a.toNat 26 + put b.toNat 20 + 0x7B800 + put d.toNat 2 + q.toNat)
  | .aswap d a b q => some (32, put a.toNat 26 + put b.toNat 20 + 0x8B800 + put d.toNat 2 + q.toNat)
  | .acas d a b q => some (32, put a.toNat 26 + put b.toNat 20 + 0x9B800 + put d.toNat 2 + q.toNat)
  | .aaddW d a b q => some (32, put a.toNat 26 + put b.toNat 20 + 0xB900 + put d.toNat 2 + q.toNat)
  | .aandW d a b q => some (32, put a.toNat 26 + put b.toNat 20 + 0x1B900 + put d.toNat 2 + q.toNat)
  | .aorW d a b q => some (32, put a.toNat 26 + put b.toNat 20 + 0x2B900 + put d.toNat 2 + q.toNat)
  | .axorW d a b q => some (32, put a.toNat 26 + put b.toNat 20 + 0x3B900 + put d.toNat 2 + q.toNat)
  | .aminW d a b q => some (32, put a.toNat 26 + put b.toNat 20 + 0x4B900 + put d.toNat 2 + q.toNat)
  | .amaxW d a b q => some (32, put a.toNat 26 + put b.toNat 20 + 0x5B900 + put d.toNat 2 + q.toNat)
  | .aminuW d a b q => some (32, put a.toNat 26 + put b.toNat 20 + 0x6B900 + put d.toNat 2 + q.toNat)
  | .amaxuW d a b q => some (32, put a.toNat 26 + put b.toNat 20 + 0x7B900 + put d.toNat 2 + q.toNat)
  | .aswapW d a b q => some (32, put a.toNat 26 + put b.toNat 20 + 0x8B900 + put d.toNat 2 + q.toNat)
  | .acasW d a b q => some (32, put a.toNat 26 + put b.toNat 20 + 0x9B900 + put d.toNat 2 + q.toNat)
  | .radd a b w => some (32, put a.toNat 26 + put b.toNat 20 + 0xBA00 + w.toNat)
  | .rand a b w => some (32, put a.toNat 26 + put b.toNat 20 + 0x1BA00 + w.toNat)
  | .ror a b w => some (32, put a.toNat 26 + put b.toNat 20 + 0x2BA00 + w.toNat)
  | .rxor a b w => some (32, put a.toNat 26 + put b.toNat 20 + 0x3BA00 + w.toNat)
  | .rmin a b w => some (32, put a.toNat 26 + put b.toNat 20 + 0x4BA00 + w.toNat)
  | .rmax a b w => some (32, put a.toNat 26 + put b.toNat 20 + 0x5BA00 + w.toNat)
  | .rminu a b w => some (32, put a.toNat 26 + put b.toNat 20 + 0x6BA00 + w.toNat)
  | .rmaxu a b w => some (32, put a.toNat 26 + put b.toNat 20 + 0x7BA00 + w.toNat)
  | .rfadd a b => some (32, put a.toNat 26 + put b.toNat 20 + 0x8BA00)
  | .lrw d a b => some (32, put a.toNat 26 + put b.toNat 20 + 0xBB00 + put d.toNat 2)
  | .sch d a b => some (32, put a.toNat 26 + put b.toNat 20 + 0x1BB00 + put d.toNat 2)
  | .relq d a => some (32, put a.toNat 26 + 0x2BB00 + put d.toNat 2)
  | .loga d a b => some (32, put a.toNat 26 + put b.toNat 20 + 0xBC00 + put d.toNat 2)
  | .merge a b => some (32, put a.toNat 26 + put b.toNat 20 + 0x1BC00)
  | .fenceAcq s => some (32, 0xBD00 + put s.toNat 2)
  | .fenceRel s => some (32, 0xBD00 + put s.toNat 2 + 0x1)
  | .fenceAr s => some (32, 0xBD00 + put s.toNat 2 + 0x2)
  | .fenceSc s => some (32, 0xBD00 + put s.toNat 2 + 0x3)
  | .waitge a b => some (32, put a.toNat 26 + put b.toNat 20 + 0xBE00)
  | .waitne a b => some (32, put a.toNat 26 + put b.toNat 20 + 0x1BE00)
  | .binit a b => some (32, put a.toNat 26 + put b.toNat 20 + 0xBF00)
  | .barr d a => some (32, put a.toNat 26 + 0x1BF00 + put d.toNat 2)
  | .bwait d a b => some (32, put a.toNat 26 + put b.toNat 20 + 0x2BF00 + put d.toNat 2)
  | .baw d a => some (32, put a.toNat 26 + 0x3BF00 + put d.toNat 2)
  | .bexp a b => some (32, put a.toNat 26 + put b.toNat 20 + 0x4BF00)
  | .bkill a => some (32, put a.toNat 26 + 0x5BF00)
  | .bqry d a => some (32, put a.toNat 26 + 0x6BF00 + put d.toNat 2)
  | .copy a b => some (32, put a.toNat 28 + put b.toNat 20 + 0xC000)
  | .copynb d a b => some (32, put a.toNat 28 + put b.toNat 20 + 0x1C000 + put d.toNat 2)
  | .copyd a b => some (32, put a.toNat 28 + put b.toNat 20 + 0x2C000)
  | .copyc a b => some (32, put a.toNat 28 + put b.toNat 20 + 0x3C000)
  | .twany d a q => some (32, put a.toNat 26 + 0xC100 + put d.toNat 2 + q.toNat)
  | .twall d a q => some (32, put a.toNat 26 + 0x1C100 + put d.toNat 2 + q.toNat)
  | .tff d a q => some (32, put a.toNat 26 + 0x2C100 + put d.toNat 2 + q.toNat)
  | .tclr a => some (32, put a.toNat 26 + 0x3C100)
  | .tget d a => some (32, put a.toNat 26 + 0x4C100 + put d.toNat 2)
  | .send a b u => some (32, put a.toNat 28 + put b.toNat 20 + 0xC200 + u.toNat)
  | .recv d b => some (32, put b.toNat 20 + 0x1C200 + put d.toNat 4)
  | .recvnb d b => some (32, put b.toNat 20 + 0x2C200 + put d.toNat 4)
  | .inq d a => some (32, put a.toNat 26 + 0x3C200 + put d.toNat 2)
  | .migrate a => some (32, put a.toNat 26 + 0xC300)
  | .home => some (32, 0x1C300)
  | .rank d => some (32, 0x2C300 + put d.toNat 2)
  | .portb a b => some (32, put a.toNat 26 + put b.toNat 20 + 0xC400)
  | .portq d a => some (32, put a.toNat 26 + 0x1C400 + put d.toNat 2)
  | .launch d a b => some (32, put a.toNat 26 + put b.toNat 20 + 0xC500 + put d.toNat 2)
  | .texit => some (32, 0x1C500)
  | .tyield => some (32, 0x2C500)
  | .lbnd a => some (32, put a.toNat 26 + 0x3C500)
  | .vadd d a b t k => some (32, put a.toNat 27 + put b.toNat 22 + put k.toNat 16 + 0xD000 + put d.toNat 3 + t.toNat)
  | .vsub d a b t k => some (32, put a.toNat 27 + put b.toNat 22 + 0x40000 + put k.toNat 16 + 0xD000 + put d.toNat 3 + t.toNat)
  | .vmul d a b t k => some (32, put a.toNat 27 + put b.toNat 22 + 0x80000 + put k.toNat 16 + 0xD000 + put d.toNat 3 + t.toNat)
  | .vmin d a b t k => some (32, put a.toNat 27 + put b.toNat 22 + 0xC0000 + put k.toNat 16 + 0xD000 + put d.toNat 3 + t.toNat)
  | .vmax d a b t k => some (32, put a.toNat 27 + put b.toNat 22 + 0x100000 + put k.toNat 16 + 0xD000 + put d.toNat 3 + t.toNat)
  | .vand d a b t k => some (32, put a.toNat 27 + put b.toNat 22 + 0x140000 + put k.toNat 16 + 0xD000 + put d.toNat 3 + t.toNat)
  | .vor d a b t k => some (32, put a.toNat 27 + put b.toNat 22 + 0x180000 + put k.toNat 16 + 0xD000 + put d.toNat 3 + t.toNat)
  | .vxor d a b t k => some (32, put a.toNat 27 + put b.toNat 22 + 0x1C0000 + put k.toNat 16 + 0xD000 + put d.toNat 3 + t.toNat)
  | .vshl d a b t k => some (32, put a.toNat 27 + put b.toNat 22 + 0x200000 + put k.toNat 16 + 0xD000 + put d.toNat 3 + t.toNat)
  | .vshr d a b t k => some (32, put a.toNat 27 + put b.toNat 22 + 0x240000 + put k.toNat 16 + 0xD000 + put d.toNat 3 + t.toNat)
  | .vsar d a b t k => some (32, put a.toNat 27 + put b.toNat 22 + 0x280000 + put k.toNat 16 + 0xD000 + put d.toNat 3 + t.toNat)
  | .vsadd d a b t k => some (32, put a.toNat 27 + put b.toNat 22 + 0x2C0000 + put k.toNat 16 + 0xD000 + put d.toNat 3 + t.toNat)
  | .vssub d a b t k => some (32, put a.toNat 27 + put b.toNat 22 + 0x300000 + put k.toNat 16 + 0xD000 + put d.toNat 3 + t.toNat)
  | .vabs d a t k => some (32, put a.toNat 27 + 0x340000 + put k.toNat 16 + 0xD000 + put d.toNat 3 + t.toNat)
  | .vfadd d a b t k => some (32, put a.toNat 27 + put b.toNat 22 + put k.toNat 16 + 0xD100 + put d.toNat 3 + 0x4 + t.toNat)
  | .vfsub d a b t k => some (32, put a.toNat 27 + put b.toNat 22 + 0x40000 + put k.toNat 16 + 0xD100 + put d.toNat 3 + 0x4 + t.toNat)
  | .vfmul d a b t k => some (32, put a.toNat 27 + put b.toNat 22 + 0x80000 + put k.toNat 16 + 0xD100 + put d.toNat 3 + 0x4 + t.toNat)
  | .vfdiv d a b t k => some (32, put a.toNat 27 + put b.toNat 22 + 0xC0000 + put k.toNat 16 + 0xD100 + put d.toNat 3 + 0x4 + t.toNat)
  | .vfmin d a b t k => some (32, put a.toNat 27 + put b.toNat 22 + 0x100000 + put k.toNat 16 + 0xD100 + put d.toNat 3 + 0x4 + t.toNat)
  | .vfmax d a b t k => some (32, put a.toNat 27 + put b.toNat 22 + 0x140000 + put k.toNat 16 + 0xD100 + put d.toNat 3 + 0x4 + t.toNat)
  | .vfabs d a t k => some (32, put a.toNat 27 + 0x180000 + put k.toNat 16 + 0xD100 + put d.toNat 3 + 0x4 + t.toNat)
  | .vfneg d a t k => some (32, put a.toNat 27 + 0x1C0000 + put k.toNat 16 + 0xD100 + put d.toNat 3 + 0x4 + t.toNat)
  | .vfsqrt d a t k => some (32, put a.toNat 27 + 0x200000 + put k.toNat 16 + 0xD100 + put d.toNat 3 + 0x4 + t.toNat)
  | .vfrcp d a t k => some (32, put a.toNat 27 + 0x240000 + put k.toNat 16 + 0xD100 + put d.toNat 3 + 0x4 + t.toNat)
  | .vfrsq d a t k => some (32, put a.toNat 27 + 0x280000 + put k.toNat 16 + 0xD100 + put d.toNat 3 + 0x4 + t.toNat)
  | .vfexp2 d a t k => some (32, put a.toNat 27 + 0x2C0000 + put k.toNat 16 + 0xD100 + put d.toNat 3 + 0x4 + t.toNat)
  | .vflog2 d a t k => some (32, put a.toNat 27 + 0x300000 + put k.toNat 16 + 0xD100 + put d.toNat 3 + 0x4 + t.toNat)
  | .vfma d a b t k => some (32, put a.toNat 27 + put b.toNat 22 + put k.toNat 16 + 0xD200 + put d.toNat 3 + 0x4 + t.toNat)
  | .vfms d a b t k => some (32, put a.toNat 27 + put b.toNat 22 + 0x40000 + put k.toNat 16 + 0xD200 + put d.toNat 3 + 0x4 + t.toNat)
  | .vfnma d a b t k => some (32, put a.toNat 27 + put b.toNat 22 + 0x80000 + put k.toNat 16 + 0xD200 + put d.toNat 3 + 0x4 + t.toNat)
  | .vdot4 d a b t k => some (32, put a.toNat 27 + put b.toNat 22 + 0xC0000 + put k.toNat 16 + 0xD200 + put d.toNat 3 + put t.toNat 2 + 0x2)
  | .vceq d a b t k => some (32, put a.toNat 27 + put b.toNat 22 + put k.toNat 16 + 0xD300 + put d.toNat 3 + t.toNat)
  | .vcne d a b t k => some (32, put a.toNat 27 + put b.toNat 22 + 0x40000 + put k.toNat 16 + 0xD300 + put d.toNat 3 + t.toNat)
  | .vclt d a b t k => some (32, put a.toNat 27 + put b.toNat 22 + 0x80000 + put k.toNat 16 + 0xD300 + put d.toNat 3 + t.toNat)
  | .vcle d a b t k => some (32, put a.toNat 27 + put b.toNat 22 + 0xC0000 + put k.toNat 16 + 0xD300 + put d.toNat 3 + t.toNat)
  | .vcltu d a b t k => some (32, put a.toNat 27 + put b.toNat 22 + 0x100000 + put k.toNat 16 + 0xD300 + put d.toNat 3 + t.toNat)
  | .vcleu d a b t k => some (32, put a.toNat 27 + put b.toNat 22 + 0x140000 + put k.toNat 16 + 0xD300 + put d.toNat 3 + t.toNat)
  | .vcvt d a r f t k => some (32, put a.toNat 27 + put r.toNat 26 + put f.toNat 22 + put k.toNat 16 + 0xD400 + put d.toNat 3 + t.toNat)
  | .vcvts d a f t k => some (32, put a.toNat 27 + put f.toNat 22 + 0x40000 + put k.toNat 16 + 0xD400 + put d.toNat 3 + 0x4 + t.toNat)
  | .vrsum d a t k => some (32, put a.toNat 27 + put k.toNat 16 + 0xD500 + put d.toNat 3 + t.toNat)
  | .vrmin d a t k => some (32, put a.toNat 27 + 0x40000 + put k.toNat 16 + 0xD500 + put d.toNat 3 + t.toNat)
  | .vrmax d a t k => some (32, put a.toNat 27 + 0x80000 + put k.toNat 16 + 0xD500 + put d.toNat 3 + t.toNat)
  | .vperm d a b t k => some (32, put a.toNat 27 + put b.toNat 22 + put k.toNat 16 + 0xD600 + put d.toNat 3 + t.toNat)
  | .vslide d a sl t => some (32, put a.toNat 27 + put (bits sl.toNat 0 5) 22 + 0x40000 + put (bits sl.toNat 5 2) 16 + 0xD600 + put d.toNat 3 + t.toNat)
  | .vbcast d a t k => some (32, put a.toNat 27 + 0x80000 + put k.toNat 16 + 0xD600 + put d.toNat 3 + t.toNat)
  | .vext d a idx t => some (32, put a.toNat 27 + put (bits idx.toNat 0 5) 22 + 0xC0000 + put (bits idx.toNat 5 2) 16 + 0xD600 + put d.toNat 3 + t.toNat)
  | .vins d a idx t => some (32, put a.toNat 27 + put (bits idx.toNat 0 5) 22 + 0x100000 + put (bits idx.toNat 5 2) 16 + 0xD600 + put d.toNat 3 + t.toNat)
  | .vrot d a sl t => some (32, put a.toNat 27 + put (bits sl.toNat 0 5) 22 + 0x140000 + put (bits sl.toNat 5 2) 16 + 0xD600 + put d.toNat 3 + t.toNat)
  | .vld d a i t k => some (32, put a.toNat 27 + put i.toNat 22 + put k.toNat 16 + 0xD700 + put d.toNat 3 + t.toNat)
  | .vst d a i t k => some (32, put a.toNat 27 + put i.toNat 22 + 0x40000 + put k.toNat 16 + 0xD700 + put d.toNat 3 + t.toNat)
  | .vlds d a b t k => some (32, put a.toNat 27 + put b.toNat 22 + 0x80000 + put k.toNat 16 + 0xD700 + put d.toNat 3 + t.toNat)
  | .vsts d a b t k => some (32, put a.toNat 27 + put b.toNat 22 + 0xC0000 + put k.toNat 16 + 0xD700 + put d.toNat 3 + t.toNat)
  | .vgath d a b t k => some (32, put a.toNat 27 + put b.toNat 22 + 0x100000 + put k.toNat 16 + 0xD700 + put d.toNat 3 + t.toNat)
  | .vscat d a b t k => some (32, put a.toNat 27 + put b.toNat 22 + 0x140000 + put k.toNat 16 + 0xD700 + put d.toNat 3 + t.toNat)
  | .vunpk3 d a s t k => some (32, put a.toNat 27 + put s.toNat 22 + put k.toNat 16 + 0xD800 + put d.toNat 3 + t.toNat)
  | .vtacc d a b k => some (32, put a.toNat 27 + put b.toNat 22 + 0x40000 + put k.toNat 16 + 0xD800 + put d.toNat 3 + 0x2)
  | .vsel d a b t k => some (32, put a.toNat 27 + put b.toNat 22 + put k.toNat 16 + 0xD900 + put d.toNat 3 + t.toNat)
  | .kand d a b => some (32, put a.toNat 27 + put b.toNat 22 + 0x4D900 + put d.toNat 3)
  | .kor d a b => some (32, put a.toNat 27 + put b.toNat 22 + 0x8D900 + put d.toNat 3)
  | .kxor d a b => some (32, put a.toNat 27 + put b.toNat 22 + 0xCD900 + put d.toNat 3)
  | .knot d a => some (32, put a.toNat 27 + 0x10D900 + put d.toNat 3)
  | .kpop d a t => some (32, put a.toNat 27 + 0x14D900 + put d.toNat 3 + t.toNat)
  | .mma d a b => some (32, put a.toNat 26 + put b.toNat 20 + 0xE000 + put d.toNat 2)
  | .mzero d f => some (32, 0x1E000 + put d.toNat 2 + f.toNat)
  | .mld d a f => some (32, put a.toNat 26 + 0x2E000 + put d.toNat 2 + f.toNat)
  | .mst d a e => some (32, put a.toNat 26 + put e.toNat 20 + 0x3E000 + put d.toNat 2)
  | .msave d a => some (32, put a.toNat 26 + 0x4E000 + put d.toNat 2)
  | .mrst a b => some (32, put a.toNat 26 + put b.toNat 20 + 0x5E000)
  | .gang d => some (32, 0x6E000 + put d.toNat 2)
  | .mpf a => some (32, put a.toNat 26 + 0x7E000)
  | .smax d a b => some (32, put a.toNat 26 + put b.toNat 20 + 0xE800 + put d.toNat 2)
  | .smass d a b => some (32, put a.toNat 26 + put b.toNat 20 + 0x1E800 + put d.toNat 2)
  | .sdraw d b => some (32, put b.toNat 20 + 0x2E800 + put d.toNat 2)
  | .sloc d a b => some (32, put a.toNat 26 + put b.toNat 20 + 0x3E800 + put d.toNat 2)
  | .grmask d a b => some (32, put a.toNat 26 + put b.toNat 20 + 0x4E800 + put d.toNat 2)
  | .grstep d a b => some (32, put a.toNat 26 + put b.toNat 20 + 0x5E800 + put d.toNat 2)
  | .tap d a b => some (32, put a.toNat 26 + put b.toNat 20 + 0x6E800 + put d.toNat 2)
  | .tsteer a b => some (32, put a.toNat 26 + put b.toNat 20 + 0x7E800)
  | .trap a => some (32, put a.toNat 26 + 0xF000)
  | .eret a => some (32, put a.toNat 28 + 0x1F000)
  | .srr d r => some (32, put r.toNat 20 + 0x2F000 + put d.toNat 2)
  | .srw d r => some (32, put r.toNat 20 + 0x3F000 + put d.toNat 2)
  | .srx d r => some (32, put r.toNat 20 + 0x4F000 + put d.toNat 2)
  | .oxw a n => some (32, put a.toNat 26 + 0x5F000 + put n.toNat 2)
  | .sleep a => some (32, put a.toNat 26 + 0x6F000)
  | .time d => some (32, 0x7F000 + put d.toNat 2)
  | .rqpush d a => some (32, put a.toNat 28 + 0x8F000 + put d.toNat 2)
  | .rqpop d => some (32, 0x9F000 + put d.toNat 4)
  | .rqpeek d => some (32, 0xAF000 + put d.toNat 2)
  | .gsave a b => some (32, put a.toNat 26 + put b.toNat 20 + 0xBF000)
  | .grst a b => some (32, put a.toNat 26 + put b.toNat 20 + 0xCF000)
  | .ifence s => some (32, 0xDF000 + put s.toNat 2)
  | .tlbi a b f => some (32, put a.toNat 26 + put b.toNat 20 + 0xEF000 + put f.toNat 2)
  | .brk n => some (32, put n.toNat 20 + 0xFF000)
  | .silt a b => some (32, put a.toNat 26 + put b.toNat 20 + 0xF100)
  | .lease d a => some (32, put a.toNat 26 + 0x1F100 + put d.toNat 2)
  | .cMov d a => some (16, 0x400 + put d.toNat 5 + a.toNat)
  | .cAdd d a => some (16, 0x800 + put d.toNat 5 + a.toNat)
  | .cSub d a => some (16, 0xC00 + put d.toNat 5 + a.toNat)
  | .cAnd d a => some (16, 0x1000 + put d.toNat 5 + a.toNat)
  | .cOr d a => some (16, 0x1400 + put d.toNat 5 + a.toNat)
  | .cXor d a => some (16, 0x1800 + put d.toNat 5 + a.toNat)
  | .cAddi d i => some (16, 0x1C00 + put d.toNat 5 + i.toNat)
  | .cLi d i => some (16, 0x2000 + put d.toNat 5 + i.toNat)
  | .cShli d i => some (16, 0x2400 + put d.toNat 5 + i.toNat)
  | .cShri d i => some (16, 0x2800 + put d.toNat 5 + i.toNat)
  | .cSari d i => some (16, 0x2C00 + put d.toNat 5 + i.toNat)
  | .cLdd d i => some (16, 0x3000 + put d.toNat 5 + i.toNat)
  | .cStd d i => some (16, 0x3400 + put d.toNat 5 + i.toNat)
  | .cLdw d i => some (16, 0x3800 + put d.toNat 5 + i.toNat)
  | .cStw d i => some (16, 0x3C00 + put d.toNat 5 + i.toNat)
  | .cBeqz d off => some (16, 0x4000 + put d.toNat 5 + off.toNat)
  | .cBnez d off => some (16, 0x4400 + put d.toNat 5 + off.toNat)
  | .cJ off => some (16, 0x4800 + off.toNat)
  | .cJr d => some (16, 0x4C00 + put d.toNat 5)
  | .cRet => some (16, 0x5000)
  | .cRecv d => some (16, 0x5400 + put d.toNat 7)
  | .cTff d a => some (16, 0x5800 + put d.toNat 5 + a.toNat)
  | .cTwany d a => some (16, 0x5C00 + put d.toNat 5 + a.toNat)
  | .cGclr d c => some (16, 0x6000 + put d.toNat 5 + c.toNat)
  | .ctxidWrite _ _ => none
  | .rankWrite _ _ => none
  | .inqstatWrite _ _ => none
  | .ovfbaseWrite _ _ => none
  | .tvecWrite _ _ => none
  | .tapenWrite _ _ => none
  | .tapinvWrite _ _ => none
  | .repeatWrite _ => none
  | .mspillWrite _ _ _ => none
  | .prioWrite _ _ _ => none
  | .geomWrite _ _ _ => none
  | .tagsWrite _ _ => none
  | .rqstatRecall _ => none
  | .rqstatEvict _ => none
  | .registerWrite _ _ _ _ => none
  | .kslotLoad _ => none
  | .kslotRetire _ => none
  | .kslotTagclr => none
  | .kslotPurge _ => none
  | .kslotDone => none
  | .l2colGo _ => none
  | .columnFold _ => none
  | .columnUnfold _ => none
  | .homeFill _ _ _ _ => none
  | .homeRegistration _ _ _ _ _ => none
  | .ownershipRevoke _ _ _ => none
  | .homeWriteback _ _ => none
  | .homeAmo _ _ _ _ _ _ _ _ _ => none
  | .homeRed _ _ _ _ _ _ _ _ => none
  | .homeLoga _ _ _ _ _ _ _ _ _ _ _ _ => none
  | .homeLrw _ _ _ _ _ _ => none
  | .homeSch _ _ _ _ _ _ _ => none
  | .homeBarrier _ _ _ _ _ _ _ => none
  | .homeWaitRegister _ _ _ _ _ _ _ => none
  | .waitValue _ _ _ => none
  | .homeDisc _ _ _ _ => none
  | .tlbWalk _ _ => none
  | .memoryError _ _ _ _ _ _ => none
  | .nmsgArrive _ _ => none
  | .umsgArrive _ _ => none
  | .gportArrive _ _ => none
  | .vportArrive _ _ => none
  | .portOutboundSend _ _ => none
  | .rwreqArrive _ _ => none
  | .rwrspArrive _ _ => none
  | .rwreqRetry _ _ => none
  | .dackArrive _ _ => none
  | .gangbArrive _ _ => none
  | .migDepart _ _ _ => none
  | .migArrive _ _ => none
  | .migResume _ _ => none
  | .migRetry _ => none
  | .evictArrive _ _ => none
  | .tlbiArrive _ _ => none
  | .tlbiComplete _ => none
  | .ifenceComplete _ _ => none
  | .copyStart _ => none
  | .copyComplete _ _ => none
  | .mergePass _ _ => none
  | .mergeComplete _ _ => none
  | .engineSpill _ => none
  | .engineReload _ => none
  | .timerExpire _ _ => none
  | .trapEntry _ => none
  | .machineEntry _ _ => none
  | .coreStart _ => none
  | .dispatchSlot _ => none
  | .dependencyDecrement _ => none
  | .launchSweep _ => none
  | .launchEnd _ _ => none
  | .occupancyWindow _ => none
  | .poolRebind _ => none
  | .groupQuiesce _ => none
  | .groupDrain _ => none
  | .groupResume _ => none
  | .gretSaveRetain _ => none
  | .gretSaveImage _ => none
  | .gretSaveRestore _ => none
  | .gretSaveDone => none
  | .gclkGateWrite _ => none
  | .grailCtlWrite _ => none
  | .railOk _ => none
  | .wakeGmask _ _ => none
  | .wakeTon _ => none
  | .wakeSrcRead => none
  | .wakeArmWrite _ => none
  | .cascadeFire _ => none
  | .groupWake _ => none
  | .torrentBringUp => none
  | .torrentLeaveOn => none
  | .dramSelfRefreshEnter => none
  | .dramSelfRefreshExit => none
  | .rillCoreRet _ => none
  | .rillCoreWake _ => none
  | .leaseExpire _ _ => none
  | .portageGo _ => none
  | .portageAbort => none
  | .portageTransit => none
  | .portageCopy => none
  | .portageRelease => none
  | .siltFreeze => none
  | .siltResume => none
  | .siltRelease => none
  | .freezeArrive _ => none
  | .siltStop _ => none
  | .capsuleBuild => none
  | .capsuleRead _ _ => none
  | .capsuleRelease => none
  | .queueBase _ _ => none
  | .keyBind _ => none
  | .windowSet _ _ => none
  | .mailboxBadCommand _ => none
  | .hostSubmission => none
  | .hostSubmissionRetry => none
  | .hostRead _ _ => none
  | .hostWrite _ _ _ => none
  | .getVersion => none
  | .getCapabilities => none
  | .negotiateAlgorithms => none
  | .getDigests => none
  | .getCertificate => none
  | .challenge => none
  | .getMeasurements => none
  | .keyExchange => none
  | .finish => none
  | .heartbeat => none
  | .endSession => none
  | .linkDown _ => none
  | .coldReset => none
  | .warmReset => none
  | .sleepDeadline _ _ => none
  | .mrspArrive _ _ => none
  | .mmaComplete _ => none
  | .thermalLimit _ _ => none
  | .powerOverBudget _ _ => none
  | .rutuquaPairing _ => none
  | .tdispMessage _ => none

end

end Sys2Proof
end

