-- ==== Sys2Proof/Machine/Crypto.lean ====
section
/-! DEFINITION. The algorithms that the spec names: SHA-256, HMAC, HKDF (R470, R471), AES-256 with its GCM mode (R472) and its XTS
mode (R49). -/

namespace Sys2Proof.Machine

/-! ## SHA-256, HMAC, HKDF -/

/-- The round constants of SHA-256. -/
def shaK : List (BitVec 32) :=
  [0x428a2f98, 0x71374491, 0xb5c0fbcf, 0xe9b5dba5, 0x3956c25b, 0x59f111f1, 0x923f82a4, 0xab1c5ed5] ++
  [0xd807aa98, 0x12835b01, 0x243185be, 0x550c7dc3, 0x72be5d74, 0x80deb1fe, 0x9bdc06a7, 0xc19bf174] ++
  [0xe49b69c1, 0xefbe4786, 0x0fc19dc6, 0x240ca1cc, 0x2de92c6f, 0x4a7484aa, 0x5cb0a9dc, 0x76f988da] ++
  [0x983e5152, 0xa831c66d, 0xb00327c8, 0xbf597fc7, 0xc6e00bf3, 0xd5a79147, 0x06ca6351, 0x14292967] ++
  [0x27b70a85, 0x2e1b2138, 0x4d2c6dfc, 0x53380d13, 0x650a7354, 0x766a0abb, 0x81c2c92e, 0x92722c85] ++
  [0xa2bfe8a1, 0xa81a664b, 0xc24b8b70, 0xc76c51a3, 0xd192e819, 0xd6990624, 0xf40e3585, 0x106aa070] ++
  [0x19a4c116, 0x1e376c08, 0x2748774c, 0x34b0bcb5, 0x391c0cb3, 0x4ed8aa4a, 0x5b9cca4f, 0x682e6ff3] ++
  [0x748f82ee, 0x78a5636f, 0x84c87814, 0x8cc70208, 0x90befffa, 0xa4506ceb, 0xbef9a3f7, 0xc67178f2]

/-- The initial hash value of SHA-256. -/
def shaH : List (BitVec 32) := [0x6a09e667, 0xbb67ae85, 0x3c6ef372, 0xa54ff53a, 0x510e527f, 0x9b05688c, 0x1f83d9ab, 0x5be0cd19]


def bytesBE (n x : Nat) : List Byte := (natToBytes n x).reverse

def beNat (l : List Byte) : Nat := bytesToNat l.reverse

/-- The next word of the message schedule, from the last 16 words. -/
def shaNext (w : List (BitVec 32)) : BitVec 32 :=
  let a := w.getD 1 0
  let b := w.getD 14 0
  (b.rotateRight 17 ^^^ b.rotateRight 19 ^^^ (b >>> 10)) + w.getD 9 0 +
    (a.rotateRight 7 ^^^ a.rotateRight 18 ^^^ (a >>> 3)) + w.getD 0 0

/-- The rounds of SHA-256 on the working variables, with the last 16 words of the schedule. -/
def shaRounds : List (BitVec 32) → List (BitVec 32) → List (BitVec 32) → List (BitVec 32)
  | [], _, v => v
  | k :: ks, w, v =>
    let g (i : Nat) := v.getD i 0
    let t1 := g 7 + ((g 4).rotateRight 6 ^^^ (g 4).rotateRight 11 ^^^ (g 4).rotateRight 25) +
      ((g 4 &&& g 5) ^^^ (~~~(g 4) &&& g 6)) + k + w.getD 0 0
    let t2 := ((g 0).rotateRight 2 ^^^ (g 0).rotateRight 13 ^^^ (g 0).rotateRight 22) +
      ((g 0 &&& g 1) ^^^ (g 0 &&& g 2) ^^^ (g 1 &&& g 2))
    shaRounds ks (w.tail ++ [shaNext w]) [t1 + t2, g 0, g 1, g 2, g 3 + t1, g 4, g 5, g 6]

def shaBlock (h : List (BitVec 32)) (b : List Byte) : List (BitVec 32) :=
  let w := (List.range 16).map fun i => BitVec.ofNat 32 (beNat ((b.drop (4 * i)).take 4))
  List.zipWith (· + ·) h (shaRounds shaK w h)

/-- Folds the blocks of a padded message; `n` bounds their number. -/
def shaBlocks (h : List (BitVec 32)) (m : List Byte) : Nat → List (BitVec 32)
  | 0 => h
  | n + 1 => shaBlocks (shaBlock h (m.take 64)) (m.drop 64) n

def sha256 (m : List Byte) : List Byte :=
  let z := (119 - m.length % 64) % 64
  let p := m ++ [0x80] ++ List.replicate z 0 ++ bytesBE 8 (8 * m.length)
  (shaBlocks shaH p (p.length / 64)).flatMap fun w => bytesBE 4 w.toNat

def hmac (key m : List Byte) : List Byte :=
  let k := if 64 < key.length then sha256 key else key
  let k64 := k ++ List.replicate (64 - k.length) 0
  sha256 (k64.map (· ^^^ 0x5C) ++ sha256 (k64.map (· ^^^ 0x36) ++ m))

/-- HKDF with SHA-256, 32 bytes of output (R471). -/
def hkdf32 (salt ikm info : List Byte) : List Byte := hmac (hmac salt ikm) (info ++ [1])

/-! ## AES-256 -/

/-- x times 2 in the field of AES. -/
def aesDouble (x : Nat) : Nat := if x < 128 then 2 * x else (2 * x) ^^^ 0x11B

/-- Multiplication in the field of AES, over the low `n` bits of `y`. -/
def aesMul (x y : Nat) : Nat → Nat
  | 0 => 0
  | n + 1 => (if y % 2 = 1 then x else 0) ^^^ aesMul (aesDouble x) (y / 2) n

def gf (x y : Nat) : Nat := aesMul x y 8

/-- The inverse x^254, 0 for 0. -/
def aesInv (x : Nat) : Nat :=
  let x2 := gf x x
  let x4 := gf x2 x2
  let x8 := gf x4 x4
  let x16 := gf x8 x8
  let x32 := gf x16 x16
  let x64 := gf x32 x32
  gf x2 (gf x4 (gf x8 (gf x16 (gf x32 (gf x64 (gf x64 x64))))))

def rotl8 (x k : Nat) : Nat := (x * 2 ^ k ||| x / 2 ^ (8 - k)) % 256

/-- The S-box of AES. -/
def aesSub (x : Nat) : Nat :=
  let b := aesInv x
  b ^^^ rotl8 b 1 ^^^ rotl8 b 2 ^^^ rotl8 b 3 ^^^ rotl8 b 4 ^^^ 0x63

def xorL (a b : List Nat) : List Nat := List.zipWith (· ^^^ ·) a b

/-- The key schedule of AES-256: `left` more words after those of `ws`, the newest first. -/
def aesWords (rc : Nat) (ws : List (List Nat)) : Nat → List (List Nat)
  | 0 => ws
  | left + 1 =>
    let i := ws.length
    let p := ws.getD 0 []
    let t :=
      if i % 8 = 0 then xorL ((p.tail ++ p.take 1).map aesSub) [rc, 0, 0, 0]
      else if i % 8 = 4 then p.map aesSub else p
    aesWords (if i % 8 = 0 then aesDouble rc else rc) (xorL (ws.getD 7 []) t :: ws) left

/-- The 15 round keys of a 32-byte key. -/
def aesKeys (key : List Byte) : List (List Nat) :=
  let w0 := (List.range 8).map fun i => ((key.drop (4 * i)).take 4).map (·.toNat)
  let ws := (aesWords 1 w0.reverse 52).reverse
  (List.range 15).map fun r => ((ws.drop (4 * r)).take 4).flatten

def aesShift (b : List Nat) : List Nat := (List.range 16).map fun i => b.getD ((i + 4 * (i % 4)) % 16) 0

def aesMixCol (c : List Nat) : List Nat :=
  (List.range 4).map fun i =>
    gf (c.getD i 0) 2 ^^^ gf (c.getD ((i + 1) % 4) 0) 3 ^^^ c.getD ((i + 2) % 4) 0 ^^^ c.getD ((i + 3) % 4) 0

def aesMix (b : List Nat) : List Nat := (List.range 4).flatMap fun i => aesMixCol ((b.drop (4 * i)).take 4)

def aesRounds (b : List Nat) : List (List Nat) → List Nat
  | [] => b
  | [k] => xorL (aesShift (b.map aesSub)) k
  | k :: ks => aesRounds (xorL (aesMix (aesShift (b.map aesSub))) k) ks

/-- AES-256 of a 16-byte block under its round keys. -/
def aesBlock (ks : List (List Nat)) (b : List Byte) : List Byte :=
  match ks with
  | [] => b
  | k :: r => (aesRounds (xorL (b.map (·.toNat)) k) r).map (BitVec.ofNat 8)

/-! ## The inverse cipher -/

/-- The inverse S-box. -/
def aesUnsub (x : Nat) : Nat := aesInv (rotl8 x 1 ^^^ rotl8 x 3 ^^^ rotl8 x 6 ^^^ 0x05)

def aesUnshift (b : List Nat) : List Nat := (List.range 16).map fun i => b.getD ((i + 12 * (i % 4)) % 16) 0

def aesUnmixCol (c : List Nat) : List Nat :=
  (List.range 4).map fun i =>
    gf (c.getD i 0) 14 ^^^ gf (c.getD ((i + 1) % 4) 0) 11 ^^^ gf (c.getD ((i + 2) % 4) 0) 13 ^^^ gf (c.getD ((i + 3) % 4) 0) 9

def aesUnmix (b : List Nat) : List Nat := (List.range 4).flatMap fun i => aesUnmixCol ((b.drop (4 * i)).take 4)

/-- The rounds backwards, over the round keys from the last but one to the first. -/
def aesUnrounds (b : List Nat) : List (List Nat) → List Nat
  | [] => b
  | [k] => xorL ((aesUnshift b).map aesUnsub) k
  | k :: ks => aesUnrounds (aesUnmix (xorL ((aesUnshift b).map aesUnsub) k)) ks

/-- The inverse of AES-256 on a 16-byte block under its round keys. -/
def aesUnblock (ks : List (List Nat)) (b : List Byte) : List Byte :=
  match ks.reverse with
  | [] => b
  | k :: r => (aesUnrounds (xorL (b.map (·.toNat)) k) r).map (BitVec.ofNat 8)

/-! ## XTS -/

/-- x times α in the field of XTS, whose numbers are little-endian. -/
def xtsDouble (x : Nat) : Nat := if x < 2 ^ 127 then 2 * x else (2 * x - 2 ^ 128) ^^^ 0x87

/-- The mask of block `j` of the data unit with tweak `t`, under the second key. -/
def xtsMask (key2 : List Byte) (t : Nat) : Nat → Nat
  | 0 => bytesToNat (aesBlock (aesKeys key2) (natToBytes 16 t))
  | j + 1 => xtsDouble (xtsMask key2 t j)

/-- AES-256-XTS on block `j` of the data unit with tweak `t`, with a cipher on blocks: both directions (R49). -/
def xtsBlock (cipher : List (List Nat) → List Byte → List Byte) (key : BitVec 512) (t j x : Nat) : Nat :=
  let k := natToBytes 64 key.toNat
  let m := xtsMask (k.drop 32) t j
  bytesToNat (cipher (aesKeys (k.take 32)) (natToBytes 16 (x ^^^ m))) ^^^ m

/-! ## GCM -/

/-- Multiplication in the field of GCM; `i` bits of `x` remain. -/
def ghashMul (x v z : Nat) : Nat → Nat
  | 0 => z
  | i + 1 =>
    ghashMul x (if v % 2 = 1 then v / 2 ^^^ 0xE1 * 2 ^ 120 else v / 2) (if x.testBit i then z ^^^ v else z) i

/-- GHASH over the 16-byte blocks of a padded text. -/
def ghash (h y : Nat) (t : List Byte) : Nat → Nat
  | 0 => y
  | n + 1 => ghash h (ghashMul (y ^^^ beNat (t.take 16)) h 0 128) (t.drop 16) n

def pad16 (l : List Byte) : List Byte := l ++ List.replicate ((16 - l.length % 16) % 16) 0

/-- The key stream of the blocks that follow counter `c`. -/
def gcmStream (ks : List (List Nat)) (iv : List Byte) (c : Nat) : Nat → List Byte
  | 0 => []
  | n + 1 => aesBlock ks (iv ++ bytesBE 4 (c + 1)) ++ gcmStream ks iv (c + 1) n

/-- AES-256-GCM with a 96-bit IV: the text under the key stream, and the tag of a ciphertext. -/
def gcmText (key iv t : List Byte) : List Byte :=
  List.zipWith (· ^^^ ·) t (gcmStream (aesKeys key) iv 1 (t.length / 16 + 1))

def gcmTag (key iv aad ct : List Byte) : List Byte :=
  let ks := aesKeys key
  let h := beNat (aesBlock ks (List.replicate 16 0))
  let t := pad16 aad ++ pad16 ct ++ bytesBE 8 (8 * aad.length) ++ bytesBE 8 (8 * ct.length)
  bytesBE 16 (ghash h 0 t (t.length / 16) ^^^ beNat (aesBlock ks (iv ++ [0, 0, 0, 1])))

end Sys2Proof.Machine
end

