-- ==== Sys2Proof/Machine/Fp.lean ====
section
/-! DEFINITION. The number formats and their exact arithmetic (R225 to R248): every operation takes the exact result and
rounds it once; results come with the flags of R238. -/

namespace Sys2Proof.Machine

/-! ## Formats (R225) -/

/-- A floating-point format: exponent and mantissa bits, whether it has infinities (R225), the encoding of its largest
finite magnitude, and its canonical NaN (R226; FP4 has none and gives +0, R236). -/
structure Fmt where
  exp : Nat
  man : Nat
  inf : Bool
  top : Nat
  nan : Nat
  deriving DecidableEq, Repr

def fp32 : Fmt := ⟨8, 23, true, 0x7F7FFFFF, 0x7FC00000⟩
def fp16 : Fmt := ⟨5, 10, true, 0x7BFF, 0x7E00⟩
def bf16 : Fmt := ⟨8, 7, true, 0x7F7F, 0x7FC0⟩
def e5m2 : Fmt := ⟨5, 2, true, 0x7B, 0x7E⟩
def e4m3 : Fmt := ⟨4, 3, false, 0x7E, 0x7F⟩
def fp4 : Fmt := ⟨2, 1, false, 7, 0⟩

/-- Position of the sign bit. -/
def Fmt.signBit (f : Fmt) : Nat := f.exp + f.man

def Fmt.bits (f : Fmt) : Nat := f.exp + f.man + 1

def Fmt.bias (f : Fmt) : Int := 2 ^ (f.exp - 1) - 1

/-- Exponent of the smallest subnormal. -/
def Fmt.qmin (f : Fmt) : Int := 1 - f.bias - f.man

/-- The sign in its place. -/
def Fmt.sign (f : Fmt) (neg : Bool) : Nat := if neg then 2 ^ f.signBit else 0

/-- A value: a NaN (signalling or not), an infinity, or (-1)^neg * m * 2^e. -/
inductive FpV
  | nan (sig : Bool)
  | inf (neg : Bool)
  | fin (neg : Bool) (m : Nat) (e : Int)
  deriving DecidableEq, Repr

/-- The value an encoding stands for (R225, R226). -/
def Fmt.decode (f : Fmt) (x : Nat) : FpV :=
  let neg := x.testBit f.signBit
  let m := x % 2 ^ f.man
  let e := x / 2 ^ f.man % 2 ^ f.exp
  if e = 2 ^ f.exp - 1 && f.inf then
    (if m = 0 then .inf neg else .nan (!m.testBit (f.man - 1)))
  else if x % 2 ^ f.signBit = 0x7F && f = e4m3 then .nan false
  else if e = 0 then .fin neg m f.qmin
  else .fin neg (2 ^ f.man + m) (f.qmin + e - 1)

/-! ## Flags (R238), as the bits of VSTAT -/

def flNX : Nat := 1
def flUF : Nat := 2
def flOF : Nat := 4
def flDZ : Nat := 8
def flIV : Nat := 16
def flSAT : Nat := 32
def flTIL : Nat := 64
def flNANL : Nat := 128

/-- IV when the condition holds. -/
def ivIf (b : Bool) : Nat := if b then flIV else 0

/-! ## Rounding (R234) -/

/-- Rounding modes of R233. -/
def rmRNE : Nat := 0
def rmRTZ : Nat := 1
def rmRDN : Nat := 2
def rmRUP : Nat := 3

/-- m * 2^e, plus something below 2^e when `sticky`, rounded to a multiple of 2^q: the multiple, and whether it differs. -/
def roundAt (rm : Nat) (neg : Bool) (m : Nat) (e : Int) (sticky : Bool) (q : Int) : Nat × Bool :=
  if q ≤ e then (m * 2 ^ (e - q).toNat, sticky)
  else
    let d := (q - e).toNat
    let k := m / 2 ^ d
    let r := m % 2 ^ d
    let h := 2 ^ (d - 1)
    let nx := r ≠ 0 || sticky
    let up :=
      match rm with
      | 0 => h < r || (r = h && (sticky || k % 2 = 1))
      | 1 => false
      | 2 => neg && nx
      | _ => !neg && nx
    (if up then k + 1 else k, nx)

/-- The result of an overflow (R234, R236). -/
def Fmt.overflow (f : Fmt) (rm : Nat) (neg : Bool) : Nat :=
  let toInf := f.inf && (rm = rmRNE || (rm = rmRDN && neg) || (rm = rmRUP && !neg))
  f.sign neg + (if toInf then f.top + 1 else f.top)

/-- A nonzero exact magnitude rounded once to a format, with its flags (R234 to R236, R238). -/
def Fmt.round (f : Fmt) (rm : Nat) (neg : Bool) (m : Nat) (e : Int) (sticky : Bool) : Nat × Nat :=
  let q0 := e + m.log2 - f.man
  let q := if q0 < f.qmin then f.qmin else q0
  let (k, nx) := roundAt rm neg m e sticky q
  let b := (q - f.qmin).toNat * 2 ^ f.man + k
  if f.top < b then (f.overflow rm neg, flOF + flNX)
  else
    let (k0, _) := roundAt rm neg m e sticky q0
    let tiny := decide (q0 < f.qmin) && (k0 * 2 ^ (q0 - f.qmin + f.man).toNat < 2 ^ (f.man + f.man) || q0 - f.qmin + f.man < 0)
    (f.sign neg + b, if nx then (if tiny then flNX + flUF else flNX) else 0)

/-- The same for any exact value, zero with its sign included. -/
def Fmt.encode (f : Fmt) (rm : Nat) (neg : Bool) (m : Nat) (e : Int) (sticky : Bool) : Nat × Nat :=
  if m = 0 then (f.sign neg, 0) else f.round rm neg m e sticky

def Fmt.infinity (f : Fmt) (neg : Bool) : Nat := f.sign neg + f.top + 1

/-- A NaN result: IV when the condition holds, and always for FP4 (R236, R239). -/
def Fmt.nanOut (f : Fmt) (iv : Bool) : Nat × Nat := (f.nan, ivIf (iv || f = fp4))

def FpV.isNan : FpV → Bool
  | .nan _ => true
  | _ => false

def FpV.sNan : FpV → Bool
  | .nan s => s
  | _ => false

def FpV.negate : FpV → FpV
  | .nan s => .nan s
  | .inf n => .inf (!n)
  | .fin n m e => .fin (!n) m e

/-! ## Exact dyadic numbers -/

/-- n * 2^e. -/
structure Dy where
  n : Int
  e : Int
  deriving DecidableEq, Repr

def Dy.zero : Dy := ⟨0, 0⟩

def Dy.of (neg : Bool) (m : Nat) (e : Int) : Dy := ⟨if neg then -(m : Int) else m, e⟩

def Dy.add (a b : Dy) : Dy :=
  if a.n = 0 then b else if b.n = 0 then a
  else if a.e ≤ b.e then ⟨a.n + b.n * 2 ^ (b.e - a.e).toNat, a.e⟩ else ⟨a.n * 2 ^ (a.e - b.e).toNat + b.n, b.e⟩

def Dy.mul (a b : Dy) : Dy := ⟨a.n * b.n, a.e + b.e⟩

/-- An exact sum rounded, where a zero sum takes the sign `z`. -/
def Fmt.ofDy (f : Fmt) (rm : Nat) (d : Dy) (z : Bool) : Nat × Nat :=
  f.encode rm (if d.n = 0 then z else d.n < 0) d.n.natAbs d.e false

/-- The sign of an exact zero sum of values with these signs (R234). -/
def zeroSign (rm : Nat) (a b : Bool) : Bool := if a = b then a else rm = rmRDN

/-! ## Operations (R234, R239 to R242) -/

/-- x + y. -/
def fpAddV (f : Fmt) (rm : Nat) (x y : FpV) : Nat × Nat :=
  match x, y with
  | .nan s, y => f.nanOut (s || y.sNan)
  | x, .nan s => f.nanOut (s || x.sNan)
  | .inf a, .inf b => if a = b then (f.infinity a, 0) else f.nanOut true
  | .inf a, .fin _ _ _ => (f.infinity a, 0)
  | .fin _ _ _, .inf b => (f.infinity b, 0)
  | .fin a m e, .fin b n k => f.ofDy rm ((Dy.of a m e).add (Dy.of b n k)) (zeroSign rm a b)

def fpAdd (f : Fmt) (rm : Nat) (x y : Nat) : Nat × Nat := fpAddV f rm (f.decode x) (f.decode y)
def fpSub (f : Fmt) (rm : Nat) (x y : Nat) : Nat × Nat := fpAddV f rm (f.decode x) (f.decode y).negate

def fpMul (f : Fmt) (rm : Nat) (x y : Nat) : Nat × Nat :=
  match f.decode x, f.decode y with
  | .nan s, y => f.nanOut (s || y.sNan)
  | x, .nan s => f.nanOut (s || x.sNan)
  | .inf a, .inf b => (f.infinity (a != b), 0)
  | .inf a, .fin b m _ => if m = 0 then f.nanOut true else (f.infinity (a != b), 0)
  | .fin a m _, .inf b => if m = 0 then f.nanOut true else (f.infinity (a != b), 0)
  | .fin a m e, .fin b n k => f.encode rm (a != b) (m * n) (e + k) false

/-- x * y + z with one rounding; 0 times an infinity sets IV whatever z is (R239). -/
def fpFmaV (f : Fmt) (rm : Nat) (x y z : FpV) : Nat × Nat :=
  match x, y with
  | .nan s, y => f.nanOut (s || y.sNan || z.sNan)
  | x, .nan s => f.nanOut (s || x.sNan || z.sNan)
  | .inf a, .inf b => fpAddV f rm (.inf (a != b)) z
  | .inf a, .fin b m _ => if m = 0 then f.nanOut true else fpAddV f rm (.inf (a != b)) z
  | .fin a m _, .inf b => if m = 0 then f.nanOut true else fpAddV f rm (.inf (a != b)) z
  | .fin a m e, .fin b n k => fpAddV f rm (.fin (a != b) (m * n) (e + k)) z

def fpFma (f : Fmt) (rm : Nat) (x y z : Nat) : Nat × Nat := fpFmaV f rm (f.decode x) (f.decode y) (f.decode z)
/-- x * y - z. -/
def fpFms (f : Fmt) (rm : Nat) (x y z : Nat) : Nat × Nat := fpFmaV f rm (f.decode x) (f.decode y) (f.decode z).negate
/-- z - x * y. -/
def fpFnma (f : Fmt) (rm : Nat) (x y z : Nat) : Nat × Nat := fpFmaV f rm (f.decode x).negate (f.decode y) (f.decode z)

/-- A quotient of nonzero magnitudes, with at least 64 bits and a sticky remainder. -/
def quotient (m : Nat) (e : Int) (n : Nat) (k : Int) : Nat × Int × Bool :=
  let s := 64 + n.log2
  (m * 2 ^ s / n, e - k - s, m * 2 ^ s % n ≠ 0)

def fpDivV (f : Fmt) (rm : Nat) (x y : FpV) : Nat × Nat :=
  match x, y with
  | .nan s, y => f.nanOut (s || y.sNan)
  | x, .nan s => f.nanOut (s || x.sNan)
  | .inf _, .inf _ => f.nanOut true
  | .inf a, .fin b _ _ => (f.infinity (a != b), 0)
  | .fin a _ _, .inf b => (f.sign (a != b), 0)
  | .fin a m e, .fin b n k =>
    if n = 0 then (if m = 0 then f.nanOut true else (f.infinity (a != b), flDZ))
    else if m = 0 then (f.sign (a != b), 0)
    else
      let (q, x, st) := quotient m e n k
      f.round rm (a != b) q x st

def fpDiv (f : Fmt) (rm : Nat) (x y : Nat) : Nat × Nat := fpDivV f rm (f.decode x) (f.decode y)

def fpRcp (f : Fmt) (rm : Nat) (x : Nat) : Nat × Nat := fpDivV f rm (.fin false 1 0) (f.decode x)

/-- Makes an exponent even. -/
def evenExp (m : Nat) (e : Int) : Nat × Int := if e % 2 = 0 then (m, e) else (2 * m, e - 1)

def fpSqrt (f : Fmt) (rm : Nat) (x : Nat) : Nat × Nat :=
  match f.decode x with
  | .nan s => f.nanOut s
  | .inf a => if a then f.nanOut true else (f.infinity false, 0)
  | .fin a m e =>
    if m = 0 then (f.sign a, 0)
    else if a then f.nanOut true
    else
      let (m1, e1) := evenExp m e
      let r := Nat.sqrt (m1 * 2 ^ 160)
      f.round rm false r (e1 / 2 - 80) (r * r ≠ m1 * 2 ^ 160)

def fpRsq (f : Fmt) (rm : Nat) (x : Nat) : Nat × Nat :=
  match f.decode x with
  | .nan s => f.nanOut s
  | .inf a => if a then f.nanOut true else (0, 0)
  | .fin a m e =>
    if m = 0 then (f.infinity a, flDZ)
    else if a then f.nanOut true
    else
      let (m1, e1) := evenExp m e
      let r := Nat.sqrt (2 ^ 200 / m1)
      f.round rm false r (-(e1 / 2) - 100) (r * r * m1 ≠ 2 ^ 200)

/-- The product of 2^(2^-i) over the set bits i = 1, 2, … of a fraction, in fixed point with 320 fraction bits; `c` is
2^(2^-i) for the next bit. -/
def exp2Frac (fr : Nat) (c acc : Nat) : Nat → Nat
  | 0 => acc
  | i + 1 => exp2Frac fr (Nat.sqrt (c * 2 ^ 320)) (if fr.testBit i then acc * c / 2 ^ 320 else acc) i

/-- exp2 (R240); a noninteger argument gives an irrational result, taken to 320 bits. -/
def fpExp2 (f : Fmt) (rm : Nat) (x : Nat) : Nat × Nat :=
  match f.decode x with
  | .nan s => f.nanOut s
  | .inf a => if a then (0, 0) else (f.infinity false, 0)
  | .fin a m e =>
    if 0 ≤ e || m % 2 ^ (-e).toNat = 0 then
      let k : Nat := if 0 ≤ e then m * 2 ^ (min e.toNat 20) else m / 2 ^ (-e).toNat
      let k1 : Nat := min k 100000
      f.round rm false 1 (if a then -(k1 : Int) else k1) false
    else
      let w := (-e).toNat
      let fl : Int := if a then -((m / 2 ^ w : Nat) : Int) - 1 else ((m / 2 ^ w : Nat) : Int)
      let fr := if a then 2 ^ w - m % 2 ^ w else m % 2 ^ w
      f.round rm false (exp2Frac fr (Nat.sqrt (2 * 2 ^ 640)) (2 ^ 320) w)
        ((if fl < -100000 then -100000 else if 100000 < fl then 100000 else fl) - 320) true

/-- The first `k` fraction bits of log2 of y in [1, 2), y in fixed point with 512 fraction bits. -/
def log2Frac (y acc : Nat) : Nat → Nat
  | 0 => acc
  | k + 1 =>
    let z := y * y / 2 ^ 512
    if 2 ^ 513 ≤ z then log2Frac (z / 2) (2 * acc + 1) k else log2Frac z (2 * acc) k

/-- log2 (R240); of anything but a power of two it is irrational, taken to 200 bits. -/
def fpLog2 (f : Fmt) (rm : Nat) (x : Nat) : Nat × Nat :=
  match f.decode x with
  | .nan s => f.nanOut s
  | .inf a => if a then f.nanOut true else (f.infinity false, 0)
  | .fin a m e =>
    if m = 0 then (f.infinity true, flDZ)
    else if a then f.nanOut true
    else
      let n : Int := e + m.log2
      if m = 2 ^ m.log2 then f.encode rm (n < 0) n.natAbs 0 false
      else
        let v : Int := n * 2 ^ 200 + log2Frac (m * 2 ^ 512 / 2 ^ m.log2) 0 200
        if v < 0 then f.round rm true (v.natAbs - 1) (-200) true else f.round rm false v.natAbs (-200) true

/-- Sign and magnitude of a value that is no NaN, for comparison. -/
def FpV.dy : FpV → Dy
  | .fin a m e => .of a m e
  | .inf a => .of a 1 100000
  | .nan _ => .zero

def FpV.neg : FpV → Bool
  | .fin a _ _ => a
  | .inf a => a
  | .nan _ => false

/-- x < y for values that are no NaN; both zeros are equal (R242). -/
def FpV.lt (x y : FpV) : Bool := (x.dy.add ⟨-y.dy.n, y.dy.e⟩).n < 0

/-- x < y with -0 below +0 (R241). -/
def FpV.below (x y : FpV) : Bool := x.lt y || (!y.lt x && x.neg && !y.neg)

/-- VFMIN (R241). -/
def fpMin (f : Fmt) (x y : Nat) : Nat × Nat :=
  let a := f.decode x
  let b := f.decode y
  let fl := ivIf (a.sNan || b.sNan)
  if a.isNan then (if b.isNan then f.nan else y, fl)
  else if b.isNan then (x, fl)
  else (if b.below a then y else x, 0)

def fpMax (f : Fmt) (x y : Nat) : Nat × Nat :=
  let a := f.decode x
  let b := f.decode y
  let fl := ivIf (a.sNan || b.sNan)
  if a.isNan then (if b.isNan then f.nan else y, fl)
  else if b.isNan then (x, fl)
  else (if a.below b then y else x, 0)

/-- VFABS and VFNEG: a NaN becomes the canonical NaN (R226). -/
def fpAbs (f : Fmt) (x : Nat) : Nat × Nat :=
  match f.decode x with
  | .nan s => f.nanOut s
  | _ => (x % 2 ^ f.signBit, 0)

def fpNeg (f : Fmt) (x : Nat) : Nat × Nat :=
  match f.decode x with
  | .nan s => f.nanOut s
  | _ => (if x.testBit f.signBit then x % 2 ^ f.signBit else x + 2 ^ f.signBit, 0)

/-- Comparisons 0 eq, 1 ne, 2 lt, 3 le (R242). -/
def fpCmp (f : Fmt) (op x y : Nat) : Bool × Nat :=
  let a := f.decode x
  let b := f.decode y
  if a.isNan || b.isNan then
    (match op with
    | 0 => (false, ivIf (a.sNan || b.sNan))
    | 1 => (true, ivIf (a.sNan || b.sNan))
    | _ => (false, flIV))
  else
    (match op with
    | 0 => (!a.lt b && !b.lt a, 0)
    | 1 => (a.lt b || b.lt a, 0)
    | 2 => (a.lt b, 0)
    | _ => (!b.lt a, 0))

/-! ## Conversions (R236, R237) -/

/-- A conversion between floating-point formats. -/
def fpCvt (src dst : Fmt) (rm : Nat) (x : Nat) : Nat × Nat :=
  match src.decode x with
  | .nan s => dst.nanOut s
  | .inf a => if dst.inf then (dst.infinity a, 0) else (dst.sign a + dst.top, flOF)
  | .fin a m e => dst.encode rm a m e false

/-- The range of an integer type. -/
def intMin (signed : Bool) (n : Nat) : Int := if signed then -(2 ^ (n - 1)) else 0
def intMax (signed : Bool) (n : Nat) : Int := if signed then 2 ^ (n - 1) - 1 else 2 ^ n - 1

/-- The low `n` bits of an integer. -/
def intBits (n : Nat) (v : Int) : Nat := (v % 2 ^ n).toNat

/-- A floating-point value to an integer type. -/
def fpToInt (src : Fmt) (signed : Bool) (n : Nat) (rm : Nat) (x : Nat) : Nat × Nat :=
  match src.decode x with
  | .nan _ => (0, flIV)
  | .inf a => (intBits n (if a then intMin signed n else intMax signed n), flIV)
  | .fin a m e =>
    let (k, nx) := roundAt rm a m e false 0
    let v : Int := if a then -(k : Int) else k
    if v < intMin signed n then (intBits n (intMin signed n), flIV)
    else if intMax signed n < v then (intBits n (intMax signed n), flIV)
    else (intBits n v, if nx then flNX else 0)

/-- The value of an n-bit integer. -/
def intVal (signed : Bool) (n x : Nat) : Int := if signed && x.testBit (n - 1) then (x : Int) - 2 ^ n else x

/-- An integer to a floating-point format. -/
def fpOfInt (dst : Fmt) (rm : Nat) (v : Int) : Nat × Nat := dst.encode rm (v < 0) v.natAbs 0 false

/-- An integer to a narrower or wider integer type; a narrowing that clamps sets SAT. -/
def intCvt (signed : Bool) (n : Nat) (v : Int) : Nat × Nat :=
  if v < intMin signed n then (intBits n (intMin signed n), flSAT)
  else if intMax signed n < v then (intBits n (intMax signed n), flSAT)
  else (intBits n v, 0)

/-- KCG (R248). -/
def kcg (key ctr : Word) : Word :=
  let z := key + ctr * 0x9F1D3B4CE267A5C1
  let z := z ^^^ (z >>> 31)
  let z := z * 0xE7A35C910B6DF24B
  let z := z ^^^ (z >>> 29)
  let z := z * 0xB4F19E056A2CD3E7
  z ^^^ (z >>> 32)

/-- A uniform integer in [0, n) (R248). -/
def kcgBelow (z : Word) (n : Nat) : Nat := z.toNat * n / 2 ^ 64

/-- The stochastic conversion of R237 with the random word `z`; beyond the largest finite value it is VCVT's. An inexact result sets NX
alone, as R237 names it; that a tiny one sets no UF beside it is the model's choice (log 109). -/
def fpCvtStochastic (src dst : Fmt) (rm : Nat) (z : Word) (x : Nat) : Nat × Nat :=
  match src.decode x with
  | .fin a m e =>
    if m = 0 then (dst.sign a, 0)
    else
      let q0 := e + m.log2 - dst.man
      let q := if q0 < dst.qmin then dst.qmin else q0
      if q ≤ e then dst.encode rm a m e false
      else
        let d := (q - e).toNat
        let lo := (q - dst.qmin).toNat * 2 ^ dst.man + m / 2 ^ d
        let r := m % 2 ^ d
        if dst.top < lo || (lo = dst.top && r ≠ 0) then dst.encode rm a m e false
        else if r = 0 then (dst.sign a + lo, 0)
        else if (z >>> 32).toNat < r * 2 ^ 32 / 2 ^ d then (dst.sign a + lo + 1, flNX)
        else (dst.sign a + lo, flNX)
  | _ => fpCvt src dst rm x

/-! ## TERN5 (R230, R231) -/

/-- The five trits of a byte; an illegal byte gives zeros. -/
def trits (b : Nat) : List Int :=
  if 243 ≤ b then [0, 0, 0, 0, 0]
  else (List.range 5).map fun i => (b / 3 ^ i % 3 : Nat) - 1

def tritsIllegal (b : Nat) : Bool := 243 ≤ b

end Sys2Proof.Machine
end

