-- ==== Sys2Proof/Config.lean ====
section
/-! DEFINITION. What an implementation of the IN-4820 fixes, and the values the spec leaves open. The open values are
constants without a body: no proof can see what they are. -/

namespace Sys2Proof.Config

/-- A value the spec leaves open, drawn anew for each reading of the counter `State.freeCtr` (log 7). -/
opaque freeNat : Nat → Nat

/-- The old contents that a port gives the lanes a masked vector write leaves out (R193, R202), drawn anew for each reading of
the counter (log 22). -/
opaque portLanes : Nat → BitVec 512

/-- Which of the agents that can move does so next, out of `n` (R98, R157, R181, R249; log 1). -/
opaque pick : Nat → Nat → Nat

/-- Time-base ticks that pass during a step (R120; log 3). -/
opaque ticks : Nat → Nat

/-- The two AES-256 keys of XTS that the internal random generator has drawn for a key slot at its generation; no key leaves the die
(R49, R54; log 4). -/
opaque slotKey : Nat → Nat → BitVec 512

/-- The physical position (0 to 16) of a logical index in a Torrent group, from the signed device configuration
record (R103). -/
def noFailedCore (_group index : Nat) : Nat := index

/-- What the part's flash and ROM hold: 1 boot ROM, 3 monitor, 4 the kernel that the monitor loaded (R470), and what the fields of the
configuration record name: at reset 5 the certificate chain, 6 the trim values, 7 the helper data of the identity key (R475; log 8). -/
opaque image : Nat → List (BitVec 8)

/-- The bytes of the device configuration record, whose layout the spec does not give, from its fields (R475; log 8). -/
opaque record : List (BitVec 8) → List (BitVec 8)

/-- An output of the security blocks' key store, PUF or random generator (R464, R470, R471, R475; log 8): `what` names the value,
`seed` is what it depends on. -/
opaque secret : Nat → List (BitVec 8) → List (BitVec 8)

end Sys2Proof.Config
end

