-- ==== Sys2Proof/Machine/Event.lean ====
section
/-! DEFINITION. The part's own steps as data (95_what_each_step_holds.md): the rows of spec/opcode_table.json that have no
encoding, each with the arguments of its constructor of Instr. The agenda of State holds them. -/

namespace Sys2Proof.Machine

/-- One step of the part that no thread issues. -/
inductive Event
  | ctxidWrite (node : BitVec 12) (v : BitVec 64)
  | rankWrite (node : BitVec 12) (v : BitVec 64)
  | inqstatWrite (node : BitVec 12) (v : BitVec 64)
  | ovfbaseWrite (node : BitVec 12) (v : BitVec 64)
  | tvecWrite (node : BitVec 12) (v : BitVec 64)
  | tapenWrite (node : BitVec 12) (v : BitVec 64)
  | tapinvWrite (node : BitVec 12) (v : BitVec 64)
  | repeatWrite (v : BitVec 64)
  | mspillWrite (node : BitVec 12) (berth : BitVec 2) (v : BitVec 64)
  | prioWrite (node : BitVec 12) (berth : BitVec 2) (v : BitVec 64)
  | geomWrite (node : BitVec 12) (berth : BitVec 2) (v : BitVec 64)
  | tagsWrite (node : BitVec 12) (v : BitVec 64)
  | rqstatRecall (node : BitVec 12)
  | rqstatEvict (node : BitVec 12)
  | registerWrite (node : BitVec 12) (berth : BitVec 2) (r v : BitVec 64)
  | kslotLoad (slot : BitVec 12)
  | kslotRetire (slot : BitVec 12)
  | kslotTagclr
  | kslotPurge (ctx : BitVec 12)
  | kslotDone
  | l2colGo (target : BitVec 8)
  | columnFold (c : BitVec 3)
  | columnUnfold (c : BitVec 3)
  | homeFill (node ctx kslot : BitVec 12) (addr : BitVec 64)
  | homeRegistration (node ctx kslot : BitVec 12) (addr v : BitVec 64)
  | ownershipRevoke (node : BitVec 12) (addr : BitVec 64) (fwd : BitVec 1)
  | homeWriteback (node : BitVec 12) (addr : BitVec 64)
  | homeAmo (node : BitVec 12) (berth : BitVec 2) (ctx kslot : BitVec 12) (addr : BitVec 64) (op : BitVec 4) (w : BitVec 1) (v e : BitVec 64)
  | homeRed (node : BitVec 12) (berth : BitVec 2) (ctx kslot : BitVec 12) (addr : BitVec 64) (op : BitVec 4) (w : BitVec 1) (v : BitVec 64)
  | homeLoga (node : BitVec 12) (berth : BitVec 2) (ctx : BitVec 12) (kern : BitVec 1) (region : BitVec 64) (segrec : BitVec 32) (addr va : BitVec 64) (op : BitVec 2) (v : BitVec 32) (rank : BitVec 10) (seq : BitVec 16)
  | homeLrw (node : BitVec 12) (berth : BitVec 2) (ctx kslot : BitVec 12) (addr va : BitVec 64)
  | homeSch (node : BitVec 12) (berth : BitVec 2) (ctx kslot : BitVec 12) (addr : BitVec 64) (st : BitVec 1) (v : BitVec 64)
  | homeBarrier (node : BitVec 12) (berth : BitVec 2) (ctx kslot : BitVec 12) (addr : BitVec 64) (op : BitVec 3) (v : BitVec 64)
  | homeWaitRegister (node : BitVec 12) (berth : BitVec 2) (ctx kslot : BitVec 12) (addr : BitVec 64) (ne : BitVec 1) (v : BitVec 32)
  | waitValue (node : BitVec 12) (berth : BitVec 2) (v : BitVec 32)
  | homeDisc (node ctx kslot : BitVec 12) (addr : BitVec 64)
  | tlbWalk (node : BitVec 12) (va : BitVec 64)
  | memoryError (node : BitVec 12) (place : BitVec 3) (ctx kslot : BitVec 12) (addr : BitVec 64) (unc : BitVec 1)
  | nmsgArrive (src dst : BitVec 12)
  | umsgArrive (src dst : BitVec 12)
  | gportArrive (src dst : BitVec 12)
  | vportArrive (src dst : BitVec 12)
  | portOutboundSend (node : BitVec 12) (p : BitVec 4)
  | rwreqArrive (src dst : BitVec 12)
  | rwrspArrive (src dst : BitVec 12)
  | rwreqRetry (node : BitVec 12) (berth : BitVec 2)
  | dackArrive (node : BitVec 12) (epoch : BitVec 1)
  | gangbArrive (src dst : BitVec 12)
  | migDepart (node : BitVec 12) (berth : BitVec 2) (rank : BitVec 10)
  | migArrive (src dst : BitVec 12)
  | migResume (node : BitVec 12) (berth : BitVec 2)
  | migRetry (node : BitVec 12)
  | evictArrive (src dst : BitVec 12)
  | tlbiArrive (id : BitVec 16) (node : BitVec 12)
  | tlbiComplete (id : BitVec 16)
  | ifenceComplete (node : BitVec 12) (berth : BitVec 2)
  | copyStart (node : BitVec 12)
  | copyComplete (node : BitVec 12) (tag : BitVec 6)
  | mergePass (node : BitVec 12) (tag : BitVec 6)
  | mergeComplete (node : BitVec 12) (tag : BitVec 6)
  | engineSpill (node : BitVec 12)
  | engineReload (node : BitVec 12)
  | timerExpire (node : BitVec 12) (berth : BitVec 2)
  | trapEntry (node : BitVec 12)
  | machineEntry (node : BitVec 12) (reason : BitVec 2)
  | coreStart (node : BitVec 12)
  | dispatchSlot (isl : BitVec 1)
  | dependencyDecrement (isl : BitVec 1)
  | launchSweep (isl : BitVec 1)
  | launchEnd (isl : BitVec 1) (slot : BitVec 10)
  | occupancyWindow (isl : BitVec 1)
  | poolRebind (node : BitVec 12)
  | groupQuiesce (g : BitVec 5)
  | groupDrain (g : BitVec 5)
  | groupResume (g : BitVec 5)
  | gretSaveRetain (g : BitVec 5)
  | gretSaveImage (g : BitVec 5)
  | gretSaveRestore (g : BitVec 5)
  | gretSaveDone
  | gclkGateWrite (v : BitVec 64)
  | grailCtlWrite (v : BitVec 64)
  | railOk (g : BitVec 5)
  | wakeGmask (mask : BitVec 32) (src : BitVec 2)
  | wakeTon (src : BitVec 2)
  | wakeSrcRead
  | wakeArmWrite (v : BitVec 64)
  | cascadeFire (n : BitVec 4)
  | groupWake (g : BitVec 5)
  | torrentBringUp
  | torrentLeaveOn
  | dramSelfRefreshEnter
  | dramSelfRefreshExit
  | rillCoreRet (node : BitVec 12)
  | rillCoreWake (node : BitVec 12)
  | leaseExpire (node : BitVec 12) (berth : BitVec 2)
  | portageGo (v : BitVec 64)
  | portageAbort
  | portageTransit
  | portageCopy
  | portageRelease
  | siltFreeze
  | siltResume
  | siltRelease
  | freezeArrive (node : BitVec 12)
  | siltStop (node : BitVec 12)
  | capsuleBuild
  | capsuleRead (off len : BitVec 64)
  | capsuleRelease
  | queueBase (off n : BitVec 64)
  | keyBind (arg : BitVec 64)
  | windowSet (ctx vb : BitVec 64)
  | mailboxBadCommand (cmd : BitVec 8)
  | hostSubmission
  | hostSubmissionRetry
  | hostRead (off : BitVec 64) (n : BitVec 7)
  | hostWrite (off : BitVec 64) (n : BitVec 4) (v : BitVec 64)
  | getVersion
  | getCapabilities
  | negotiateAlgorithms
  | getDigests
  | getCertificate
  | challenge
  | getMeasurements
  | keyExchange
  | finish
  | heartbeat
  | endSession
  | linkDown (l : BitVec 1)
  | coldReset
  | warmReset
  | sleepDeadline (node : BitVec 12) (berth : BitVec 2)
  | mrspArrive (node : BitVec 12) (berth : BitVec 2)
  | mmaComplete (node : BitVec 12)
  | thermalLimit (g : BitVec 5) (on : BitVec 1)
  | powerOverBudget (g : BitVec 5) (on : BitVec 1)
  | rutuquaPairing (l : BitVec 1)
  | tdispMessage (m : BitVec 2)
  deriving DecidableEq, Repr

noncomputable section

/-- The row of the opcode table that an event is. -/
def Event.toInstr (e : Event) : Instr :=
  match e with
  | .ctxidWrite node v => .ctxidWrite node v
  | .rankWrite node v => .rankWrite node v
  | .inqstatWrite node v => .inqstatWrite node v
  | .ovfbaseWrite node v => .ovfbaseWrite node v
  | .tvecWrite node v => .tvecWrite node v
  | .tapenWrite node v => .tapenWrite node v
  | .tapinvWrite node v => .tapinvWrite node v
  | .repeatWrite v => .repeatWrite v
  | .mspillWrite node berth v => .mspillWrite node berth v
  | .prioWrite node berth v => .prioWrite node berth v
  | .geomWrite node berth v => .geomWrite node berth v
  | .tagsWrite node v => .tagsWrite node v
  | .rqstatRecall node => .rqstatRecall node
  | .rqstatEvict node => .rqstatEvict node
  | .registerWrite node berth r v => .registerWrite node berth r v
  | .kslotLoad slot => .kslotLoad slot
  | .kslotRetire slot => .kslotRetire slot
  | .kslotTagclr => .kslotTagclr
  | .kslotPurge ctx => .kslotPurge ctx
  | .kslotDone => .kslotDone
  | .l2colGo target => .l2colGo target
  | .columnFold c => .columnFold c
  | .columnUnfold c => .columnUnfold c
  | .homeFill node ctx kslot addr => .homeFill node ctx kslot addr
  | .homeRegistration node ctx kslot addr v => .homeRegistration node ctx kslot addr v
  | .ownershipRevoke node addr fwd => .ownershipRevoke node addr fwd
  | .homeWriteback node addr => .homeWriteback node addr
  | .homeAmo node berth ctx kslot addr op w v e => .homeAmo node berth ctx kslot addr op w v e
  | .homeRed node berth ctx kslot addr op w v => .homeRed node berth ctx kslot addr op w v
  | .homeLoga node berth ctx kern region segrec addr va op v rank seq => .homeLoga node berth ctx kern region segrec addr va op v rank seq
  | .homeLrw node berth ctx kslot addr va => .homeLrw node berth ctx kslot addr va
  | .homeSch node berth ctx kslot addr st v => .homeSch node berth ctx kslot addr st v
  | .homeBarrier node berth ctx kslot addr op v => .homeBarrier node berth ctx kslot addr op v
  | .homeWaitRegister node berth ctx kslot addr ne v => .homeWaitRegister node berth ctx kslot addr ne v
  | .waitValue node berth v => .waitValue node berth v
  | .homeDisc node ctx kslot addr => .homeDisc node ctx kslot addr
  | .tlbWalk node va => .tlbWalk node va
  | .memoryError node place ctx kslot addr unc => .memoryError node place ctx kslot addr unc
  | .nmsgArrive src dst => .nmsgArrive src dst
  | .umsgArrive src dst => .umsgArrive src dst
  | .gportArrive src dst => .gportArrive src dst
  | .vportArrive src dst => .vportArrive src dst
  | .portOutboundSend node p => .portOutboundSend node p
  | .rwreqArrive src dst => .rwreqArrive src dst
  | .rwrspArrive src dst => .rwrspArrive src dst
  | .rwreqRetry node berth => .rwreqRetry node berth
  | .dackArrive node epoch => .dackArrive node epoch
  | .gangbArrive src dst => .gangbArrive src dst
  | .migDepart node berth rank => .migDepart node berth rank
  | .migArrive src dst => .migArrive src dst
  | .migResume node berth => .migResume node berth
  | .migRetry node => .migRetry node
  | .evictArrive src dst => .evictArrive src dst
  | .tlbiArrive id node => .tlbiArrive id node
  | .tlbiComplete id => .tlbiComplete id
  | .ifenceComplete node berth => .ifenceComplete node berth
  | .copyStart node => .copyStart node
  | .copyComplete node tag => .copyComplete node tag
  | .mergePass node tag => .mergePass node tag
  | .mergeComplete node tag => .mergeComplete node tag
  | .engineSpill node => .engineSpill node
  | .engineReload node => .engineReload node
  | .timerExpire node berth => .timerExpire node berth
  | .trapEntry node => .trapEntry node
  | .machineEntry node reason => .machineEntry node reason
  | .coreStart node => .coreStart node
  | .dispatchSlot isl => .dispatchSlot isl
  | .dependencyDecrement isl => .dependencyDecrement isl
  | .launchSweep isl => .launchSweep isl
  | .launchEnd isl slot => .launchEnd isl slot
  | .occupancyWindow isl => .occupancyWindow isl
  | .poolRebind node => .poolRebind node
  | .groupQuiesce g => .groupQuiesce g
  | .groupDrain g => .groupDrain g
  | .groupResume g => .groupResume g
  | .gretSaveRetain g => .gretSaveRetain g
  | .gretSaveImage g => .gretSaveImage g
  | .gretSaveRestore g => .gretSaveRestore g
  | .gretSaveDone => .gretSaveDone
  | .gclkGateWrite v => .gclkGateWrite v
  | .grailCtlWrite v => .grailCtlWrite v
  | .railOk g => .railOk g
  | .wakeGmask mask src => .wakeGmask mask src
  | .wakeTon src => .wakeTon src
  | .wakeSrcRead => .wakeSrcRead
  | .wakeArmWrite v => .wakeArmWrite v
  | .cascadeFire n => .cascadeFire n
  | .groupWake g => .groupWake g
  | .torrentBringUp => .torrentBringUp
  | .torrentLeaveOn => .torrentLeaveOn
  | .dramSelfRefreshEnter => .dramSelfRefreshEnter
  | .dramSelfRefreshExit => .dramSelfRefreshExit
  | .rillCoreRet node => .rillCoreRet node
  | .rillCoreWake node => .rillCoreWake node
  | .leaseExpire node berth => .leaseExpire node berth
  | .portageGo v => .portageGo v
  | .portageAbort => .portageAbort
  | .portageTransit => .portageTransit
  | .portageCopy => .portageCopy
  | .portageRelease => .portageRelease
  | .siltFreeze => .siltFreeze
  | .siltResume => .siltResume
  | .siltRelease => .siltRelease
  | .freezeArrive node => .freezeArrive node
  | .siltStop node => .siltStop node
  | .capsuleBuild => .capsuleBuild
  | .capsuleRead off len => .capsuleRead off len
  | .capsuleRelease => .capsuleRelease
  | .queueBase off n => .queueBase off n
  | .keyBind arg => .keyBind arg
  | .windowSet ctx vb => .windowSet ctx vb
  | .mailboxBadCommand cmd => .mailboxBadCommand cmd
  | .hostSubmission => .hostSubmission
  | .hostSubmissionRetry => .hostSubmissionRetry
  | .hostRead off n => .hostRead off n
  | .hostWrite off n v => .hostWrite off n v
  | .getVersion => .getVersion
  | .getCapabilities => .getCapabilities
  | .negotiateAlgorithms => .negotiateAlgorithms
  | .getDigests => .getDigests
  | .getCertificate => .getCertificate
  | .challenge => .challenge
  | .getMeasurements => .getMeasurements
  | .keyExchange => .keyExchange
  | .finish => .finish
  | .heartbeat => .heartbeat
  | .endSession => .endSession
  | .linkDown l => .linkDown l
  | .coldReset => .coldReset
  | .warmReset => .warmReset
  | .sleepDeadline node berth => .sleepDeadline node berth
  | .mrspArrive node berth => .mrspArrive node berth
  | .mmaComplete node => .mmaComplete node
  | .thermalLimit g on => .thermalLimit g on
  | .powerOverBudget g on => .powerOverBudget g on
  | .rutuquaPairing l => .rutuquaPairing l
  | .tdispMessage m => .tdispMessage m

end

end Sys2Proof.Machine
end

