-- ==== Sys2Proof/Machine/State.lean ====
section
/-! DEFINITION. The state of the IN-4820 as plain data: every register, queue, memory and engine the spec gives the part
(INVENTORY.md, State), the reasons a step can stop, and the state right after a cold reset. -/

namespace Sys2Proof.Machine

/-! ## Registers -/

/-- The tag of a g register (R201). -/
inductive GTag | data | cap | empty
  deriving DecidableEq, Repr

/-- A g register: value, shadow, tag (R200, R201). -/
structure GReg where
  val : Word
  sh : Word
  tag : GTag
  deriving DecidableEq, Repr

/-- A v register: 512 bits, DATA when `full`, else EMPTY (R200). -/
structure VReg where
  val : BitVec 512
  full : Bool
  deriving DecidableEq, Repr

/-- A k or OX register: 64 bits, DATA when `full`, else EMPTY (R200, R205). -/
structure XReg where
  val : Word
  full : Bool
  deriving DecidableEq, Repr

/-- The causes of R415 and R416. -/
inductive Cause
  | illegal | priv | emptyread | captag | capbounds | capperm | align | pagefault | pageperm | poison
  | syncstore | barstate | nondet | ternill | hdrfmt | taphit | sampledom | gramdead | migfault | portbind
  | spillfault | copyform | syscall | brk
  | timer | urgent | absent | preempt | machine | wake
  deriving DecidableEq, Repr

/-- The operations of a remote word access (R110, R281). -/
inductive RwOp | load | store | ldc | stc | bytes
  deriving DecidableEq, Repr

/-- What one remote access asks for: LM offset, bytes, operation, data, and for a 16-byte access the shadow (for `bytes`, a store of
some bytes of a word, which bytes), whether it is a CAP store, and whether a CAP result is allowed (R110, R281, R283). -/
structure RwReq where
  off : Nat
  size : Nat
  op : RwOp
  data : Word
  sh : Word
  cap : Bool
  deriving DecidableEq, Repr

/-- The response to a remote access (R110, R192): performed with a value, a trap at a word, or absent. -/
inductive RwRsp
  | ok (v sh : Word) (cap : Bool)
  | poison (off : Nat)
  | syncstore (off : Nat)
  | migfault
  | absent
  | refused (c : Cause) (key : Nat)   -- an operation at another core's LM was refused at this home address (R111)
  | failed (c : Cause) (va : Word)    -- it was refused with this EVAL (R165)
  deriving DecidableEq, Repr

/-- Operands of one K-block of an MMA as the engine holds them (R347, R350): formats, U flags, per-row scale bytes and element
codes of the rows this core uses, and whether a TERN5 byte of it was illegal. -/
structure MmaBlock where
  fa : Nat
  fb : Nat
  ua : Bool
  ub : Bool
  sa : List Nat
  sb : List Nat
  ea : List (List Nat)
  eb : List (List Nat)
  til : Bool
  deriving DecidableEq, Repr

/-- The rows of one operand that a core reads: for each row its bytes as a number and its scale byte for each block. -/
abbrev Panel := List (Nat × List Nat)

/-- A gang member's part in a step (R363): its own failure, what members compare, its hA header's address, the formats and U
flags, K-blocks, and the rows it has read as member (CROW, 0) or (0, CCOL). -/
structure GangIssue where
  fail : Option (Cause × Word)
  key : List Nat
  addr : Nat
  acc : Nat
  fa : Nat
  fb : Nat
  ua : Bool
  ub : Bool
  cols : Nat
  na : Nat
  nb : Nat
  a : Panel
  b : Panel
  pins : List Nat
  deriving DecidableEq, Repr

/-- A gang member's part in a sampling step (R365, R367): FN, the code of gA, the values of gA, gB and gD, and the OX operands:
temperature, position, row, maximum. -/
structure SampleIssue where
  fn : Nat
  code : Nat
  ga : GReg
  gb : Word
  gd : Word
  temp : Nat
  pos : Word
  row : Nat
  max : Nat
  deriving DecidableEq, Repr

/-- What a waiting instruction waits for (R43, R117, R154, R170, R174, R297, R319). -/
inductive Wait
  | none
  | remote                                      -- a remote word access is out (R110)
  | held                                        -- its request is held for an in-transit rank (R108)
  | home (baw : Option (Nat × Word)) (node : Nat)   -- an operation at another rank's LM is out (R111), and that LM's node; of a BAW
                                                -- resumed: register, phase
  | lrw (gran : Nat)                            -- queued LRW (R154)
  | barrier (gran : Nat) (baw : Option (Nat × Word))  -- BWAIT, or BAW after its arrival: register, phase (R170, R173)
  | word (addr : Nat) (ne : Bool) (b : BitVec 32)   -- WAITGE, WAITNE (R174)
  | sleep (deadline : Word) (causes : Nat)      -- SLEEP: its deadline, the causes pending at issue (R434)
  | woken                                       -- a SLEEP whose event has come (R434)
  | mma                                         -- an MMA in flight (R355)
  | gang                                        -- a GANG that has arrived (R362)
  | gangMma (r : GangIssue)                     -- a gang MMA that has arrived (R363)
  | sample (r : SampleIssue)                    -- a sampling instruction of a gang that has arrived (R367)
  | bridge                                      -- a packet of the instruction is in the hold buffer (R92)
  | absent                                      -- the rank of a remote access is absent (R192)
  | arrive (tdep : Word) (tr : Option (Cause × Word)) (bounced : Bool)  -- the thread has arrived (R119, R122)
  | retry                                       -- a refused migration waits to be repeated (R192)
  | lbnd                                        -- stopped after LBND (R456)
  | ifence (left : Nat)                         -- IFENCE (R142)
  | done (a b : Word)                           -- the response has come: result and status
  | failed (c : Cause) (v : Word)               -- the home refused: cause and EVAL
  deriving DecidableEq, Repr

/-- A gang MMA that a member has started and not ended (R363): what the members compared, the address of its hA header, and
the operands of all its blocks, which are read once. -/
structure GangStep where
  key : List Nat
  addr : Nat
  blocks : List MmaBlock
  deriving DecidableEq, Repr

/-- A gang a thread belongs to (R178, R353, R362): its shape, the nodes of its members in row-major order, the number of
the current round, the gang MMAs that the thread has started, and the one that has not ended. -/
structure Gang where
  shape : Nat
  members : List Nat
  round : Nat
  step : Nat
  mid : Option GangStep
  deriving DecidableEq, Repr

/-- One berth: a thread's register files and its berth registers (R181, R200, R210). -/
structure Berth where
  occupied : Bool          -- holds a present thread
  stopped : Bool           -- stopped by an entry (R417)
  pc : Word
  g : Vector GReg 64
  v : Vector VReg 32
  k : Vector XReg 4
  ox : Vector XReg 4
  status : Word            -- LSEQ and WARR; in B0 also SB, TB, PTB, KTRAP (R421)
  cause : Word
  epc : Word
  eval : Word
  timecmp : Word
  prio : Word
  mspill : Word
  vstat : Word
  arith : Word
  repst : Word
  seqOn : Bool             -- the sequencer issues the body that REPST describes (R271, R273)
  seqkey : Word
  seqtrap : Word
  lease : Word
  leaseAt : Word           -- when LEASE.REM was last right (R454)
  nrank : Nat              -- NATIVE (R212)
  nberth : Nat
  nnode : Nat
  gang : Option Gang
  launch : Option Nat      -- launch slot of the thread's task (R409)
  task : Nat               -- address of the thread's task record (R459)
  wait : Wait
  rsp : List RwRsp         -- responses the instruction has received so far (R110)
  fetched : Option (Word × Nat) := none  -- the instruction that it has fetched and not ended: its address and its parcels (R219, R142)
  deriving DecidableEq, Repr

/-! ## Caches and translation -/

/-- The state of a word in an L1 (R62); I words are not listed. -/
inductive L1State | v | od | oc
  deriving DecidableEq, Repr

/-- One word of an L1 (R62, R51, R79, R85). `word` is its home address divided by 8. -/
structure L1Word where
  word : Nat
  ctx : Nat
  slot : Nat
  st : L1State
  val : Word
  tag : Nat
  stale : Bool
  discHeld : Bool
  deriving DecidableEq, Repr

/-- One line of an instruction cache (R67): 64 bytes and, for each of its words, whether it was POISON (R88). -/
structure ILine where
  line : Nat
  ctx : Nat
  slot : Nat
  bytes : List Byte
  bad : List Bool
  locked : Bool
  deriving DecidableEq, Repr

/-- A leaf as a TLB keeps it (R39, R42): the virtual page, its size, the physical base (of the run for a run leaf),
kind, key slot and its generation when filled, and permissions. -/
structure Tlb where
  ctx : Nat
  vbase : Nat
  size : Nat
  pbase : Nat
  pool : Bool
  slot : Nat
  ko : Bool
  cs : Bool
  x : Bool
  w : Bool
  r : Bool
  deriving DecidableEq, Repr

/-- A non-leaf entry as a walk cache keeps it (R42): the context, the level of the table it points to, the virtual addresses
below it, as the number of the first one divided by its extent, and that table's physical place. -/
structure WalkEntry where
  ctx : Nat
  level : Nat
  prefix_ : Nat
  pool : Bool
  base : Nat
  deriving DecidableEq, Repr

/-- A line of a Torrent L2 slice (R69): the number of its DRAM unit, context and key slot (R51), its 64 bytes as a number, the raw
tags of its 8 words, and whether DRAM does not hold it yet. -/
structure L2Line where
  unit : Nat
  ctx : Nat
  slot : Nat
  bytes : Nat
  tags : List Nat
  dirty : Bool
  deriving DecidableEq, Repr

/-- A rank-table entry an NI keeps (R104). -/
structure RankEntry where
  ctx : Nat
  rank : Nat
  node : Nat
  transit : Bool
  deriving DecidableEq, Repr

/-! ## Messages, ports, packets -/

/-- A message (R184): four words, the CAP map, sender, notice bit, context, destination rank, arrival time (R189). -/
structure Msg where
  w0 : Word
  w1 : Word
  w2 : Word
  w3 : Word
  cmap : BitVec 4
  srank : Nat
  snode : Nat
  ctx : Nat
  drank : Nat
  notice : Bool
  time : Word
  deriving DecidableEq, Repr

/-- Where a port sends (R194, R317). -/
structure Binding where
  peer : Bool
  link : Nat
  rank : Nat
  port : Nat
  deriving DecidableEq, Repr

/-- A value in a port queue: a g-port value with shadow and tag, or a v-port value; sender and time of arrival (R189). -/
structure PVal where
  val : BitVec 512
  sh : Word
  cap : Bool
  srank : Nat
  snode : Nat
  time : Word
  deriving DecidableEq, Repr

/-- A value in an outbound queue with the binding it took at the push and its launch slot (R193, R409). -/
structure OutVal where
  val : PVal
  bind : Binding
  ctx : Nat
  launch : Option Nat
  sender : Nat := 1           -- the berth that pushed it
  deriving DecidableEq, Repr

/-- What PORTB last did to a port (R194). -/
inductive PortBind
  | default
  | unbound
  | to (b : Binding)
  deriving DecidableEq, Repr

/-- One port of a core (R193, R318). Ports 0 to 5 are PN to PB, 6 to 9 are VN to VW. -/
structure Port where
  inq : List PVal
  outq : List OutVal
  bind : PortBind
  lost : Bool
  deriving DecidableEq, Repr

/-- A thread as a MIG packet carries it (R115), with what the spec keeps for it beside. -/
structure Thread where
  pc : Word
  g : Vector GReg 64
  v : Vector VReg 32
  k : Vector XReg 4
  status : Word
  arith : Word
  vstat : Word
  repst : Word
  nnode : Nat
  nrank : Nat
  tdep : Word
  launch : Option Nat
  task : Nat
  trap : Option (Cause × Word)   -- a trap the guest returns to take (R116)
  bounced : Bool                 -- refused by another core (R192)
  back : Word := 0               -- where it repeats its access after a refusal (R192)
  deriving DecidableEq, Repr

/-- What a packet carries (R94, R115, R184, R193, R363). -/
inductive Body
  | nmsg (m : Msg)
  | umsg (m : Msg)
  | gport (p : Nat) (v : PVal)
  | vport (p : Nat) (v : PVal)
  | rwreq (berth : Nat) (r : RwReq)
  | rwrsp (berth : Nat) (r : RwRsp)
  | mig (t : Thread)
  | evict (t : Thread)
  | dack (epoch : Bool)
  | mrsp (berth : Nat)        -- the answer of a remote operation's LM, which stands in its berth (R111)
  | gangb (from_ : Nat) (round : Nat)
  deriving DecidableEq, Repr

/-- A packet in flight (R93): nodes, context, whether it is rank-addressed and to which rank, the sender's rank, the
sender NI's epoch, and the launch slot of a counted packet (R409). -/
structure Packet where
  src : Nat
  dst : Nat
  ctx : Nat
  ranked : Bool
  drank : Nat
  srank : Nat
  epoch : Bool
  launch : Option Nat
  body : Body
  sport : Option Nat := none  -- the port whose value it carries (R318)
  sender : Nat := 4           -- the berth whose SEND or port write it is (R137); 4 for any other packet
  acked : Bool := false       -- acknowledged already, as it waited at its NI (R106)
  deriving DecidableEq, Repr

/-! ## Copies, the matrix engine, the ready queue -/

/-- What an entry of the copy FIFO does (R299, R293). -/
inductive CopyKind | copy | deal | crypt | merge
  deriving DecidableEq, Repr

/-- An entry of the copy FIFO (R299 to R309). -/
structure CopyEntry where
  id : Nat
  kind : CopyKind
  berth : Nat
  src : GReg
  dst : GReg
  len : Nat
  tag : Nat
  ordered : Bool
  notify : Bool
  nrank : Nat
  cookie : Word
  bar : Option (Nat × Nat × Nat)     -- the barrier granule: home address, context, key slot; in an LM the rank, 1024 for the alias
  aux : GReg                  -- deal pattern, or the descriptor capability
  desc : List Byte            -- COPYC: the 32 descriptor bytes read at issue
  ctx : Nat
  srank : Nat
  kern : Bool
  launch : Option Nat
  started : Bool
  moved : Bool                -- the transfer is over
  code : Nat                  -- completion code of the transfer (R306)
  first : Nat
  age : Nat := 0              -- its place in the order of acceptance (R472)
  plain : List (Nat × Nat × Nat × Word) := []   -- COPYC: the verified words that still stand POISON: home address, context, key slot (R472)
  deriving DecidableEq, Repr

/-- An MMA in flight: its berth and accumulator, the number of the next block and the blocks not yet added, whether a block
already added had an illegal TERN5 byte, the pinned home lines (R77), for a gang's MMA its step and the members whose
panels it still needs (R355, R356, R363), and whether the thread has gone past it (R355). -/
structure Flight where
  berth : Nat
  acc : Nat
  next : Nat
  blocks : List MmaBlock
  til : Bool
  pins : List Nat
  gang : Option (Nat × List Nat)
  past : Bool := false
  deriving DecidableEq, Repr

/-- An accumulator (R200): EMPTY, or 1024 words in FP32 or INT32 form, element (i, c) at 32 i + c. -/
inductive Acc
  | empty
  | fp32 (e : List (BitVec 32))
  | int32 (e : List (BitVec 32))
  deriving DecidableEq, Repr

/-- The progress record of a stopped MMA (R347), with the kept operands of block BLK. -/
structure Progress where
  acc : Nat
  blk : Nat
  kept : Option MmaBlock
  til : Bool
  deriving DecidableEq, Repr

/-- The spill slot (R345). `forms` holds 0 EMPTY, 1 FP32, 2 INT32 for each accumulator. -/
structure Spill where
  ob : Nat
  obase : Nat
  oclass : Nat
  forms : List Nat
  progress : Option Progress
  flight : Option Flight      -- a running owner's MMA, stalled at a block boundary
  lost : Bool
  owed : Option Flight := none   -- an MMA that its thread had gone past when it was stopped: its blocks are added at the reload
  deriving DecidableEq, Repr

/-- The matrix engine of a core (R340). -/
structure Engine where
  held : Bool
  ob : Nat
  obase : Nat
  oen : Bool
  oclass : Nat
  ogang : Bool                -- the owner was a gang member when it last became the owner
  acc : Vector Acc 4
  progress : Option Progress
  flight : Option Flight
  slot : Option Spill
  waiting : List Nat          -- berths that wait for FREE, in order of arrival (R343)
  grant : Option Nat := none  -- the berth whose claim calls for a spill and then has the engine (R343, R346)
  deriving DecidableEq, Repr

/-- An entry of the hardware ready queue: a quad with its tags (R424). -/
structure Ready where
  q0 : GReg
  q1 : GReg
  q2 : GReg
  q3 : GReg
  deriving DecidableEq, Repr

/-- A tap probe entry as a core caches it (R389): table address and its words. -/
structure ProbeCache where
  addr : Nat
  ctx : Nat
  bytes : List Byte
  deriving DecidableEq, Repr

/-- What the part keeps of a thread that GSAVE or a parking has saved, beside its area (R437, R438, R409): context, native rank
and address of the area (none for a record that the part wrote itself), launch slot, task record, gang, and the time of the save,
which serves as TDEP (R122). -/
structure SavedThread where
  ctx : Nat
  rank : Nat
  ea : Option Nat
  launch : Option Nat
  task : Nat
  gang : Option Gang
  tdep : Word
  deriving DecidableEq, Repr

/-- A Silt record (R459): 128 bits. -/
abbrev SiltRecord := BitVec 128

/-- Power state of a core (R443). -/
inductive Power | run | ret | off
  deriving DecidableEq, Repr

/-- One core (R181): four berths and everything the core keeps. -/
structure Core where
  power : Power
  b0 : Berth
  b1 : Berth
  b2 : Berth
  b3 : Berth
  away : Bool                 -- B1 is reserved for a thread that is away (R182)
  guestAge : Bool             -- the guest in B2 arrived before the one in B3 (R117)
  idle0 : Bool                -- B0 is idle (R413)
  ctxid : Nat
  rank : Nat
  tvec : Word
  ksavea : Word
  ksaveb : Word
  tags : Word
  tagOrder : List Nat         -- set bits of TAGS in the order they were set (R311)
  copyStatus : Vector Word 64
  geom : Word
  tapen : Word
  dispCur : Nat               -- RQSTAT.CUR, DEN, NOGUEST (R425)
  den : Bool
  noguest : Bool
  ready : List Ready          -- in order of arrival
  hold : Bool                 -- INQSTAT.HOLD (R190)
  inbox : List Msg
  urgent : List Msg
  ovfTail : Nat               -- OVFBASE (R189)
  ovfHead : Nat
  ovfSize : Nat
  ovfBase : Nat
  ovfEn : Bool
  ports : Vector Port 10
  absent : Option Word        -- pending ABSENT and its EVAL (R191)
  pendSync : Option (Cause × Word)   -- pending synchronous trap of B1 (R418)
  wakeSrc : Option Word       -- pending WAKE and its EVAL (R450)
  preempt : Option Nat        -- pending PREEMPT of reason 1 or 3 (R416)
  recalled : Bool               -- the away thread is being recalled (R428)
  atNi : List Packet          -- arrivals that wait at the NI of a core that is not up (R448)
  engine : Engine
  fifo : List CopyEntry
  nextCopy : Nat
  l1 : List L1Word
  icache : List ILine
  tlb : List Tlb
  rankCache : List RankEntry
  epoch : Bool
  tlbiAck : Option Nat        -- the TLBI that the NI has not acknowledged yet (R107)
  tlbiCopies : Nat            -- the copies accepted before it: those of a smaller id (R147)
  unacked : Nat × Nat         -- rank-addressed packets not acknowledged, by epoch (R107)
  heldPkts : List Packet      -- packets for in-transit ranks (R108)
  bridgeHeld : List Packet    -- the hold buffer of a Rill NI (R92)
  probes : List ProbeCache
  poolTag : Nat               -- scheduling pool in force (R411)
  poolNew : Option Nat        -- tag that takes effect at the next boundary (R411)
  ring : List SiltRecord      -- Silt ring, oldest first (R457)
  ringStopped : Bool
  freezeF : Option Word       -- the F a freeze packet has brought (R462)
  sent : List (Nat × Nat)     -- message counters by launch slot (R409)
  received : List (Nat × Nat)
  gangPanels : List (Nat × Nat)      -- broadcast panels received: sender node, round (R363)
  stoppedBy : Bool            -- stopped by a group quiesce (R447)
  lastB : Nat                 -- the berth served last (R181)
  machine : Bool := false     -- a MACHINE that has started its freeze waits for B0's operation at its home (R297, R417)
  entryFence : BitVec 4       -- the berths whose messages to this core B0 awaits before it issues: an entry or an ERET fenced (R131)
  deriving DecidableEq, Repr

/-! ## Homes -/

/-- A byte memory: entries at strictly rising addresses, none equal to 0, what an unlisted address reads as. -/
abbrev Memory := List Host.Cell

/-- A reservation entry of a home (R154, R157): granule, thread identity, holder or waiter, and the record the native
core keeps of the address used (R156). -/
structure Resv where
  gran : Nat
  node : Nat
  berth : Nat
  holds : Bool
  waitNode : Nat              -- where the queued thread waits
  waitBerth : Nat
  ctx : Nat
  slot : Nat
  va : Nat
  size : Nat
  deriving DecidableEq, Repr

/-- A thread that waits at a barrier or for a word (R170, R174), with the context, key slot and virtual address it reaches the word
under (R57, R147). -/
structure Waiter where
  addr : Nat
  node : Nat
  berth : Nat
  ctx : Nat
  slot : Nat
  va : Nat                    -- the virtual address it waits at (R147)
  deriving DecidableEq, Repr

/-- Which 16-byte block of DRAM was written under which key (R49): slot and generation. -/
structure KeyedUnit where
  block : Nat
  slot : Nat
  gen : Nat
  deriving DecidableEq, Repr

/-- A key slot: loaded or retired, and how many keys it has held (R50, R54). -/
structure KeySlot where
  slot : Nat
  loaded : Bool
  gen : Nat
  deriving DecidableEq, Repr

/-- A TLBI that has not completed (R45, R46): the issuer, the form, and the nodes still to acknowledge. -/
structure TlbiReq where
  id : Nat
  node : Nat
  berth : Nat
  form : Nat
  ctx : Nat
  va : Nat
  left : List Nat
  deriving DecidableEq, Repr

/-! ## The part's own units -/

/-- A task as the dispenser reads it from its record and successor list (R401, R402). -/
structure Task where
  entry : Nat
  pool : Nat
  shape : Nat
  ranked : Bool
  hint : Nat
  succs : List Nat
  deriving DecidableEq, Repr

/-- What has become of a record of a launch (R400 to R404): its COUNT is not 0 yet; ready, the `n`-th to become so; dispatched,
with the members that have not ended; ended. -/
inductive Fate
  | waiting
  | ready (n : Nat) (t : Task)
  | running (left : Nat) (t : Task)
  | ended
  deriving DecidableEq, Repr

/-- An unended launch (R400, R406, R409): slot of its island, queue, address of its dispatch entry, context, priority, the
capability of its records, their base and launch id, their fates, the records with a nonzero status, and the sums of the last
sweep when that satisfied the conditions. -/
structure Launch where
  slot : Nat
  queue : Nat
  entry : Nat
  ctx : Nat
  prio : Nat
  cap : GReg
  base : Nat
  lid : Nat
  fates : List Fate
  bads : List (Nat × Nat)
  seen : Option (Nat × Nat)
  deriving DecidableEq, Repr

/-- One dispenser (R397, R399). -/
structure Dispenser where
  qtab : Word
  rebind : Bool
  en : Bool
  pools : List Word           -- DSP_POOL
  launches : List Launch
  ended : List (Nat × Nat × List Nat)   -- tasks that ended: launch slot, record index, successors to decrement
  turn : List (Nat × Nat × Nat × Nat)   -- per priority: the queue whose turn it is, slots it has filled, its QUOTA
  slot : Nat                  -- dispatch slot counter (R408)
  prios : List (Nat × Nat) := []     -- effective priorities of the round, by launch slot (R406)
  reserve : List (Nat × Nat × List Nat) -- cores reserved for a gang task: launch slot, record index, nodes (R404)
  seqno : Nat                 -- records that have become ready
  swept : Nat                 -- period of 2048 router cycles of the last sweep (R409)
  deriving DecidableEq, Repr

/-- One group's power registers and state (R446). -/
structure Group where
  budget : Nat
  withhold : Bool
  autowake : Bool
  seqerr : Bool
  overBudget : Bool
  hot : Bool
  railok : Bool
  img : Bool
  saved : Bool
  state : Nat
  quiesce : Bool              -- MASK bit
  quiesced : Bool
  drained : Bool
  gate : Bool
  rail : Nat
  wakeBy : Word               -- sources of the wakes under way, as in WAKE_SRC (R449, R450)
  deriving DecidableEq, Repr

/-- A cascade trigger (R451). -/
structure Cascade where
  gmask : BitVec 32
  param : BitVec 22
  ton : Bool
  fired : Bool
  kind : Nat
  value : Word
  deriving DecidableEq, Repr

/-- The state of a Rutuqua link (R474). -/
inductive LinkState | down | up | paired
  deriving DecidableEq, Repr

/-- The state of the device interface (R467). -/
inductive Tdi | unlocked | locked | run
  deriving DecidableEq, Repr

/-- A COPYC session key (R471, R472). -/
structure SessionKey where
  ix : Nat
  ctx : Nat
  key : List Byte
  pre : List Byte
  high : Word
  deriving DecidableEq, Repr

/-- The SPDM responder (R470): how far the exchange has gone, the requests it has answered since GET_VERSION, the session's
response-direction application data secret, and what the last answer carried. -/
structure Spdm where
  stage : Nat
  transcript : List Byte
  session : Option (List Byte)
  established : Bool
  answer : List Byte
  deriving DecidableEq, Repr

/-- The on-package flash (R475, R476; log 6): the device configuration record, whether its RSA-3072 signature verifies under the vendor
root key, whether the monitor image's does, and the usable DRAM. -/
structure DevConfig where
  kentry : Word
  valid : Bool
  dramTop : Nat
  maps : List (List Nat)      -- for each Torrent group, the positions of its 16 logical indices; [] = no failed core
  monitorValid : Bool
  trim : Nat                  -- number of the image (Config.image) that holds the trim values
  chain : Nat                 -- of the one that holds the certificate chain
  helper : Nat                -- of the one that holds the helper data of the identity key
  deriving DecidableEq, Repr

/-- The mailbox of the host interface (R468). -/
structure Mailbox where
  doorbell : Word
  cmd : Word
  args : List Word
  result : Word
  data : List Byte
  deriving DecidableEq, Repr

/-- The Portage engine (R455). -/
structure Portage where
  cmd : Word
  run : Word                  -- PORTAGE_CMD of the move in progress
  arg : Word
  list : Word
  err : Nat
  phase : Nat
  saved : List (Nat × Nat)    -- ranks saved: rank, node
  time : Word
  waitTlbi : List Nat
  abort : Bool                -- an ABORT has been written in PHASE 1 (R456)
  deriving DecidableEq, Repr

/-- A freeze on its way (R461): F, its freezing node, cause and context, and the nodes that its packet has yet to reach. -/
structure Freeze where
  f : Word
  node : Nat
  cause : Nat
  ctx : Nat
  left : List Nat
  deriving DecidableEq, Repr

/-- The Silt recorder's part-wide registers and the freeze in progress (R460 to R465). -/
structure Silt where
  en : Bool
  mctx : Nat
  opt : Word
  base : Nat                  -- SILT_RIND.BASE
  held : Nat                  -- the BASE of the capsule that is held (R466)
  frozen : Bool
  build : Bool
  valid : Bool
  drops : Nat
  ftime : Word                -- SILT_FTIME
  first : Word                -- when the first freeze reached the management core (R463)
  f : Word                    -- the smallest F of the merged freezes
  node : Nat
  cause : Nat
  fctx : Nat
  reached : Bool              -- a freeze has reached the management core since FROZEN became 1 (R463)
  flying : List Freeze
  deriving DecidableEq, Repr

/-- The state of the part. -/
structure State where
  cores : List (Nat × Core)   -- cores that differ from their reset state, by node
  cur : Nat                   -- node of the core whose turn it is
  cb : Nat                    -- its berth
  mem : Memory                -- bytes by home address
  tags : Memory               -- word tags by home word number, DATA unlisted
  units : List KeyedUnit
  owners : List (Nat × Nat × Nat)    -- a pool line's owner: context and key slot (R51, R52)
  l2 : List L2Line            -- lines of the L2 slices (R69), latest filled first
  gtlb : List (Nat × List Tlb)       -- group TLBs (R42): Torrent groups 0 to 31, Rill 32
  wcache : List (Nat × List WalkEntry)    -- walk caches (R42): super-groups 0 to 7, Rill 8
  tilAt : List (Word × List Word) := []   -- saved states, their state word and region, whose pending MMA had met an illegal TERN5 byte (R232)
  skew : List (Nat × Nat)     -- how far the time-base copies of a group's routers are ahead (R120, R121)
  resv : List Resv
  barriers : List Waiter
  words : List Waiter
  slots : List KeySlot
  kslotArg : Word
  kslotErr : Bool
  kslotBusy : Bool
  l2Target : BitVec 8
  l2Goal : BitVec 8           -- TARGET as the running command took it (R71)
  l2On : BitVec 8
  l2Busy : Bool
  l2Cur : Nat
  l2Err : Bool
  ctxdir : Word
  tlbis : List TlbiReq
  nextTlbi : Nat
  rep : Bool                  -- REPEAT.ON
  repApplied : Bool           -- applied (R251, R452)
  disp0 : Dispenser
  disp1 : Dispenser
  groups : Vector Group 32
  retSave : Bool              -- GRET_SAVE.BUSY
  tstate : Nat                -- ISLAND_STAT
  tbusy : Bool
  srallow : Bool
  dramsr : Bool
  bridge : Bool
  wakeSrc : Word
  arm : BitVec 17
  cascades : Vector Cascade 16
  portage : Portage
  silt : Silt
  mailbox : Mailbox
  window : Option (Nat × Nat) -- host window: context and virtual base (R469)
  hostRing : Option (Nat × Nat)      -- submission ring: BAR offset and entries (R473)
  hostPending : Option (Nat × Nat × GReg × Word)   -- a refused root launch: island, context, capability, launch word (R473)
  hostGot : List Byte         -- what the last host read returned (R469)
  spdm : Spdm
  keys : List SessionKey
  tdi : Tdi
  links : Vector LinkState 2
  peerOut : List Packet       -- packets a link interface has taken (R474)
  saved : List SavedThread    -- latest first
  binds : List (Nat × List PortBind) := []   -- the port bindings of the ranks whose PORTBs have set some: context × 1024 + rank (R194, R207)
  cfg : DevConfig
  idKey : List Byte := []     -- the identity key of this cold boot, which never leaves the MC's key store (R475)
  boot : Nat                  -- 0 before boot, 3 and 4 after its steps 1 and 2, 1 once it is over, 2 after a failure (R476; log 73)
  time : Word
  net : List Packet
  agenda : List Event         -- events that can happen next (log 1)
  freeCtr : Nat               -- counter of free values (log 7)
  deriving DecidableEq, Repr

/-- Why the machine stops with a fault: it has no such reason, every condition of the spec is a trap, a wait or an effect. -/
inductive Fault
  deriving DecidableEq, Repr

/-- Why the machine refuses an instruction. -/
inductive Refusal
  /-- No meaning has been given yet: raised by the arms of exec. Safe. -/
  | notModelled (mnemonic : String)
  deriving DecidableEq, Repr

/-! ## Reset -/

def GReg.zero : GReg := ⟨0, 0, .data⟩
def GReg.none : GReg := ⟨0, 0, .empty⟩

/-- A berth that holds no thread: its registers are EMPTY (log 5). -/
def Berth.vacant : Berth :=
  { occupied := false, stopped := false, pc := 0
    g := Vector.replicate 64 GReg.none, v := Vector.replicate 32 ⟨0, false⟩
    k := Vector.replicate 4 ⟨0, false⟩, ox := Vector.replicate 4 ⟨0, false⟩
    status := 0, cause := 0, epc := 0, eval := 0, timecmp := 0, prio := 0, mspill := 0, vstat := 0, arith := 0
    repst := 0, seqOn := false, seqkey := 0, seqtrap := 0, lease := 0, leaseAt := 0, nrank := 0, nberth := 0, nnode := 0
    gang := none, launch := none, task := 0, wait := .none, rsp := [] }

/-- B0 at reset: registers DATA 0, not running until its core starts (R414; log 5). -/
def Berth.kernel : Berth :=
  { Berth.vacant with
    g := Vector.replicate 64 GReg.zero, v := Vector.replicate 32 ⟨0, true⟩
    k := Vector.replicate 4 ⟨0, true⟩, ox := Vector.replicate 4 ⟨0, true⟩ }

def Port.empty : Port := ⟨[], [], .default, false⟩

def Engine.free : Engine :=
  { held := false, ob := 0, obase := 0, oen := false, oclass := 0, ogang := false, acc := Vector.replicate 4 .empty
    progress := none, flight := none, slot := none, waiting := [] }

/-- A core right after reset: OFF (R476 brings the Rill cores and the management core to RUN). -/
def Core.reset : Core :=
  { power := .off, b0 := Berth.kernel, b1 := Berth.vacant, b2 := Berth.vacant, b3 := Berth.vacant
    away := false, guestAge := true, idle0 := true, ctxid := 0, rank := 0, tvec := 0, ksavea := 0, ksaveb := 0
    tags := 0, tagOrder := [], copyStatus := Vector.replicate 64 0, geom := 0, tapen := 0, dispCur := 3
    den := false, noguest := false, ready := [], hold := false, inbox := [], urgent := []
    ovfTail := 0, ovfHead := 0, ovfSize := 0, ovfBase := 0, ovfEn := false
    ports := Vector.replicate 10 Port.empty, absent := none, pendSync := none, wakeSrc := none, preempt := none
    recalled := false, atNi := [], engine := Engine.free, fifo := [], nextCopy := 0, l1 := [], icache := []
    tlb := [], rankCache := [], epoch := false, tlbiAck := none, tlbiCopies := 0, unacked := (0, 0), heldPkts := [], bridgeHeld := [], probes := []
    poolTag := 3, poolNew := none, ring := [], ringStopped := false, freezeF := none, sent := [], received := [], gangPanels := []
    stoppedBy := false, lastB := 0, entryFence := 0 }

/-- A group right after reset (R446): OFF, AUTOWAKE 1. -/
def Group.reset : Group :=
  { budget := 0, withhold := false, autowake := true, seqerr := false, overBudget := false, hot := false, railok := false
    img := false, saved := false, state := 2, quiesce := false, quiesced := false, drained := false, gate := true
    rail := 0, wakeBy := 0 }

/-- A dispenser right after reset (R399). -/
def Dispenser.reset (pools : List Word) : Dispenser :=
  { qtab := 0, rebind := true, en := false, pools := pools, launches := [], ended := [], turn := [], slot := 0
    reserve := [], seqno := 0, swept := 0 }

/-- The part right after a cold reset: every field at the value the spec gives for reset; where it gives none, the
value named in notes/assumptions 1, 4, 5, 6 and 7. -/
def State.reset : State :=
  { cores := [], cur := 0x808, cb := 0, mem := [], tags := [], units := [], owners := [], l2 := [], gtlb := [], wcache := [], skew := [], resv := [], barriers := []
    words := [], slots := [⟨0, true, 0⟩], kslotArg := 0, kslotErr := false, kslotBusy := false
    l2Target := 0xFF, l2Goal := 0xFF, l2On := 0xFF, l2Busy := false, l2Cur := 0, l2Err := false, ctxdir := 0, tlbis := []
    nextTlbi := 0, rep := false, repApplied := false
    disp0 := Dispenser.reset (List.replicate 32 0xFFFFFFFF), disp1 := Dispenser.reset [0x0000FFFF]
    groups := Vector.replicate 32 Group.reset, retSave := false
    tstate := 0, tbusy := false, srallow := false, dramsr := false, bridge := false, wakeSrc := 0, arm := 0
    cascades := Vector.replicate 16 ⟨0, 0, false, false, 0, 0⟩
    portage := ⟨0, 0, 0, 0, 0, 0, [], 0, [], false⟩
    silt := ⟨true, 0, 0, 0, 0, false, false, false, 0, 0, 0, 0, 0, 0, 0, false, []⟩
    mailbox := ⟨0, 0, [], 0, []⟩, window := none, hostRing := none, hostPending := none, hostGot := []
    spdm := ⟨0, [], none, false, []⟩, keys := [], tdi := .unlocked, links := Vector.replicate 2 .down, peerOut := [], saved := []
    cfg := ⟨0x10000, true, 62 * 2 ^ 30, [], true, 6, 5, 7⟩, boot := 0, time := 0, net := [], agenda := [], freeCtr := 0 }

end Sys2Proof.Machine
end

