-- ==== Sys2Proof/Machine/Blocks.lean ====
section
/-! DEFINITION. The block-exact arithmetic of the matrix engine: the elements of a tile block, their products and sums, and an
accumulator after a block (R225, R227, R230, R244, R245, R350, R356). -/

namespace Sys2Proof.Machine

/-! ## Elements and blocks (R225, R227, R230, R350) -/

/-- The value of an element code of a tile format; a TERN5 code is its digit. -/
def tileVal (fmt : Nat) (u : Bool) (c : Nat) : FpV :=
  let i (v : Int) : FpV := .fin (v < 0) v.natAbs 0
  match fmt with
  | 0 => bf16.decode c
  | 1 => fp16.decode c
  | 2 => e4m3.decode c
  | 3 => e5m2.decode c
  | 4 => fp4.decode c
  | 5 => i (intVal (!u) 8 c)
  | 6 => i (intVal true 4 c)
  | _ => i ((c : Int) - 1)

/-- Element `k` of a row of tile bytes; beyond `cols` the padding of R246. -/
def tileCode (fmt x cols k : Nat) : Nat :=
  if cols ≤ k then (if fmt = 7 then 1 else 0)
  else
    match fmt with
    | 0 => x / 2 ^ (16 * k) % 2 ^ 16
    | 1 => x / 2 ^ (16 * k) % 2 ^ 16
    | 4 => x / 2 ^ (4 * k) % 16
    | 6 => x / 2 ^ (4 * k) % 16
    | 7 => let b := x / 2 ^ (8 * (k / 5)) % 256; if tritsIllegal b then 1 else b / 3 ^ (k % 5) % 3
    | _ => x / 2 ^ (8 * k) % 256

/-- Whether block `j` of a TERN5 row has an illegal byte. -/
def tileTil (fmt x cols j : Nat) : Bool :=
  fmt = 7 && (List.range 48).any fun t => 48 * j + t < cols && tritsIllegal (x / 2 ^ (8 * ((48 * j + t) / 5)) % 256)

/-- Block `j` of a row. -/
def tileBlock (fmt x cols j : Nat) : List Nat := (List.range 48).map fun t => tileCode fmt x cols (48 * j + t)

/-- Block `j` of the operands of an MMA. -/
def mmaBlock (fa fb : Nat) (ua ub : Bool) (cols : Nat) (a b : Panel) (j : Nat) : MmaBlock :=
  ⟨fa, fb, ua, ub, a.map fun r => r.2.getD j 0x7F, b.map fun r => r.2.getD j 0x7F,
    a.map fun r => tileBlock fa r.1 cols j, b.map fun r => tileBlock fb r.1 cols j,
    a.any (fun r => tileTil fa r.1 cols j) || b.any fun r => tileTil fb r.1 cols j⟩

/-- BF16 and FP16: the tree of R245. -/
def treeFmt (f : Nat) : Bool := f ≤ 1

/-- The integer formats. -/
def intFmt (f : Nat) : Bool := 5 ≤ f

/-- The exact product of two elements. -/
def elemProduct (x y : FpV) : FpV :=
  match x, y with
  | .nan _, _ => .nan false
  | _, .nan _ => .nan false
  | .inf a, .inf b => .inf (a != b)
  | .inf a, .fin b m _ => if m = 0 then .nan false else .inf (a != b)
  | .fin a m _, .inf b => if m = 0 then .nan false else .inf (a != b)
  | .fin a m e, .fin b n k => .fin (a != b) (m * n) (e + k)

/-- The products of two rows' blocks. -/
def products (fa fb : Nat) (ua ub : Bool) (a b : List Nat) : List FpV :=
  List.zipWith (fun x y => elemProduct (tileVal fa ua x) (tileVal fb ub y)) a b

/-- A node of the tree: the exact sum of its inputs rounded to FP32. -/
def fpNode (x y : FpV) : FpV := fp32.decode (fpAddV fp32 rmRNE x y).1

/-- One level of the tree. -/
def fpLevel : List FpV → List FpV
  | x :: y :: r => fpNode x y :: fpLevel r
  | l => l

/-- T of R245: four levels give three nodes; node 2 is added to the sum of nodes 0 and 1. -/
def treeSum (ps : List FpV) : FpV :=
  match fpLevel (fpLevel (fpLevel (fpLevel ps))) with
  | [x, y, z] => fpNode (fpNode x y) z
  | _ => .fin false 0 0

/-- The exact sum of finite products. -/
def exactSum (ps : List FpV) : Dy := ps.foldl (fun d p => d.add p.dy) Dy.zero

/-- An FP32 element after a block-exact, scaled block (R244); an infinite S meets an infinite or NaN acc as in any sum (log 96). -/
def addScaled (acc : Nat) (sa sb : Nat) (ps : List FpV) : Nat :=
  let pos := ps.any fun p => p == .inf false
  let neg := ps.any fun p => p == .inf true
  if sa = 0xFF || sb = 0xFF || ps.any FpV.isNan || (pos && neg) then fp32.nan
  else if pos || neg then (fpAddV fp32 rmRNE (fp32.decode acc) (.inf neg)).1
  else
    let d := exactSum ps
    if d.n = 0 then acc
    else (fpAddV fp32 rmRNE (fp32.decode acc) (.fin (d.n < 0) d.n.natAbs (d.e + (sa : Int) + (sb : Int) - 254))).1

/-- An INT32 element after a block (R245). -/
def addInt (acc : BitVec 32) (ps : List FpV) : BitVec 32 :=
  acc + BitVec.ofInt 32 (ps.foldl (fun (x : Int) p => x + p.dy.n) 0)

/-- An FP32 element after one block. -/
def addFp (b : MmaBlock) (i c : Nat) (acc : BitVec 32) : BitVec 32 :=
  let ps := products b.fa b.fb b.ua b.ub (b.ea.getD i []) (b.eb.getD c [])
  BitVec.ofNat 32
    (if treeFmt b.fa then (fpAddV fp32 rmRNE (fp32.decode acc.toNat) (treeSum ps)).1
     else addScaled acc.toNat (b.sa.getD i 0x7F) (b.sb.getD c 0x7F) ps)

/-- An accumulator after a block: elements outside the extents keep their value (R356). -/
def Acc.addBlock (a : Acc) (b : MmaBlock) : Acc :=
  let at_ (e : List (BitVec 32)) (f : Nat → Nat → BitVec 32 → BitVec 32) : List (BitVec 32) :=
    e.zipIdx.map fun p => if p.2 / 32 < b.ea.length && p.2 % 32 < b.eb.length then f (p.2 / 32) (p.2 % 32) p.1 else p.1
  match a with
  | .empty => .empty
  | .fp32 e => .fp32 (at_ e (addFp b))
  | .int32 e => .int32 (at_ e fun i c x => addInt x (products b.fa b.fb b.ua b.ub (b.ea.getD i []) (b.eb.getD c [])))

/-! ## The engine's accumulators -/

def Engine.getAcc (e : Engine) (d : Nat) : Acc := if h : d < 4 then e.acc[d] else .empty

def Engine.setAcc (e : Engine) (d : Nat) (a : Acc) : Engine := if h : d < 4 then { e with acc := e.acc.set d a } else e

def Engine.addBlocks (e : Engine) (d : Nat) (bs : List MmaBlock) : Engine :=
  e.setAcc d (bs.foldl Acc.addBlock (e.getAcc d))

end Sys2Proof.Machine
end

