-- ==== Sys2Proof/Machine/Bytes.lean ====
section
/-! DEFINITION. A byte memory: reading and writing bytes and little-endian numbers, and its canonical form (R3). -/

namespace Sys2Proof.Machine

/-- The byte at a home address; an unlisted address reads as 0 (log 4). -/
def mget : Memory → Nat → Byte
  | [], _ => 0
  | (k, v) :: r, a => if a = k then v else if a < k then 0 else mget r a

/-- Lists `a` with the value `b`, or takes it out when `b` is what an unlisted address reads as. -/
def mput : Memory → Nat → Byte → Memory
  | [], a, b => if b = 0 then [] else [(a, b)]
  | (k, v) :: r, a, b =>
    if a = k then (if b = 0 then r else (a, b) :: r)
    else if a < k then (if b = 0 then (k, v) :: r else (a, b) :: (k, v) :: r)
    else (k, v) :: mput r a b

/-- The canonical form from address `lo` on: addresses strictly rise, none is listed with 0. -/
def Memory.wfFrom : Nat → Memory → Bool
  | _, [] => true
  | lo, (k, v) :: r => lo ≤ k && v != 0 && Memory.wfFrom (k + 1) r

/-- The canonical form of a memory. -/
def Memory.wf (m : Memory) : Bool := Memory.wfFrom 0 m

/-- `n` bytes from `a` on as a number, least significant byte first (R3). -/
def mgetN (m : Memory) (a : Nat) : Nat → Nat
  | 0 => 0
  | n + 1 => (mget m a).toNat + 256 * mgetN m (a + 1) n

/-- Stores the low `n` bytes of a number from `a` on (R3). -/
def mputN (m : Memory) (a : Nat) : Nat → Nat → Memory
  | 0, _ => m
  | n + 1, x => mputN (mput m a (BitVec.ofNat 8 x)) (a + 1) n (x / 256)

/-- Clears bit 56 of the word 8 bytes after `gran`: a barrier's W (R168). -/
def clearW (m : Memory) (gran : Nat) : Memory := mput m (gran + 15) (mget m (gran + 15) &&& 0xFE)

end Sys2Proof.Machine
end

