-- ==== Sys2Proof/Machine/Ops.lean ====
section
/-! DEFINITION. The named operations on the state that every meaning uses: fields of words, cores and berths, registers,
retiring an instruction, stopping and resuming berths, taking an exception and returning from one. -/

namespace Sys2Proof.Machine

abbrev Out := Host.Outcome State Fault Refusal

/-! ## Fields of words -/

/-- The value of bits [lo + len - 1 : lo] of a register. -/
def getF (w : Word) (lo len : Nat) : Nat := (w.extractLsb' lo len).toNat

/-- A register with bits [lo + len - 1 : lo] replaced by the low bits of `v`. -/
def setF (w : Word) (lo len v : Nat) : Word :=
  (w &&& ~~~((BitVec.ofNat 64 (2 ^ len - 1)) <<< lo)) ||| ((BitVec.ofNat 64 (v % 2 ^ len)) <<< lo)

/-- One bit as a Bool. -/
def bitOf (w : Word) (i : Nat) : Bool := w.getLsbD i

def b2n (b : Bool) : Nat := if b then 1 else 0

def w64 (n : Nat) : Word := BitVec.ofNat 64 n

/-! ## Association lists -/

/-- The value a list holds under a key. -/
def alGet {α : Type} : List (Nat × α) → Nat → Option α
  | [], _ => none
  | (k, v) :: r, n => if n = k then some v else alGet r n

/-- The list with the value under a key set, in rising order of keys. -/
def alSet {α : Type} : List (Nat × α) → Nat → α → List (Nat × α)
  | [], n, x => [(n, x)]
  | (k, v) :: r, n, x =>
    if n = k then (n, x) :: r else if n < k then (n, x) :: (k, v) :: r else (k, v) :: alSet r n x

/-! ## Cores and berths -/

/-- The core at a node. -/
def State.core (s : State) (n : Nat) : Core := (alGet s.cores n).getD Core.reset

def State.setCore (s : State) (n : Nat) (c : Core) : State := { s with cores := alSet s.cores n c }

/-- A berth of a core, 0 to 3. -/
def Core.berth (c : Core) (i : Nat) : Berth :=
  match i with
  | 0 => c.b0
  | 1 => c.b1
  | 2 => c.b2
  | _ => c.b3

def Core.setBerth (c : Core) (i : Nat) (b : Berth) : Core :=
  match i with
  | 0 => { c with b0 := b }
  | 1 => { c with b1 := b }
  | 2 => { c with b2 := b }
  | _ => { c with b3 := b }

/-- The core and the berth whose instruction runs. -/
def State.here (s : State) : Core := s.core s.cur

def State.setHere (s : State) (c : Core) : State := s.setCore s.cur c

def State.me (s : State) : Berth := s.here.berth s.cb

def State.setMe (s : State) (b : Berth) : State := s.setHere (s.here.setBerth s.cb b)

/-- A berth anywhere. -/
def State.berthAt (s : State) (n i : Nat) : Berth := (s.core n).berth i

def State.setBerthAt (s : State) (n i : Nat) (b : Berth) : State := s.setCore n ((s.core n).setBerth i b)

/-- The management core (R89). -/
def mcNode : Nat := 0x808

/-- Whether a node is a Rill compute core or the management core. -/
def isRill (n : Nat) : Bool := 0x800 ≤ n && n ≤ 0x808

/-- The nodes of a Torrent group's 17 positions (R89). -/
def groupNodes (g : Nat) : List Nat := (List.range 17).map fun p => g / 4 * 128 + g % 4 * 32 + p

/-- The group of a Torrent node. -/
def groupOf (n : Nat) : Nat := n / 128 * 4 + n / 32 % 4

/-- The nodes of the two peer links (R89). -/
def isLink (n : Nat) : Bool := n = 0x450 || n = 0x451

/-- The endpoints of the network (R89). -/
inductive Endpoint
  | core (sg grp pos : Nat)
  | slice (i : Nat)
  | channel (i : Nat)
  | link (i : Nat)
  | walkers (sg : Nat)
  | rill (i : Nat)
  | monitor
  | bank (i : Nat)
  | rillWalkers
  | bridge
  | host
  | portage
  deriving DecidableEq, Repr

/-- What a node number names (R89). -/
def endpoint (n : Nat) : Option Endpoint :=
  if n < 0x400 then (if n % 32 ≤ 16 then some (.core (n / 128) (n / 32 % 4) (n % 32)) else none)
  else if n < 0x440 then some (.slice (n - 0x400))
  else if n < 0x44C then some (.channel (n - 0x440))
  else if n = 0x450 || n = 0x451 then some (.link (n - 0x450))
  else if 0x460 ≤ n && n < 0x468 then some (.walkers (n - 0x460))
  else if 0x800 ≤ n && n < 0x808 then some (.rill (n - 0x800))
  else if n = 0x808 then some .monitor
  else if 0x810 ≤ n && n < 0x820 then some (.bank (n - 0x810))
  else if n = 0x820 then some .rillWalkers
  else if n = 0x830 then some .bridge
  else if n = 0x838 then some .host
  else if n = 0x840 then some .portage
  else none

/-- The routers that serve a core share a time-base copy in the model (R120; log 91): Torrent groups 0 to 31, Rill 32. -/
def routerOf (n : Nat) : Nat := if isRill n then 32 else groupOf n

/-- The time base as the router of a core has it (R120, R121). -/
def State.timeAt (s : State) (n : Nat) : Word := s.time + BitVec.ofNat 64 ((alGet s.skew (routerOf n)).getD 0)

/-- Privilege of the executing berth (R413): 0 user, 1 kernel, 2 monitor. -/
def State.priv (s : State) : Nat := if s.cb = 0 then (if s.cur = mcNode then 2 else 1) else 0

/-- The identity of the executing thread at the homes (R154): native node and native berth. -/
def State.ident (s : State) : Nat × Nat :=
  if s.cb = 0 then (s.cur, 0) else if s.cb = 1 then (s.cur, 1) else (s.me.nnode, 1)

/-- The native rank of the executing thread; 0 in B0 (R212). -/
def State.nativeRank (s : State) : Nat := if s.cb = 0 then 0 else s.me.nrank

/-- Whether the executing thread is a guest (R181). -/
def State.guest (s : State) : Bool := 2 ≤ s.cb

/-- Kernel or monitor code. -/
def State.kern (s : State) : Bool := s.cb = 0

/-! ## Registers -/

def isGPort (n : BitVec 6) : Bool := 56 ≤ n.toNat && n.toNat ≤ 61

def isVPort (n : BitVec 5) : Bool := 28 ≤ n.toNat

/-- A g register that is no port; g0 reads as 0, DATA (R204). -/
def Berth.getG (b : Berth) (n : BitVec 6) : GReg := if n = 0 then GReg.zero else b.g[n.toNat]

/-- A write of a g register that is no port; writes to g0 are discarded (R204). -/
def Berth.setG (b : Berth) (n : BitVec 6) (r : GReg) : Berth :=
  if n = 0 then b else { b with g := b.g.set n.toNat r }

def Berth.getV (b : Berth) (n : BitVec 5) : VReg := b.v[n.toNat]

def Berth.setV (b : Berth) (n : BitVec 5) (x : BitVec 512) : Berth := { b with v := b.v.set n.toNat ⟨x, true⟩ }

/-- k0 reads as all ones (R204). -/
def Berth.getK (b : Berth) (n : BitVec 2) : XReg := if n = 0 then ⟨BitVec.allOnes 64, true⟩ else b.k[n.toNat]

def Berth.setK (b : Berth) (n : BitVec 2) (x : Word) : Berth :=
  if n = 0 then b else { b with k := b.k.set n.toNat ⟨x, true⟩ }

def Berth.setOx (b : Berth) (n : BitVec 2) (x : Word) : Berth := { b with ox := b.ox.set n.toNat ⟨x, true⟩ }

/-- A DATA result with a zero shadow (R201). -/
def dataReg (v : Word) : GReg := ⟨v, 0, .data⟩

/-- The tag code of R201. -/
def GTag.code : GTag → Word
  | .data => 0
  | .cap => 1
  | .empty => 2

/-! ## Causes and stops -/

/-- The codes of R415 and R416. -/
def Cause.code : Cause → Word
  | .illegal => 0x01
  | .priv => 0x02
  | .emptyread => 0x03
  | .captag => 0x04
  | .capbounds => 0x05
  | .capperm => 0x06
  | .align => 0x07
  | .pagefault => 0x08
  | .pageperm => 0x09
  | .poison => 0x0A
  | .syncstore => 0x0B
  | .barstate => 0x0C
  | .nondet => 0x0E
  | .ternill => 0x0F
  | .hdrfmt => 0x10
  | .taphit => 0x11
  | .sampledom => 0x12
  | .gramdead => 0x13
  | .migfault => 0x14
  | .portbind => 0x15
  | .spillfault => 0x16
  | .copyform => 0x17
  | .syscall => 0x18
  | .brk => 0x19
  | .timer => 0x80
  | .urgent => 0x81
  | .absent => 0x82
  | .preempt => 0x83
  | .machine => 0x84
  | .wake => 0x85

/-- Why an instruction does not complete with its own effect: a trap that changes nothing else (R9), a trap some of whose
effects survive (R9's exceptions), a wait, a guest's return to its native berth (R116), a migration to a node (R113). -/
inductive Stop
  | trap (c : Cause) (v : Word)
  | keep (t : State) (c : Cause) (v : Word)
  | wait (t : State)
  | home
  | move (t : State) (rank node : Nat)

abbrev M (α : Type) := Except Stop α

def trap {α : Type} (c : Cause) (v : Word) : M α := .error (.trap c v)

/-- Passes when the condition holds, else traps. -/
def check (p : Bool) (c : Cause) (v : Word) : M Unit := if p then .ok () else trap c v

/-! ## Free values (log 7) -/

/-- A value the spec leaves open. -/
def State.free (s : State) : Nat := Config.freeNat s.freeCtr

/-- The state after a free value has been used. -/
def State.drawn (s : State) : State := { s with freeCtr := s.freeCtr + 1 }

/-- Lets an event happen later (log 1). -/
def State.later (s : State) (e : Event) : State := { s with agenda := s.agenda ++ [e] }

/-- The same for an event that happens at most once at a time. -/
def State.laterOnce (s : State) (e : Event) : State := if s.agenda.contains e then s else s.later e

/-- An event that could not happen yet is tried again, before those that came after it (R98). -/
def State.again (s : State) (e : Event) : State := { s with agenda := e :: s.agenda }

/-- A list with room for one more entry, of a structure of `k`: when it is full, a freely chosen entry leaves it (log 13). -/
def State.roomIn {α : Type} (s : State) (k : Nat) (l : List α) : State × List α :=
  if l.length < k then (s, l) else (s.drawn, l.eraseIdx (s.free % l.length))

/-! ## STATUS fields (R421) and REPST fields (R272) -/

def Berth.ktrap (b : Berth) : Bool := bitOf b.status 7
def Berth.tb (b : Berth) : Nat := getF b.status 10 2
def Berth.sb (b : Berth) : Nat := getF b.status 12 3
def Berth.warr (b : Berth) : Bool := bitOf b.status 15
def Berth.lseq (b : Berth) : Nat := getF b.status 32 16
def Berth.setWarr (b : Berth) (w : Bool) : Berth := { b with status := setF b.status 15 1 (b2n w) }

/-- REPST.ACT. -/
def Berth.actBit (b : Berth) : Bool := bitOf b.repst 63

/-- Whether the sequencer issues the berth's next instruction as body of a repetition (R271, R273). -/
def Berth.repAct (b : Berth) : Bool := b.seqOn && b.actBit

/-- ERET, a resumed migration or GRST that finds ACT = 1 resumes the sequencer (R273). -/
def Berth.resumeSeq (b : Berth) : Berth := { b with seqOn := b.actBit }

def Berth.repS (b : Berth) : Nat := getF b.repst 58 5
def Berth.repN (b : Berth) : Nat := getF b.repst 54 4
def Berth.repK (b : Berth) : Nat := getF b.repst 50 4
def Berth.repJ (b : Berth) : Nat := getF b.repst 24 24
def Berth.repRem (b : Berth) : Nat := getF b.repst 0 24

/-! ## Retiring an instruction -/

/-- The berth past its instruction of `len` bytes. While a repetition is active, the sequencer of R271 goes to its next
issue: the next body instruction, the first one of the next round, or past the body with REPST 0. A REM of 0 counts as the last round
and a K above N as the body's end (log 112). -/
def Berth.advance (b : Berth) (len : Nat) : Berth :=
  if b.repAct then
    if b.repK < b.repN then { b with repst := setF b.repst 50 4 (b.repK + 1), pc := b.pc + 4 }
    else if 1 < b.repRem then
      { b with
        repst := setF (setF (setF b.repst 50 4 0) 24 24 (b.repJ + 1)) 0 24 (b.repRem - 1)
        pc := b.pc - w64 (4 * b.repN) }
    else { b with repst := 0, seqOn := false, pc := b.pc + 4 }
  else { b with pc := b.pc + w64 len }

/-- The instruction is over: the berth goes on at its next issue, its waits and responses forgotten. -/
def State.retire (s : State) (len : Nat) : State :=
  s.setMe { s.me.advance len with wait := .none, rsp := [], fetched := none }

/-- The instruction is over and the berth goes on at `t`. -/
def State.jump (s : State) (t : Word) : State := s.setMe { s.me with pc := t, wait := .none, rsp := [], fetched := none }

/-! ## Stopping and resuming berths -/

/-- Whether a berth's operation is at another rank's LM (R111). -/
def Wait.isHome : Wait → Bool
  | .home _ _ => true
  | _ => false

/-- A berth stops before its instruction completes: a queued LRW gives its entry up (R117), a BAW that has arrived writes
its phase and sets WARR (R173; a phase for g0 or a port is kept in the slot that register has no use for), waits are dropped (R175, R434), and it is fetched again. An access at its home or a packet in the hold buffer
goes on (R297, R92). -/
def Berth.interrupt (b : Berth) : Berth :=
  match b.wait with
  | .barrier _ (some (d, ph)) =>
    let b' := { b.setWarr true with wait := .none, fetched := none }
    if h : d < 64 then { b' with g := b'.g.set d (dataReg ph) } else b'
  | .remote => b
  | .home _ _ => b
  | .bridge => b
  | .done _ _ => b
  | .failed _ _ => b
  | .woken => b
  | .lbnd => b
  | .arrive _ _ _ => b
  | .retry => b
  | .none => if b.rsp.isEmpty then { b with fetched := none } else b
  | _ => { b with wait := .none, rsp := [], fetched := none }

/-- The event by which a packet reaches its destination. -/
def Packet.event (p : Packet) : Event :=
  let a := BitVec.ofNat 12 p.src
  let b := BitVec.ofNat 12 p.dst
  match p.body with
  | .nmsg _ => .nmsgArrive a b
  | .umsg _ => .umsgArrive a b
  | .gport _ _ => .gportArrive a b
  | .vport _ _ => .vportArrive a b
  | .rwreq _ _ => .rwreqArrive a b
  | .rwrsp _ _ => .rwrspArrive a b
  | .mig _ => .migArrive a b
  | .evict _ => .evictArrive a b
  | .dack e => .dackArrive b (if e then 1 else 0)
  | .mrsp i => .mrspArrive b (BitVec.ofNat 2 i)
  | .gangb _ _ => .gangbArrive a b

/-- One rank-addressed packet of an epoch is acknowledged (R107). -/
def Core.acked (c : Core) (epoch : Bool) : Core :=
  { c with unacked := if epoch then (c.unacked.1, c.unacked.2 - 1) else (c.unacked.1 - 1, c.unacked.2) }

/-- Whether an event is the operation of a berth on its way to its home (R111). -/
def Event.homeOf (e : Event) (n i : Nat) : Bool :=
  let at_ (node : BitVec 12) (berth : BitVec 2) : Bool := node.toNat = n && berth.toNat = i
  match e with
  | .homeAmo node berth _ _ _ _ _ _ _ => at_ node berth
  | .homeRed node berth _ _ _ _ _ _ => at_ node berth
  | .homeLoga node berth _ _ _ _ _ _ _ _ _ _ => at_ node berth
  | .homeLrw node berth _ _ _ _ => at_ node berth
  | .homeSch node berth _ _ _ _ _ => at_ node berth
  | .homeBarrier node berth _ _ _ _ _ => at_ node berth
  | .homeWaitRegister node berth _ _ _ _ _ => at_ node berth
  | _ => false

/-- Whether a packet is a remote word access of a berth (R110). -/
def Packet.reqOf (p : Packet) (n i : Nat) : Bool :=
  match p.body with
  | .rwreq k _ => p.src = n && k = i
  | _ => false

/-- Whether an event brings a value of a word to a berth that waits for it (R174). -/
def Event.isValue (e : Event) (n i : Nat) : Bool :=
  match e with
  | .waitValue node berth _ => node.toNat = n && berth.toNat = i
  | _ => false

/-- A berth waits for a word no longer: its registration, and the values that are on their way to it, are dropped. -/
def State.unwait (s : State) (n i : Nat) : State :=
  { s with
    words := s.words.filter fun w => !(w.node = n && w.berth = i)
    agenda := s.agenda.filter fun e => !e.isValue n i }

/-- A barrier at which a thread has waited has W 0 from now on (R168): in the L2 line of its context and key slot, else in memory where
that holds the granule as the thread's context reaches it (R51, R52). -/
def State.clearWait (s : State) (w : Waiter) : State :=
  let k := 8 * (w.addr % 64) + 120
  let low : State := { s with mem := clearW s.mem w.addr }
  if 2 ^ 49 ≤ w.addr then low
  else if 2 ^ 48 ≤ w.addr then (if alGet s.owners (w.addr / 64) = some (w.ctx, w.slot) then low else s)
  else if s.l2.any fun x => x.unit = w.addr / 64 && x.ctx = w.ctx && x.slot = w.slot then
    { s with l2 := s.l2.map fun x =>
        if x.unit = w.addr / 64 then { x with bytes := x.bytes - x.bytes / 2 ^ k % 2 * 2 ^ k, dirty := true } else x }
  else if (s.units.find? (·.block = w.addr / 16)).all (·.slot = w.slot) then low
  else s

/-- Takes a stopped berth's queued LRW, barrier wait and word wait out of the homes; a barrier that no thread waits at any
more has W 0 (R168). -/
def State.dropWaits (s : State) (n i : Nat) : State :=
  let mine := s.barriers.filter fun w => w.node = n && w.berth = i
  let rest := s.barriers.filter fun w => !(w.node = n && w.berth = i)
  let last (w : Waiter) : Bool := !rest.any fun x => x.addr = w.addr && x.ctx = w.ctx && x.slot = w.slot
  let s1 := (mine.filter last).foldl State.clearWait (s.unwait n i)
  { s1 with
    resv := s1.resv.filter fun r => r.holds || !(r.waitNode = n && r.waitBerth = i)
    barriers := rest }

/-- A request of a berth that has not reached its home is taken back: its instruction has not issued (R297). One held for an
in-transit rank is given up (R108). -/
def State.cancelReq (s : State) (n i : Nat) : State :=
  let b := s.berthAt n i
  let c := s.core n
  match b.wait with
  | .home _ _ =>
    match s.agenda.find? (·.homeOf n i) with
    | some e => { s with agenda := s.agenda.erase e }.setBerthAt n i { b with wait := .none }
    | none => s
  | .held =>
    (s.setCore n { c with heldPkts := c.heldPkts.filter fun p => !p.reqOf n i }).setBerthAt n i { b with wait := .none, rsp := [] }
  | .remote =>
    if !b.rsp.isEmpty then s
    else
      match s.net.find? (·.reqOf n i) with
      | some p =>
        ({ s with net := s.net.erase p, agenda := s.agenda.erase p.event }.setCore n (c.acked p.epoch)).setBerthAt n i
          { b with wait := .none }
      | none =>
        match c.bridgeHeld.find? (·.reqOf n i) with
        | some p =>
          (s.setCore n { c.acked p.epoch with bridgeHeld := c.bridgeHeld.erase p }).setBerthAt n i { b with wait := .none }
        | none => s
  | _ => s

/-- What remains of an MMA that is stopped (R347): PACC, BLK and the operands already read of BLK. -/
def Flight.stopped (f : Flight) : Progress :=
  ⟨f.acc, f.next, f.blocks.head?, f.til || (f.blocks.take 1).any (·.til)⟩

/-- Takes a berth out of the list of those that wait for the engine; a spill made for its claim is for it no more. -/
def Engine.unwait (e : Engine) (i : Nat) : Engine :=
  { e with waiting := e.waiting.filter (· ≠ i), grant := e.grant.filter (· ≠ i) }

/-- A stop while an MMA of the berth is in flight, in the engine or spilled. One that the thread has gone past comes to its end first, as
EPC is to point past it: in the engine its blocks are added, in the spill slot they are owed to the next reload (R347, R355; log 36). -/
def Engine.stopMma (e : Engine) (i : Nat) : Engine :=
  match e.flight.filter (·.berth = i) with
  | some f =>
    if f.past then { e.addBlocks f.acc f.blocks with flight := none, progress := none }
    else { e with flight := none, progress := some f.stopped }
  | none =>
    { e with
      slot := e.slot.map fun p =>
        match p.flight.filter (·.berth = i) with
        | some f =>
          if f.past then { p with flight := none, progress := none, owed := some f }
          else { p with flight := none, progress := some f.stopped }
        | none => p }

/-- The MMA that a berth has in flight, in the engine or spilled. -/
def Engine.flightOf (e : Engine) (i : Nat) : Option Flight :=
  (e.flight.filter (·.berth = i)).or ((e.slot.bind (·.flight)).filter (·.berth = i))

/-- Whether an MMA of a berth is in flight that its later MAT instructions and TEXIT wait for (R319, R355): one whose spilled state is lost
never ends. -/
def Engine.mmaBusy (e : Engine) (i : Nat) : Bool :=
  e.flight.any (·.berth = i) || e.slot.any fun p => !p.lost && p.flight.any (·.berth = i)

/-- The thread of a berth goes past its MMA, which stays in flight (R355). -/
def Engine.goPast (e : Engine) (i : Nat) : Engine :=
  let mark (f : Flight) : Flight := if f.berth = i then { f with past := true } else f
  { e with flight := e.flight.map mark, slot := e.slot.map fun p => { p with flight := p.flight.map mark } }

/-- The same stop with its flags: the illegal bytes that the MMA has met set TIL (R232, log 102). -/
def Core.stopMma (c : Core) (i : Nat) : Core :=
  let c1 := { c with engine := (c.engine.stopMma i).unwait i }
  if (c.engine.flightOf i).any fun f => !f.past && f.stopped.til then
    let b := c1.berth i
    c1.setBerth i { b with vstat := b.vstat ||| w64 flTIL }
  else c1

/-- The home lines that MMAs of a core have pinned: the one in flight, and the gang MMAs that have arrived (R77, R363). -/
def Core.pinned (c : Core) : List Nat :=
  (match c.engine.flight with
    | some f => f.pins
    | none => []) ++
  [c.b0, c.b1, c.b2, c.b3].flatMap fun b => match b.wait with
    | .gangMma r => r.pins
    | _ => []

/-- Pins have ended: in lines no longer pinned, stale words become I (R79), and held discards act, at the home too (R85). -/
def State.settlePins (s : State) (n : Nat) : State :=
  let c := s.core n
  let gone (w : L1Word) : Bool := (w.stale || w.discHeld) && !c.pinned.contains (w.word / 8)
  if c.l1.any gone then
    let s1 := s.setCore n { c with l1 := c.l1.filter fun w => !gone w }
    { s1 with
      agenda := s1.agenda ++ (c.l1.filter fun w => gone w && w.discHeld).map fun w =>
        .homeDisc (BitVec.ofNat 12 n) (BitVec.ofNat 12 w.ctx) (BitVec.ofNat 12 w.slot) (w64 (8 * w.word)) }
  else s

/-- A berth that stops; EPC[1] is the resume point of B1, which one that is stopped already keeps (R417, R419). -/
def Berth.stop (b : Berth) (i : Nat) : Berth :=
  { b.interrupt with stopped := true, epc := if i = 1 && b.occupied && !b.stopped then b.pc &&& 0x0000FFFFFFFFFFFF else b.epc }

/-- Stops a berth of a core at its instruction boundary; what it has issued runs on (R417, R420). -/
def State.stopBerth (s : State) (n i : Nat) : State :=
  let s1 := (s.cancelReq n i).dropWaits n i
  let c1 := (s1.core n).stopMma i
  (s1.setCore n (c1.setBerth i ((c1.berth i).stop i))).settlePins n

def State.stopAll (s : State) (n : Nat) : List Nat → State
  | [] => s
  | i :: r => (s.stopBerth n i).stopAll n r

/-- Whether a berth is inside an instruction that is not stopped (R297). -/
def Berth.busy (b : Berth) : Bool :=
  match b.wait with
  | .remote => true
  | .home _ _ => true
  | .bridge => true
  | .done _ _ => true
  | .failed _ _ => true
  | .none => !b.rsp.isEmpty
  | _ => false

/-- Whether it is inside an instruction whose request has reached its home, which is not stopped (R297). -/
def State.inside (s : State) (n i : Nat) : Bool := ((s.cancelReq n i).berthAt n i).busy

/-! ## The Silt recorder (R457 to R459) -/

/-- A record (R458). -/
def siltRecord (ts : Word) (node ctx cls typ : Nat) (payload : Word) : SiltRecord :=
  let w0 := getF ts 0 40 * 2 ^ 24 + node % 2 ^ 12 * 2 ^ 12 + ctx % 2 ^ 12
  let w1 := cls % 8 * 2 ^ 56 + typ % 2 ^ 8 * 2 ^ 48 + getF payload 0 48
  BitVec.ofNat 128 (w0 + 2 ^ 64 * w1)

/-- The cascade triggers of KIND 4 that a Rill record of a class fires (R451, R459). -/
def State.siltTriggers (s : State) (n cls : Nat) : List Event :=
  if isRill n then
    ((List.range 16).filter fun i =>
      match s.cascades[i]? with
      | some t => s.arm.getLsbD i && t.kind = 4 && t.param.toNat % 8 = cls
      | none => false).map fun i => .cascadeFire (BitVec.ofNat 4 i)
  else []

/-- A recorded event appends a record to a core's ring of 256; none is written while the recorder is off or the ring has
stopped (R457, R460, R462). -/
def State.recordFor (s : State) (n ctx cls typ : Nat) (payload : Word) : State :=
  let c := s.core n
  if s.silt.en && !c.ringStopped then
    let r := c.ring ++ [siltRecord (s.timeAt n) n ctx cls typ payload]
    let s1 := s.setCore n { c with ring := r.drop (r.length - 256) }
    { s1 with agenda := s1.agenda ++ s.siltTriggers n cls }
  else s

/-- A record with the core's resident context. -/
def State.record (s : State) (n cls typ : Nat) (payload : Word) : State := s.recordFor n (s.core n).ctxid cls typ payload

/-! ## Taking an exception (R417) -/

/-- The berths of a mask of STATUS.SB. -/
def sbBerths (m : Nat) : List Nat := [1, 2, 3].filter fun i => m.testBit (i - 1)

/-- TVEC's handler address (R423). -/
def Core.handler (c : Core) : Word := c.tvec &&& 0x0000FFFFFFFFFFFE

/-- A FENCE.sc at CORE of the threads in the berths of `m` (R131): B0 issues nothing before their messages to this core have been
performed (log 90). -/
def Core.fenced (c : Core) (m : Nat) : Core := { c with entryFence := c.entryFence ||| BitVec.ofNat 4 m }

/-- B0 goes on at another address: what it was at is over. -/
def Berth.startAt (b : Berth) (pc : Word) : Berth := { b with pc := pc, wait := .none, rsp := [], fetched := none }

/-- An entry made while B0 is idle: the berths of `m` stop, B1 with its resume point in EPC[1], the target berth takes CAUSE and EVAL,
B0 starts at TVEC. -/
def State.enter (s : State) (n : Nat) (c : Cause) (v : Word) (m tb : Nat) : State :=
  let s1 := s.stopAll n (sbBerths m)
  let k := s1.core n
  let t := k.berth tb
  let k2 := k.setBerth tb { t with cause := c.code, eval := v }
  let st := setF (setF (setF k2.b0.status 12 3 m) 10 2 tb) 7 1 0
  let s2 := s1.setCore n
    { k2.fenced (2 * m) with b0 := { k2.b0.startAt k2.handler with status := st, seqOn := false }, idle0 := false }
  s2.record n 0 c.code.toNat (if m.testBit 0 then k2.b1.epc else (k2.berth tb).epc)

/-- The nodes of the powered islands that keep a ring (R457, R461). -/
def State.siltNodes (s : State) : List Nat := (s.cores.filter fun p => p.2.power != .off).map (·.1)

/-- A freeze has reached the management core, and 32 router cycles, 160/6 ticks, have passed there since the first one did (R463). -/
def State.mergeOver (s : State) : Bool := s.silt.reached && 160 < (s.timeAt mcNode - s.silt.first).toNat * 6

/-- A freeze reaches the management core (R463): the first one gives the capsule its F, node and cause, or, while a capsule is held, adds
1 to DROPS; one within 32 router cycles of the first is merged; a later one adds 1 to DROPS. -/
def State.freezeAtMc (s : State) (x : Freeze) : State :=
  let z := s.silt
  let named := { z with f := x.f, node := x.node, cause := x.cause, fctx := x.ctx }
  if !z.reached then
    { s with silt := { named with reached := true, first := s.timeAt mcNode, drops := if z.valid then z.drops + 1 else z.drops } }
  else if s.mergeOver then { s with silt := { z with drops := z.drops + 1 } }
  else if x.f < z.f || (x.f = z.f && x.node < z.node) then { s with silt := named }
  else s

/-- A freeze of cause `cause` (0x84, or 0 for a monitor freeze) with time F starts and is sent to every core (R461): FROZEN becomes 1, and
no capsule is held, a capsule is to be built. A write of the management core is there already. -/
def State.startFreeze (s : State) (n cause ctx : Nat) : State :=
  let z := s.silt
  let x : Freeze := ⟨s.timeAt n, n, cause, ctx, s.siltNodes.filter fun m => !(n = mcNode && cause = 0 && m = mcNode)⟩
  let s1 : State :=
    if z.frozen then s
    else
      { s with
        silt := { z with frozen := true, reached := false, build := !z.valid }
        agenda := if z.valid then s.agenda else s.agenda ++ [.capsuleBuild] }
  let s2 := if n = mcNode && cause = 0 then s1.freezeAtMc x else s1
  { s2 with
    silt := { s2.silt with flying := s2.silt.flying ++ [x] }
    agenda := s2.agenda ++ x.left.map fun m => .freezeArrive (BitVec.ofNat 12 m) }

/-- The entry of MACHINE, made whether or not B0 handles an entry (R417). B0's own BAW that has arrived keeps its phase and
sets WARR (R173). Its freeze has started when it had to wait (R297, R461). -/
def State.enterMachine (s : State) (n : Nat) (reason : Word) : State :=
  let k := s.core n
  let held := b2n k.b1.occupied + 2 * b2n k.b2.occupied + 4 * b2n k.b3.occupied
  let s1 := ((s.cancelReq n 0).dropWaits n 0).stopAll n (sbBerths held)
  let k1 := (s1.core n).stopMma 0
  let b := { k1.b0.interrupt with epc := k1.b0.pc &&& 0x0000FFFFFFFFFFFF, cause := Cause.machine.code, eval := reason }
  let st := setF b.status 12 3 (b.sb ||| held)
  let st1 := setF (setF (setF st 8 2 (getF st 10 2)) 10 2 0) 7 1 1
  let s2 := s1.setCore n
    { k1.fenced (2 * held + 1) with
      b0 := { b.startAt k1.handler with status := st1, seqOn := false }, idle0 := false, machine := false }
  let s3 := (s2.settlePins n).record n 0 Cause.machine.code.toNat b.epc
  if k.machine then s3 else s3.startFreeze n 0x84 k.ctxid

/-- A synchronous trap of B0's own instruction (R417): a second one while KTRAP is 1 is a double trap. -/
def State.enterOwn (s : State) (n : Nat) (c : Cause) (v : Word) : State :=
  let k := s.core n
  if k.b0.ktrap then s.enterMachine n 1
  else
    let s1 := s.dropWaits n 0
    let k1 := (s1.core n).stopMma 0
    let b := { k1.b0 with epc := k1.b0.pc &&& 0x0000FFFFFFFFFFFF, cause := c.code, eval := v }
    let st := setF (setF (setF b.status 8 2 (getF b.status 10 2)) 10 2 0) 7 1 1
    let s2 := s1.setCore n
      { k1.fenced 1 with b0 := { b.startAt k1.handler with status := st, seqOn := false } }
    (s2.settlePins n).record n 0 c.code.toNat b.epc

/-- A synchronous trap of B1 (R417, R418): entered when B0 is idle, else pending with B1 stopped before the instruction. -/
def State.enterUser (s : State) (n : Nat) (c : Cause) (v : Word) : State :=
  if (s.core n).idle0 then s.enter n c v 1 1
  else
    let s1 := s.stopBerth n 1
    s1.setCore n { s1.core n with pendSync := some (c, v) }

/-! ## Threads that leave -/

/-- The thread of a berth as a MIG packet carries it (R115); a trap it returns to take goes with it. -/
def State.threadOf (s : State) (n : Nat) (b : Berth) (tr : Option (Cause × Word)) : Thread :=
  { pc := b.pc, g := b.g, v := b.v, k := b.k, status := b.status, arith := b.arith, vstat := b.vstat
    repst := b.repst, nnode := b.nnode, nrank := b.nrank, tdep := s.timeAt n, launch := b.launch, task := b.task
    trap := tr, bounced := false, back := b.pc }

/-- A packet as it leaves its source: a thread takes TDEP, the time copy of the source's router (R115). -/
def Packet.leaving (p : Packet) (now : Word) : Packet :=
  match p.body with
  | .mig t => { p with body := .mig { t with tdep := now } }
  | .evict t => { p with body := .evict { t with tdep := now } }
  | _ => p

/-- A packet enters the network; its arrival can happen from then on (R97). -/
def State.inject (s : State) (p : Packet) : State :=
  { s with net := s.net ++ [p.leaving (s.timeAt p.src)], agenda := s.agenda ++ [p.event] }

/-- Counts a rank-addressed packet until its DACK (R107). -/
def Core.count (c : Core) : Core :=
  { c with unacked := if c.epoch then (c.unacked.1, c.unacked.2 + 1) else (c.unacked.1 + 1, c.unacked.2) }

/-- The message counters of a launch slot (R409). -/
def bump (l : List (Nat × Nat)) (k : Nat) : List (Nat × Nat) := alSet l k (((alGet l k).getD 0 + 1) % 2 ^ 32)

/-- The cascade triggers of KIND 2 that a waiting rank-addressed packet for a Torrent core fires (R451). -/
def State.packetTriggers (s : State) (p : Packet) : State :=
  let hit := (List.range 16).filter fun i =>
    match s.cascades[i]? with
    | some t =>
      p.ranked && p.dst < 0x400 && s.arm.getLsbD i && t.kind = 2 && (t.param.getLsbD 21 || t.param.toNat % 4096 = p.ctx)
    | none => false
  hit.foldl (fun t i => t.laterOnce (.cascadeFire (BitVec.ofNat 4 i))) s

/-- A packet counts as sent when its NI takes it (R409). -/
def State.countSent (s : State) (n : Nat) (p : Packet) : State :=
  match p.launch with
  | some k => s.setCore n { s.core n with sent := bump (s.core n).sent k }
  | none => s

/-- A packet that the NI of a core has taken leaves: on a Rill core, one for a Torrent node or a link waits while the bridge is
isolated (R92). A rank-addressed one takes the NI's epoch (R107). -/
def State.depart (s : State) (n : Nat) (p : Packet) : State :=
  let c := s.core n
  let c2 := if p.ranked then c.count else c
  let p1 := if p.ranked then { p with epoch := c.epoch } else p
  if isRill n && p.dst < 0x800 && !s.bridge then
    (s.setCore n { c2 with bridgeHeld := c2.bridgeHeld ++ [p1] }).packetTriggers p
  else (s.setCore n c2).inject p1

/-- The NI of a core takes a packet and sends it. -/
def State.send (s : State) (n : Nat) (p : Packet) : State := (s.countSent n p).depart n p

/-- A guest's return, or its eviction, to its native node, by node (R116, R118). Its berth is freed (R114). -/
def State.sendHome (s : State) (n i : Nat) (tr : Option (Cause × Word)) (evicted : Bool) : State :=
  let s1 := (s.cancelReq n i).dropWaits n i
  let b := (s1.berthAt n i).interrupt
  let t := s1.threadOf n { b with wait := .none } tr
  let p : Packet :=
    { src := n, dst := b.nnode, ctx := (s1.core n).ctxid, ranked := false, drank := 0, srank := b.nrank
      epoch := (s1.core n).epoch, launch := none, body := if evicted then .evict t else .mig t }
  ((s1.setBerthAt n i Berth.vacant).record n 0 0xF1 b.pc).inject p

/-- A native thread or a guest leaves for another core (R113, R114), across an open bridge (R92). B1 stays reserved for a native
thread; OX is lost (R205). `back` is where it repeats its access when that core refuses it (R192). -/
def State.sendAway (s : State) (n i rank node : Nat) (back : Word) : State :=
  let b := s.berthAt n i
  let c := s.core n
  let p : Packet :=
    { src := n, dst := node, ctx := c.ctxid, ranked := true, drank := rank, srank := b.nrank, epoch := c.epoch
      launch := none, body := .mig { s.threadOf n { b with wait := .none } none with back := back } }
  let c1 :=
    if i = 1 then
      { c with
        away := true
        b1 := { b with occupied := false, wait := .none, rsp := [], fetched := none, ox := Vector.replicate 4 ⟨0, false⟩ } }
    else c.setBerth i Berth.vacant
  ((s.setCore n c1).record n 0 0xF1 b.pc).send n p

/-! ## Outcomes -/

/-- Takes a synchronous trap of the executing berth (R415 to R418); a guest returns to its native berth first (R116). -/
def State.takeSync (s : State) (c : Cause) (v : Word) : State :=
  let s1 := s.setMe { s.me with wait := .none, rsp := [], fetched := none }
  if s.cb = 0 then s1.enterOwn s.cur c v
  else if s.cb = 1 then s1.enterUser s.cur c v
  else s1.sendHome s.cur s.cb (some (c, v)) false

/-- The outcome of an instruction: its next state, its trap, its wait, its thread's move. -/
def run (s : State) (r : M State) : Out :=
  match r with
  | .ok t => .next t
  | .error (.trap c v) => .next (s.takeSync c v)
  | .error (.keep t c v) => .next (t.takeSync c v)
  | .error (.wait t) => .next t
  | .error .home => .next (s.sendHome s.cur s.cb none false)
  | .error (.move t rank node) => .next (t.sendAway t.cur t.cb rank node s.me.pc)

/-- An instruction that runs only in the native berth: a guest returns first (R116). -/
def nativeOnly (s : State) : M Unit := if s.guest then .error .home else .ok ()

/-! ## Returning from an exception (R419) -/

/-- Resumes the berths of a mask that hold a thread; B1 goes on at EPC[1], in its repetition when one is active (R273). -/
def Core.resume (c : Core) (m : Nat) : Core :=
  let r1 := if m.testBit 0 && c.b1.occupied then { c.b1.resumeSeq with stopped := false, pc := c.b1.epc } else c.b1
  let r2 := if m.testBit 1 && c.b2.occupied then { c.b2 with stopped := false } else c.b2
  let r3 := if m.testBit 2 && c.b3.occupied then { c.b3 with stopped := false } else c.b3
  { c with b1 := r1, b2 := r2, b3 := r3 }

/-- The end of an entry: B0 continues after a trap of its own, or the stopped berths resume and B0 becomes idle. -/
def State.endEntry (s : State) : State :=
  let c := s.here
  if c.b0.ktrap then
    let st := setF (setF c.b0.status 7 1 0) 10 2 (getF c.b0.status 8 2)
    let s1 := s.record s.cur 0 0xF0 c.b0.epc
    s1.setHere { s1.here.fenced 1 with b0 := { c.b0.resumeSeq.startAt c.b0.epc with status := st } }
  else
    let s1 := s.record s.cur 0 0xF0 (if c.b0.tb = 1 then c.b1.epc else (c.berth c.b0.tb).pc)
    let c1 := s1.here.resume c.b0.sb
    s1.setHere { c1.fenced 1 with b0 := { c1.b0.startAt c1.b0.pc with status := setF c1.b0.status 12 3 0 }, idle0 := true }

end Sys2Proof.Machine
end

