-- ==== Sys2Proof/Machine/Mem.lean ====
section
/-! DEFINITION. Memory below the address map: bytes and tags at the homes (R20, R59), keys and pool ownership (R49 to R52),
the words of the L1 caches and their ownership (R62 to R66, R79 to R85). -/

namespace Sys2Proof.Machine

/-! ## Places -/

/-- The three kinds of home (R59). -/
inductive Kind | dram | pool | lm
  deriving DecidableEq, Repr

/-- Where a byte lives: its home address, and for DRAM and the pool the context and key slot of the access (R51). -/
structure Loc where
  kind : Kind
  key : Nat
  ctx : Nat
  slot : Nat
  deriving DecidableEq, Repr

def dramKey (pa : Nat) : Nat := pa
def poolKey (pa : Nat) : Nat := 2 ^ 48 + pa
def lmKey (node off : Nat) : Nat := 2 ^ 49 + node * 2 ^ 17 + off

/-- A physical place under a key slot; slot 0 carries CTXID 0 (R40). -/
def physLoc (pool : Bool) (pa ctx slot : Nat) : Loc :=
  let c := if slot = 0 then 0 else ctx
  if pool then ⟨.pool, poolKey pa, c, slot⟩ else ⟨.dram, dramKey pa, c, slot⟩

def lmLoc (node off : Nat) : Loc := ⟨.lm, lmKey node off, 0, 0⟩

/-- The place of a home address as a context reaches it under a key slot. -/
def keyLoc (key ctx slot : Nat) : Loc :=
  if key < 2 ^ 48 then physLoc false key ctx slot
  else if key < 2 ^ 49 then physLoc true (key - 2 ^ 48) ctx slot
  else ⟨.lm, key, 0, 0⟩

/-- The place `d` bytes further on. -/
def Loc.plus (l : Loc) (d : Nat) : Loc := { l with key := l.key + d }

/-- Tag codes of memory words (R20). -/
def tagData : Nat := 0
def tagCap : Nat := 1
def tagSync : Nat := 2
def tagPoison : Nat := 3

/-! ## Keys and pool ownership -/

def State.slotOf (s : State) (n : Nat) : Option KeySlot := s.slots.find? (·.slot = n)

/-- Whether a key slot holds a key (R54). -/
def State.slotLoaded (s : State) (n : Nat) : Bool :=
  match s.slotOf n with
  | some k => k.loaded
  | none => false

def State.slotGen (s : State) (n : Nat) : Nat :=
  match s.slotOf n with
  | some k => k.gen
  | none => 0

/-- A block of DRAM enciphered, or deciphered, under the key of a slot at a generation; the tweak is its unit's address (R49). -/
def keyedBlock (cipher : List (List Nat) → List Byte → List Byte) (slot gen b x : Nat) : Nat :=
  xtsBlock cipher (Config.slotKey slot gen) (b / 4 * 64) (b % 4) x

/-- The 16 bytes of a DRAM block as a key decrypts them (R49, R55): memory lists the bytes that were written, and under another key than
the block was written under they are what the one key's cipher text deciphers to, "unrelated bits". -/
def State.blockBytes (s : State) (b slot : Nat) : Nat :=
  let plain := mgetN s.mem (dramKey (b * 16)) 16
  match s.units.find? (·.block = b) with
  | none => plain
  | some u =>
    if u.slot = slot && u.gen = s.slotGen slot then plain
    else keyedBlock aesUnblock slot (s.slotGen slot) b (keyedBlock aesBlock u.slot u.gen b plain)

/-- The 64 bytes of a DRAM unit as a key decrypts them. -/
def State.unitBytes (s : State) (unit slot : Nat) : Nat :=
  (List.range 4).foldr (fun j x => s.blockBytes (4 * unit + j) slot + 2 ^ 128 * x) 0

/-- Records that a block is from now on written under a key. -/
def setUnit : List KeyedUnit → KeyedUnit → List KeyedUnit
  | [], u => [u]
  | x :: r, u => if u.block = x.block then u :: r else if u.block < x.block then u :: x :: r else x :: setUnit r u

/-- A write of a DRAM block under the key of a slot. Bytes that decrypt as they are written encrypt to what stands there, and
change nothing (R49). -/
def State.putBlock (s : State) (b slot x : Nat) : State :=
  if (s.units.any fun u => u.block = b) && s.blockBytes b slot = x then s
  else { s with mem := mputN s.mem (dramKey (b * 16)) 16 x, units := setUnit s.units ⟨b, slot, s.slotGen slot⟩ }

/-! ## Words at the homes -/

/-- A number with its 64 bits from bit `o` on replaced. -/
def setWordAt (x o v : Nat) : Nat := x - x / 2 ^ o % 2 ^ 64 * 2 ^ o + v * 2 ^ o

/-- A word of DRAM and its raw tag, through the key of a slot (R49). -/
def State.dramWord (s : State) (l : Loc) : Word × Nat :=
  let a := l.key / 8 * 8
  (w64 (s.blockBytes (a / 16) l.slot / 2 ^ (8 * (a % 16)) % 2 ^ 64), (mget s.tags (a / 8)).toNat)

/-! ## L2 lines (R69) -/

/-- XOR of the 3-bit chunks of x that start at bit `lo` and lie 6 apart. -/
def xor3 (x lo : Nat) : Nat :=
  (List.range 7).foldl (fun r i => r ^^^ x / 2 ^ (lo + 6 * i) % 8) 0

/-- The column of a DRAM address with every column on (R68). -/
def columnOf (pa : Nat) : Nat := xor3 (pa / 64) 0

/-- The slice of a DRAM address with every column on (R68). -/
def sliceAllOn (pa : Nat) : Nat := xor3 (pa / 64) 3 * 8 + columnOf pa

/-- The slice of a DRAM address with the columns that are on (R68). -/
def State.slice (s : State) (pa : Nat) : Nat :=
  let c := columnOf pa
  xor3 (pa / 64) 3 * 8 + (if s.l2On.getLsbD c then c else (c + 4) % 8)

def State.l2At (s : State) (unit : Nat) : Option L2Line := s.l2.find? (·.unit = unit)

/-- Whether a line was filled under the context and key slot of an access (R51). -/
def L2Line.is (x : L2Line) (l : Loc) : Bool := x.ctx = l.ctx && x.slot = l.slot

/-- Word `j` of a line and its raw tag. -/
def L2Line.word (x : L2Line) (j : Nat) : Word × Nat := (w64 (x.bytes / 2 ^ (64 * j) % 2 ^ 64), x.tags.getD j 0)

/-- The line with word `j` written. -/
def L2Line.put (x : L2Line) (j : Nat) (v : Word) (t : Nat) : L2Line :=
  { x with bytes := setWordAt x.bytes (64 * j) v.toNat, tags := x.tags.set j t, dirty := true }

/-- The tags of the 8 words of a DRAM unit written. -/
def putTags (m : Memory) (unit : Nat) (ts : List Nat) : Memory :=
  ts.zipIdx.foldl (fun r p => mput r (unit * 8 + p.2) (BitVec.ofNat 8 p.1)) m

/-- The bytes of a line as DRAM takes them: a POISON word's are zeros (R88). -/
def L2Line.stored (x : L2Line) : Nat :=
  x.tags.zipIdx.foldl (fun r p => if p.1 = tagPoison then setWordAt r (64 * p.2) 0 else r) x.bytes

/-- A unit of DRAM written under the key of a slot. -/
def State.putUnit (s : State) (unit slot x : Nat) : State :=
  (List.range 4).foldl (fun t j => t.putBlock (4 * unit + j) slot (x / 2 ^ (128 * j) % 2 ^ 128)) s

/-- A dirty line goes to DRAM under its own key slot (R51, R69); it stays, clean. -/
def State.l2WriteBack (s : State) (unit : Nat) : State :=
  match s.l2At unit with
  | some x =>
    if x.dirty then
      let s1 := s.putUnit unit x.slot x.stored
      { s1 with
        tags := putTags s1.tags unit x.tags
        l2 := s1.l2.map fun y => if y.unit = unit then { y with dirty := false } else y }
    else s
  | none => s

/-- A line leaves the L2, written back first when dirty. -/
def State.l2Evict (s : State) (unit : Nat) : State :=
  let s1 := s.l2WriteBack unit
  { s1 with l2 := s1.l2.filter (·.unit ≠ unit) }

/-- The bytes and the raw tag of the word at a place, as its home gives them: DRAM through the L2 line under this context and
key slot (R69), else through the key (R49), after the write-back of a line under others (R51); a pool line that its context
does not own under its key slot as zeros (R51, R52); LM as it stands. -/
def State.homeWord (s : State) (l : Loc) : Word × Nat :=
  let a := l.key / 8 * 8
  let t := (mget s.tags (a / 8)).toNat
  match l.kind with
  | .lm => (w64 (mgetN s.mem a 8), t)
  | .pool => if alGet s.owners (a / 64) = some (l.ctx, l.slot) then (w64 (mgetN s.mem a 8), t) else (0, 0)
  | .dram =>
    match s.l2At (a / 64) with
    | some x => if x.is l then x.word (a / 8 % 8) else (s.l2WriteBack (a / 64)).dramWord l
    | none => s.dramWord l

/-- Makes a pool line ready for a write of this place's context: one of another context or key slot becomes zeros owned by this
one (R51, R52). -/
def State.claim (s : State) (l : Loc) : State :=
  let u := l.key / 64
  if l.kind ≠ .pool || alGet s.owners u = some (l.ctx, l.slot) then s
  else
    { s with
      mem := mputN s.mem (u * 64) 64 0, tags := mputN s.tags (u * 8) 8 0
      owners := alSet s.owners u (l.ctx, l.slot) }

/-- Whether a home address lies in the region of a held capsule, which no store reaches (R466). -/
def State.inRind (s : State) (key : Nat) : Bool :=
  s.silt.valid && 2 ^ 48 + s.silt.held * 2 ^ 20 ≤ key && key < 2 ^ 48 + (s.silt.held + 3) * 2 ^ 20

/-- A word and its raw tag written at its home: into the L2 line of its context and key slot, else into DRAM under its key, a POISON
word as zeros (R88), into the pool or the LM. -/
def State.putLow (s : State) (l : Loc) (v : Word) (t : Nat) : State :=
  let a := l.key / 8 * 8
  if s.inRind l.key then s
  else if l.kind = .dram then
    if (s.l2At (a / 64)).any (·.is l) then
      { s with l2 := s.l2.map fun x => if x.unit = a / 64 then x.put (a / 8 % 8) v t else x }
    else
      let s1 := s.l2Evict (a / 64)
      let x := setWordAt (s1.blockBytes (a / 16) l.slot) (8 * (a % 16)) (if t = tagPoison then 0 else v.toNat)
      let s2 := s1.putBlock (a / 16) l.slot x
      { s2 with tags := mput s2.tags (a / 8) (BitVec.ofNat 8 t) }
  else
    let s1 := s.claim l
    { s1 with mem := mputN s1.mem a 8 v.toNat, tags := mput s1.tags (a / 8) (BitVec.ofNat 8 t) }

/-! ## L1 words -/

def L1Word.is (w : L1Word) (l : Loc) : Bool := w.word = l.key / 8 && w.ctx = l.ctx && w.slot = l.slot

def L1Word.owned (w : L1Word) : Bool := w.st != .v

/-- The place of an L1 word. -/
def L1Word.loc (w : L1Word) : Loc :=
  if w.word < 2 ^ 45 then ⟨.dram, w.word * 8, w.ctx, w.slot⟩ else ⟨.pool, w.word * 8, w.ctx, w.slot⟩

/-- The L1's copy of a word, if it holds one under this context and key slot (R51). -/
def Core.l1At (c : Core) (l : Loc) : Option L1Word := c.l1.find? (·.is l)

/-- Takes every copy of a word out of an L1. -/
def Core.l1Drop (c : Core) (word : Nat) : Core := { c with l1 := c.l1.filter (·.word ≠ word) }

def Core.l1Put (c : Core) (w : L1Word) : Core := { c with l1 := w :: c.l1.filter (·.word ≠ w.word) }

/-- The nodes whose L1 owns a word (R63: at most one). -/
def State.ownersOf (s : State) (word : Nat) : List Nat :=
  (s.cores.filter fun p => p.2.l1.any fun w => w.word = word && w.owned).map (·.1)

/-- The pin of a line ends (R77): the operand fetch has read it. -/
def Wait.dropPin (w : Wait) (line : Nat) : Wait :=
  match w with
  | .gangMma r => .gangMma { r with pins := r.pins.filter (· ≠ line) }
  | x => x

/-- A core's pin of a line ends before a revocation that waits for it (R77; log 92). -/
def State.endPin (s : State) (n line : Nat) : State :=
  let c := s.core n
  if c.pinned.contains line then
    let f (b : Berth) : Berth := { b with wait := b.wait.dropPin line }
    (s.setCore n { c with
      b0 := f c.b0, b1 := f c.b1, b2 := f c.b2, b3 := f c.b3
      engine := { c.engine with
        flight := c.engine.flight.map fun x => { x with pins := x.pins.filter (· ≠ line) } } }).settlePins n
  else s

/-- A core's OD copy of a word, its line's pin ended, goes to `put`, the way to its home, and the word becomes I (R63, R77). -/
def State.revokeBy (s : State) (put : State → Loc → Word → Nat → State) (n word : Nat) : State :=
  let s0 := s.endPin n (word / 8)
  let s1 := match (s0.core n).l1.find? (fun w => w.word = word && w.st == .od) with
    | some w => put s0 w.loc w.val w.tag
    | none => s0
  let c := s1.core n
  s1.setCore n { c with l1 := c.l1.filter fun w => !(w.word = word && w.owned) }

/-- Revokes every ownership of the words of a line that leaves a home: what is written back goes where it stands. -/
def State.revokeUnit (s : State) (unit : Nat) : State :=
  (List.range 8).foldl (fun t j =>
    (t.ownersOf (8 * unit + j)).foldl (fun u n => u.revokeBy State.putLow n (8 * unit + j)) t) s

/-! ## Lines of the L2 come and go (R65, R69) -/

/-- Whether some L1 owns a word of a unit: its L2 line stays (R65). -/
def State.registered (s : State) (unit : Nat) : Bool :=
  s.cores.any fun p => p.2.l1.any fun w => w.word / 8 = unit && w.st != .v

/-- The lines of the L2 that share a set of a slice with a unit (log 13): 1024 sets of 16 ways. -/
def State.l2Set (s : State) (unit : Nat) : List L2Line :=
  s.l2.filter fun x => s.slice (x.unit * 64) = s.slice (unit * 64) && x.unit / 64 % 1024 = unit / 64 % 1024

/-- A line leaves the L2 once the registrations of its words have been revoked (R65). -/
def State.l2Leave (s : State) (unit : Nat) : State := (s.revokeUnit unit).l2Evict unit

/-- Makes room for a unit in its set of 16 (R58, R69): a freely chosen line leaves, one without registrations where there is one. -/
def State.l2Room (s : State) (unit : Nat) : State :=
  let ls := s.l2Set unit
  if ls.length < 16 then s
  else
    let free := ls.filter fun x => !s.registered x.unit
    let vs := if free.isEmpty then ls else free
    match vs[s.free % vs.length]? with
    | some x => s.drawn.l2Leave x.unit
    | none => s

/-- A DRAM unit enters the L2 under a place's context and key slot, decrypted (R69). -/
def State.l2Fill (s : State) (l : Loc) : State :=
  let u := l.key / 64
  let ts := (List.range 8).map fun j => (mget s.tags (u * 8 + j)).toNat
  { s with l2 := ⟨u, l.ctx, l.slot, s.unitBytes u l.slot, ts, false⟩ :: s.l2 }

/-- A DRAM access finds DRAM out of self-refresh: it has stalled until the exit (R444). -/
def State.dramExit (s : State) : State :=
  if s.dramsr then { s with dramsr := false }.laterOnce .dramSelfRefreshEnter else s

/-- While Torrent is ON, an access at a DRAM word's home brings its line into the L2 under its context and key slot (R69); a line
under others leaves first (R51). In NAP and OFF it is an access to DRAM itself (R76). -/
def State.l2Fetch (s : State) (l : Loc) : State :=
  if l.kind = .dram then
    let u := l.key / 64
    if s.tstate = 2 then
      match s.l2At u with
      | some x => if x.is l then s else (s.l2Leave u).l2Fill l
      | none => (s.l2Room u).l2Fill l
    else s.dramExit
  else s

/-- Writes a word and its raw tag at its home. -/
def State.putHome (s : State) (l : Loc) (v : Word) (t : Nat) : State :=
  if s.inRind l.key then s else (s.l2Fetch l).putLow l v t

/-- Writes a core's OD copy of a word back to its home (R63), where the L2 allocates its line (R69). -/
def State.writeBack (s : State) (n word : Nat) : State :=
  match (s.core n).l1.find? (fun w => w.word = word && w.st == .od) with
  | some w => s.putHome w.loc w.val w.tag
  | none => s

/-- The home revokes a core's ownership of a word, once its line is not pinned (R77): an OD word is written back, and the word
becomes I (R63). -/
def State.revoke (s : State) (n word : Nat) : State := s.revokeBy State.putHome n word

/-- Revokes every ownership of a word (R64). -/
def State.revokeAll (s : State) (word : Nat) : State := (s.ownersOf word).foldl (fun t n => t.revoke n word) s

/-- Revokes what a write at a place's home must (R64): the word's owners, and of a pool line of another context or key slot the owners
of all its words (R52, R65). -/
def State.revokeFor (s : State) (l : Loc) : State :=
  if l.kind = .pool && alGet s.owners (l.key / 64) ≠ some (l.ctx, l.slot) && !s.inRind l.key then s.revokeUnit (l.key / 64)
  else s.revokeAll (l.key / 8)

/-- Every line of the L2 that `p` names leaves it (R72, R76). -/
def State.l2Flush (s : State) (p : Nat → Bool) : State :=
  ((s.l2.map (·.unit)).filter p).foldl State.l2Evict s

/-! ## Reads and fills -/

/-- The home forwards a read to the owner: its value is written to the home, and the word becomes OC there (R64). -/
def State.forward (s : State) (word : Nat) : State :=
  (s.ownersOf word).foldl (fun t n =>
    let t1 := t.writeBack n word
    let c := t1.core n
    t1.setCore n { c with l1 := c.l1.map fun w => if w.word = word && w.owned then { w with st := .oc } else w }) s

/-- A read of a word at its home, after any forward. -/
def State.readHome (s : State) (l : Loc) : State × Word × Nat :=
  if l.kind = .lm then (s, s.homeWord l)
  else
    let s1 := (s.forward (l.key / 8)).l2Fetch l
    (s1, s1.homeWord l)

/-- A word and its raw tag as a store finds them: the core's own copy when it owns the word, else the home's. -/
def State.storeView (s : State) (n : Nat) (l : Loc) : State × Word × Nat :=
  if l.kind = .lm then (s, s.homeWord l)
  else
    match (s.core n).l1At l with
    | some w => if w.owned then (s, w.val, w.tag) else s.readHome l
    | none => s.readHome l

/-- A line leaves an L1, its pin ended: OD words are written back and deregistered, OC words deregistered, V words dropped (R63). -/
def State.evictLine (s : State) (n line : Nat) : State :=
  let s0 := s.endPin n line
  let s1 := (List.range 8).foldl (fun t j => t.writeBack n (8 * line + j)) s0
  let c := s1.core n
  s1.setCore n { c with l1 := c.l1.filter fun w => w.word / 8 ≠ line }

/-- A line that stands in the L1 under another context or key slot than an access is a miss: it leaves, written back (R51). -/
def State.dropOthers (s : State) (n : Nat) (l : Loc) : State :=
  if (s.core n).l1.any fun w => w.word / 8 = l.key / 64 && !(w.ctx = l.ctx && w.slot = l.slot) then s.evictLine n (l.key / 64)
  else s

/-- Makes room for a line in the L1, 1024 sets of 8 ways (R58; log 13): a freely chosen line that is not pinned leaves a full set. -/
def State.l1Room (s : State) (n line : Nat) : State :=
  let c := s.core n
  let ls := ((c.l1.map (·.word / 8)).filter fun k => k % 1024 = line % 1024).eraseDups
  if ls.contains line || ls.length < 8 then s
  else
    let free := ls.filter fun k => !c.pinned.contains k
    let vs := if free.isEmpty then ls else free
    match vs[s.free % vs.length]? with
    | some k => s.drawn.evictLine n k
    | none => s

/-- Fills the words of a line that the L1 does not hold, as V (R63). `left` words remain from `l` on. -/
def State.fillWords (s : State) (n : Nat) (l : Loc) : Nat → State
  | 0 => s
  | left + 1 =>
    let s2 :=
      match (s.core n).l1At l with
      | some _ => s
      | none =>
        let (t, v, tag) := s.readHome l
        t.setCore n ((t.core n).l1Put ⟨l.key / 8, l.ctx, l.slot, .v, v, tag, false, false⟩)
    s2.fillWords n (l.plus 8) left

/-- The first word of a place's line. -/
def Loc.lineBase (l : Loc) : Loc := { l with key := l.key / 64 * 64 }

/-- A fill of a place's line (R63). -/
def State.fill (s : State) (n : Nat) (l : Loc) : State :=
  ((s.dropOthers n l).l1Room n (l.key / 64)).fillWords n l.lineBase 8

/-- The V words of a line leave an L1. -/
def Core.dropV (c : Core) (line : Nat) : Core := { c with l1 := c.l1.filter fun w => w.owned || w.word / 8 ≠ line }

/-- A word as a load finds it after a fill. -/
def State.afterFill (s : State) (n : Nat) (l : Loc) : State × Word × Nat :=
  match (s.core n).l1At l with
  | some w => (s, w.val, w.tag)
  | none => s.readHome l

/-- A load of a word by a core: LM at its home, else through the L1 (R60, R63, R79). The raw tag comes with it. A V word whose
home value is another by now leaves first, with the V words of its line, so that loads take the places in M that R126 and R128
ask for (log 2). -/
def State.loadRaw (s : State) (n : Nat) (l : Loc) : State × Word × Nat :=
  if l.kind = .lm then (s, s.homeWord l)
  else
    match (s.core n).l1At l with
    | some w =>
      if w.owned then (s, w.val, w.tag)
      else
        let (s1, v, t) := s.readHome l
        if w.stale then (s1, v, t)
        else if v = w.val && t = w.tag then (s, v, t)
        else if (s.core n).pinned.contains (l.key / 64) then (s1, v, t)
        else ((s.setCore n ((s.core n).dropV (l.key / 64))).fill n l).afterFill n l
    | none => (s.fill n l).afterFill n l

/-- The place of the other word of a pair (R20). -/
def Loc.partner (l : Loc) : Loc := if l.key / 8 % 2 = 0 then l.plus 8 else { l with key := l.key - 8 }

/-- A load of a word with its tag as R66 gives it: CAP only when both words of the pair are CAP. -/
def State.loadWord (s : State) (n : Nat) (l : Loc) : State × Word × Nat :=
  let (s1, v, t) := s.loadRaw n l
  if t = tagCap then
    let (s2, _, t2) := s1.loadRaw n l.partner
    (s2, v, if t2 = tagCap then tagCap else tagData)
  else (s1, v, t)

/-- A word read at its home by an engine or a walker, with its tag as R66 gives it. -/
def State.readWord (s : State) (l : Loc) : State × Word × Nat :=
  let (s1, v, t) := s.readHome l
  if t = tagCap then
    let (s2, _, t2) := s1.readHome l.partner
    (s2, v, if t2 = tagCap then tagCap else tagData)
  else (s1, v, t)

/-- The value a thread that waits for a 32-bit word sees in its 8-byte word (R174). -/
def half (v : Word) (addr : Nat) : BitVec 32 := if addr % 8 < 4 then v.setWidth 32 else (v >>> 32).setWidth 32

/-- The home sends the new value of a word to every core that waits for it (R174) in the context and key slot that see it (R57). -/
def State.notify (s : State) (l : Loc) (v : Word) : State :=
  let ws := s.words.filter fun w => w.addr / 8 = l.key / 8 && w.ctx = l.ctx && w.slot = l.slot
  { s with agenda := s.agenda ++ ws.map fun w =>
      .waitValue (BitVec.ofNat 12 w.node) (BitVec.ofNat 2 w.berth) (half v w.addr) }

/-- The cascade triggers of KIND 1 that a new value of a pool word fires (R451). -/
def State.testCascades (s : State) (word : Nat) (v : Word) : State :=
  let hit := (List.range 16).filter fun i =>
    match s.cascades[i]? with
    | some t => s.arm.getLsbD i && t.kind = 1 && poolKey (t.param.toNat * 8) = word * 8 && t.value ≤ v
    | none => false
  { s with agenda := s.agenda ++ hit.map fun i => .cascadeFire (BitVec.ofNat 4 i) }

/-- What a changed word sets off at its home. -/
def State.changed (s : State) (l : Loc) (v : Word) : State :=
  let s1 := if s.words.isEmpty then s else s.notify l v
  if l.kind = .pool then s1.testCascades (l.key / 8) v else s1

/-- The registration of a word's store at its home: other owners are revoked (R64), and a pool line of another context or key slot
becomes this one's, the words that others own in it first (R52). -/
def State.register (s : State) (l : Loc) : State :=
  let s1 := s.revokeFor l
  if s.inRind l.key then s1 else s1.claim l

/-- A store of a word by a core: LM at its home; else the word is registered, other owners revoked, and OD (R63, R64). -/
def State.storeWord (s : State) (n : Nat) (l : Loc) (v : Word) (t : Nat) : State :=
  if l.kind = .lm then (s.putHome l v t).changed l v
  else
    let s1 := s.dropOthers n l
    let s2 :=
      match (s1.core n).l1At l with
      | some w => if w.owned then s1 else s1.register l
      | none => (s1.register l).l1Room n (l.key / 64)
    (s2.setCore n ((s2.core n).l1Put ⟨l.key / 8, l.ctx, l.slot, .od, v, t, false, false⟩)).changed l v

/-- The L1 of the core `n` on whose behalf an operation acts at a word's home gives up its copy. -/
def State.dropOwn (s : State) (n word : Nat) : State :=
  if (s.core n).l1.any (·.word = word) then s.setCore n ((s.core n).l1Drop word) else s

/-- A write at a word's home by an atomic, a reduction, an engine: ownership is revoked first (R64), and a copy in the L1
of the core `n` on whose behalf it acts goes. -/
def State.writeHome (s : State) (n : Nat) (l : Loc) (v : Word) (t : Nat) : State :=
  if l.kind = .lm then (s.putHome l v t).changed l v
  else
    let s1 := s.revokeFor l
    ((s1.dropOwn n (l.key / 8)).putHome l v t).changed l v

/-- Takes a word to its home before an operation there: ownership revoked, the issuer's own copy dropped (R64). -/
def State.takeHome (s : State) (n : Nat) (l : Loc) : State :=
  if l.kind = .lm then s
  else
    ((s.revokeFor l).dropOwn n (l.key / 8)).l2Fetch l

/-- An acquire (R63, R79): every V word becomes I; in a pinned line it is marked stale. -/
def Core.acquire (c : Core) : Core :=
  let p := c.pinned
  { c with
    l1 := c.l1.filterMap fun w =>
      if w.owned then some w else if p.contains (w.word / 8) then some { w with stale := true } else none }

/-- An acquire by the executing core at TILE scope or wider (R133). -/
def State.acquireHere (s : State) : State := s.setHere s.here.acquire

end Sys2Proof.Machine
end

