-- ==== Sys2Proof/Machine/Access.lean ====
section
/-! DEFINITION. Reaching memory by virtual address: capabilities (R26 to R31), the layout (R14 to R18), page tables and
TLBs (R35 to R42), rank tables (R102 to R108), the access checks in their order (R32), and loads and stores of bytes
with their tag rules (R21, R22), in the executing core or as remote word accesses (R110). -/

namespace Sys2Proof.Machine

/-! ## Capabilities -/

def capP (sh : Word) : Nat := getF sh 0 8
def capE (sh : Word) : Nat := getF sh 8 6
def capB (sh : Word) : Nat := getF sh 14 18
def capL (sh : Word) : Nat := getF sh 32 18

/-- A shadow is well formed (R29). -/
def capWell (sh : Word) : Bool := capE sh ≤ 30 && getF sh 50 14 = 0

/-- span of R28. -/
def capSpan (sh : Word) : Int := 2 ^ (capE sh + 18)

/-- base of R28. -/
def capBase (v sh : Word) : Int :=
  let a := v.toNat % 2 ^ 48
  let e := capE sh
  (a / 2 ^ (e + 18) * 2 ^ (e + 18) + capB sh * 2 ^ e : Nat) - (if a / 2 ^ e % 2 ^ 18 < capB sh then capSpan sh else 0)

/-- top of R28. -/
def capTop (v sh : Word) : Int := capBase v sh + (capL sh * 2 ^ capE sh : Nat)

/-- Whether an address is representable under a capability (R30): in [base, base + span), with bits [63:48] zero. -/
def capHolds (v sh : Word) (a : Word) : Bool :=
  a.toNat < 2 ^ 48 && capBase v sh ≤ a.toNat && (a.toNat : Int) < capBase v sh + capSpan sh

/-- The permission bits of R27. -/
def pR : Nat := 1
def pW : Nat := 2
def pX : Nat := 4
def pLC : Nat := 8
def pSC : Nat := 16
def pY : Nat := 32
def pM : Nat := 64
def pG : Nat := 128

def hasPerm (sh : Word) (p : Nat) : Bool := capP sh &&& p = p

/-! ## The layout -/

/-- What a virtual address names (R14, R15). -/
inductive Place
  | priv
  | window (rank off : Nat)
  | alias_ (off : Nat)
  | device (off : Nat)
  | nowhere
  deriving DecidableEq, Repr

def windowBase : Nat := 0xF00000000000
def aliasBase : Nat := 0xF80000000000
def deviceBase : Nat := 0xFC0000000000
def lmSize : Nat := 0x18000

/-- The layout of R14 and R15. -/
def place (va : Nat) : Place :=
  if va < 2 ^ 47 then .priv
  else if windowBase ≤ va && va < windowBase + 2 ^ 27 then
    (if va % 2 ^ 17 < lmSize then .window ((va - windowBase) / 2 ^ 17) (va % 2 ^ 17) else .nowhere)
  else if aliasBase ≤ va && va < aliasBase + lmSize then .alias_ (va - aliasBase)
  else if deviceBase ≤ va && va < deviceBase + 2 ^ 40 then .device (va - deviceBase)
  else .nowhere

/-! ## Page tables -/

/-- The address of byte `off` of a context's header (R195). -/
def State.headerLoc (s : State) (ctx off : Nat) : Loc :=
  physLoc (bitOf s.ctxdir 0) (getF s.ctxdir 19 29 * 2 ^ 19 + 128 * ctx + off) 0 0

/-- A word of a context's header. -/
def State.header (s : State) (ctx off : Nat) : State × Word × Nat := s.readWord (s.headerLoc ctx off)

/-- A word of a context's header, its value only. -/
def State.headerVal (s : State) (ctx off : Nat) : Word := (s.header ctx off).2.1

/-- Size in bytes of a leaf at a level (R38). -/
def leafSize : Nat → Nat
  | 1 => 2 ^ 30
  | 2 => 2 ^ 21
  | _ => 2 ^ 12

/-- The extent of a leaf lies in its KIND (R37): below the end of the usable DRAM, or below 24 MiB of the pool. -/
def State.inKind (s : State) (pool : Bool) (base size : Nat) : Bool :=
  if pool then base + size ≤ 24 * 2 ^ 20 else base + size ≤ s.cfg.dramTop

/-- The leaf that an entry at a level gives for an address (R36 to R39); none when the entry is no such leaf. -/
def State.leafOf (s : State) (ctx va level : Nat) (e : Word) : Option Tlb :=
  let size := if bitOf e 6 then 16 * leafSize level else leafSize level
  let pa := getF e 12 36 * 2 ^ 12 / size * size
  if bitOf e 0 && bitOf e 1 && getF e 60 4 = 0 && level ≠ 0 && s.inKind (bitOf e 7) pa size then
    some ⟨ctx, va / size * size, size, pa, bitOf e 7, getF e 48 12, bitOf e 8, bitOf e 5, bitOf e 4, bitOf e 3, bitOf e 2⟩
  else none

/-- Index of a virtual address at a level (R35). -/
def walkIndex (va level : Nat) : Nat := va / 2 ^ (39 - 9 * level) % 512

/-- The valid leaf entries among the 16 of the group that an address's entry lies in (R39). -/
def State.runEntries (s : State) (va level : Nat) (table : Loc) : List Word :=
  (List.range 16).filterMap fun j =>
    let (_, e, t) := s.readWord (table.plus (8 * (walkIndex va level / 16 * 16 + j)))
    if t ≠ tagPoison && bitOf e 0 && bitOf e 1 && getF e 60 4 = 0 then some e else none

/-- One of a list, freely chosen when they differ (R39). -/
def State.oneOf {α : Type} [DecidableEq α] (s : State) (d : α) (l : List α) : α :=
  if l.all (· = d) then d else l.getD (s.free % l.length) d

/-- The leaf that a walk ending at entry `e` takes: where RUN is set in any entry of the group, that of some one of the group's
entries, as a run's; else the entry's own (R39). -/
def State.leafAt (s : State) (ctx va level : Nat) (table : Loc) (e : Word) : Option Tlb :=
  let es := s.runEntries va level table
  if es.any (bitOf · 6) then
    s.oneOf (s.leafOf ctx va level (e ||| 0x40)) (es.map fun x => s.leafOf ctx va level (x ||| 0x40))
  else s.leafOf ctx va level e

/-- The walk of R35 to R39 from a table on, with the non-leaf entries it reads (R42); `fuel` levels remain. An entry is what
memory holds when the walk reads it, also before any TLBI (R41; log 83). -/
def State.walk (s : State) (ctx va level : Nat) (table : Loc) : Nat → Except Cause (Tlb × List WalkEntry)
  | 0 => .error .pagefault
  | fuel + 1 =>
    let (_, e, t) := s.readWord (table.plus (8 * walkIndex va level))
    if t = tagPoison then .error .poison
    else if !bitOf e 0 || getF e 60 4 ≠ 0 then .error .pagefault
    else if bitOf e 1 then
      match s.leafAt ctx va level table e with
      | none => .error .pagefault
      | some l => .ok (l, [])
    else if level = 3 then .error .pagefault
    else
      let pa := getF e 12 36 * 2 ^ 12
      match s.walk ctx va (level + 1) (physLoc (bitOf e 7) pa 0 0) fuel with
      | .error c => .error c
      | .ok (l, es) => .ok (l, ⟨ctx, level + 1, va / 2 ^ (39 - 9 * level), bitOf e 7, pa⟩ :: es)

/-- The walk of a private address in a context, from the root its header names. -/
def State.walkTop (s : State) (ctx va : Nat) : Except Cause (Tlb × List WalkEntry) :=
  let h := s.headerVal ctx 8
  s.walk ctx va 0 (physLoc (bitOf h 7) (getF h 12 36 * 2 ^ 12) 0 0) 4

/-- The leaf of that walk, for the part's own units. -/
def State.walkRoot (s : State) (ctx va : Nat) : Except Cause Tlb :=
  match s.walkTop ctx va with
  | .ok (l, _) => .ok l
  | .error c => .error c

/-- Whether a TLBI removes what a walk cache keeps of a context's tables (R45). -/
def TlbiReq.hitsWalk (q : TlbiReq) (x : WalkEntry) : Bool := q.form = 2 || x.ctx = q.ctx

/-- The walk cache of a walker pool drops what a TLBI names (R45). -/
def State.dropWalks (s : State) (q : TlbiReq) (k : Nat) : State :=
  { s with wcache := s.wcache.map fun p => if p.1 = k then (p.1, p.2.filter fun x => !q.hitsWalk x) else p }

/-- The walker pool of a core (R42, R89): super-groups 0 to 7, Rill 8. -/
def walkersOf (n : Nat) : Nat := if isRill n then 8 else n / 128

/-- A TLBI enters the CTL network (R46). The walkers of a super-group none of whose cores is powered drop their entries at once: no core
acknowledges for them (R444). -/
def State.sendTlbi (s : State) (q : TlbiReq) : State :=
  let id := BitVec.ofNat 16 q.id
  let t := ((List.range 9).filter fun k => !q.left.any fun m => walkersOf m = k).foldl (fun u k => u.dropWalks q k) s
  { t with
    tlbis := s.tlbis ++ [q], nextTlbi := (s.nextTlbi + 1) % 2 ^ 16
    agenda := s.agenda ++ (if q.left.isEmpty then [.tlbiComplete id] else q.left.map fun m => .tlbiArrive id (BitVec.ofNat 12 m)) }

/-- The walk cache of a walker pool. -/
def State.walksOf (s : State) (k : Nat) : List WalkEntry := (alGet s.wcache k).getD []

/-- Whether a cached entry points to the table of its level for an address. -/
def WalkEntry.hits (x : WalkEntry) (ctx va level : Nat) : Bool :=
  x.ctx = ctx && x.level = level && x.prefix_ = va / 2 ^ (48 - 9 * level)

/-- The walk a walker makes: from the deepest table that its walk cache names (R42). -/
def State.walkFrom (s : State) (k ctx va : Nat) : Except Cause (Tlb × List WalkEntry) :=
  match [3, 2, 1].findSome? fun lv => (s.walksOf k).find? (·.hits ctx va lv) with
  | some x => s.walk ctx va x.level (physLoc x.pool x.base 0 0) (4 - x.level)
  | none => s.walkTop ctx va

/-- Non-leaf entries go into a walk cache of 256. -/
def State.cacheWalk (s : State) (k : Nat) (es : List WalkEntry) : State :=
  es.foldl (fun t x =>
    if (t.walksOf k).contains x then t
    else
      let (t1, l) := t.roomIn 256 (t.walksOf k)
      { t1 with wcache := alSet t1.wcache k (x :: l) }) s

/-- Whether a TLB entry serves an address of a context (R42). -/
def Tlb.covers (t : Tlb) (ctx va : Nat) : Bool := t.ctx = ctx && t.vbase ≤ va && va < t.vbase + t.size

/-- The group TLB of a core (R42). -/
def State.groupTlb (s : State) (n : Nat) : List Tlb := (alGet s.gtlb (routerOf n)).getD []

/-- The set of a group TLB that a leaf goes to (R42: 2048 entries, 8-way; log 13). -/
def Tlb.set_ (t : Tlb) : Nat := t.vbase / t.size % 256

/-- A leaf goes into the group TLB of a core. -/
def State.fillGroup (s : State) (n : Nat) (t : Tlb) : State :=
  let l := s.groupTlb n
  let (s1, l1) := s.roomIn 8 (l.filter (·.set_ = t.set_))
  { s1 with gtlb := alSet s1.gtlb (routerOf n) (t :: (l1 ++ l.filter (·.set_ ≠ t.set_))) }

/-- A leaf goes into the micro-TLB of a core, of 32 entries (R42). -/
def State.fillMicro (s : State) (n : Nat) (t : Tlb) : State :=
  let (s1, l) := s.roomIn 32 (s.core n).tlb
  s1.setCore n { s1.core n with tlb := t :: l }

/-- The leaf of an address on a core: from its micro-TLB, else its group's TLB, else by a walk, which fills them (R42). -/
def State.lookTlb (s : State) (n ctx va : Nat) : Except Cause (State × Tlb) :=
  match (s.core n).tlb.find? (·.covers ctx va) with
  | some t => .ok (s, t)
  | none =>
    match (s.groupTlb n).find? (·.covers ctx va) with
    | some t => .ok (s.fillMicro n t, t)
    | none =>
      match s.walkFrom (walkersOf n) ctx va with
      | .error c => .error c
      | .ok (t, es) => .ok (((s.drawn.dramExit.cacheWalk (walkersOf n) es).fillGroup n t).fillMicro n t, t)

/-- Whether an access through a leaf meets a key slot without a key: a retired one (R54), or for DRAM one never loaded (log 84). -/
def State.keyless (s : State) (l : Tlb) : Bool :=
  match s.slotOf l.slot with
  | some k => !k.loaded
  | none => !l.pool

/-- The translation of a private address on a core (R42, R54). -/
def State.translate (s : State) (n ctx va : Nat) : Except Cause (State × Tlb) :=
  match s.lookTlb n ctx va with
  | .error c => .error c
  | .ok (s1, l) => if s.keyless l then .error .pagefault else .ok (s1, l)

/-- The physical place of an address under a leaf. -/
def Tlb.loc (l : Tlb) (va : Nat) : Loc := physLoc l.pool (l.pbase + (va - l.vbase)) l.ctx l.slot

/-! ## Rank tables (R102 to R104, R108) -/

/-- The node of a logical core (R103). -/
def State.coreNode (s : State) (isl lcore : Nat) : Nat :=
  if isl = 1 then 0x800 + lcore
  else
    let grp := lcore / 16
    let pos := match s.cfg.maps[grp]? with
      | some (m :: ms) => (m :: ms).getD (lcore % 16) (lcore % 16)
      | _ => lcore % 16
    grp / 4 * 128 + grp % 4 * 32 + pos

/-- What an NI finds of a rank (R102, R104). -/
inductive RankState
  | valid (node : Nat)
  | transit
  | invalid
  deriving DecidableEq, Repr

/-- The place of a rank's table entry (R102). -/
def State.rankLoc (s : State) (ctx rank : Nat) : Loc :=
  let h := s.headerVal ctx 16
  physLoc (bitOf h 7) (getF h 13 35 * 2 ^ 13 + 8 * rank) 0 0

/-- Reads a rank-table entry (R102). -/
def State.rankEntry (s : State) (e : Word) : RankState :=
  if bitOf e 62 then .transit
  else
    let isl := getF e 18 1
    let lc := getF e 0 10
    if bitOf e 63 && getF e 19 43 = 0 && (if isl = 1 then lc < 8 else lc < 512) then .valid (s.coreNode isl lc)
    else .invalid

/-- The lookup an NI makes: its rank-translation cache, else the table; valid and in-transit entries are cached (R104). -/
def State.lookRank (s : State) (n ctx rank : Nat) : State × RankState :=
  let c := s.core n
  match c.rankCache.find? fun r => r.ctx = ctx && r.rank = rank with
  | some r => (s, if r.transit then .transit else .valid r.node)
  | none =>
    let keep (k : Nat) (tr : Bool) : State :=
      let (s1, l) := s.roomIn 64 c.rankCache
      s1.setCore n { c with rankCache := ⟨ctx, rank, k, tr⟩ :: l }
    match s.rankEntry (s.readWord (s.rankLoc ctx rank)).2.1 with
    | .valid k => (keep k false, .valid k)
    | .transit => (keep 0 true, .transit)
    | .invalid => (s, .invalid)

/-- The logical core of a node (R103): the index whose position it is; a Rill core's is its number, the management core's 0. -/
def State.lcoreOf (s : State) (n : Nat) : Nat :=
  if n = mcNode then 0
  else if isRill n then n - 0x800
  else 16 * groupOf n + ((List.range 16).find? fun i => s.coreNode 0 (16 * groupOf n + i) = n).getD 0

/-! ## Scopes (R123, R124) and a thread's own messages (R125, R137) -/

/-- Whether a core lies in a scope of another (R123, R124). -/
def State.inScope (s : State) (n sc m : Nat) : Bool :=
  if m = n then true
  else if sc ≤ 1 then false
  else if 6 ≤ sc then true
  else if isRill n then isRill m && (3 ≤ sc || (n ≠ mcNode && m ≠ mcNode && s.lcoreOf m / 4 = s.lcoreOf n / 4))
  else
    let k := if sc = 2 then 4 else if sc = 3 then 16 else 64
    m < 0x400 && (5 ≤ sc || s.lcoreOf m / k = s.lcoreOf n / k)

/-- The powered cores in a scope of a core. -/
def State.scopeNodes (s : State) (n sc : Nat) : List Nat :=
  ((s.cores.filter fun p => p.2.power != .off).map (·.1)).filter (s.inScope n sc ·)

/-- Whether a message or port value of the executing thread, a store to a queue of a core in the scope, has not been performed yet
(R125, R137; log 90): it is in the network, held at the NI or in an outbound queue. -/
def State.sendsOpen (s : State) (sc : Nat) : Bool :=
  let c := s.here
  let mine (p : Packet) : Bool := p.src = s.cur && p.sender = s.cb
  1 ≤ sc &&
    (s.net.any (fun p => mine p && s.inScope s.cur sc p.dst) ||
      c.bridgeHeld.any (fun p => mine p && (if isLink p.dst then 7 ≤ sc else s.inScope s.cur sc p.dst)) ||
      c.heldPkts.any (fun p => mine p && (2 ≤ sc || p.drank = c.rank)) ||
      c.ports.toList.any fun q => q.outq.any fun o =>
        o.sender = s.cb && (if o.bind.peer then 7 ≤ sc else 2 ≤ sc || o.bind.rank = c.rank))

/-- The release of an instruction that carries one (R131): it waits until the thread's messages and port values in its scope have
been performed. -/
def released (s : State) (sc : Nat) : M Unit := if s.sendsOpen sc then .error (.wait s) else .ok ()

/-- DEVICE, the scope of the releases and acquires of R131. -/
def scDevice : Nat := 6

/-- A rank with a packet held at an NI: later packets to it are held behind (R108). -/
def Core.holds (c : Core) (ctx rank : Nat) : Bool := c.heldPkts.any fun p => p.ctx = ctx && p.drank = rank

/-- The entry of a rank for a packet that the NI of a core takes: while the NI holds one for the rank it is not looked up, and the
packet is held behind (R104, R108). -/
def State.findRank (s : State) (n ctx rank : Nat) : State × RankState :=
  if (s.core n).holds ctx rank then (s, .transit) else s.lookRank n ctx rank

/-! ## SLEEP and ABSENT -/

/-- An event that ends a berth's SLEEP (R434). -/
def State.wakeSleep (s : State) (n i : Nat) : State :=
  match (s.berthAt n i).wait with
  | .sleep _ _ => s.setBerthAt n i { s.berthAt n i with wait := .woken }
  | _ => s

/-- ABSENT becomes pending at its first event (R191); it is a cause for B0. -/
def State.raiseAbsent (s : State) (n reason ctx rank : Nat) : State :=
  let c := s.core n
  match c.absent with
  | some _ => s
  | none =>
    (s.setCore n { c with absent := some (w64 (reason * 2 ^ 60 + ctx * 2 ^ 32 + rank)) }).wakeSleep n 0

/-! ## Groups and the arrivals that wake them (R443, R444, R446, R449) -/

def State.group (s : State) (g : Nat) : Group := s.groups[g]?.getD Group.reset

def State.setGroup (s : State) (g : Nat) (x : Group) : State := { s with groups := s.groups.setIfInBounds g x }

/-- Every group is RET or OFF. -/
def State.allDown (s : State) : Bool := s.groups.all fun x => x.state = 1 || x.state = 2

/-- A Torrent core's NI when the island is no longer powered: nothing is kept (R92). -/
def Core.unpowered (c : Core) : Core := { Core.reset with poolTag := c.poolTag, poolNew := c.poolNew }

/-- A group's STATE changes; the management core records it (R459). When the last group goes down Torrent leaves ON, and from
NAP becomes OFF when every group is OFF (R444). -/
def State.groupState (s : State) (g st : Nat) : State :=
  let x := s.group g
  if x.state = st then s
  else
    let s1 := (s.setGroup g { x with state := st }).record mcNode 3 1 (w64 (g * 2 ^ 8 + x.state * 4 + st))
    if s1.tstate = 2 && s1.allDown then { s1 with tbusy := true }.laterOnce .torrentLeaveOn
    else if s1.tstate = 1 && s1.groups.all (·.state = 2) then
      { s1 with tstate := 0, cores := s1.cores.map fun p => if isRill p.1 then p else (p.1, p.2.unpowered) }
    else s1

/-- A wake of groups for the sources `bits` of WAKE_SRC (R449, R450): the island is brought up first, and each group that is not ON
comes up by hardware, which takes back at once a drain that nothing has followed. -/
def State.wakeGroups (s : State) (gs : List Nat) (bits : Word) : State :=
  let s1 : State := { s with wakeSrc := s.wakeSrc ||| bits }
  let s2 := if s1.tstate ≠ 2 && !gs.isEmpty then { s1 with tbusy := true }.laterOnce .torrentBringUp else s1
  gs.foldl (fun t g =>
    let x := t.group g
    if x.state = 0 && !x.quiesce then t
    else
      let t1 := t.setGroup g { x with wakeBy := x.wakeBy ||| bits, drained := x.drained && (x.saved || t.retSave) }
      (if x.state = 0 then t1 else t1.groupState g 3).laterOnce (.groupWake (BitVec.ofNat 5 g))) s2

/-- Whether a core takes part in what its NI hands it: it is up, or a Rill core, whose NI serves it in RET too (R92, R443). What arrives
after a group's save to images, which holds its queues, waits at the NI (R447, R448). -/
def State.reachable (s : State) (n : Nat) : Bool :=
  let c := s.core n
  if isRill n then c.power != .off else c.power == .run && !(s.group (groupOf n)).img

/-- Whether the NI of a core and what stands behind it work: a Rill core is powered, a Torrent core's clocks run (R92, R107, R448). -/
def State.niUp (s : State) (n : Nat) : Bool := if isRill n then (s.core n).power != .off else (s.core n).power == .run

/-- An arrival for a core of a RET or OFF group wakes the group when AUTOWAKE is 1 (R446, R449). -/
def State.autoWake (s : State) (n : Nat) : State :=
  let x := s.group (groupOf n)
  if !isRill n && x.autowake && (x.state = 1 || x.state = 2) then s.wakeGroups [groupOf n] 0x80000 else s

/-! ## The LM of a rank, for an engine and for a home (R56, R112, R192) -/

/-- Whether a core holds the LM that an access in a context names by rank (R56, R192). -/
def Core.resident (c : Core) (ctx rank : Nat) : Bool := c.ctxid = ctx && c.rank = rank

/-- Why an access to the LM of a rank waits. -/
inductive LmWait
  | later                                -- the rank is in transit (R108), or the bridge on the way is isolated (R92)
  | absent (node rank : Nat)             -- another rank is resident at the core (R192)
  | asleep (node : Nat)                  -- its core is in RET or OFF: the access waits at the NI (R448)
  deriving DecidableEq, Repr

/-- What an access for a core to an LM window finds. -/
inductive LmPlace
  | at_ (l : Loc)
  | invalid                 -- the rank's entry is invalid (R104)
  | foreign (node : Nat)    -- its core holds another context (R56)
  | wait (h : LmWait)
  deriving DecidableEq, Repr

/-- What an access in a context finds at the core that a rank's entry names. -/
def State.lmAt (s : State) (ctx rank off k : Nat) : LmPlace :=
  if !s.reachable k then .wait (.asleep k)
  else if (s.core k).resident ctx rank then .at_ (lmLoc k off)
  else if (s.core k).ctxid = ctx then .wait (.absent k rank)
  else .foreign k

/-- The place of an offset in a rank's LM, for an access made for the core `n`: the core's own window is served there (R15); else
the entry names the core, reached across an open bridge (R92), which must hold the context and the rank. -/
def State.lmPlace (s : State) (n ctx rank off : Nat) : State × LmPlace :=
  if (s.core n).resident ctx rank then (s, .at_ (lmLoc n off))
  else
    let (s1, st) := s.findRank n ctx rank
    match st with
    | .invalid => (s1, .invalid)
    | .transit => (s1, .wait .later)
    | .valid k => (s1, if isRill n && !isRill k && !s1.bridge then .wait .later else s1.lmAt ctx rank off k)

/-- An access that must be repeated: ABSENT becomes pending where a rank was not resident (R192), and a group may wake (R449). -/
def State.repeatLater (s : State) (ctx : Nat) (h : LmWait) : State :=
  match h with
  | .later => s
  | .absent k r => s.raiseAbsent k 4 ctx r
  | .asleep k => s.autoWake k

/-! ## The access checks -/

/-- What an access is (R32): base register and its code, effective address, bytes, and its needs. -/
structure Need where
  base : GReg
  code : Nat
  ea : Word
  n : Nat
  perms : Nat            -- capability permissions
  rd : Bool              -- the page must grant R
  wr : Bool              -- the page must grant W
  cs : Bool              -- a CAP store: the page must have CS
  align : Nat            -- 0 none, else the alignment
  deriving DecidableEq, Repr

/-- Checks 2 to 5 of R32: of every user access, and of a kernel access through a CAP base. -/
def capChecks (kern : Bool) (a : Need) : M Unit := do
  if kern && a.base.tag ≠ .cap then .ok ()
  else
    check (a.base.tag = .cap) .captag (w64 a.code)
    check (capWell a.base.sh) .captag (w64 a.code)
    check (capL a.base.sh ≠ 0 && capBase a.base.val a.base.sh ≤ a.ea.toNat &&
      ((a.ea.toNat + a.n : Nat) : Int) ≤ capTop a.base.val a.base.sh) .capbounds a.ea
    check (hasPerm a.base.sh a.perms) .capperm a.ea

/-- Checks 2 to 6 of R32. They come before the device window's own (R18, R281), ALIGN before its PRIV: the model's choice (log 113). -/
def preChecks (kern : Bool) (a : Need) : M Unit := do
  capChecks kern a
  check (a.align = 0 || a.ea.toNat % a.align = 0) .align a.ea

/-- The bytes of an access that lie in one 8-byte word. -/
structure Piece where
  va : Nat
  n : Nat
  deriving DecidableEq, Repr

/-- The pieces of [va, va + n) by 8-byte words, ascending. -/
def pieces (va n : Nat) : Nat → List Piece
  | 0 => []
  | fuel + 1 =>
    if n = 0 then []
    else
      let k := min n (8 - va % 8)
      ⟨va, k⟩ :: pieces (va + k) (n - k) fuel

/-- Where an access is served (R15, R281). -/
inductive Where
  | here (locs : List (Piece × Loc))    -- local words, each with its place
  | remote (rank off : Nat)             -- another rank's LM
  | device (off : Nat)
  deriving DecidableEq, Repr

/-- The page's grant for an access (R33, R36): a user access to a KO page, a missing W, R or CS. -/
def Tlb.grants (l : Tlb) (kern : Bool) (a : Need) : Bool :=
  (kern || !l.ko) && (!a.wr || l.w) && (!a.rd || l.r) && (!a.cs || l.cs)

/-- Checks 7 to 9 for the pieces of an access, in ascending order (R279). `ctx` is the context the access is made in, on
core `n`. -/
def placePieces (n ctx : Nat) (kern : Bool) (a : Need) : State → List Piece → M (State × List (Piece × Loc))
  | s, [] => .ok (s, [])
  | s, p :: ps => do
    match place p.va with
    | .priv =>
      match s.translate n ctx p.va with
      | .error c => trap c (w64 p.va)
      | .ok (s1, l) => do
        check (l.grants kern a) .pageperm (w64 p.va)
        let (s2, r) ← placePieces n ctx kern a s1 ps
        .ok (s2, (p, l.loc p.va) :: r)
    | .alias_ off => do
      let (s2, r) ← placePieces n ctx kern a s ps
      .ok (s2, (p, lmLoc n off) :: r)
    | .window _ off => do
      let (s2, r) ← placePieces n ctx kern a s ps
      .ok (s2, (p, lmLoc n off) :: r)
    | _ => trap .pagefault (w64 p.va)

/-- Checks 7 to 9 of an access of the executing thread: the layout, then translation and page, or for another rank's
window the M permission (R112). -/
def locate (s : State) (a : Need) : M (State × Where) := do
  check (a.ea.toNat < 2 ^ 48) .pagefault a.ea
  let ps := pieces a.ea.toNat a.n a.n
  match place a.ea.toNat with
  | .device off => .ok (s, .device off)
  | .window r off =>
    if r = s.here.rank then do
      let (s1, l) ← placePieces s.cur s.here.ctxid s.kern a s ps
      .ok (s1, .here l)
    else do
      let bad := ps.find? fun p => place p.va = .nowhere
      match bad with
      | some p => trap .pagefault (w64 p.va)
      | none => .ok (s, .remote r off)
  | _ => do
    let (s1, l) ← placePieces s.cur s.here.ctxid s.kern a s ps
    .ok (s1, .here l)

/-- A device-window address met by an instruction the window does not accept (R18, R281). -/
def deviceTrap {α : Type} (s : State) (ea : Word) : M α := trap (if s.kern then .align else .priv) ea

/-! ## Words and their tags (R21, R22) -/

/-- Check 10 for a load: a POISON word traps. -/
def loadCheck (n : Nat) : State → List (Piece × Loc) → M State
  | s, [] => .ok s
  | s, (p, l) :: r => do
    let (s1, _, t) := s.loadWord n l
    check (t ≠ tagPoison) .poison (w64 (p.va / 8 * 8))
    loadCheck n s1 r

/-- The bytes of a piece within its word. -/
def pieceOf (p : Piece) (v : Word) : Nat := v.toNat / 2 ^ (8 * (p.va % 8)) % 2 ^ (8 * p.n)

/-- Loads the pieces of an access as one little-endian number. -/
def loadPieces (n : Nat) : State → List (Piece × Loc) → State × Nat
  | s, [] => (s, 0)
  | s, (p, l) :: r =>
    let (s1, v, _) := s.loadWord n l
    let (s2, x) := loadPieces n s1 r
    (s2, pieceOf p v + 2 ^ (8 * p.n) * x)

/-- Whether an MMA of the executing thread, which has gone past it, has a place's line pinned (R78). -/
def State.pinsOwn (s : State) (l : Loc) : Bool :=
  l.kind ≠ .lm && s.here.engine.flight.any fun f => f.berth = s.cb && f.pins.contains (l.key / 64)

/-- Check 10 for a store: a SYNC word traps. A store to a word that an earlier MMA of the thread has pinned waits until that pin ends
(R78); the pins are whole lines (R77), and it is no matter which word of one it stores to (log 36). -/
def storeCheck (n : Nat) : State → List (Piece × Loc) → M State
  | s, [] => .ok s
  | s, (p, l) :: r => do
    let (s1, _, t) := s.storeView n l
    check (t ≠ tagSync) .syncstore (w64 (p.va / 8 * 8))
    if s.pinsOwn l then .error (.wait s) else .ok ()
    storeCheck n s1 r

/-- A word with the bytes of a piece replaced; in a POISON word every other byte becomes 0 (R22). -/
def mergePiece (p : Piece) (old : Word) (t : Nat) (x : Nat) : Word :=
  let o := if t = tagPoison then 0 else old.toNat
  let lo := 8 * (p.va % 8)
  w64 (o - o / 2 ^ lo % 2 ^ (8 * p.n) * 2 ^ lo + x % 2 ^ (8 * p.n) * 2 ^ lo)

/-- A word with the bytes that `m` marks replaced by those of `x` (R22). -/
def mergeBytes (m : Nat) (old : Word) (t : Nat) (x : Word) : Word :=
  let f (r : Nat) (j : Nat) : Nat :=
    r + (if m.testBit j then x.toNat else if t = tagPoison then 0 else old.toNat) / 2 ^ (8 * j) % 256 * 2 ^ (8 * j)
  w64 ((List.range 8).foldl f 0)

/-- Stores the pieces of an access from one little-endian number; every word becomes DATA (R21). -/
def storePieces (n : Nat) : State → List (Piece × Loc) → Nat → State
  | s, [], _ => s
  | s, (p, l) :: r, x =>
    let (s1, v, t) := s.storeView n l
    storePieces n (s1.storeWord n l (mergePiece p v t x) tagData) r (x / 2 ^ (8 * p.n))

/-! ## Remote word accesses (R110 to R112) -/

/-- The NI's check of another rank's window (R112): the entry is not invalid, and a CAP base holds M. -/
def windowCheck (s : State) (a : Need) (rank : Nat) : M (State × RankState) := do
  let (s1, st) := s.findRank s.cur s.here.ctxid rank
  check (st ≠ .invalid) .migfault a.ea
  check (a.base.tag ≠ .cap || hasPerm a.base.sh pM) .migfault a.ea
  .ok (s1, st)

/-- The NI of the executing core holds a request, unless it holds 16 packets already (R108). -/
def State.holdReq (s : State) (p : Packet) : State :=
  let c := s.here
  if 16 ≤ c.heldPkts.length then s
  else
    let s1 := s.setHere { c with heldPkts := c.heldPkts ++ [p] }
    s1.setMe { s1.me with wait := .held }

/-- The `i`-th remote access of the instruction: its response when it has come, else the request is sent and the
instruction waits (R110); toward an in-transit rank it is held (R108). -/
def remoteAccess (s : State) (a : Need) (rank i : Nat) (q : RwReq) : M (State × RwRsp) := do
  match s.me.rsp[i]? with
  | some r => .ok (s, r)
  | none =>
    if s.me.wait ≠ .none then .error (.wait s)
    else
      let (s1, st) ← windowCheck s a rank
      let c := s1.here
      let p : Packet :=
        { src := s.cur, dst := 0, ctx := c.ctxid, ranked := true, drank := rank, srank := c.rank, epoch := c.epoch
          launch := none, body := .rwreq s.cb q }
      match st with
      | .valid k => .error (.wait ((s1.setMe { s1.me with wait := .remote }).send s.cur { p with dst := k }))
      | _ => .error (.wait (s1.holdReq p))

/-- A word of another rank's window, as its virtual address. -/
def windowVa (rank off : Nat) : Nat := windowBase + rank * 2 ^ 17 + off

/-- Loads the words of an access from another rank's LM, one after the other (R110). -/
def remoteLoad (s : State) (a : Need) (rank : Nat) : List Piece → Nat → M (State × Nat)
  | [], _ => .ok (s, 0)
  | p :: ps, i => do
    let (s1, r) ← remoteAccess s a rank i ⟨p.va % 2 ^ 17, p.n, .load, 0, 0, false⟩
    match r with
    | .ok v _ _ => do
      let (s2, x) ← remoteLoad s1 a rank ps (i + 1)
      .ok (s2, v.toNat + 2 ^ (8 * p.n) * x)
    | .poison off => trap .poison (w64 (windowVa rank off))
    | .syncstore off => trap .syncstore (w64 (windowVa rank off))
    | _ => trap .migfault a.ea

/-- Stores the words of an access to another rank's LM, one after the other; words already stored stand (R110). -/
def remoteStore (s : State) (a : Need) (rank : Nat) : List Piece → Nat → Nat → M State
  | [], _, _ => .ok s
  | p :: ps, i, x => do
    let (s1, r) ← remoteAccess s a rank i ⟨p.va % 2 ^ 17, p.n, .store, w64 (x % 2 ^ (8 * p.n)), 0, false⟩
    match r with
    | .ok _ _ _ => remoteStore s1 a rank ps (i + 1) (x / 2 ^ (8 * p.n))
    | .poison off => trap .poison (w64 (windowVa rank off))
    | .syncstore off => trap .syncstore (w64 (windowVa rank off))
    | _ => trap .migfault a.ea

/-! ## Accesses of the executing thread -/

/-- A thread is pinned while it holds the matrix engine, in the engine or through the spill slot, or belongs to a gang
(R113, R340, R341). -/
def State.pinned (s : State) : Bool := s.me.gang.isSome || bitOf s.me.mspill 63

/-- Whether an access to another rank's window goes out as remote word accesses, the thread staying (R110, R113). -/
def State.stays (s : State) : Bool := s.kern || s.pinned

/-- The thread migrates to the rank's core and performs the access there (R113), every event before the move performed (R140);
toward an in-transit rank it waits (R108). -/
def migrateFor {α : Type} (s : State) (a : Need) (rank : Nat) : M α := do
  let (s1, st) ← windowCheck s a rank
  released s1 scDevice
  match st with
  | .valid k => .error (.move s1 rank k)
  | _ => .error (.wait s1)

/-- Loads the bytes of an access (R21, R279, R281); `stay` holds for an instruction that never moves the thread. -/
def loadBytes (s : State) (a : Need) (stay : Bool) : M (State × Nat) := do
  preChecks s.kern a
  let (s1, w) ← locate s a
  match w with
  | .here l => do
    let s2 ← loadCheck s1.cur s1 l
    .ok (loadPieces s2.cur s2 l)
  | .remote r _ =>
    if stay || s1.stays then remoteLoad s1 a r (pieces a.ea.toNat a.n a.n) 0 else migrateFor s1 a r
  | .device _ => deviceTrap s1 a.ea

/-- Stores the bytes of an access (R21, R22, R279, R281). -/
def storeBytes (s : State) (a : Need) (stay : Bool) (x : Nat) : M State := do
  preChecks s.kern a
  let (s1, w) ← locate s a
  match w with
  | .here l => do
    let s2 ← storeCheck s1.cur s1 l
    .ok (storePieces s2.cur s2 l x)
  | .remote r _ =>
    if stay || s1.stays then remoteStore s1 a r (pieces a.ea.toNat a.n a.n) 0 x else migrateFor s1 a r
  | .device _ => deviceTrap s1 a.ea

end Sys2Proof.Machine
end

