-- ==== Sys2Proof/Machine/Operands.lean ====
section
/-! DEFINITION. Operands: reading source registers and ports, writing destinations (R202 to R208), in the order of checks
of R219. -/

namespace Sys2Proof.Machine

/-- A source register of an instruction. -/
inductive Src
  | g (n : BitVec 6)
  | v (n : BitVec 5)
  | k (n : BitVec 2)
  | ox (n : BitVec 2)
  deriving DecidableEq, Repr

/-- A destination register of an instruction. -/
inductive Dst
  | g (n : BitVec 6)
  | v (n : BitVec 5)
  | k (n : BitVec 2)
  deriving DecidableEq, Repr

/-- A value read from or written to a register of any file: `g` for a g register, `v` for a v register, `x` for k and OX. -/
structure Val where
  g : GReg
  v : BitVec 512
  x : Word
  deriving DecidableEq, Repr

def Val.ofG (r : GReg) : Val := ⟨r, 0, r.val⟩
def Val.ofV (v : BitVec 512) : Val := ⟨GReg.zero, v, 0⟩
def Val.ofX (x : Word) : Val := ⟨dataReg x, 0, x⟩

/-- A DATA result. -/
def Val.data (x : Word) : Val := .ofG (dataReg x)

def Val.none : Val := .ofG GReg.zero

/-- The register codes of R203. -/
def Src.code : Src → Nat
  | .g n => n.toNat
  | .v n => 0x40 + n.toNat
  | .k n => 0x60 + n.toNat
  | .ox n => 0x78 + n.toNat

def Dst.code : Dst → Nat
  | .g n => n.toNat
  | .v n => 0x40 + n.toNat
  | .k n => 0x60 + n.toNat

/-- The port a source names: 0 to 5 PN to PB, 6 to 9 VN to VW. -/
def Src.port : Src → Option Nat
  | .g n => if isGPort n then some (n.toNat - 56) else .none
  | .v n => if isVPort n then some (n.toNat - 28 + 6) else .none
  | _ => .none

def Dst.port : Dst → Option Nat
  | .g n => if isGPort n then some (n.toNat - 56) else .none
  | .v n => if isVPort n then some (n.toNat - 28 + 6) else .none
  | _ => .none

/-- Whether a source register that is no port is EMPTY (R203, R204). -/
def Berth.isEmpty (b : Berth) : Src → Bool
  | .g n => !isGPort n && (b.getG n).tag = .empty
  | .v n => !isVPort n && !(b.getV n).full
  | .k n => !(b.getK n).full
  | .ox n => !b.ox[n.toNat].full

/-! ## Ports -/

/-- Room of a port's queues (R193). -/
def portRoom (p : Nat) : Nat := if p < 6 then 8 else 4

def Core.port (c : Core) (p : Nat) : Port := if h : p < 10 then c.ports[p] else Port.empty

def Core.setPort (c : Core) (p : Nat) (x : Port) : Core :=
  if h : p < 10 then { c with ports := c.ports.set p x } else c

/-- The default binding of a port of a rank (R194), with W columns and ranks 0 to NR. -/
def defaultBinding (rank w nr p : Nat) : Option Binding :=
  let row := if p < 6 then p else p - 6
  let base := if p < 6 then 0 else 6
  let col := rank % w
  match row with
  | 0 => if w ≤ rank && rank - w ≤ nr then some ⟨false, 0, rank - w, base + 2⟩ else none
  | 1 => if col < w - 1 && rank + 1 ≤ nr then some ⟨false, 0, rank + 1, base + 3⟩ else none
  | 2 => if rank + w ≤ nr then some ⟨false, 0, rank + w, base + 0⟩ else none
  | 3 => if 0 < col && rank - 1 ≤ nr then some ⟨false, 0, rank - 1, base + 1⟩ else none
  | _ => none

/-- The binding in force for a port of a core (R194). -/
def State.binding (s : State) (n p : Nat) : Option Binding :=
  let c := s.core n
  match (c.port p).bind with
  | .to b => some b
  | .unbound => none
  | .default =>
    let h := s.headerVal c.ctxid 0
    defaultBinding c.rank (getF h 22 10 + 1) (getF h 12 10) p

/-- The number of a rank in a context. -/
def rankNo (ctx rank : Nat) : Nat := ctx * 2 ^ 10 + rank

/-- The bindings of a core's ports are those of its rank (R194, R207). -/
def State.keepBinds (s : State) (n : Nat) : State :=
  let c := s.core n
  { s with binds := alSet s.binds (rankNo c.ctxid c.rank) (c.ports.toList.map (·.bind)) }

/-- A rank has become resident on a core: the ports have the bindings that it left, else the default ones (R194, R207). -/
def State.loadBinds (s : State) (n : Nat) : State :=
  let c := s.core n
  let l := (alGet s.binds (rankNo c.ctxid c.rank)).getD []
  s.setCore n { c with ports := Vector.ofFn fun i => { c.ports[i] with bind := l.getD i.val .default } }

/-- The value at place `i` of a port's inbound queue, as an operand. -/
def Port.head (q : Port) (i : Nat) (isG : Bool) : Val :=
  match q.inq[i]? with
  | some x =>
    if isG then .ofG ⟨x.val.setWidth 64, x.sh, if x.cap then .cap else .data⟩ else .ofV x.val
  | none => Val.none

/-! ## Reading -/

/-- The value of a source; a port named again gives its next value (R208). `used` lists the ports read so far. -/
def State.readSrc (s : State) (x : Src) (used : List Nat) : Val :=
  match x.port with
  | some p => (s.here.port p).head (used.count p) (p < 6)
  | none =>
    match x with
    | .g n => .ofG (s.me.getG n)
    | .v n => .ofV (s.me.getV n).val
    | .k n => .ofX (s.me.getK n).val
    | .ox n => .ofX s.me.ox[n.toNat].val

def State.readSrcs (s : State) : List Src → List Nat → List Val
  | [], _ => []
  | x :: r, used => s.readSrc x used :: s.readSrcs r (match x.port with | some p => p :: used | none => used)

/-- Step 4 of R219: the first EMPTY source traps. -/
def emptyCheck (b : Berth) : List Src → M Unit
  | [] => .ok ()
  | x :: r => if b.isEmpty x then trap .emptyread (w64 x.code) else emptyCheck b r

/-- An unbound port traps (R194). -/
def boundCheck (s : State) : List (Option Nat × Nat) → M Unit
  | [] => .ok ()
  | (none, _) :: r => boundCheck s r
  | (some p, code) :: r =>
    match s.binding s.cur p with
    | some _ => boundCheck s r
    | none => trap .portbind (w64 code)

/-- The ports a list of sources pops, in order. -/
def popList (l : List Src) : List Nat := l.filterMap Src.port

def pushList (l : List Dst) : List Nat := l.filterMap Dst.port

/-- Reads the sources of an instruction: ports only in the native berth (R116), where it first waits for every inbound value it
names (R208); then EMPTY sources trap (R203), `step5` is R219's step 5, and unbound ports trap (R194; log 89). -/
def operands (s : State) (srcs : List Src) (dsts : List Dst) (step5 : M Unit := .ok ()) : M (List Val) := do
  let pops := popList srcs
  let ports := pops ++ pushList dsts
  if !ports.isEmpty && s.guest then .error .home else .ok ()
  if pops.all fun p => pops.count p ≤ (s.here.port p).inq.length then .ok () else .error (.wait s)
  emptyCheck s.me srcs
  step5
  if ports.isEmpty then .ok ()
  else boundCheck s (srcs.map (fun x => (x.port, x.code)) ++ dsts.map (fun x => (x.port, x.code)))
  .ok (s.readSrcs srcs [])

/-! ## Writing -/

/-- Pops one value of a port. -/
def Core.popPort (c : Core) (p : Nat) : Core := c.setPort p { c.port p with inq := (c.port p).inq.tail }

/-- Pushes a value on a port's outbound queue under the binding in force; a CAP value keeps its tag only with G (R193). -/
def State.pushPort (s : State) (p : Nat) (x : Val) : State :=
  match s.binding s.cur p with
  | none => s
  | some b =>
    let keep := x.g.tag = .cap && capWell x.g.sh && hasPerm x.g.sh pG
    let q : PVal :=
      { val := if p < 6 then x.g.val.setWidth 512 else x.v, sh := if p < 6 then x.g.sh else 0
        cap := p < 6 && keep, srank := s.here.rank, snode := s.cur, time := 0 }
    let o : OutVal := ⟨q, b, s.here.ctxid, if s.cb = 1 then s.me.launch else none, s.cb⟩
    let c := s.here
    (s.setHere (c.setPort p { c.port p with outq := (c.port p).outq ++ [o] })).later
      (.portOutboundSend (BitVec.ofNat 12 s.cur) (BitVec.ofNat 4 p))

/-- Writes a destination: a register, or one value pushed on a port (R202, R208). -/
def State.writeDst (s : State) (d : Dst) (x : Val) : State :=
  match d.port with
  | some p => s.pushPort p x
  | none =>
    match d with
    | .g n => s.setMe (s.me.setG n x.g)
    | .v n => s.setMe (s.me.setV n x.v)
    | .k n => s.setMe (s.me.setK n x.x)

def State.writeDsts (s : State) : List Dst → List Val → State
  | d :: ds, x :: xs => (s.writeDst d x).writeDsts ds xs
  | _, _ => s

/-- Whether the outbound queues have room for every value the destinations push. -/
def hasRoom (s : State) (dsts : List Dst) : Bool :=
  let l := pushList dsts
  l.all fun p => (s.here.port p).outq.length + l.count p ≤ portRoom p

/-- Pops the ports read and writes the results. -/
def State.commit (t : State) (srcs : List Src) (dsts : List Dst) (rs : List Val) : State :=
  let pops := popList srcs
  let t1 := if pops.isEmpty then t else t.setHere (pops.foldl Core.popPort t.here)
  t1.writeDsts dsts rs

/-- An instruction that reads `srcs`, computes, and writes `dsts` (R208, R219): it waits for room in a destination port
only after every check of its own, and pops and pushes all together or not at all. It then goes on `len` bytes further,
or at the target that `f` gives. -/
def opTo (s : State) (srcs : List Src) (dsts : List Dst) (len : Nat)
    (f : State → List Val → M (State × List Val × Option Word)) (step5 : M Unit := .ok ()) : M State := do
  let vals ← operands s srcs dsts step5
  let (t, rs, pc) ← f s vals
  if hasRoom s dsts then
    .ok (match pc with
      | none => (t.commit srcs dsts rs).retire len
      | some x => (t.commit srcs dsts rs).jump x)
  else .error (.wait s)

/-- The same for an instruction that always goes on at the next one. -/
def op (s : State) (srcs : List Src) (dsts : List Dst) (len : Nat) (f : State → List Val → M (State × List Val))
    (step5 : M Unit := .ok ()) : M State :=
  opTo s srcs dsts len (fun t vs => do
    let (t1, rs) ← f t vs
    .ok (t1, rs, none)) step5

/-- An instruction that only computes values from its sources. -/
def pureOp (s : State) (srcs : List Src) (dsts : List Dst) (len : Nat) (f : List Val → List Val) : Out :=
  run s (op s srcs dsts len fun t vs => .ok (t, f vs))

/-- The `i`-th source value. -/
def arg (l : List Val) (i : Nat) : Val := l.getD i Val.none

/-- The `i`-th source as a 64-bit value. -/
def argW (l : List Val) (i : Nat) : Word := (arg l i).g.val

/-- W of an R or M format instruction (R215). -/
def wordR (maj fn d a b q : Nat) : Word := w64 (a * 2 ^ 26 + b * 2 ^ 20 + fn * 2 ^ 16 + 2 ^ 15 + maj * 2 ^ 8 + d * 4 + q)

end Sys2Proof.Machine
end

