-- ==== Sys2Proof/Machine/Integer.lean ====
section
/-! DEFINITION. The integer instructions: ALU, ALU2, immediate and upper-immediate forms and their 16-bit forms (R259 to
R267, R277). -/

namespace Sys2Proof.Machine

/-! ## Operations on n-bit values -/

/-- The shift amount of R261: y[5:0] for 64 bits, y[4:0] for 32. -/
def shamt {n : Nat} (y : BitVec n) : Nat := y.toNat % n

def opAdd {n : Nat} (x y : BitVec n) : BitVec n := x + y
def opSub {n : Nat} (x y : BitVec n) : BitVec n := x - y
def opAnd {n : Nat} (x y : BitVec n) : BitVec n := x &&& y
def opOr {n : Nat} (x y : BitVec n) : BitVec n := x ||| y
def opXor {n : Nat} (x y : BitVec n) : BitVec n := x ^^^ y
def opAndn {n : Nat} (x y : BitVec n) : BitVec n := x &&& ~~~y
def opShl {n : Nat} (x y : BitVec n) : BitVec n := x <<< shamt y
def opShr {n : Nat} (x y : BitVec n) : BitVec n := x >>> shamt y
def opSar {n : Nat} (x y : BitVec n) : BitVec n := x.sshiftRight (shamt y)
def opRol {n : Nat} (x y : BitVec n) : BitVec n := x.rotateLeft (shamt y)
def opMin {n : Nat} (x y : BitVec n) : BitVec n := if x.slt y then x else y
def opMax {n : Nat} (x y : BitVec n) : BitVec n := if x.slt y then y else x
def opMinu {n : Nat} (x y : BitVec n) : BitVec n := if x.ult y then x else y
def opMaxu {n : Nat} (x y : BitVec n) : BitVec n := if x.ult y then y else x
def opSlt {n : Nat} (x y : BitVec n) : BitVec n := if x.slt y then 1 else 0
def opSltu {n : Nat} (x y : BitVec n) : BitVec n := if x.ult y then 1 else 0
def opMul {n : Nat} (x y : BitVec n) : BitVec n := x * y
/-- High half of the signed product (R263). -/
def opMulh {n : Nat} (x y : BitVec n) : BitVec n := BitVec.ofInt n (x.toInt * y.toInt / 2 ^ n)
def opMulhu {n : Nat} (x y : BitVec n) : BitVec n := BitVec.ofNat n (x.toNat * y.toNat / 2 ^ n)
def opMulhsu {n : Nat} (x y : BitVec n) : BitVec n := BitVec.ofInt n (x.toInt * y.toNat / 2 ^ n)
/-- Signed quotient truncated toward zero; by 0 all ones; the most negative value by -1 is itself (R264). -/
def opDiv {n : Nat} (x y : BitVec n) : BitVec n := if y = 0 then BitVec.allOnes n else x.sdiv y
def opDivu {n : Nat} (x y : BitVec n) : BitVec n := if y = 0 then BitVec.allOnes n else x / y
/-- Remainder with the sign of the dividend; by 0 the dividend (R264). -/
def opRem {n : Nat} (x y : BitVec n) : BitVec n := if y = 0 then x else x.srem y
def opRemu {n : Nat} (x y : BitVec n) : BitVec n := if y = 0 then x else x % y

/-- Zero bits above the highest set bit; n for 0 (R263). -/
def opClz {n : Nat} (x : BitVec n) : BitVec n := BitVec.ofNat n (if x = 0 then n else n - 1 - x.toNat.log2)

/-- Zero bits below the lowest set bit, counted from bit `i` on. -/
def ctzFrom (x : Nat) (i : Nat) : Nat → Nat
  | 0 => i
  | k + 1 => if x.testBit i then i else ctzFrom x (i + 1) k

def opCtz {n : Nat} (x : BitVec n) : BitVec n := BitVec.ofNat n (ctzFrom x.toNat 0 n)

def opPopc {n : Nat} (x : BitVec n) : BitVec n := BitVec.ofNat n ((List.range n).countP fun i => x.getLsbD i)

def opBrev {n : Nat} (x : BitVec n) : BitVec n := x.reverse

/-- Byte i of the result is byte n/8 - 1 - i of x (R263). -/
def opBswap {n : Nat} (x : BitVec n) : BitVec n :=
  BitVec.ofNat n (bytesToNat (natToBytes (n / 8) x.toNat).reverse)

/-- Bits of values interleaved: bit i of the j-th of `k` values goes to bit k i + k - 1 - j (R265). -/
def interleave (k count : Nat) (vs : List Nat) : Nat :=
  (List.range count).foldl (fun r i =>
    vs.zipIdx.foldl (fun q p => q + b2n (p.1.testBit i) * 2 ^ (k * i + (k - 1 - p.2))) r) 0

/-- The result of an ALU operation of width `w` (R261): 64 bits, or 32 bits sign-extended. -/
def aluVal (w : BitVec 1) (f : {n : Nat} → BitVec n → BitVec n → BitVec n) (x y : Word) : Word :=
  if w = 0 then f x y else sext64 (f (x.setWidth 32) (y.setWidth 32))

def aluVal1 (w : BitVec 1) (f : {n : Nat} → BitVec n → BitVec n) (x : Word) : Word :=
  if w = 0 then f x else sext64 (f (x.setWidth 32))

/-! ## Capabilities that move (R262) -/

/-- The result y of an operation that moves the capability `a`: CAP while y is representable, else DATA, with the shadow. -/
def capMove (a : GReg) (y : Word) : GReg := ⟨y, a.sh, if capWell a.sh && capHolds a.val a.sh y then .cap else .data⟩

/-- ADD and SUB (R261, R262). -/
def addResult (w : BitVec 1) (f : {n : Nat} → BitVec n → BitVec n → BitVec n) (a b : GReg) : GReg :=
  let y := aluVal w f a.val b.val
  if w = 0 && a.tag = .cap && b.tag ≠ .cap then capMove a y else dataReg y

/-- ADDI (R266, R262). -/
def addiResult (a : GReg) (y : Word) : GReg := addResult 0 opAdd a (dataReg y)

/-! ## Forms -/

/-- An instruction gD from gA and gB. -/
def gg (d a b : BitVec 6) (len : Nat) (f : GReg → GReg → GReg) (s : State) : Out :=
  pureOp s [.g a, .g b] [.g d] len fun vs => [.ofG (f (arg vs 0).g (arg vs 1).g)]

/-- An instruction gD from gA. -/
def g1 (d a : BitVec 6) (len : Nat) (f : GReg → GReg) (s : State) : Out :=
  pureOp s [.g a] [.g d] len fun vs => [.ofG (f (arg vs 0).g)]

def alu (d a b : BitVec 6) (w : BitVec 1) (len : Nat) (f : {n : Nat} → BitVec n → BitVec n → BitVec n) (s : State) : Out :=
  gg d a b len (fun x y => dataReg (aluVal w f x.val y.val)) s

def alu1 (d a : BitVec 6) (w : BitVec 1) (f : {n : Nat} → BitVec n → BitVec n) (s : State) : Out :=
  g1 d a 4 (fun x => dataReg (aluVal1 w f x.val)) s

/-- An immediate form: the ALU operation with sext(imm12, 64) (R266). -/
def alui (d a : BitVec 6) (imm : BitVec 12) (f : {n : Nat} → BitVec n → BitVec n → BitVec n) (s : State) : Out :=
  g1 d a 4 (fun x => dataReg (f x.val (sext64 imm))) s

/-- A shift by an immediate amount (R266). -/
def shifti (d a : BitVec 6) (n : Nat) (len : Nat) (f : {n : Nat} → BitVec n → BitVec n → BitVec n) (s : State) : Out :=
  g1 d a len (fun x => dataReg (f x.val (w64 n))) s

/-- A 5-bit register field of a 16-bit form names g0 to g31 (R218). -/
def g5 (d : BitVec 5) : BitVec 6 := d.setWidth 6

/-! ## ALU (R261, R262) -/
def execAdd (d a b : BitVec 6) (w : BitVec 1) (s : State) : Out := gg d a b 4 (addResult w opAdd) s
def execSub (d a b : BitVec 6) (w : BitVec 1) (s : State) : Out := gg d a b 4 (addResult w opSub) s
def execAnd (d a b : BitVec 6) (w : BitVec 1) (s : State) : Out := alu d a b w 4 opAnd s
def execOr (d a b : BitVec 6) (w : BitVec 1) (s : State) : Out := alu d a b w 4 opOr s
def execXor (d a b : BitVec 6) (w : BitVec 1) (s : State) : Out := alu d a b w 4 opXor s
def execAndn (d a b : BitVec 6) (w : BitVec 1) (s : State) : Out := alu d a b w 4 opAndn s
def execShl (d a b : BitVec 6) (w : BitVec 1) (s : State) : Out := alu d a b w 4 opShl s
def execShr (d a b : BitVec 6) (w : BitVec 1) (s : State) : Out := alu d a b w 4 opShr s
def execSar (d a b : BitVec 6) (w : BitVec 1) (s : State) : Out := alu d a b w 4 opSar s
def execRol (d a b : BitVec 6) (w : BitVec 1) (s : State) : Out := alu d a b w 4 opRol s
def execMin (d a b : BitVec 6) (w : BitVec 1) (s : State) : Out := alu d a b w 4 opMin s
def execMax (d a b : BitVec 6) (w : BitVec 1) (s : State) : Out := alu d a b w 4 opMax s
def execMinu (d a b : BitVec 6) (w : BitVec 1) (s : State) : Out := alu d a b w 4 opMinu s
def execMaxu (d a b : BitVec 6) (w : BitVec 1) (s : State) : Out := alu d a b w 4 opMaxu s
def execSlt (d a b : BitVec 6) (w : BitVec 1) (s : State) : Out := alu d a b w 4 opSlt s
def execSltu (d a b : BitVec 6) (w : BitVec 1) (s : State) : Out := alu d a b w 4 opSltu s

/-! ## ALU2 (R263 to R265) -/
def execMul (d a b : BitVec 6) (w : BitVec 1) (s : State) : Out := alu d a b w 4 opMul s
def execMulh (d a b : BitVec 6) (w : BitVec 1) (s : State) : Out := alu d a b w 4 opMulh s
def execMulhu (d a b : BitVec 6) (w : BitVec 1) (s : State) : Out := alu d a b w 4 opMulhu s
def execMulhsu (d a b : BitVec 6) (w : BitVec 1) (s : State) : Out := alu d a b w 4 opMulhsu s
def execDiv (d a b : BitVec 6) (w : BitVec 1) (s : State) : Out := alu d a b w 4 opDiv s
def execDivu (d a b : BitVec 6) (w : BitVec 1) (s : State) : Out := alu d a b w 4 opDivu s
def execRem (d a b : BitVec 6) (w : BitVec 1) (s : State) : Out := alu d a b w 4 opRem s
def execRemu (d a b : BitVec 6) (w : BitVec 1) (s : State) : Out := alu d a b w 4 opRemu s
def execClz (d a : BitVec 6) (w : BitVec 1) (s : State) : Out := alu1 d a w opClz s
def execCtz (d a : BitVec 6) (w : BitVec 1) (s : State) : Out := alu1 d a w opCtz s
def execPopc (d a : BitVec 6) (w : BitVec 1) (s : State) : Out := alu1 d a w opPopc s
def execBrev (d a : BitVec 6) (w : BitVec 1) (s : State) : Out := alu1 d a w opBrev s
def execBswap (d a : BitVec 6) (w : BitVec 1) (s : State) : Out := alu1 d a w opBswap s

/-- ILV2 (R265): bits of x at odd places, of y at even ones. -/
def ilv2Val (x y : Word) : Word := w64 (interleave 2 32 [x.toNat, y.toNat])

/-- ILV3 (R265): three 21-bit values, two of them in gA. -/
def ilv3Val (x y : Word) : Word := w64 (interleave 3 21 [getF x 0 21, getF x 21 21, getF y 0 21])

def execIlv2 (d a b : BitVec 6) (s : State) : Out := gg d a b 4 (fun x y => dataReg (ilv2Val x.val y.val)) s
def execIlv3 (d a b : BitVec 6) (s : State) : Out := gg d a b 4 (fun x y => dataReg (ilv3Val x.val y.val)) s

/-! ## Immediate forms (R266) -/

def execAddi (d a : BitVec 6) (imm : BitVec 12) (s : State) : Out := g1 d a 4 (fun x => addiResult x (sext64 imm)) s
def execAndi (d a : BitVec 6) (imm : BitVec 12) (s : State) : Out := alui d a imm opAnd s
def execOri (d a : BitVec 6) (imm : BitVec 12) (s : State) : Out := alui d a imm opOr s
def execXori (d a : BitVec 6) (imm : BitVec 12) (s : State) : Out := alui d a imm opXor s
def execSlti (d a : BitVec 6) (imm : BitVec 12) (s : State) : Out := alui d a imm opSlt s
def execSltui (d a : BitVec 6) (imm : BitVec 12) (s : State) : Out := alui d a imm opSltu s
def execShli (d a n : BitVec 6) (s : State) : Out := shifti d a n.toNat 4 opShl s
def execShri (d a n : BitVec 6) (s : State) : Out := shifti d a n.toNat 4 opShr s
def execSari (d a n : BitVec 6) (s : State) : Out := shifti d a n.toNat 4 opSar s

/-- sext(imm18 << 12, 64) (R216, R267). -/
def upperImm (imm : BitVec 18) : Word := sext64 (imm.setWidth 30 <<< 12)

def execLui (d : BitVec 6) (imm : BitVec 18) (s : State) : Out :=
  pureOp s [] [.g d] 4 fun _ => [.data (upperImm imm)]

def execAuipc (d : BitVec 6) (imm : BitVec 18) (s : State) : Out :=
  pureOp s [] [.g d] 4 fun _ => [.data (s.me.pc + upperImm imm)]

/-! ## 16-bit forms (R277) -/

def execCMov (d a : BitVec 5) (s : State) : Out := g1 (g5 d) (g5 a) 2 (fun x => addiResult x 0) s
def execCAdd (d a : BitVec 5) (s : State) : Out := gg (g5 d) (g5 d) (g5 a) 2 (addResult 0 opAdd) s
def execCSub (d a : BitVec 5) (s : State) : Out := gg (g5 d) (g5 d) (g5 a) 2 (addResult 0 opSub) s
def execCAnd (d a : BitVec 5) (s : State) : Out := alu (g5 d) (g5 d) (g5 a) 0 2 opAnd s
def execCOr (d a : BitVec 5) (s : State) : Out := alu (g5 d) (g5 d) (g5 a) 0 2 opOr s
def execCXor (d a : BitVec 5) (s : State) : Out := alu (g5 d) (g5 d) (g5 a) 0 2 opXor s
def execCAddi (d i : BitVec 5) (s : State) : Out := g1 (g5 d) (g5 d) 2 (fun x => addiResult x (sext64 i)) s
def execCLi (d i : BitVec 5) (s : State) : Out := pureOp s [] [.g (g5 d)] 2 fun _ => [.data (sext64 i)]
def execCShli (d i : BitVec 5) (s : State) : Out := shifti (g5 d) (g5 d) i.toNat 2 opShl s
def execCShri (d i : BitVec 5) (s : State) : Out := shifti (g5 d) (g5 d) i.toNat 2 opShr s
def execCSari (d i : BitVec 5) (s : State) : Out := shifti (g5 d) (g5 d) i.toNat 2 opSar s

end Sys2Proof.Machine
end

