-- ==== Sys2Proof/Machine/Capability.lean ====
section
/-! DEFINITION. The capability instructions (R274, R275) and the tag instructions (R276). -/

namespace Sys2Proof.Machine

/-! ## Setting bounds (R31, R275) -/

/-- b' of R31 for an exponent. -/
def boundsLow (b e : Nat) : Nat := b / 2 ^ e * 2 ^ e

/-- t' of R31 for an exponent. -/
def boundsHigh (b n e : Nat) : Nat := (b + n + (2 ^ e - 1)) / 2 ^ e * 2 ^ e

/-- The smallest exponent from `e` on that satisfies R31. -/
def boundsExp (b n e : Nat) : Nat → Option Nat
  | 0 => none
  | k + 1 =>
    if boundsHigh b n e - boundsLow b e ≤ (2 ^ 18 - 1) * 2 ^ e then some e else boundsExp b n (e + 1) k

/-- The shadow with given bounds (R26, R31). -/
def boundsShadow (b n e p : Nat) : Word :=
  w64 ((boundsHigh b n e - boundsLow b e) / 2 ^ e * 2 ^ 32 + boundsLow b e / 2 ^ e % 2 ^ 18 * 2 ^ 14 + e * 2 ^ 8 + p)

/-- CSETB and CSETBX on a well-formed capability (R275). -/
def setBounds (exact : Bool) (a : GReg) (len : Word) : M GReg := do
  let x := a.val.toNat
  let n := len.toNat
  check (x + n ≤ 2 ^ 48) .capbounds a.val
  match boundsExp x n 0 31 with
  | none => trap .capbounds a.val
  | some e => do
    check (!exact || (boundsLow x e = x && boundsHigh x n e = x + n)) .capbounds a.val
    check (capBase a.val a.sh ≤ boundsLow x e && (boundsHigh x n e : Int) ≤ capTop a.val a.sh) .capbounds a.val
    .ok ⟨a.val, boundsShadow x n e (capP a.sh), .cap⟩

/-! ## Instructions -/

/-- gA must be CAP-tagged and well formed (R274). -/
def needCap (code : BitVec 6) (a : GReg) : M Unit := do
  check (a.tag = .cap) .captag (w64 code.toNat)
  check (capWell a.sh) .captag (w64 code.toNat)

/-- A CAP gA must be well formed (R274). -/
def wellCap (code : BitVec 6) (a : GReg) : M Unit := check (a.tag ≠ .cap || capWell a.sh) .captag (w64 code.toNat)

/-- A capability instruction with gA and gB. -/
def cap2 (d a b : BitVec 6) (s : State) (f : GReg → GReg → M GReg) : Out :=
  run s (op s [.g a, .g b] [.g d] 4 fun t vs => do
    let r ← f (arg vs 0).g (arg vs 1).g
    .ok (t, [.ofG r]))

/-- A capability instruction with gA. -/
def cap1 (d a : BitVec 6) (s : State) (f : GReg → M GReg) : Out :=
  run s (op s [.g a] [.g d] 4 fun t vs => do
    let r ← f (arg vs 0).g
    .ok (t, [.ofG r]))

def execCsetb (d a b : BitVec 6) (s : State) : Out :=
  cap2 d a b s fun x y => do
    needCap a x
    setBounds false x y.val

def execCsetbx (d a b : BitVec 6) (s : State) : Out :=
  cap2 d a b s fun x y => do
    needCap a x
    setBounds true x y.val

/-- P of the shadow narrowed by gB[7:0]. -/
def andPerms (sh b : Word) : Word := setF sh 0 8 (capP sh &&& getF b 0 8)

def execCandp (d a b : BitVec 6) (s : State) : Out :=
  cap2 d a b s fun x y => do
    needCap a x
    .ok ⟨x.val, andPerms x.sh y.val, .cap⟩

/-- CSETA (R274, R30): a DATA gA gives DATA gB with a zero shadow. -/
def setAddr (a : GReg) (b : Word) : GReg :=
  if a.tag = .cap then ⟨b, a.sh, if capHolds a.val a.sh b then .cap else .data⟩ else dataReg b

def execCseta (d a b : BitVec 6) (s : State) : Out :=
  cap2 d a b s fun x y => do
    wellCap a x
    .ok (setAddr x y.val)

/-- A field of a capability as DATA; 0 of a DATA gA. -/
def capField (code : BitVec 6) (x : GReg) (v : Word) : M GReg := do
  wellCap code x
  .ok (dataReg (if x.tag = .cap then v else 0))

def execCgetb (d a : BitVec 6) (s : State) : Out :=
  cap1 d a s fun x => capField a x (BitVec.ofInt 64 (capBase x.val x.sh))

def execCgett (d a : BitVec 6) (s : State) : Out :=
  cap1 d a s fun x => capField a x (BitVec.ofInt 64 (capTop x.val x.sh))

def execCgetp (d a : BitVec 6) (s : State) : Out :=
  cap1 d a s fun x => capField a x (w64 (capP x.sh))

def execCtod (d a : BitVec 6) (s : State) : Out :=
  cap1 d a s fun x => do
    wellCap a x
    .ok ⟨x.val, x.sh, .data⟩

/-! ## Tag instructions (R276) -/

/-- Runs on the tag of gA, which does not trap when EMPTY; a port pops one value and gives its tag (R268, R276). -/
def onTag (s : State) (a : BitVec 6) (dsts : List Dst) (f : Word → State → List Val × Option Word) : Out :=
  run s (
    if isGPort a then
      opTo s [.g a] dsts 4 fun t vs =>
        let r := f (arg vs 0).g.tag.code t
        .ok (t, r.1, r.2)
    else
      opTo s [] dsts 4 fun t _ =>
        let r := f (t.me.getG a).tag.code t
        .ok (t, r.1, r.2))

def execGtag (d a : BitVec 6) (s : State) : Out := onTag s a [.g d] fun c _ => ([.data c], none)

/-- Makes `n` g registers from `d` on EMPTY; g0 and the ports stay (R276). -/
def Berth.clearG (b : Berth) (d : Nat) : Nat → Berth
  | 0 => b
  | n + 1 =>
    let r := BitVec.ofNat 6 d
    (if isGPort r then b else b.setG r GReg.none).clearG (d + 1) n

def gclr (d c len : Nat) (s : State) : Out := .next ((s.setMe (s.me.clearG d (c + 1))).retire len)

def execGclr (d c : BitVec 6) (s : State) : Out := gclr d.toNat c.toNat 4 s

def execCGclr (d c : BitVec 5) (s : State) : Out := gclr d.toNat c.toNat 2 s

/-- Whether the executing thread is the owner of the matrix engine (R340). -/
def State.owns (s : State) : Bool :=
  let e := s.here.engine
  e.held && e.ob = s.cb && e.obase = getF s.me.mspill 14 3 && bitOf s.me.mspill 63

def Acc.isEmpty : Acc → Bool
  | .empty => true
  | _ => false

/-- The bit map of the indices below `n` that satisfy `p`. -/
def bitmap (n : Nat) (p : Nat → Bool) : Word := w64 ((List.range n).foldl (fun r i => r + b2n (p i) * 2 ^ i) 0)

/-- The registers of a file that are not EMPTY (R276); of the accumulators those that the engine itself holds (log 122). -/
def gmapVal (s : State) (f : Nat) : Word :=
  match f with
  | 0 => bitmap 64 fun i => !s.me.isEmpty (.g (BitVec.ofNat 6 i))
  | 1 => bitmap 32 fun i => !s.me.isEmpty (.v (BitVec.ofNat 5 i))
  | 2 => bitmap 4 fun i => !s.me.isEmpty (.k (BitVec.ofNat 2 i))
  | 3 => bitmap 4 fun i => s.owns && !(s.here.engine.acc.toList.getD i .empty).isEmpty
  | _ => bitmap 4 fun i => !s.me.isEmpty (.ox (BitVec.ofNat 2 i))

def execGmap (d f : BitVec 6) (s : State) : Out := pureOp s [] [.g d] 4 fun _ => [.data (gmapVal s f.toNat)]

end Sys2Proof.Machine
end

