-- ==== Sys2Proof/Machine/Fetch.lean ====
section
/-! DEFINITION. Instruction fetch (R34, R67, R88, R213, R214), and the entries that are pending (R416, R418). -/

namespace Sys2Proof.Machine

/-! ## Fetch -/

/-- A line of the instruction cache filled from the home of its address (R67). -/
def State.fillLine (s : State) (l : Loc) : Nat → State × List Byte × List Bool
  | 0 => (s, [], [])
  | k + 1 =>
    let (s1, v, t) := s.readHome l
    let (s2, bs, ts) := s1.fillLine (l.plus 8) k
    (s2, natToBytes 8 v.toNat ++ bs, (t == tagPoison) :: ts)

/-- Whether a line's place is an address under a context and key slot (R51). -/
def ILine.at_ (x : ILine) (l : Loc) : Bool := x.line = l.key / 64 && x.ctx = l.ctx && x.slot = l.slot

/-- Whether a line was filled at a place under its context and key slot (R51); a locked place may stand without its line (R54). -/
def ILine.is (x : ILine) (l : Loc) : Bool := x.at_ l && !x.bytes.isEmpty

/-- The locked places of an address take a line that has been filled. -/
def Core.putLocked (c : Core) (l : Loc) (bs : List Byte) (ts : List Bool) : Core :=
  { c with icache := c.icache.map fun y => if y.at_ l && y.locked then { y with bytes := bs, bad := ts } else y }

/-- Makes room for a line in an instruction cache of 256 sets of 4 ways (R58; log 13): a line that matches in address only goes
(R51), and from a full set a freely chosen one that is not locked (R420). -/
def State.ilineRoom (s : State) (n line : Nat) : State :=
  let c := s.core n
  let l := c.icache.filter fun x => x.line ≠ line || x.locked
  let vs := l.filter fun x => x.line % 256 = line % 256 && !x.locked
  if l.countP (fun x => x.line % 256 = line % 256) < 4 then s.setCore n { c with icache := l }
  else
    match vs[s.free % vs.length]? with
    | some x => s.drawn.setCore n { c with icache := l.erase x }
    | none => s.setCore n { c with icache := l }

/-- The instruction cache's line of a place, filled when it is not there (R51, R67), in its locked place where it has one (R420). -/
def State.iline (s : State) (n : Nat) (l : Loc) : State × ILine :=
  match (s.core n).icache.find? (·.is l) with
  | some x => (s, x)
  | none =>
    let (s0, bs, ts) := s.fillLine l.lineBase 8
    let x : ILine := ⟨l.key / 64, l.ctx, l.slot, bs, ts, false⟩
    if (s0.core n).icache.any fun y => y.at_ l && y.locked then (s0.setCore n ((s0.core n).putLocked l bs ts), x)
    else
      let s1 := s0.ilineRoom n (l.key / 64)
      (s1.setCore n { s1.core n with icache := x :: (s1.core n).icache }, x)

/-- The lines that `p` names leave an instruction cache; the locked ones are refilled and stay locked (R142, R143, R420). -/
def State.dropILines (s : State) (n : Nat) (p : ILine → Bool) : State :=
  let c := s.core n
  let s1 := s.setCore n { c with icache := c.icache.filter fun x => !p x || x.locked }
  (c.icache.filter fun x => p x && x.locked && !x.bytes.isEmpty).foldl (fun t x =>
    let l := keyLoc (64 * x.line) x.ctx x.slot
    let (t1, bs, ts) := t.fillLine l 8
    t1.setCore n ((t1.core n).putLocked l bs ts)) s1

/-- The lines that `p` names leave an instruction cache and cannot be refilled: their locked places stay, without a line (R54, R420). -/
def Core.voidILines (c : Core) (p : ILine → Bool) : Core :=
  { c with icache := (c.icache.filter fun x => !p x || x.locked).map fun x => if p x then { x with bytes := [], bad := [] } else x }

/-- One parcel at a virtual address (R34): translation and X, POISON; LM windows, alias and device window are not
executable (R17); at a window offset of 0x1_8000 or more the fault of R15 comes first (log 116). -/
def State.parcel (s : State) (va : Word) : Except Cause (State × Nat) :=
  if 2 ^ 48 ≤ va.toNat then .error .pagefault
  else
    match place va.toNat with
    | .priv => do
      let (s1, t) ← s.translate s.cur s.here.ctxid va.toNat
      if !t.x || (t.ko && !s.kern) then .error .pageperm
      else
        let l := t.loc va.toNat
        let (s2, x) := s1.iline s.cur l
        if x.bad.getD (l.key / 8 % 8) false then .error .poison
        else .ok (s2, bytesToNat ((x.bytes.drop (l.key % 64)).take 2))
    | .nowhere => .error .pagefault
    | _ => .error .pageperm

/-- The parcels of the instruction at an address, as one number (R213, R219 step 1). -/
def State.fetch (s : State) (pc : Word) : Except Cause (State × Nat) := do
  let (s1, p) ← s.parcel pc
  if p / 2 ^ 15 % 2 = 0 then .ok (s1, p)
  else
    let (s2, q) ← s1.parcel (pc + 2)
    .ok (s2, p + 2 ^ 16 * q)

/-- Whether a fetched word may stand in the body of a REP (R271): 32 bits, majors 0x50 to 0x59 or 0x60. -/
def repBody (w : Nat) : Bool :=
  bits w 15 1 = 1 && (let m := bits w 8 7; (0x50 ≤ m && m ≤ 0x59) || m = 0x60)

/-! ## Pending causes (R416, R418) -/

/-- Whether TIMER is pending for a berth (R416). -/
def Berth.timerDue (b : Berth) (now : Word) : Bool := b.timecmp ≠ 0 && b.timecmp ≤ now

/-- Whether PREEMPT with reason 2 is pending (R427). -/
def Core.dispatchDue (c : Core) : Bool :=
  c.den && !c.ready.isEmpty &&
    ((!c.b1.occupied && !c.away) ||
      c.ready.any fun r => getF r.q0.val 62 2 < c.dispCur)

/-- A core with what its dispatch cause depends on changed: a PREEMPT that becomes pending ends B1's SLEEP (R427, R434). -/
def State.setSched (s : State) (n : Nat) (c : Core) : State :=
  let t := s.setCore n c
  if c.dispatchDue && !(s.core n).dispatchDue then t.wakeSleep n 1 else t

/-- A pending cause: its code, EVAL, the berths it stops (as STATUS.SB), its target. -/
structure Entry where
  cause : Cause
  eval : Word
  stops : Nat
  tb : Nat
  deriving DecidableEq, Repr

/-- The pending entries of a core in the order of R418; one for a thread that is away waits for its return (R182). -/
def Core.pending (c : Core) (now : Word) : List Entry :=
  let sync := match c.pendSync with
    | some (k, v) => [⟨k, v, 1, 1⟩]
    | none => []
  let urg := if c.urgent.isEmpty then [] else [⟨.urgent, w64 c.urgent.length, 7, 0⟩]
  let wk := match c.wakeSrc with
    | some v => [⟨.wake, v, 0, 0⟩]
    | none => []
  let t0 := if c.b0.timerDue now then [⟨.timer, now, 0, 0⟩] else []
  let t1 := if !c.away && c.b1.timerDue now then [⟨.timer, now, 1, 1⟩] else []
  let here := if c.b1.occupied then 1 else 0
  let pre := if c.away then [] else match c.preempt with
    | some r => [⟨.preempt, w64 r, here, 1⟩]
    | none => if c.dispatchDue then [⟨.preempt, 2, here, 1⟩] else []
  let ab := match c.absent with
    | some v => [⟨.absent, v, 0, 0⟩]
    | none => []
  sync ++ urg ++ wk ++ t0 ++ t1 ++ pre ++ ab

/-- The first pending entry that can be taken now: B0 idle, the core in RUN. It does not wait for the berths it stops to
reach a boundary (R420). -/
def Core.takable (c : Core) (now : Word) : Option Entry :=
  if c.idle0 && c.power == .run && !c.stoppedBy then
    match c.pending now with
    | [] => none
    | e :: _ => some e
  else none

/-- What an entry clears when it is taken: TIMECMP of its berth, the pending flags (R416, R191). -/
def Core.clearEntry (c : Core) (e : Entry) : Core :=
  match e.cause with
  | .timer => if e.tb = 0 then { c with b0 := { c.b0 with timecmp := 0 } } else { c with b1 := { c.b1 with timecmp := 0 } }
  | .wake => { c with wakeSrc := none }
  | .preempt => { c with preempt := none }
  | .absent => { c with absent := none }
  | .urgent => c
  | _ => { c with pendSync := none }

/-- B0 takes the first pending entry (R417, R418); a WAKE is recorded as such too (R459). -/
def State.takeEntry (s : State) (n : Nat) : State :=
  let c := s.core n
  match c.takable (s.timeAt n) with
  | none => s
  | some e =>
    let t := (s.setCore n (c.clearEntry e)).enter n e.cause e.eval e.stops e.tb
    if e.cause = .wake then t.record n 3 3 e.eval else t

end Sys2Proof.Machine
end

