-- ==== Sys2Proof/Machine/Control.lean ====
section
/-! DEFINITION. Branches, jumps and REP (R268 to R273, R277). -/

namespace Sys2Proof.Machine

/-- PC + 2 × sext(offset) (R216). -/
def target {n : Nat} (pc : Word) (off : BitVec n) : Word := pc + (sext64 off <<< 1)

/-! ## Branches (R268, R269) -/

/-- A branch that compares gA with gB. -/
def branch (s : State) (a b : BitVec 6) (t : Word) (len : Nat) (p : Word → Word → Bool) : Out :=
  run s (opTo s [.g a, .g b] [] len fun u vs => .ok (u, [], if p (argW vs 0) (argW vs 1) then some t else none))

def execBeq (a b : BitVec 6) (off : BitVec 12) (s : State) : Out := branch s a b (target s.me.pc off) 4 fun x y => x = y
def execBne (a b : BitVec 6) (off : BitVec 12) (s : State) : Out := branch s a b (target s.me.pc off) 4 fun x y => x ≠ y
def execBlt (a b : BitVec 6) (off : BitVec 12) (s : State) : Out := branch s a b (target s.me.pc off) 4 fun x y => x.slt y
def execBge (a b : BitVec 6) (off : BitVec 12) (s : State) : Out :=
  branch s a b (target s.me.pc off) 4 fun x y => !x.slt y
def execBltu (a b : BitVec 6) (off : BitVec 12) (s : State) : Out :=
  branch s a b (target s.me.pc off) 4 fun x y => x.ult y
def execBgeu (a b : BitVec 6) (off : BitVec 12) (s : State) : Out :=
  branch s a b (target s.me.pc off) 4 fun x y => !x.ult y

def execBtag (a : BitVec 6) (off : BitVec 12) (t : BitVec 2) (s : State) : Out :=
  onTag s a [] fun c u => ([], if c = w64 t.toNat then some (target u.me.pc off) else none)

def execDbnz (d : BitVec 6) (off : BitVec 12) (s : State) : Out :=
  run s (opTo s [.g d] [.g d] 4 fun u vs =>
    let r := argW vs 0 - 1
    .ok (u, [.data r], if r ≠ 0 then some (target s.me.pc off) else none))

def execCBeqz (d off : BitVec 5) (s : State) : Out :=
  branch s (g5 d) 0 (target s.me.pc off) 2 fun x y => x = y
def execCBnez (d off : BitVec 5) (s : State) : Out :=
  branch s (g5 d) 0 (target s.me.pc off) 2 fun x y => x ≠ y

/-! ## Jumps (R270) -/

def execJal (d : BitVec 6) (off : BitVec 18) (s : State) : Out :=
  run s (opTo s [] [.g d] 4 fun u _ => .ok (u, [.data (s.me.pc + 4)], some (target s.me.pc off)))

/-- The checks of JALR's target, in the order written (R270). -/
def jalrChecks (code : BitVec 6) (a : GReg) (t : Word) : M Unit := do
  if a.tag = .cap then do
    check (capWell a.sh) .captag (w64 code.toNat)
    check (capBase a.val a.sh ≤ t.toNat && ((t.toNat + 2 : Nat) : Int) ≤ capTop a.val a.sh) .capbounds t
    check (hasPerm a.sh pX) .capperm t
  else .ok ()
  check (!bitOf t 0) .align t
  check (t.toNat < 2 ^ 48) .pagefault t

/-- JALR: jumps to gA plus an immediate; the link is the address of the next 32-bit instruction. -/
def jumpReg (s : State) (d a : BitVec 6) (imm : Word) : Out :=
  run s (opTo s [.g a] [.g d] 4 fun u vs => do
    let t := argW vs 0 + imm
    jalrChecks a (arg vs 0).g t
    .ok (u, [.data (s.me.pc + 4)], some t))

def execJalr (d a : BitVec 6) (imm : BitVec 12) (s : State) : Out := jumpReg s d a (sext64 imm)

def execCJ (off : BitVec 10) (s : State) : Out := .next (s.jump (target s.me.pc off))

def execCJr (d : BitVec 5) (s : State) : Out := jumpReg s 0 (g5 d) 0

def execCRet (s : State) : Out := jumpReg s 0 1 0

/-! ## REP (R271) -/

/-- Fetches the body instructions from `pc` on; a fault names the address of its instruction's first parcel (R214). -/
def fetchBody (s : State) (pc : Word) : Nat → M (State × List Nat)
  | 0 => .ok (s, [])
  | n + 1 =>
    match s.fetch pc with
    | .error c => trap c pc
    | .ok (s1, w) => do
      let (s2, ws) ← fetchBody s1 (pc + 4) n
      .ok (s2, w :: ws)

/-- The body instructions from `pc` on, all fetched before the first one that may not stand in a body traps (R271). -/
def bodyChecks (s : State) (pc : Word) (n : Nat) : M State := do
  let (s1, ws) ← fetchBody s pc n
  match ws.find? (!repBody ·) with
  | some w => trap .illegal (w64 w)
  | none => .ok s1

/-- REPST at the start of a repetition (R271, R272). -/
def repStart (st n c : Nat) : Word := w64 (2 ^ 63 + st * 2 ^ 58 + n * 2 ^ 54 + c)

/-- W of a REP (R215, R271). -/
def repWord (a : BitVec 6) (n : BitVec 4) (st : BitVec 5) : Word := wordR 0x1A n.toNat 0 a.toNat st.toNat 0

def execRep (a : BitVec 6) (n : BitVec 4) (st : BitVec 5) (s : State) : Out :=
  run s (do
    let vs ← operands s [.g a] []
    let c := argW vs 0
    check (c.toNat < 2 ^ 24) .illegal (repWord a n st)
    let t ← bodyChecks s (s.me.pc + 4) (n.toNat + 1)
    let t1 := t.commit [.g a] [] []
    if c = 0 then .ok (t1.jump (s.me.pc + w64 (8 + 4 * n.toNat)))
    else .ok ((t1.setMe { t1.me with repst := repStart st.toNat n.toNat c.toNat, seqOn := true }).jump (s.me.pc + 4)))

end Sys2Proof.Machine
end

