-- ==== Sys2Proof/Machine/Homes.lean ====
section
/-! DEFINITION. The operations at the homes of words (R151 to R175): atomics and reductions, reservations, barriers, log
records, waits for a word, and the end of sync objects. Each is one step (R133). -/

namespace Sys2Proof.Machine

/-- A refusal at a home: its cause and the home address it names. -/
abbrev HomeM (α : Type) := Except (Cause × Nat) α

/-- A waiting thread's operation is over, with a result and a status. -/
def State.answer (s : State) (n i : Nat) (a b : Word) : State :=
  s.setBerthAt n i { s.berthAt n i with wait := .done a b }

/-! ## Homes (R59, R68, R74) -/

/-- The pool bank of an address (R74). -/
def poolBank (pa : Nat) : Nat := (List.range 11).foldl (fun r i => r ^^^ pa / 64 / 16 ^ i % 16) 0

/-- A number for the home of a home address: a bank, a slice, or a core's LM. -/
def State.homeId (s : State) (key : Nat) : Nat :=
  if key < 2 ^ 48 then (if s.tstate = 2 then 64 + s.slice key else poolBank key)
  else if key < 2 ^ 49 then poolBank (key - 2 ^ 48)
  else 128 + (key - 2 ^ 49) / 2 ^ 17

/-! ## Atomics and reductions (R158, R159, R289, R290) -/

/-- The new value of an AMO by its FN (R289). -/
def amoNew {n : Nat} (op : Nat) (old v e : BitVec n) : BitVec n :=
  match op with
  | 0 => old + v
  | 1 => old &&& v
  | 2 => old ||| v
  | 3 => old ^^^ v
  | 4 => if v.slt old then v else old
  | 5 => if old.slt v then v else old
  | 6 => if v.ult old then v else old
  | 7 => if old.ult v then v else old
  | 8 => v
  | _ => if old = e then v else old

/-- A word with its aligned half at byte `lo` (0 or 4) replaced. -/
def setHalf (w : Word) (lo : Nat) (v : BitVec 32) : Word := setF w (8 * lo) 32 v.toNat

/-- R21 at the home: SYNC and POISON words refuse an update. -/
def updateCheck (t a : Nat) : HomeM Unit :=
  if t = tagSync then .error (.syncstore, a) else if t = tagPoison then .error (.poison, a) else .ok ()

/-- An AMO at its word's home: the old value, sign-extended. -/
def State.amo (s : State) (n : Nat) (l : Loc) (op : Nat) (w : Bool) (v e : Word) : HomeM (State × Word) := do
  let s1 := s.takeHome n l
  let (x, t) := s1.homeWord l
  updateCheck t (l.key / 8 * 8)
  if w then
    let old := half x l.key
    let y := setHalf x (l.key % 8) (amoNew op old (v.setWidth 32) (e.setWidth 32))
    .ok ((s1.putHome l y tagData).changed l y, sext64 old)
  else
    let y := amoNew op x v e
    .ok ((s1.putHome l y tagData).changed l y, x)

/-- A RED at its word's home; FN 8 is RFADD (R159). -/
def State.red (s : State) (n : Nat) (l : Loc) (op : Nat) (w : Bool) (v : Word) : HomeM State := do
  if op = 8 then
    let s1 := s.takeHome n l
    let (x, t) := s1.homeWord l
    updateCheck t (l.key / 8 * 8)
    let y := setHalf x (l.key % 8) (BitVec.ofNat 32 (fpAdd fp32 rmRNE (half x l.key).toNat (v.toNat % 2 ^ 32)).1)
    .ok ((s1.putHome l y tagData).changed l y)
  else
    let (t, _) ← s.amo n l op w v 0
    .ok t

/-! ## Sync objects (R151 to R157) -/

/-- The kind of a sync object, from its word 1. -/
def objKind (w1 : Word) : Nat := getF w1 60 4

def kindResv : Nat := 0xA
def kindBar : Nat := 0xB

/-- A granule at its home: ownership revoked, its words and whether it is an object; a POISON word refuses (R152). -/
def State.granule (s : State) (n : Nat) (l : Loc) : HomeM (State × Word × Word × Bool) := do
  let s1 := (s.takeHome n l).takeHome n (l.plus 8)
  let (x0, t0) := s1.homeWord l
  let (x1, t1) := s1.homeWord (l.plus 8)
  if t0 = tagPoison then .error (.poison, l.key)
  else if t1 = tagPoison then .error (.poison, l.key + 8)
  else .ok (s1, x0, x1, t0 = tagSync)

/-- Writes both words of a granule with one tag. -/
def State.putWords (s : State) (l : Loc) (x0 x1 : Word) (t : Nat) : State :=
  (s.putHome l x0 t).putHome (l.plus 8) x1 t

/-- A store of both words of a granule at its home (R125), which threads that wait for either are sent (R174). -/
def State.putGranule (s : State) (l : Loc) (x0 x1 : Word) (t : Nat) : State :=
  ((s.putWords l x0 x1 t).changed l x0).changed (l.plus 8) x1

/-- Whether a reservation is on the object of a granule that a context reaches under a key slot: another context's on the same granule
is another object's (R57). -/
def Resv.on (r : Resv) (l : Loc) : Bool := keyLoc r.gran r.ctx r.slot = l

/-- The head of a granule's queue gets the reservation: its LRW returns VALUE with status 0 (R155). -/
def State.grantNext (s : State) (l : Loc) : State :=
  match s.resv.find? fun r => r.on l && !r.holds with
  | none => s
  | some w =>
    let s1 : State := { s with resv := s.resv.map fun r => if r = w then { r with holds := true } else r }
    s1.answer w.waitNode w.waitBerth (s1.homeWord l).1 0

/-- LRW's result: a value and a status, or the thread is queued. -/
abbrev LrwAns := Option (Word × Word)

/-- LRW at the home (R154, R157): `me` is the thread's native node and berth, `wn`, `wb` where it waits, `va` and `size` its
record (R156). -/
def State.lrw (s : State) (n : Nat) (l : Loc) (node berth wn wb ctx va size : Nat) : HomeM (State × LrwAns) := do
  let (s1, x0, x1, obj) ← s.granule n l
  if obj && objKind x1 ≠ kindResv then .error (.barstate, l.key)
  else
    let s2 := if obj then s1 else s1.putWords l x0 0xA000000000000000 tagSync
    let mine (r : Resv) : Bool := r.node = node && r.berth = berth
    if s2.resv.any fun r => mine r && r.on l && r.holds then .ok (s2, some (x0, 0))
    else if 8 ≤ s2.resv.countP mine || 64 ≤ s2.resv.countP (fun r => s2.homeId r.gran = s2.homeId l.key) then
      .ok (s2, some (0, 2))
    else
      let free := !s2.resv.any fun r => r.on l && r.holds
      let e : Resv := ⟨l.key, node, berth, free, wn, wb, ctx, l.slot, va, size⟩
      .ok ({ s2 with resv := s2.resv ++ [e] }, if free then some (x0, 0) else none)

/-- SCH (`store`) or RELQ at the home (R155): the status. -/
def State.sch (s : State) (n : Nat) (l : Loc) (node berth : Nat) (store : Bool) (v : Word) : HomeM (State × Word) := do
  let (s1, _, _, _) ← s.granule n l
  if s1.resv.any fun r => r.node = node && r.berth = berth && r.on l && r.holds then
    let s2 := if store then (s1.putHome l v tagSync).changed l v else s1
    let s3 : State :=
      { s2 with resv := s2.resv.filter fun r => !(r.node = node && r.berth = berth && r.on l && r.holds) }
    .ok (s3.grantNext l, 0)
  else .ok (s1, 1)

/-- Ends the reservations that `p` names: queued LRWs return status 1 (R156). -/
def State.loseThose (s : State) (p : Resv → Bool) : State :=
  let ws := s.resv.filter fun r => p r && !r.holds
  ws.foldl (fun t r => t.answer r.waitNode r.waitBerth 0 1) { s with resv := s.resv.filter fun r => !p r }

/-- Ends every reservation on a granule's object (R156), in its context (R57). -/
def State.loseAll (s : State) (l : Loc) : State := s.loseThose fun r => r.on l

/-- Whether a thread waits for a place in its own context and under its key slot (R57). -/
def Waiter.sees (w : Waiter) (l : Loc) : Bool := w.ctx = l.ctx && w.slot = l.slot

/-- Ends the waits at barriers that `p` names, with a status. -/
def State.wakeThose (s : State) (st : Word) (p : Waiter → Bool) : State :=
  (s.barriers.filter p).foldl (fun t w => t.answer w.node w.berth st 0) { s with barriers := s.barriers.filter fun w => !p w }

/-- Wakes every waiter of a barrier with a status (R169, R170): those of its context (R57). -/
def State.wakeBarrier (s : State) (l : Loc) (st : Word) : State := s.wakeThose st fun w => w.addr = l.key && w.sees l

/-- The end of a granule's object in every context: of an LM or by TAGCLR (R54, R56). -/
def State.endGranule (s : State) (gran : Nat) : State := (s.loseThose fun r => r.gran = gran).wakeThose 1 fun w => w.addr = gran

/-- The end of a sync object (R151, R170): waiters and reservations end, both words become DATA with their values. -/
def State.killObject (s : State) (l : Loc) (x0 x1 : Word) : State :=
  ((s.loseAll l).wakeBarrier l 1).putGranule l x0 x1 tagData

/-! ## Barriers (R168 to R173) -/

def barExpect (x0 : Word) : Nat := getF x0 32 32
def barArrive (x0 : Word) : Nat := getF x0 0 32
def barPhase (x1 : Word) : Nat := getF x1 48 8
def barBytes (x1 : Word) : Nat := getF x1 0 48

/-- Stores a barrier's words and flips its phase when ARRIVE and BYTES are 0 (R169). -/
def State.putBarrier (s : State) (l : Loc) (x0 x1 : Word) : State :=
  if barArrive x0 = 0 && barBytes x1 = 0 then
    let y0 := setF x0 0 32 (barExpect x0)
    let y1 := setF (setF x1 48 8 (barPhase x1 + 1)) 56 1 0
    (s.putGranule l y0 y1 tagSync).wakeBarrier l 0
  else s.putGranule l x0 x1 tagSync

/-- What a barrier operation answers: a value, or the thread waits at a phase. -/
inductive BarAns
  | val (x : Word)
  | waits (phase : Word)
  deriving DecidableEq, Repr

/-- A thread begins to wait at a barrier, which it names by `va`: W is 1 (R170). -/
def State.joinBarrier (s : State) (l : Loc) (x0 x1 : Word) (n i va : Nat) : State :=
  { s.putGranule l x0 (setF x1 56 1 1) tagSync with barriers := s.barriers ++ [⟨l.key, n, i, l.ctx, l.slot, va⟩] }

/-- BWAIT on a live barrier: passed when the phase is another one. -/
def State.waitPhase (s : State) (l : Loc) (n i va : Nat) (p : Nat) : State × BarAns :=
  let x0 := (s.homeWord l).1
  let x1 := (s.homeWord (l.plus 8)).1
  if barPhase x1 ≠ p then (s, .val 0) else (s.joinBarrier l x0 x1 n i va, .waits (w64 p))

/-- The barrier instructions at the home, by FN (R170): 0 BINIT, 1 BARR, 2 BWAIT, 3 BAW, 4 BEXP, 5 BKILL, 6 BQRY. A granule that is no
object, a CAP pair too, is a DATA granule for them (log 88). `va` is the granule's address. -/
def State.barrier (s : State) (n i va : Nat) (l : Loc) (op : Nat) (v : Word) : HomeM (State × BarAns) := do
  let (s1, x0, x1, obj) ← s.granule n l
  if op = 6 then .ok (s1, .val x1)
  else if obj && objKind x1 = kindBar then
    match op with
    | 0 =>
      if s1.barriers.any fun w => w.addr = l.key && w.sees l then .error (.barstate, l.key)
      else
        let y0 := w64 (v.toNat % 2 ^ 32 * 2 ^ 32 + v.toNat % 2 ^ 32)
        .ok (s1.putGranule l y0 (setF (setF x1 0 48 0) 48 8 (barPhase x1 + 1)) tagSync, .val 0)
    | 1 =>
      if barArrive x0 = 0 then .error (.barstate, l.key)
      else .ok (s1.putBarrier l (setF x0 0 32 (barArrive x0 - 1)) x1, .val (w64 (barPhase x1)))
    | 2 => .ok (s1.waitPhase l n i va (v.toNat % 256))
    | 3 =>
      if barArrive x0 = 0 then .error (.barstate, l.key)
      else .ok ((s1.putBarrier l (setF x0 0 32 (barArrive x0 - 1)) x1).waitPhase l n i va (barPhase x1))
    | 4 => .ok (s1.putBarrier l x0 (setF x1 0 48 (barBytes x1 + v.toNat)), .val 0)
    | _ => .ok (s1.killObject l x0 x1, .val 0)
  else if obj then
    (if op = 5 then .ok (s1.killObject l x0 x1, .val 0) else .error (.barstate, l.key))
  else
    match op with
    | 0 =>
      .ok (s1.putGranule l (w64 (v.toNat % 2 ^ 32 * 2 ^ 32 + v.toNat % 2 ^ 32)) 0xB000000000000000 tagSync, .val 0)
    | 1 => .ok (s1, .val (BitVec.allOnes 64))
    | 2 => .ok (s1, .val 1)
    | 3 => .ok (s1, .val 1)
    | _ => .ok (s1, .val 0)

/-- The byte subtraction of a completed copy (R171); dropped where no live barrier stands. -/
def State.subtractBytes (s : State) (n : Nat) (l : Loc) (len : Nat) : State :=
  match s.granule n l with
  | .ok (s1, x0, x1, true) =>
    if objKind x1 = kindBar then s1.putBarrier l x0 (setF x1 0 48 (barBytes x1 + 2 ^ 48 - len % 2 ^ 48)) else s
  | _ => s

/-! ## Waiting for a word (R174) -/

/-- WAITGE's and WAITNE's test. -/
def waitPasses (ne : Bool) (x b : BitVec 32) : Bool := if ne then x ≠ b else !(x - b).msb

/-- A thread registers with the word's home, which sends it the value it finds. -/
def State.registerWait (s : State) (n i va : Nat) (l : Loc) (ne : Bool) (b : BitVec 32) : State :=
  let (s1, x, _) := s.readHome l
  let s2 := s1.setBerthAt n i { s1.berthAt n i with wait := .word l.key ne b }
  let s3 : State := { s2 with words := s2.words ++ [⟨l.key, n, i, l.ctx, l.slot, va⟩] }
  s3.later (.waitValue (BitVec.ofNat 12 n) (BitVec.ofNat 2 i) (half x l.key))

/-- A value of the word reaches the waiting core, which tests it. -/
def State.testWait (s : State) (n i : Nat) (x : BitVec 32) : State :=
  match (s.berthAt n i).wait with
  | .word _ ne b =>
    if waitPasses ne x b then (s.unwait n i).answer n i 0 0 else s
  | _ => s

/-- A word has become POISON: a thread that waits for it has tested the values before, else its wait ends with status 1 (R295). -/
def State.poisonWait (s : State) (w : Waiter) : State :=
  let s1 := s.agenda.foldl (fun t e =>
    match e with
    | .waitValue node berth x => if node.toNat = w.node && berth.toNat = w.berth then t.testWait w.node w.berth x else t
    | _ => t) s
  if s1.words.contains w then (s1.unwait w.node w.berth).answer w.node w.berth 1 0 else s1

/-- A place has become POISON for its context, and in DRAM, whose tags no key hides, with `all` for every one (R57, R86). -/
def State.poisonWaits (s : State) (l : Loc) (all : Bool) : State :=
  (s.words.filter fun w => w.addr / 8 = l.key / 8 && (all || w.sees l)).foldl State.poisonWait s

/-! ## DISC (R80 to R85) -/

/-- A discard at a word's home: a SYNC word's object ends (R80), and a waiting core is sent the home's value (R174). -/
def State.discHome (s : State) (n : Nat) (l : Loc) : State :=
  let s1 : State :=
    if (s.homeWord l).2 = tagSync then
      let g : Loc := { l with key := l.key / 16 * 16 }
      match s.granule n g with
      | .ok (t, x0, x1, _) => t.killObject g x0 x1
      | .error _ => ((s.loseAll g).wakeBarrier g 1).putHome l (s.homeWord l).1 tagData
    else s
  if s1.words.isEmpty then s1 else s1.notify l (s1.homeWord l).1

/-- Whether a discard of a word waits for the end of its line's pin (R85). -/
def Core.discWaits (c : Core) (l : Loc) : Bool := c.pinned.contains (l.key / 64) && (c.l1At l).isSome

/-- Takes a word that a core's L1 holds under this context and key slot out of it without a write-back (R51, R80); in a pinned line
the discard is held until the pin ends (R85). -/
def Core.discard (c : Core) (l : Loc) : Core :=
  if c.pinned.contains (l.key / 64) then { c with l1 := c.l1.map fun w => if w.is l then { w with discHeld := true } else w }
  else { c with l1 := c.l1.filter fun w => !w.is l }

/-- The effect of DISC on one word (R80): none in LM; at the home once the discard acts. -/
def State.discWord (s : State) (n : Nat) (l : Loc) : State :=
  if l.kind = .lm then s
  else
    let s1 := s.setCore n ((s.core n).discard l)
    if (s.core n).discWaits l then s1 else s1.discHome n l

/-! ## Curd logs (R162 to R165) -/

/-- Why a home cannot reach a word of a log: a failure of a cause, or something that it waits for (R108, R192, R448). -/
inductive LogStop
  | bad (c : Cause)
  | wait (h : LmWait)
  deriving DecidableEq, Repr

/-- The place of an address in a log region or a merge's target, reached through a context's translation by the home: the
page must grant W, and not be KO for user code (R165; for a target, log 87). -/
def State.logPlace (s : State) (n ctx : Nat) (kern : Bool) (va : Nat) : Except LogStop Loc :=
  match place va with
  | .priv =>
    match s.walkRoot ctx va with
    | .error c => .error (.bad c)
    | .ok t =>
      if s.keyless t then .error (.bad .pagefault)
      else if !t.w || (t.ko && !kern) then .error (.bad .pageperm)
      else .ok (t.loc va)
  | .window r off =>
    match (s.lmPlace n ctx r off).2 with
    | .at_ l => .ok l
    | .invalid => .error (.bad .pagefault)
    | .wait h => .error (.wait h)
    | .foreign k => .error (.wait (.absent k r))
  | _ => .error (.bad .pagefault)

/-- What stops a log's operation, with the address in the region. -/
abbrev LogM (α : Type) := Except (LogStop × Nat) α

/-- A word of a log region at its home; POISON and SYNC refuse (R165). -/
def State.logWord (s : State) (n ctx : Nat) (kern : Bool) (va : Nat) : LogM (State × Loc × Word) :=
  match s.logPlace n ctx kern va with
  | .error c => .error (c, va)
  | .ok l =>
    let (s1, x, t) := s.readHome l
    if t = tagPoison then .error (.bad .poison, va) else if t = tagSync then .error (.bad .syncstore, va) else .ok (s1, l, x)

/-- Bytes of a segment: its header and two halves (R163). -/
def segSize (segrec : Nat) : Nat := 64 + 64 * segrec

/-- A saturating 32-bit count. -/
def satInc (x : Nat) : Nat := if x + 1 < 2 ^ 32 then x + 1 else 2 ^ 32 - 1

/-- A log record (R164). -/
structure LogRec where
  op : Nat
  va : Nat
  val : Nat
  rank : Nat
  seq : Nat
  deriving DecidableEq, Repr

def LogRec.words (r : LogRec) : List Word := [w64 (r.op * 2 ^ 48 + r.va), w64 r.val, w64 r.rank, w64 r.seq]

/-- Checks the words of a slot, then writes them (R165). -/
def State.writeSlot (s : State) (n ctx : Nat) (kern : Bool) (va : Nat) : List Word → LogM State
  | [] => .ok s
  | w :: ws => do
    let (s1, l, _) ← s.logWord n ctx kern va
    let s2 ← s1.writeSlot n ctx kern (va + 8) ws
    .ok (s2.writeHome n l w tagData)

/-- Appends a record to the active half of segment `seg` of the region at A; a full half counts an overflow (R165). The
refusal names the address in the region. Of the header, the home reads the words that hold fields (log 86). -/
def State.appendLog (s : State) (n ctx : Nat) (kern : Bool) (a segrec seg : Nat) (r : LogRec) : LogM State := do
  let b := a + seg * segSize segrec
  let (s0, l0, c0) ← s.logWord n ctx kern b
  let (s1, l1, c1) ← s0.logWord n ctx kern (b + 8)
  let (s2, _, act) ← s1.logWord n ctx kern (b + 16)
  let (s3, l3, ovf) ← s2.logWord n ctx kern (b + 24)
  let h := getF act 0 1
  let c := if h = 0 then c0.toNat else c1.toNat
  if segrec ≤ c then .ok (s3.writeHome n l3 (setF ovf (32 * h) 32 (satInc (getF ovf (32 * h) 32))) tagData)
  else
    let s4 ← s3.writeSlot n ctx kern (b + 64 + 32 * (h * segrec + c)) r.words
    .ok (s4.writeHome n (if h = 0 then l0 else l1) (w64 (c + 1)) tagData)

/-- The segment of a target (R163). -/
def logSeg (l : Loc) : Nat :=
  match l.kind with
  | .lm => 64
  | .pool => sliceAllOn (l.key - 2 ^ 48)
  | .dram => sliceAllOn l.key

/-- LOGA's check of the target's tag at its home (R165). -/
def State.logaTarget (s : State) (n : Nat) (l : Loc) : HomeM State := do
  let s1 := s.takeHome n l
  updateCheck (s1.homeWord l).2 (l.key / 8 * 8)
  .ok s1

end Sys2Proof.Machine
end

