-- ==== Sys2Proof/Machine/Message.lean ====
section
/-! DEFINITION. Messages, ports and the movement of threads by instruction (R184 to R194, R312 to R318), and the placement
of arrivals: inboxes, port queues, the overflow ring, the message buffers (R188, R189). -/

namespace Sys2Proof.Machine

/-! ## Entries of the ring and of MSGBUF (R189) -/

/-- A message or port value as it arrives: KIND 1 NMSG, 2 UMSG, 3 GPORT, 4 VPORT, and its payload words. -/
structure Arrival where
  kind : Nat
  port : Nat
  cmap : Nat
  gtag : Nat
  note : Bool
  ctx : Nat
  drank : Nat
  srank : Nat
  snode : Nat
  time : Word
  data : List Word
  deriving DecidableEq, Repr

/-- Word 0 of an entry. -/
def Arrival.head (a : Arrival) : Word :=
  w64 (a.kind * 2 ^ 60 + a.port * 2 ^ 56 + a.cmap * 2 ^ 52 + a.gtag * 2 ^ 50 + b2n a.note * 2 ^ 49 + a.ctx * 2 ^ 32 +
    a.drank * 2 ^ 22 + a.srank * 2 ^ 12 + a.snode)

/-- The 16 words of an entry. -/
def Arrival.words (a : Arrival) : List Word :=
  [a.head, a.time, 0, 0] ++ (List.range 8).map (fun i => a.data.getD i 0) ++ [0, 0, 0, 0]

/-- The entry that 16 words stand for. -/
def arrivalOf (w : List Word) : Arrival :=
  let h := w.getD 0 0
  ⟨getF h 60 4, getF h 56 4, getF h 52 4, getF h 50 2, bitOf h 49, getF h 32 12, getF h 22 10, getF h 12 10, getF h 0 12,
    w.getD 1 0, (w.drop 4).take 8⟩

def Msg.arrival (m : Msg) (urgent : Bool) : Arrival :=
  ⟨if urgent then 2 else 1, 0, m.cmap.toNat, 0, m.notice, m.ctx, m.drank, m.srank, m.snode, m.time, [m.w0, m.w1, m.w2, m.w3]⟩

/-- A message whose words and CAP map an entry holds. -/
def Arrival.msg (a : Arrival) : Msg :=
  ⟨a.data.getD 0 0, a.data.getD 1 0, a.data.getD 2 0, a.data.getD 3 0, BitVec.ofNat 4 a.cmap, a.srank, a.snode, a.ctx,
    a.drank, a.note, a.time⟩

/-- The eight words of a v-port value. -/
def vWords (v : BitVec 512) : List Word := (List.range 8).map fun i => v.extractLsb' (64 * i) 64

def wordsV (l : List Word) : BitVec 512 :=
  BitVec.ofNat 512 ((List.range 8).foldl (fun r i => r + (l.getD i 0).toNat * 2 ^ (64 * i)) 0)

/-- A value at port `p` (0 to 5 g ports, 6 to 9 v ports) as an arrival for a rank. -/
def PVal.arrival (x : PVal) (p ctx drank : Nat) : Arrival :=
  if p < 6 then ⟨3, p, 0, b2n x.cap, false, ctx, drank, x.srank, x.snode, x.time, [x.val.setWidth 64, x.sh]⟩
  else ⟨4, p - 6, 0, 0, false, ctx, drank, x.srank, x.snode, x.time, vWords x.val⟩

/-- The port value an entry holds. -/
def Arrival.pval (a : Arrival) : PVal :=
  if a.kind = 3 then ⟨(a.data.getD 0 0).setWidth 512, a.data.getD 1 0, a.gtag = 1, a.srank, a.snode, a.time⟩
  else ⟨wordsV a.data, 0, false, a.srank, a.snode, a.time⟩

/-- The port of an entry of KIND 3 or 4. -/
def Arrival.portIx (a : Arrival) : Nat := if a.kind = 3 then a.port else a.port + 6

/-- Writes words at consecutive home addresses from a place on. -/
def State.writeWords (s : State) (n : Nat) (l : Loc) : List Word → State
  | [] => s
  | w :: ws => (s.writeHome n l w tagData).writeWords n (l.plus 8) ws

/-- Reads `k` words at consecutive home addresses. -/
def State.readWords (s : State) (l : Loc) (k : Nat) : List Word :=
  (List.range k).map fun i => (s.readWord (l.plus (8 * i))).2.1

/-! ## The overflow ring (R189) -/

def Core.ringFull (c : Core) : Bool := !c.ovfEn || (c.ovfTail + 1) % 2 ^ c.ovfSize = c.ovfHead

/-- The NI writes an entry at TAIL, as it stands, should a write of OVFBASE have left it past 2^SIZE (log 120). -/
def State.ringPut (s : State) (n : Nat) (a : Arrival) : State :=
  let c := s.core n
  let s1 := s.writeWords n (lmLoc n (128 * (c.ovfBase + c.ovfTail))) a.words
  s1.setCore n { s1.core n with ovfTail := (c.ovfTail + 1) % 2 ^ c.ovfSize }

/-! ## MSGBUF (R188, R196) -/

/-- Whether every reserved bit of a context's header is 0 and its fields are in range (R196, R398; IMAGE's word and MSZ: log 94; the
supervisor queue's word is not tested: log 118). -/
def State.headerOk (s : State) (ctx : Nat) : Bool :=
  let h (o : Nat) := s.headerVal ctx o
  getF (h 0) 33 31 = 0 && getF (h 8) 60 4 = 0 && getF (h 8) 8 4 = 0 && getF (h 8) 0 7 = 0 &&
    getF (h 16) 48 16 = 0 && getF (h 16) 8 5 = 0 && getF (h 16) 0 7 = 0 &&
    getF (h 24) 48 16 = 0 && getF (h 24) 8 4 = 0 && getF (h 24) 5 2 = 0 && getF (h 24) 0 5 ≤ 20 &&
    getF (h 64) 48 16 = 0 && getF (h 64) 8 9 = 0 && getF (h 64) 0 7 = 0 &&
    getF (h 72) 48 16 = 0 && getF (h 72) 0 6 = 0 &&
    (List.range 5).all fun i => h (88 + 8 * i) = 0

/-- Adds 1 to MLOST. -/
def State.countLost (s : State) (n ctx : Nat) : State :=
  s.writeHome n (s.headerLoc ctx 56) (s.headerVal ctx 56 + 1) tagData

/-- Places an entry in a context's MSGBUF; a full or unusable one discards it, which MLOST counts. The Bool is true for a
discard. -/
def State.msgbufPut (s : State) (n ctx : Nat) (a : Arrival) : State × Bool :=
  let h := s.headerVal ctx 24
  let ht := s.headerVal ctx 48
  let head := getF ht 0 32
  let tail := getF ht 32 32
  let size := 2 ^ getF h 0 5
  if !s.headerOk ctx || (tail + 2 ^ 32 - head) % 2 ^ 32 = size then (s.countLost n ctx, true)
  else
    let l := physLoc (bitOf h 7) (getF h 12 36 * 2 ^ 12 + 128 * (tail % size)) 0 0
    let s1 := s.writeWords n l a.words
    (s1.writeHome n (s1.headerLoc ctx 48) (setF ht 32 32 (tail + 1)) tagData, false)

/-! ## Placement (R188) -/

/-- Appends an entry to an inbox or inbound queue; a berth that sleeps wakes (R434). -/
def State.enqueue (s : State) (n : Nat) (a : Arrival) : State :=
  let c := s.core n
  match a.kind with
  | 1 => (s.setCore n { c with inbox := c.inbox ++ [a.msg] }).wakeSleep n 1
  | 2 => (s.setCore n { c with urgent := c.urgent ++ [a.msg] }).wakeSleep n 0
  | _ =>
    let q := c.port a.portIx
    (s.setCore n (c.setPort a.portIx { q with inq := q.inq ++ [a.pval] })).wakeSleep n 1

/-- Room in the queue an arrival is for. -/
def Core.roomFor (c : Core) (a : Arrival) : Bool :=
  match a.kind with
  | 1 => c.inbox.length < 32
  | 2 => c.urgent.length < 8
  | _ => (c.port a.portIx).inq.length < portRoom a.portIx

/-- An entry for the resident rank that has entered the ring or MSGBUF sets HOLD (R188). -/
def State.holdFor (s : State) (n : Nat) (a : Arrival) : State :=
  let c := s.core n
  if a.ctx = c.ctxid && a.drank = c.rank then s.setCore n { c with hold := true } else s

/-- An entry for this context that goes to the ring, or to MSGBUF (R188), where it may be lost. `raise` for arrivals, which raise
ABSENT. -/
def State.overflow (s : State) (n : Nat) (a : Arrival) (raise : Bool) : State :=
  let full := (s.core n).ringFull
  let (s1, lost) := if full then s.msgbufPut n a.ctx a else (s.ringPut n a, false)
  let s2 := if lost then s1 else s1.holdFor n a
  if raise then s2.raiseAbsent n (if lost then 3 else if full then 2 else 1) a.ctx a.drank else s2

/-- Where the NI places an arrival (R188); one for an unusable context is discarded (R196; nothing else of it is refused: log 119), with
ABSENT only where it is the core's own (log 106). -/
def State.settle (s : State) (n : Nat) (a : Arrival) : State :=
  let c := s.core n
  if !s.headerOk a.ctx then
    let s1 := s.countLost n a.ctx
    if a.ctx = c.ctxid then s1.raiseAbsent n 3 a.ctx a.drank else s1
  else if a.ctx ≠ c.ctxid && !(a.kind = 2 && a.ctx = 0) then (s.msgbufPut n a.ctx a).1
  else if a.kind = 2 && c.roomFor a then s.enqueue n a
  else if a.kind = 2 && a.ctx = 0 then
    let (s1, lost) := s.msgbufPut n 0 a
    (if lost then s1 else s1.holdFor n a).raiseAbsent n (if lost then 3 else 2) 0 a.drank
  else if a.kind ≠ 2 && a.drank = c.rank && !c.hold && c.roomFor a then s.enqueue n a
  else s.overflow n a true

/-- Moves a core's inbox and inbound port values to the ring, queue by queue (R186, R188), or for a change of context to the
old context's MSGBUF (R428). No ABSENT is raised. -/
def State.moveEntries (s : State) (n : Nat) (put : State → Arrival → State) : State :=
  let c := s.core n
  let s0 := s.setCore n { c with inbox := [], ports := c.ports.map fun q => { q with inq := [] } }
  let s1 := c.inbox.foldl (fun t m => put t (m.arrival false)) s0
  (List.range 10).foldl (fun t p => (c.port p).inq.foldl (fun u x => put u (x.arrival p c.ctxid c.rank)) t) s1

/-! ## The NI takes a packet (R104, R108) -/

/-- What the NI does with a rank-addressed packet. -/
inductive NiRes
  | taken (t : State)
  | bridge (t : State)     -- in the hold buffer of a Rill NI (R92)
  | invalid (t : State)
  | full (t : State)       -- no room to hold it (R108)

/-- Counts a packet as sent, and as received by the sending NI (R409). -/
def State.countRefused (s : State) (n : Nat) (l : Option Nat) : State :=
  match l with
  | some k =>
    let c := s.core n
    s.setCore n { c with sent := bump c.sent k, received := bump c.received k }
  | none => s

/-- Holds a packet for an in-transit rank, or behind a packet held for its rank; the NI has taken it (R409). -/
def State.holdPacket (s : State) (n : Nat) (p : Packet) : NiRes :=
  let s1 := s.countSent n p
  let c := s1.core n
  if 16 ≤ c.heldPkts.length then .full s else .taken (s1.setCore n { c with heldPkts := c.heldPkts ++ [p] })

/-- The NI of a core takes a rank-addressed packet. -/
def State.niTake (s : State) (n : Nat) (p : Packet) : NiRes :=
  let (s1, st) := s.findRank n p.ctx p.drank
  match st with
  | .invalid => .invalid s1
  | .transit => s1.holdPacket n p
  | .valid k =>
    let q := { p with dst := k }
    if isRill n && k < 0x800 && !s1.bridge then .bridge (s1.send n q) else .taken (s1.send n q)

/-- A packet of a node for a rank of a context, uncounted unless a launch is given (R409). -/
def rankPacket (s : State) (n ctx rank srank : Nat) (launch : Option Nat) (b : Body) : Packet :=
  { src := n, dst := 0, ctx := ctx, ranked := true, drank := rank, srank := srank, epoch := (s.core n).epoch, launch := launch
    body := b }

/-! ## SEND (R312) -/

/-- Register `i` of a quad. -/
def quad (q : BitVec 4) (i : Nat) : BitVec 6 := BitVec.ofNat 6 (4 * q.toNat + i)

def quadSrcs (q : BitVec 4) : List Src := (List.range 4).map fun i => .g (quad q i)
def quadDsts (q : BitVec 4) : List Dst := (List.range 4).map fun i => .g (quad q i)

/-- Two words of a message and their CAP map bits, from a pair of registers. -/
def msgPair (a b : GReg) : Word × Word × Nat :=
  if a.tag = .cap then (a.val, a.sh, if capWell a.sh && hasPerm a.sh pG then 3 else 0) else (a.val, b.val, 0)

/-- The message that a quad forms. -/
def msgOf (s : State) (vs : List Val) (ctx drank : Nat) : Msg :=
  let (w0, w1, c0) := msgPair (arg vs 0).g (arg vs 1).g
  let (w2, w3, c1) := msgPair (arg vs 2).g (arg vs 3).g
  ⟨w0, w1, w2, w3, BitVec.ofNat 4 (c0 + 4 * c1), s.nativeRank, s.cur, ctx, drank, false, 0⟩

/-- The nodes that packets may name: positions of Torrent logical cores, the Rill cores, the management core (R312). -/
def State.usedNode (s : State) (n : Nat) : Bool :=
  isRill n || (n < 0x400 && (List.range 16).any fun i => s.coreNode 0 (16 * groupOf n + i) = n)

/-- The launch slot that a packet of the executing thread carries (R409). -/
def State.countSlot (s : State) : Option Nat := if s.cb = 1 then s.me.launch else none

def execSend (a : BitVec 4) (b : BitVec 6) (u : BitVec 1) (s : State) : Out :=
  run s (do
    check (u = 0 || s.kern) .priv (wordR 0x42 0 0 (4 * a.toNat) b.toNat u.toNat)
    nativeOnly s
    op s (quadSrcs a ++ [.g b]) [] 4 fun t vs => do
      let x := argW vs 4
      match t.me.wait with
      | .done _ _ => .ok (t, [])
      | .bridge => .error (.wait t)
      | _ =>
        let wait (v : State) : State := v.setMe { v.me with wait := .bridge }
        if u = 1 && bitOf x 63 then do
          let k := getF x 0 12
          check (t.usedNode k) .migfault x
          let p : Packet := ⟨t.cur, k, 0, false, 0, t.nativeRank, t.here.epoch, none, .umsg (msgOf t vs 0 0), none, t.cb, false⟩
          if isRill t.cur && k < 0x800 && !t.bridge then .error (.wait (wait (t.send t.cur p)))
          else .ok (t.send t.cur p, [])
        else
          let c := t.here.ctxid
          let m := msgOf t vs c (getF x 0 10)
          let p := rankPacket t t.cur c (getF x 0 10) t.nativeRank t.countSlot (if u = 1 then .umsg m else .nmsg m)
          match t.niTake t.cur { p with launch := if u = 1 then none else p.launch, sender := t.cb } with
          | .taken v => .ok (v, [])
          | .bridge v => .error (.wait (wait v))
          | .invalid _ => trap .migfault x
          | .full v => .error (.wait v))

/-! ## RECV, RECVNB (R313, R314) -/

/-- The registers a received message writes: the quad, then the sender word. -/
def msgVals (m : Msg) : List Val :=
  let c0 := m.cmap.getLsbD 0 && m.cmap.getLsbD 1
  let c1 := m.cmap.getLsbD 2 && m.cmap.getLsbD 3
  [.ofG (if c0 then ⟨m.w0, m.w1, .cap⟩ else dataReg m.w0), .data m.w1,
    .ofG (if c1 then ⟨m.w2, m.w3, .cap⟩ else dataReg m.w2), .data m.w3, .data (w64 (b2n m.notice * 2 ^ 16 + m.srank % 2 ^ 10))]

/-- The inbox a berth takes from (R185). -/
def State.myInbox (s : State) : List Msg := if s.cb = 0 then s.here.urgent else s.here.inbox

def State.popInbox (s : State) : State :=
  let c := s.here
  if s.cb = 0 then s.setHere { c with urgent := c.urgent.tail } else s.setHere { c with inbox := c.inbox.tail }

/-- RECV and its 16-bit form: `b` takes the sender word. A notice's receiver acquires (R135). -/
def recvOp (s : State) (d : BitVec 4) (b : BitVec 6) (len : Nat) : Out :=
  run s (do
    nativeOnly s
    op s [] (quadDsts d ++ [.g b]) len fun t _ =>
      match t.myInbox with
      | [] => .error (.wait t)
      | m :: _ => .ok (if m.notice then t.popInbox.acquireHere else t.popInbox, msgVals m))

def execRecv (d : BitVec 4) (b : BitVec 6) (s : State) : Out := recvOp s d b 4

def execCRecv (d : BitVec 3) (s : State) : Out := recvOp s (d.setWidth 4) 0 2

def execRecvnb (d : BitVec 4) (b : BitVec 6) (s : State) : Out :=
  run s (do
    nativeOnly s
    match s.myInbox with
    | [] => op s [] [.g b] 4 fun t _ => .ok (t, [.data 0x8000000000000000])
    | m :: _ =>
      op s [] (quadDsts d ++ [.g b]) 4 fun t _ =>
        .ok (if m.notice then t.popInbox.acquireHere else t.popInbox, msgVals m))

/-! ## INQ (R315) -/

/-- The LM offset of a 128-byte entry in the executing core's LM. -/
def State.lmEntry (s : State) (va : Word) : Option Nat :=
  match place va.toNat with
  | .alias_ o => if va.toNat % 8 = 0 && o + 128 ≤ lmSize then some o else none
  | .window r o => if r = s.here.rank && va.toNat % 8 = 0 && o + 128 ≤ lmSize then some o else none
  | _ => none

/-- The words of an entry, read as loads. -/
def entryLoad (s : State) (va : Word) (o : Nat) : M (List Word) :=
  match (List.range 16).find? fun i => (s.homeWord (lmLoc s.cur (o + 8 * i))).2 = tagPoison with
  | some i => trap .poison (w64 (va.toNat + 8 * i))
  | none => .ok ((List.range 16).map fun i => (s.homeWord (lmLoc s.cur (o + 8 * i))).1)

/-- Whether an entry is malformed for a core (R315). -/
def Core.malformed (c : Core) (a : Arrival) : Bool :=
  a.kind = 0 || 4 < a.kind || (a.kind = 3 && 6 ≤ a.port) || (a.kind = 4 && 4 ≤ a.port) || a.ctx ≠ c.ctxid ||
    (a.kind ≠ 2 && a.drank ≠ c.rank)

/-- INQ: whether the address is an entry's comes before the checks of its capability (log 123). -/
def execInq (d a : BitVec 6) (s : State) : Out :=
  run s (do
    check s.kern .priv (wordR 0x42 3 d.toNat a.toNat 0 0)
    op s [.g a] [.g d] 4 fun t vs => do
      let va := argW vs 0
      match t.lmEntry va with
      | none => trap .copyform va
      | some o => do
        capChecks t.kern ⟨(arg vs 0).g, a.toNat, va, 128, pR, true, false, false, 0⟩
        let ws ← entryLoad t va o
        let e := arrivalOf ws
        if t.here.malformed e then .ok (t, [.data 2])
        else if !t.here.roomFor e then .ok (t, [.data 1])
        else .ok (t.enqueue t.cur e, [.data 0]))

/-! ## MIGRATE, HOME, RANK (R316) -/

/-- MIGRATE; an LM window has no byte at an offset of 0x1_8000 or more (R15). -/
def execMigrate (a : BitVec 6) (s : State) : Out :=
  run s (do
    check (!s.kern) .illegal (wordR 0x43 0 0 a.toNat 0 0)
    nativeOnly s
    op s [.g a] [] 4 fun t vs => do
      let ea := argW vs 0
      let need : Need := ⟨(arg vs 0).g, a.toNat, ea, 1, 0, false, false, false, 0⟩
      capChecks t.kern need
      match place ea.toNat with
      | .alias_ _ => do
        check (!t.pinned) .migfault ea
        .ok (t, [])
      | .window r _ =>
        if r = t.here.rank then do
          check (!t.pinned) .migfault ea
          .ok (t, [])
        else do
          let (t1, st) ← windowCheck t need r
          check (!t.pinned) .migfault ea
          released t1 scDevice
          match st with
          | .valid k => .error (.move (t1.commit [.g a] [] [] |>.retire 4) r k)
          | _ => .error (.wait t1)
      | _ => trap (if windowBase ≤ ea.toNat && ea.toNat < windowBase + 2 ^ 27 then .pagefault else .migfault) ea)

def execHome (s : State) : Out :=
  run s (do
    nativeOnly s
    .ok (s.retire 4))

def execRank (d : BitVec 6) (s : State) : Out :=
  run s (do
    nativeOnly s
    op s [] [.g d] 4 fun t _ =>
      let h := t.headerVal t.here.ctxid 0
      .ok (t, [.data (w64 (getF h 22 10 * 2 ^ 42 + getF h 12 10 * 2 ^ 32 + b2n t.guest * 2 ^ 26 + t.here.rank * 2 ^ 16 +
        t.nativeRank))]))

/-! ## PORTB, PORTQ (R317, R318) -/

/-- The port that a code names: 0 to 5 PN to PB, 8 to 11 VN to VW. -/
def portCode (x : Word) : Option Nat :=
  if x.toNat < 6 then some x.toNat else if 8 ≤ x.toNat && x.toNat < 12 then some (x.toNat - 2) else none

/-- The code of a port. -/
def portName (p : Nat) : Nat := if p < 6 then p else p + 2

/-- The fields that PORTB reads in gB. -/
def portbMask : Word := 0x830F03FF

def execPortb (a b : BitVec 6) (s : State) : Out :=
  run s (do
    nativeOnly s
    op s [.g a, .g b] [] 4 fun t vs => do
      let x := argW vs 1
      match portCode (argW vs 0) with
      | none => trap .portbind (argW vs 0)
      | some p => do
        check (x &&& ~~~portbMask = 0) .portbind x
        let set (u : State) (k : PortBind) : M (State × List Val) :=
          if (u.here.port p).outq.isEmpty then .ok ((u.setHere (u.here.setPort p { u.here.port p with bind := k })).keepBinds u.cur, [])
          else .error (.wait u)
        if bitOf x 31 then set t .unbound
        else
          match portCode (w64 (getF x 16 4)) with
          | none => trap .portbind x
          | some q => do
            check ((p < 6) = (q < 6)) .portbind x
            if bitOf x 24 then set t (.to ⟨true, getF x 25 1, getF x 0 10, q⟩)
            else do
              let (t1, st) := t.lookRank t.cur t.here.ctxid (getF x 0 10)
              check (st ≠ .invalid) .migfault x
              set t1 (.to ⟨false, 0, getF x 0 10, q⟩))

/-- PORTQ's word for a port (R318); the binding's fields are 0 while it is unbound (log 124). -/
def State.portWord (s : State) (n p : Nat) : Word :=
  let q := (s.core n).port p
  let b := match s.binding n p with
    | some b => b2n b.peer * 2 ^ 48 + portName b.port * 2 ^ 44 + b.rank * 2 ^ 32 + 2 ^ 16
    | none => 0
  w64 (b + b2n q.lost * 2 ^ 17 + q.outq.length * 2 ^ 8 + q.inq.length)

def execPortq (d a : BitVec 6) (s : State) : Out :=
  run s (do
    nativeOnly s
    op s [.g a] [.g d] 4 fun t vs =>
      match portCode (argW vs 0) with
      | none => trap .portbind (argW vs 0)
      | some p => .ok (t.setHere (t.here.setPort p { t.here.port p with lost := false }), [.data (t.portWord t.cur p)]))

end Sys2Proof.Machine
end

