-- ==== Sys2Proof/Machine/Device.lean ====
section
/-! DEFINITION. The device register window (R18, R19): the registers of key slots (R53), slice columns (R70), context
directory (R195), dispensers (R399), power (R446 to R451), Portage (R455) and Silt (R460), with what their writes start. -/

namespace Sys2Proof.Machine

/-! ## Groups -/

/-- What OFF keeps of a core: its NI, inboxes and port queues, which belong to the router domain (R92, R443), and its
scheduling pool, which the dispenser holds (R411). -/
def Core.powerOff (c : Core) : Core :=
  { Core.reset with
    hold := c.hold, inbox := c.inbox, urgent := c.urgent, ports := c.ports, absent := c.absent, atNi := c.atNi
    epoch := c.epoch, unacked := c.unacked, heldPkts := c.heldPkts, poolTag := c.poolTag, poolNew := c.poolNew
    sent := c.sent, received := c.received }

/-- Whether a home address lies in a core's LM. -/
def inLm (n key : Nat) : Bool := 2 ^ 49 + n * 2 ^ 17 ≤ key && key < 2 ^ 49 + n * 2 ^ 17 + 0x18000

/-- Every word of a core's LM becomes 0 with tag DATA. -/
def State.lmErase (s : State) (n : Nat) : State :=
  { s with
    mem := s.mem.filter fun p => !inLm n p.1
    tags := s.tags.filter fun p => !inLm n (8 * p.1) }

/-- The group TLB of a group or island that is RET or OFF holds no entries (R46). -/
def State.dropGroupTlb (s : State) (g : Nat) : State := { s with gtlb := s.gtlb.filter (·.1 ≠ g) }

/-- What RET does not keep of a core beside its L1, which has been drained (R443, R46). -/
def Core.retain (c : Core) : Core := { c with power := .ret, l1 := [], icache := [], tlb := [], rankCache := [], probes := [] }

/-- A bit of Torrent's DSP_HOLD (R446). -/
def State.heldGroup (s : State) (g : Nat) : Bool :=
  let x := s.group g
  x.withhold || x.quiesce || x.quiesced || (!s.repApplied && (x.hot || x.overBudget))

/-- A mask of the groups that satisfy `p`. -/
def groupMask (s : State) (p : Group → Bool) : Word :=
  w64 ((List.range 32).foldl (fun r g => r + b2n (p (s.group g)) * 2 ^ g) 0)

/-- The groups a 32-bit mask names. -/
def maskGroups (m : Nat) : List Nat := (List.range 32).filter fun g => m.testBit g

/-! ## Key slots (R53, R54) -/

/-- A write of KSLOT_CMD: a refused command sets ERR and does nothing, another runs with BUSY 1. -/
def State.kslotCmd (s : State) (v : Word) : State :=
  let slot := getF v 4 12
  let e : State := { s with kslotErr := true }
  let go (x : Event) : State := ({ s with kslotBusy := true }).later x
  if s.kslotBusy then e
  else
    match getF v 0 4 with
    | 1 => if slot = 0 then e else go (.kslotLoad (BitVec.ofNat 12 slot))
    | 2 => if slot = 0 then e else go (.kslotRetire (BitVec.ofNat 12 slot))
    | 3 =>
      if s.cfg.dramTop < (getF s.kslotArg 12 26 + getF s.kslotArg 38 26) * 2 ^ 12 then e else go .kslotTagclr
    | 4 => if slot = 0 then e else go (.kslotPurge (BitVec.ofNat 12 slot))
    | _ => e

/-! ## Slice columns (R70, R71) -/

/-- Columns whose ON bit differs from TARGET, ascending. -/
def State.columnsLeft (s : State) (target : BitVec 8) : List Nat :=
  (List.range 8).filter fun c => s.l2On.getLsbD c != target.getLsbD c

/-- Starts the transition of the first column that differs from the TARGET the command took at its GO, or ends the command (R71; that a
later TARGET changes nothing for it: log 117). -/
def State.nextColumn (s : State) : State :=
  match s.columnsLeft s.l2Goal with
  | [] => { s with l2Busy := false }
  | c :: _ =>
    let k := BitVec.ofNat 3 c
    ({ s with l2Busy := true, l2Cur := c }).later (if s.l2Goal.getLsbD c then .columnUnfold k else .columnFold k)

/-- A GO write (R71): refused while BUSY, when a column and its partner would both be off, and while Torrent is not ON. -/
def State.l2Go (s : State) (t : BitVec 8) : State :=
  if s.l2Busy || s.tstate ≠ 2 || (List.range 4).any (fun c => !t.getLsbD c && !t.getLsbD (c + 4)) then
    { s with l2Err := true }
  else State.nextColumn { s with l2Target := t, l2Goal := t }

/-! ## Power handshake writes (R447, R448) -/

/-- A handshake write that acts on the groups `gs`: when one of them breaks the order, or is being woken (R449), the write is
ignored and sets SEQERR of each (R446). -/
def State.handshake (s : State) (gs : List Nat) (ok : Group → Nat → Bool) (f : State → Nat → State) : State :=
  if gs.all fun g => (s.group g).wakeBy = 0 && ok (s.group g) g then gs.foldl f s
  else gs.foldl (fun t g => t.setGroup g { t.group g with seqerr := true }) s

/-- The groups whose bit a write changes. -/
def changedBits (v : Word) (old : Nat → Bool) : List Nat := (List.range 32).filter fun g => bitOf v g != old g

/-- Whether a group's cores are in RET and not restored yet. -/
def State.inRet (s : State) (g : Nat) : Bool := (groupNodes g).any fun n => (s.core n).power == .ret

/-- Power is back: the rail is full. -/
def Group.powered (x : Group) : Bool := x.rail = 2 && x.railok

/-- GQUIESCE_REQ: a bit that rises quiesces an ON group, whose resumption, when it has not begun, is given up; one that falls resumes
a group that is up. -/
def State.quiesceWrite (s : State) (v : Word) : State :=
  s.handshake (changedBits v fun g => (s.group g).quiesce)
    (fun x g => if bitOf v g then x.state = 0 && !x.gate else !x.gate && x.powered && !s.inRet g)
    fun t g =>
      let k := BitVec.ofNat 5 g
      let t1 := t.setGroup g { t.group g with quiesce := bitOf v g }
      if bitOf v g then { t1 with agenda := t1.agenda.filter (· ≠ Event.groupResume k) }.later (.groupQuiesce k)
      else t1.laterOnce (.groupResume k)

/-- GCLK_GATE: gating needs SAVED; ungating needs power, and completes the start of a group whose MASK bit is 0. -/
def State.gateWrite (s : State) (v : Word) : State :=
  s.handshake (changedBits v fun g => (s.group g).gate) (fun x g => if bitOf v g then x.saved && x.quiesce else x.powered)
    fun t g =>
      let t1 := t.setGroup g { t.group g with gate := bitOf v g }
      if !bitOf v g && !(t.group g).quiesce then t1.later (.groupResume (BitVec.ofNat 5 g)) else t1

/-- What a per-rank record of OP 2 holds of a core's queues leaves them with the power (R447): what arrived later waits at the NI. -/
def Core.imaged (c : Core) : Core := { c with inbox := [], ports := c.ports.map fun q => { q with inq := [] } }

/-- A RAIL of 2 makes power come back. While Torrent is not ON the island is brought up first (R444): the group is in transition
from then on. -/
def State.railUp (s : State) (g : Nat) : State :=
  let s1 := s.setGroup g { s.group g with rail := 2 }
  (if s.tstate = 2 then s1.groupState g 3 else { s1 with tbusy := true }.laterOnce .torrentBringUp).later (.railOk (BitVec.ofNat 5 g))

/-- One RAIL field: retention, off, or full. -/
def State.railField (s : State) (g r : Nat) : State :=
  let x := s.group g
  if r = 1 then
    let s1 := ((groupNodes g).foldl (fun t n => t.setCore n (t.core n).retain) s).dropGroupTlb g
    (s1.setGroup g { x with rail := 1, railok := false }).groupState g 1
  else if r = 0 then
    let off (c : Core) : Core := (if x.img then c.imaged else c).powerOff
    let s1 := ((groupNodes g).foldl (fun t n => (t.lmErase n).setCore n (off (t.core n))) s).dropGroupTlb g
    (s1.setGroup g { x with rail := 0, railok := false, saved := x.img }).groupState g 2
  else s.railUp g

/-- GRAIL_CTL: retention needs SAVED without IMG and gated clocks, off needs gated clocks; a field of 3 is ignored and sets its group's
SEQERR (R446). -/
def State.railWrite (s : State) (v : Word) : State :=
  let bad := (List.range 32).filter fun g => getF v (2 * g) 2 = 3
  let s1 := bad.foldl (fun t g => t.setGroup g { t.group g with seqerr := true }) s
  s1.handshake ((List.range 32).filter fun g => getF v (2 * g) 2 ≠ 3 && getF v (2 * g) 2 ≠ (s.group g).rail)
    (fun x g => if getF v (2 * g) 2 = 1 then x.gate && x.saved && !x.img else x.gate)
    fun t g => t.railField g (getF v (2 * g) 2)

/-- GRET_SAVE: each selected group must have drained (OP 1, 2) or be a RET group with power back (OP 3). -/
def State.retWrite (s : State) (v : Word) : State :=
  let o := getF v 32 2
  let ev (g : Nat) : Event :=
    let k := BitVec.ofNat 5 g
    if o = 1 then .gretSaveRetain k else if o = 2 then .gretSaveImage k else .gretSaveRestore k
  let gs := maskGroups (v.toNat % 2 ^ 32)
  if o = 0 || gs.isEmpty then s
  else
    s.handshake gs
      (fun x g => !s.retSave &&
        (if o = 3 then s.inRet g && x.powered && !x.gate else x.quiesce && x.drained && !x.gate))
      fun t g => ({ t with retSave := true }.later (ev g)).laterOnce .gretSaveDone

/-! ## Waking (R450, R451) -/

/-- The bit of WAKE_SRC for a writer of WAKE: 0 host, 1 monitor, 2 Rill kernel. -/
def wakeBit (src : Nat) : Word := if src = 0 then 0x40000 else if src = 1 then 0x20000 else 0x10000

/-- Whether a write of WAKE is accepted: the host's only while HOSTEN is 1 (R446). -/
def State.wakeAllowed (s : State) (src : BitVec 2) : Bool := src ≠ 0 || s.arm.getLsbD 16

/-- What a WAKE write that names groups does, and one that names TON (R446, R449, R450). -/
def State.wakeMask (s : State) (mask : BitVec 32) (src : BitVec 2) : State :=
  if s.wakeAllowed src then s.wakeGroups (maskGroups mask.toNat) (wakeBit src.toNat) else s

def State.wakeAll (s : State) (src : BitVec 2) : State :=
  if s.wakeAllowed src then s.wakeGroups (List.range 32) (wakeBit src.toNat) else s

/-- A write of WAKE, which takes effect at once: source 0 host, 1 monitor, 2 Rill kernel. -/
def State.wakeWrite (s : State) (v : Word) (src : BitVec 2) : State :=
  let s1 := if v.toNat % 2 ^ 32 = 0 then s else s.wakeMask (v.setWidth 32) src
  if bitOf v 32 then s1.wakeAll src else s1

/-- A pool word's value as its bank knows it: its owner's, or the stored one (R63, R65). -/
def State.poolWord (s : State) (key : Nat) : Word :=
  match s.cores.findSome? fun p => p.2.l1.find? fun w => w.word = key / 8 && w.owned with
  | some w => w.val
  | none => w64 (mgetN s.mem key 8)

/-- Arms triggers; triggers of KIND 1 and 2 are tested at once (R451). -/
def State.armWrite (s : State) (v : Word) : State :=
  let new := (List.range 16).filter fun i => v.getLsbD i && !s.arm.getLsbD i
  let s1 : State := { s with arm := v.setWidth 17 }
  let hit := new.filter fun i =>
    match s.cascades[i]? with
    | some t =>
      let a := t.param.toNat * 8
      t.kind = 1 && a < 24 * 2 ^ 20 && t.value ≤ s.poolWord (poolKey a)
    | none => false
  let s2 : State := { s1 with agenda := s1.agenda ++ hit.map fun i => .cascadeFire (BitVec.ofNat 4 i) }
  (s2.cores.flatMap fun p => p.2.bridgeHeld ++ p.2.atNi).foldl State.packetTriggers s2

def Cascade.control (t : Cascade) : Word :=
  w64 (t.gmask.toNat * 2 ^ 32 + t.param.toNat * 2 ^ 8 + b2n t.ton * 2 ^ 6 + b2n t.fired * 2 ^ 5 + t.kind)

/-- A write of a trigger's control word; FIRED is W1C. -/
def Cascade.write (t : Cascade) (v : Word) : Cascade :=
  { t with
    gmask := BitVec.ofNat 32 (getF v 32 32), param := BitVec.ofNat 22 (getF v 8 22), ton := bitOf v 6
    fired := t.fired && !bitOf v 5, kind := getF v 0 4 }

/-! ## Dispensers (R399) -/

def State.disp (s : State) (isl : Nat) : Dispenser := if isl = 0 then s.disp0 else s.disp1

def State.setDisp (s : State) (isl : Nat) (d : Dispenser) : State :=
  if isl = 0 then { s with disp0 := d } else { s with disp1 := d }

/-- The core's pool tag that DSP_POOL holds (R399). -/
def Dispenser.tag (d : Dispenser) (g i : Nat) : Nat := getF (d.pools.getD g 0) (2 * i) 2

/-- The logical cores of a group with their nodes (R103, R399). -/
def State.poolCores (s : State) (isl g : Nat) : List (Nat × Nat) :=
  if isl = 0 then (List.range 16).map fun i => (i, s.coreNode 0 (16 * g + i)) else (List.range 8).map fun i => (i, 0x800 + i)

/-- A monitor write of DSP_POOL: each core whose tag changes takes it at its next boundary (R411). -/
def State.poolWrite (s : State) (isl g : Nat) (v : Word) : State :=
  let d := s.disp isl
  let s1 := s.setDisp isl { d with pools := d.pools.set g v }
  (s.poolCores isl g).foldl (fun t p =>
    let c := t.core p.2
    let k := getF v (2 * p.1) 2
    if c.poolTag = k then t.setCore p.2 { c with poolNew := none }
    else (t.setCore p.2 { c with poolNew := some k }).later (.poolRebind (BitVec.ofNat 12 p.2))) s1

/-! ## Silt (R460) -/

/-- Ends a freeze once BUILD is 0; recording restarts (R460). A freeze that has not reached the management core by then started while
FROZEN was 1 and counts in DROPS (R463; log 127). -/
def State.siltResume (s : State) : State :=
  if s.silt.build then s
  else
    { s with
      silt := { s.silt with frozen := false, reached := false, flying := [], drops := s.silt.drops + s.silt.flying.countP (·.left.contains mcNode) }
      cores := s.cores.map fun p => (p.1, { p.2 with ringStopped := false, freezeF := none }) }

def State.siltRelease (s : State) : State := { s with silt := { s.silt with valid := false } }

def State.siltCtl (s : State) (v : Word) : State :=
  let s1 : State := { s with silt := { s.silt with en := bitOf v 0, mctx := getF v 32 12 } }
  let s2 := if bitOf v 3 then s1.siltRelease else s1
  let s3 := if bitOf v 2 then s2.siltResume else s2
  if bitOf v 1 then s3.startFreeze mcNode 0 (getF v 32 12) else s3

/-! ## Reading and writing -/

/-- ISLAND_STAT (R446). -/
def State.islandStat (s : State) : Word :=
  w64 (b2n s.srallow * 2 ^ 8 + b2n s.repApplied * 2 ^ 7 + b2n s.dramsr * 2 ^ 6 + b2n s.bridge * 2 ^ 5 +
    b2n s.tbusy * 2 ^ 2 + s.tstate)

def Group.ctl (x : Group) : Word := w64 (x.budget * 2 ^ 16 + b2n x.withhold * 2 ^ 8 + b2n x.autowake * 2 ^ 4)

def Group.stat (x : Group) : Word :=
  w64 (b2n x.seqerr * 2 ^ 15 + b2n x.overBudget * 2 ^ 14 + b2n x.hot * 2 ^ 13 + b2n x.railok * 2 ^ 12 +
    b2n x.img * 2 ^ 9 + b2n x.saved * 2 ^ 8 + x.state)

/-- SILT_STAT (R460). -/
def State.siltStat (s : State) : Word :=
  w64 (s.silt.drops % 2 ^ 32 * 2 ^ 32 + b2n s.silt.valid * 4 + b2n s.silt.build * 2 + b2n s.silt.frozen)

/-- KSLOT_STAT (R53). -/
def State.kslotStat (s : State) : Word := w64 (b2n s.kslotErr * 2 + b2n s.kslotBusy)

/-- L2COL_STAT (R70). -/
def State.l2Stat (s : State) : Word :=
  w64 (b2n s.l2Err * 2 ^ 17 + b2n s.l2Busy * 2 ^ 16 + (if s.l2Busy then s.l2Cur * 2 ^ 8 else 0) + s.l2On.toNat)

/-- DSP_HOLD (R399, R446). -/
def State.dspHold (s : State) (isl : Nat) : Word :=
  if isl = 0 then w64 ((List.range 32).foldl (fun r g => r + b2n (s.heldGroup g) * 2 ^ g) 0) else 0

/-- The registers of the window by offset; none where no register is defined. -/
inductive DevReg
  | kslotCmd | kslotArg | kslotStat | l2Ctl | l2Stat | ctxdir
  | qtab (i : Nat) | dctl (i : Nat) | dhold (i : Nat) | dpool (i g : Nat)
  | gctl (g : Nat) | gstat (g : Nat) | qreq | qack | ret | gate | rail | island | wake | wakeSrc | arm
  | cctl (n : Nat) | cval (n : Nat) | pcmd | parg | plist | pstat
  | sctl | sopt | sstat | sftime | srind
  deriving DecidableEq, Repr

/-- The register at an 8-byte-aligned offset. -/
def devReg (o : Nat) : Option DevReg :=
  if o = 0x1000 then some .kslotCmd else if o = 0x1008 then some .kslotArg else if o = 0x1010 then some .kslotStat
  else if o = 0x2000 then some .l2Ctl else if o = 0x2008 then some .l2Stat else if o = 0x3000 then some .ctxdir
  else if o = 0x4000 then some (.qtab 0) else if o = 0x4008 then some (.dctl 0) else if o = 0x4010 then some (.dhold 0)
  else if 0x4100 ≤ o && o < 0x4200 then some (.dpool 0 ((o - 0x4100) / 8))
  else if o = 0x4800 then some (.qtab 1) else if o = 0x4808 then some (.dctl 1) else if o = 0x4810 then some (.dhold 1)
  else if o = 0x4900 then some (.dpool 1 0)
  else if 0x6000 ≤ o && o < 0x6100 then some (.gctl ((o - 0x6000) / 8))
  else if 0x6100 ≤ o && o < 0x6200 then some (.gstat ((o - 0x6100) / 8))
  else if o = 0x6200 then some .qreq else if o = 0x6208 then some .qack else if o = 0x6210 then some .ret
  else if o = 0x6218 then some .gate else if o = 0x6220 then some .rail else if o = 0x6228 then some .island
  else if o = 0x6300 then some .wake else if o = 0x6308 then some .wakeSrc else if o = 0x6310 then some .arm
  else if 0x6400 ≤ o && o < 0x6500 then some (if o % 16 = 0 then .cctl ((o - 0x6400) / 16) else .cval ((o - 0x6400) / 16))
  else if o = 0x6500 then some .pcmd else if o = 0x6508 then some .parg else if o = 0x6510 then some .plist
  else if o = 0x6518 then some .pstat
  else if o = 0x7000 then some .sctl else if o = 0x7008 then some .sopt else if o = 0x7010 then some .sstat
  else if o = 0x7018 then some .sftime else if o = 0x7020 then some .srind
  else none

/-- Keeps the bits of a value in [lo + len - 1 : lo], in place. -/
def keep (v : Word) (lo len : Nat) : Word := w64 (getF v lo len * 2 ^ lo)

/-- A GO of the Portage engine: a move begins with PHASE 1, or, while one is under way, ERR is 1. -/
def State.portageGo (s : State) (v : Word) : State :=
  if s.portage.phase ≠ 0 then { s with portage := { s.portage with err := 1 } }
  else
    let c := keep v 40 2 ||| keep v 0 12
    { s with
      portage := { s.portage with cmd := c, run := c, err := 0, phase := 1, saved := [], waitTlbi := [], abort := false } }.later
        .portageTransit

/-- The value a read of a register returns. -/
def State.devVal (s : State) (r : DevReg) : Word :=
  match r with
  | .kslotCmd => 0
  | .kslotArg => s.kslotArg
  | .kslotStat => s.kslotStat
  | .l2Ctl => s.l2Target.setWidth 64
  | .l2Stat => s.l2Stat
  | .ctxdir => s.ctxdir
  | .qtab i => (s.disp i).qtab
  | .dctl i => w64 (b2n (s.disp i).rebind * 2 + b2n (s.disp i).en)
  | .dhold i => s.dspHold i
  | .dpool i g => (s.disp i).pools.getD g 0
  | .gctl g => (s.group g).ctl
  | .gstat g => (s.group g).stat
  | .qreq => groupMask s (·.quiesce)
  | .qack => (groupMask s (·.drained) <<< 32) ||| groupMask s (·.quiesced)
  | .ret => w64 (b2n s.retSave * 2 ^ 40)
  | .gate => groupMask s (·.gate)
  | .rail => w64 ((List.range 32).foldl (fun r g => r + (s.group g).rail * 2 ^ (2 * g)) 0)
  | .island => s.islandStat
  | .wake => 0
  | .wakeSrc => s.wakeSrc
  | .arm => s.arm.setWidth 64
  | .cctl n => match s.cascades[n]? with | some t => t.control | none => 0
  | .cval n => match s.cascades[n]? with | some t => t.value | none => 0
  | .pcmd => s.portage.cmd
  | .parg => s.portage.arg
  | .plist => s.portage.list
  | .pstat => w64 (s.portage.err * 2 ^ 4 + s.portage.phase)
  | .sctl => w64 (s.silt.mctx * 2 ^ 32 + b2n s.silt.en)
  | .sopt => s.silt.opt
  | .sstat => s.siltStat
  | .sftime => s.silt.ftime
  | .srind => w64 (s.silt.base * 2 ^ 20)

/-- What a write of a register does (R5). -/
def State.devSet (s : State) (r : DevReg) (v : Word) : State :=
  match r with
  | .kslotCmd => s.kslotCmd v
  | .kslotArg => { s with kslotArg := keep v 12 52 }
  | .kslotStat => { s with kslotErr := s.kslotErr && !bitOf v 1 }
  | .l2Ctl => if bitOf v 8 then s.l2Go (v.setWidth 8) else { s with l2Target := v.setWidth 8 }
  | .l2Stat => { s with l2Err := s.l2Err && !bitOf v 17 }
  | .ctxdir => { s with ctxdir := keep v 19 29 ||| keep v 0 1 }
  | .qtab i => s.setDisp i { s.disp i with qtab := keep v 12 36 ||| keep v 7 1 }
  | .dctl i =>
    let s1 := s.setDisp i { s.disp i with rebind := bitOf v 1, en := bitOf v 0 }
    let k := BitVec.ofNat 1 i
    let s2 := if bitOf v 0 then s1.laterOnce (.dispatchSlot k) else s1
    if bitOf v 1 then s2.laterOnce (.occupancyWindow k) else s2
  | .dhold _ => s
  | .dpool i g => s.poolWrite i g (keep v 0 (if i = 0 then 32 else 16))
  | .gctl g =>
    let x := s.group g
    s.setGroup g
      { x with budget := getF v 16 16, withhold := bitOf v 8, autowake := bitOf v 4, overBudget := x.overBudget && getF v 16 16 ≠ 0 }
  | .gstat g => s.setGroup g { s.group g with seqerr := (s.group g).seqerr && !bitOf v 15 }
  | .qreq => s.quiesceWrite v
  | .qack => s
  | .ret => s.retWrite v
  | .gate => s.gateWrite v
  | .rail => s.railWrite v
  | .island =>
    let s1 : State := { s with srallow := bitOf v 8 }
    if bitOf v 8 then s1.later .dramSelfRefreshEnter else s1
  | .wake => s.wakeWrite v (if s.cur = mcNode then 1 else 2)
  | .wakeSrc => s
  | .arm => s.armWrite v
  | .cctl n => match s.cascades[n]? with | some t => { s with cascades := s.cascades.setIfInBounds n (t.write v) } | none => s
  | .cval n => match s.cascades[n]? with | some t => { s with cascades := s.cascades.setIfInBounds n { t with value := v } } | none => s
  | .pcmd =>
    let s1 : State := { s with portage := { s.portage with cmd := keep v 40 2 ||| keep v 0 12 } }
    if bitOf v 63 then s.portageGo v
    else if bitOf v 62 && s.portage.phase = 1 then { s1 with portage := { s1.portage with abort := true } }.later .portageAbort
    else s1
  | .parg => { s with portage := { s.portage with arg := keep v 13 35 } }
  | .plist => { s with portage := { s.portage with list := keep v 4 60 } }
  | .pstat => s
  | .sctl => s.siltCtl v
  | .sopt => { s with silt := { s.silt with opt := keep v 9 39 ||| keep v 0 1 } }
  | .sstat => s
  | .sftime => s
  | .srind => if getF v 20 5 ≤ 21 then { s with silt := { s.silt with base := getF v 20 5 } } else s

/-- Checks of an 8-byte access to the window (R18): user mode traps PRIV, misalignment ALIGN, an undefined offset PAGEFAULT, a
monitor-only register PRIV; WAKE may also be written by Rill kernels (R446). -/
def devChecks (s : State) (ea : Word) (off : Nat) (isStore : Bool) : M DevReg := do
  check s.kern .priv ea
  check (off % 8 = 0) .align ea
  match devReg off with
  | none => trap .pagefault ea
  | some r => do
    check (s.priv = 2 || (r = .wake && isStore && isRill s.cur)) .priv ea
    .ok r

/-- A read of the window; WAKE_SRC is cleared by it (R5, R450). -/
def devLoad (s : State) (ea : Word) (off : Nat) : M (State × Word) := do
  let r ← devChecks s ea off false
  .ok (if r = .wakeSrc then { s with wakeSrc := 0 } else s, s.devVal r)

def devStore (s : State) (ea : Word) (off : Nat) (v : Word) : M State := do
  let r ← devChecks s ea off true
  .ok (s.devSet r v)

end Sys2Proof.Machine
end

