-- ==== Sys2Proof/Machine/Memory.lean ====
section
/-! DEFINITION. Loads, stores, LDC, STC, RLD, LDX, STX, DISC and the 16-bit memory forms (R278 to R288). -/

namespace Sys2Proof.Machine

/-! ## Needs (R278) -/

/-- The needs of a plain load of `n` bytes. -/
def loadNeed (b : GReg) (code : Nat) (ea : Word) (n : Nat) : Need := ⟨b, code, ea, n, pR, true, false, false, 0⟩

/-- The needs of a plain store of `n` bytes. -/
def storeNeed (b : GReg) (code : Nat) (ea : Word) (n : Nat) : Need := ⟨b, code, ea, n, pW, false, true, false, 0⟩

/-- A load; 8-byte loads also reach the device window (R281). -/
def loadAny (s : State) (a : Need) : M (State × Nat) :=
  match place a.ea.toNat with
  | .device off =>
    if a.n = 8 then do
      capChecks s.kern a
      let (t, v) ← devLoad s a.ea off
      .ok (t, v.toNat)
    else loadBytes s a false
  | _ => loadBytes s a false

/-- A store; 8-byte stores also reach the device window (R281). -/
def storeAny (s : State) (a : Need) (x : Nat) : M State :=
  match place a.ea.toNat with
  | .device off =>
    if a.n = 8 then do
      capChecks s.kern a
      devStore s a.ea off (w64 x)
    else storeBytes s a false x
  | _ => storeBytes s a false x

/-! ## Loads and stores (R282) -/

/-- A load of `n` bytes at gA plus an offset; `f` extends the loaded number. -/
def loadOp (s : State) (d a : BitVec 6) (imm : Word) (n len : Nat) (f : Nat → Word) : Out :=
  run s (op s [.g a] [.g d] len fun t vs => do
    let (t1, x) ← loadAny t (loadNeed (arg vs 0).g a.toNat (argW vs 0 + imm) n)
    .ok (t1, [.data (f x)]))

/-- A store of the low `n` bytes of gD at gA plus an offset. -/
def storeOp (s : State) (d a : BitVec 6) (imm : Word) (n len : Nat) : Out :=
  run s (op s [.g a, .g d] [] len fun t vs => do
    let t1 ← storeAny t (storeNeed (arg vs 0).g a.toNat (argW vs 0 + imm) n) ((argW vs 1).toNat % 2 ^ (8 * n))
    .ok (t1, []))

/-- sext of an n-bit number. -/
def sextN (n x : Nat) : Word := (BitVec.ofNat n x).signExtend 64

def execLdb (d a : BitVec 6) (imm : BitVec 12) (s : State) : Out := loadOp s d a (sext64 imm) 1 4 (sextN 8)
def execLdbu (d a : BitVec 6) (imm : BitVec 12) (s : State) : Out := loadOp s d a (sext64 imm) 1 4 w64
def execLdh (d a : BitVec 6) (imm : BitVec 12) (s : State) : Out := loadOp s d a (sext64 imm) 2 4 (sextN 16)
def execLdhu (d a : BitVec 6) (imm : BitVec 12) (s : State) : Out := loadOp s d a (sext64 imm) 2 4 w64
def execLdw (d a : BitVec 6) (imm : BitVec 12) (s : State) : Out := loadOp s d a (sext64 imm) 4 4 (sextN 32)
def execLdwu (d a : BitVec 6) (imm : BitVec 12) (s : State) : Out := loadOp s d a (sext64 imm) 4 4 w64
def execLdd (d a : BitVec 6) (imm : BitVec 12) (s : State) : Out := loadOp s d a (sext64 imm) 8 4 w64
def execStb (d a : BitVec 6) (imm : BitVec 12) (s : State) : Out := storeOp s d a (sext64 imm) 1 4
def execSth (d a : BitVec 6) (imm : BitVec 12) (s : State) : Out := storeOp s d a (sext64 imm) 2 4
def execStw (d a : BitVec 6) (imm : BitVec 12) (s : State) : Out := storeOp s d a (sext64 imm) 4 4
def execStd (d a : BitVec 6) (imm : BitVec 12) (s : State) : Out := storeOp s d a (sext64 imm) 8 4

/-! ## The 16-bit forms (R287) -/

def execCLdd (d i : BitVec 5) (s : State) : Out := loadOp s (d.setWidth 6) 2 (w64 (8 * i.toNat)) 8 2 w64
def execCStd (d i : BitVec 5) (s : State) : Out := storeOp s (d.setWidth 6) 2 (w64 (8 * i.toNat)) 8 2
def execCLdw (d i : BitVec 5) (s : State) : Out := loadOp s (d.setWidth 6) 2 (w64 (4 * i.toNat)) 4 2 (sextN 32)
def execCStw (d i : BitVec 5) (s : State) : Out := storeOp s (d.setWidth 6) 2 (w64 (4 * i.toNat)) 4 2

/-! ## LDX, STX (R285) -/

/-- gA + (gB << log2 s), the shift wrapping. -/
def indexEa (a b : Word) (q : BitVec 2) : Word := a + (b <<< q.toNat)

def execLdx (d a b : BitVec 6) (q : BitVec 2) (s : State) : Out :=
  run s (op s [.g a, .g b] [.g d] 4 fun t vs => do
    let (t1, x) ← loadAny t (loadNeed (arg vs 0).g a.toNat (indexEa (argW vs 0) (argW vs 1) q) (2 ^ q.toNat))
    .ok (t1, [.data (w64 x)]))

def execStx (d a b : BitVec 6) (q : BitVec 2) (s : State) : Out :=
  run s (op s [.g a, .g b, .g d] [] 4 fun t vs => do
    let t1 ← storeAny t (storeNeed (arg vs 0).g a.toNat (indexEa (argW vs 0) (argW vs 1) q) (2 ^ q.toNat))
      ((argW vs 2).toNat % 2 ^ (8 * 2 ^ q.toNat))
    .ok (t1, []))

/-! ## RLD (R286) -/

def execRld (d a : BitVec 6) (imm : BitVec 12) (s : State) : Out :=
  run s (op s [.g a] [.g d] 4 fun t vs => do
    let (t1, x) ← loadBytes t { loadNeed (arg vs 0).g a.toNat (argW vs 0 + sext64 imm) 8 with align := 8 } true
    .ok (t1, [.data (w64 x)]))

/-! ## LDC, STC (R283, R284) -/

/-- Whether an LDC through this base returns CAP pairs as CAP: LC, or a DATA base of kernel or monitor code. -/
def mayLoadCap (b : GReg) : Bool := b.tag ≠ .cap || hasPerm b.sh pLC

/-- A pair as LDC returns it. -/
def pairReg (v sh : Word) (cap : Bool) : GReg := ⟨v, sh, if cap then .cap else .data⟩

/-- Both words of a local pair. -/
def loadPair (s : State) (n : Nat) (l : Loc) (may : Bool) : State × GReg :=
  let (s1, v, t) := s.loadWord n l
  let (s2, sh, _) := s1.loadWord n (l.plus 8)
  (s2, pairReg v sh (may && t = tagCap))

/-- LDC's access. -/
def loadCap (s : State) (a : Need) : M (State × GReg) := do
  preChecks s.kern a
  let (s1, w) ← locate s a
  match w with
  | .here l => do
    let s2 ← loadCheck s1.cur s1 l
    match l with
    | (_, k) :: _ => .ok (loadPair s2 s2.cur k (mayLoadCap a.base))
    | [] => .ok (s2, GReg.zero)
  | .remote r off =>
    if s1.stays then do
      let (s2, q) ← remoteAccess s1 a r 0 ⟨off, 16, .ldc, 0, 0, mayLoadCap a.base⟩
      match q with
      | .ok v sh c => .ok (s2, pairReg v sh c)
      | .poison o => trap .poison (w64 (windowVa r o))
      | .syncstore o => trap .syncstore (w64 (windowVa r o))
      | _ => trap .migfault a.ea
    else migrateFor s1 a r
  | .device _ => deviceTrap s1 a.ea

def execLdc (d a : BitVec 6) (imm : BitVec 12) (s : State) : Out :=
  run s (op s [.g a] [.g d] 4 fun t vs => do
    let (t1, r) ← loadCap t { loadNeed (arg vs 0).g a.toNat (argW vs 0 + sext64 imm) 16 with align := 16 }
    .ok (t1, [.ofG r]))

/-- STC's access: both words take the register's value, shadow and tag. -/
def storeCap (s : State) (a : Need) (x : GReg) : M State := do
  preChecks s.kern a
  let (s1, w) ← locate s a
  let t := if x.tag = .cap then tagCap else tagData
  match w with
  | .here l => do
    let s2 ← storeCheck s1.cur s1 l
    match l with
    | (_, k) :: _ => .ok ((s2.storeWord s2.cur k x.val t).storeWord s2.cur (k.plus 8) x.sh t)
    | [] => .ok s2
  | .remote r off =>
    if s1.stays then do
      let (s2, q) ← remoteAccess s1 a r 0 ⟨off, 16, .stc, x.val, x.sh, x.tag = .cap⟩
      match q with
      | .ok _ _ _ => .ok s2
      | .poison o => trap .poison (w64 (windowVa r o))
      | .syncstore o => trap .syncstore (w64 (windowVa r o))
      | _ => trap .migfault a.ea
    else migrateFor s1 a r
  | .device _ => deviceTrap s1 a.ea

/-- STC's needs (R33, R278): SC and CS only for a CAP register. -/
def stcNeed (b : GReg) (code : Nat) (ea : Word) (x : GReg) : Need :=
  { storeNeed b code ea 16 with perms := if x.tag = .cap then pW ||| pSC else pW, cs := x.tag = .cap, align := 16 }

def execStc (d a : BitVec 6) (imm : BitVec 12) (s : State) : Out :=
  run s (op s [.g a, .g d] [] 4 fun t vs => do
    let t1 ← storeCap t (stcNeed (arg vs 0).g a.toNat (argW vs 0 + sext64 imm) (arg vs 1).g) (arg vs 1).g
    .ok (t1, []))

/-! ## DISC (R288) -/

/-- The part of [va, va + n) up to the end of va's 4 KiB page. -/
def pagePart (va n : Nat) : Nat := min n (4096 - va % 4096)

/-- Layout, translation and W for the pages of a range, ascending; the private parts with their places. -/
def discPages (kern : Bool) : State → Nat → Nat → Nat → M (State × List (Nat × Nat × Loc))
  | s, _, _, 0 => .ok (s, [])
  | s, va, n, fuel + 1 =>
    if n = 0 then .ok (s, [])
    else do
      let k := pagePart va n
      match place va with
      | .priv =>
        match s.translate s.cur s.here.ctxid va with
        | .error c => trap c (w64 va)
        | .ok (s1, t) => do
          check (t.w && (kern || !t.ko)) .pageperm (w64 va)
          let (s2, r) ← discPages kern s1 (va + k) (n - k) fuel
          .ok (s2, (va, k, t.loc va) :: r)
      | .device _ => trap (if kern then .align else .priv) (w64 va)
      | .nowhere => trap .pagefault (w64 va)
      | _ => discPages kern s (va + k) (n - k) fuel

/-- The 8-byte words wholly inside a part of a page. -/
def discPart (s : State) (n : Nat) (va k : Nat) (l : Loc) : State :=
  let skip := (8 - va % 8) % 8
  (List.range ((k - skip) / 8)).foldl (fun t i => t.discWord n (l.plus (skip + 8 * i))) s

def discParts (s : State) (n : Nat) : List (Nat × Nat × Loc) → State
  | [] => s
  | (va, k, l) :: r => discParts (discPart s n va k l) n r

def execDisc (a b : BitVec 6) (s : State) : Out :=
  run s (op s [.g a, .g b] [] 4 fun t vs => do
    let va := argW vs 0
    let n := (argW vs 1).toNat
    if n = 0 then .ok (t.record t.cur 1 0x30 va, [])
    else do
      capChecks t.kern (storeNeed (arg vs 0).g a.toNat va n)
      check (va.toNat < 2 ^ 48) .pagefault va
      let (t1, ps) ← discPages t.kern t va.toNat n (n / 4096 + 2)
      .ok ((discParts t1 t1.cur ps).record t1.cur 1 0x30 va, []))

end Sys2Proof.Machine
end

