-- ==== Sys2Proof/Machine/Sync.lean ====
section
/-! DEFINITION. Atomics, reductions, reservations, curd-log records, fences, waits and barriers (R289 to R297). A word in
another rank's LM is updated by a remote operation: an event at that LM, then its response (R111). -/

namespace Sys2Proof.Machine

/-! ## Operations at a home -/

/-- What an operation at a home gives: results, or the thread waits there. -/
inductive HomeRes
  | done (t : State) (a b : Word)
  | waits (t : State)

/-- The virtual address of a home address near the operand at `ea`, whose home address is `key`. -/
def homeEval (ea : Word) (key k : Nat) : Word := w64 (ea.toNat + k - key)

/-- The same for another rank's LM: the word at the LM offset of `k`. -/
def remoteEval (ea : Word) (k : Nat) : Word := w64 (ea.toNat / 2 ^ 17 * 2 ^ 17 + k % 2 ^ 17)

/-- An operation's refusal at a home as the issuer's trap. -/
def atHome {α : Type} (ea : Word) (l : Loc) (r : HomeM α) : M α :=
  match r with
  | .ok x => .ok x
  | .error (c, k) => trap c (homeEval ea l.key k)

/-- An operation at the home of the word at `a.ea` (R152, R281): its checks, `gate` after them, then the operation, here or,
for another rank's LM, as the event `ev` gives for its home address and that rank (in an event at an LM the operand
`kslot` is the rank). A thread whose operation is out waits for its response; `baw` is what a resumed BAW keeps (R173). -/
def homeOp (s : State) (a : Need) (gate : M Unit) (here : State → Loc → M HomeRes) (ev : Nat → BitVec 12 → Event)
    (baw : Option (Nat × Word) := none) : M (State × Word × Word) :=
  match s.me.wait with
  | .done x y =>
    match s.me.rsp with
    | .ok v st _ :: _ => .ok (s, v, st)
    | .refused c k :: _ => trap c (remoteEval a.ea k)
    | .failed c v :: _ => trap c v
    | _ => .ok (s, x, y)
  | .none => do
    preChecks s.kern a
    let (s1, w) ← locate s a
    match w with
    | .here ((_, l) :: _) => do
      gate
      let r ← here s1 l
      match r with
      | .done t x y => .ok (t, x, y)
      | .waits t => .error (.wait t)
    | .here [] => .ok (s1, 0, 0)
    | .remote r off => do
      let (s2, st) ← windowCheck s1 a r
      gate
      match st with
      | .valid k => .error (.wait ((s2.setMe { s2.me with wait := .home baw k }).later (ev (lmKey k off) (BitVec.ofNat 12 r))))
      | _ => .error (.wait s2)
    | .device _ => deviceTrap s1 a.ea
  | _ => .error (.wait s)

def node12 (s : State) : BitVec 12 := BitVec.ofNat 12 s.cur
def berth2 (s : State) : BitVec 2 := BitVec.ofNat 2 s.cb
def ctx12 (s : State) : BitVec 12 := BitVec.ofNat 12 s.here.ctxid

/-! ## Atomics (R289) -/

def amoNeed (b : GReg) (code : Nat) (ea : Word) (n : Nat) : Need := ⟨b, code, ea, n, pR ||| pW, true, true, false, n⟩

/-- An AMO: `o` is its FN, `w` the 4-byte form, `q` its order; only ACAS reads D. -/
def amoOp (s : State) (d a b : BitVec 6) (q : BitVec 2) (o : Nat) (w : Bool) : Out :=
  run s (op s (if o = 9 then [.g a, .g b, .g d] else [.g a, .g b]) [.g d] 4 fun t vs => do
    let ea := argW vs 0
    let v := argW vs 1
    let e := argW vs 2
    let (t1, x, _) ← homeOp t (amoNeed (arg vs 0).g a.toNat ea (if w then 4 else 8)) (if q.getLsbD 1 then released t scDevice else .ok ())
      (fun u l => do
        let (u1, old) ← atHome ea l (u.amo u.cur l o w v e)
        .ok (.done u1 old 0))
      (fun key rk => .homeAmo (node12 t) (berth2 t) (ctx12 t) rk (w64 key) (BitVec.ofNat 4 o) (BitVec.ofNat 1 (b2n w)) v e)
    .ok (if q.getLsbD 0 then t1.acquireHere else t1, [.data x]))

def execAadd (d a b : BitVec 6) (q : BitVec 2) (s : State) : Out := amoOp s d a b q 0 false
def execAand (d a b : BitVec 6) (q : BitVec 2) (s : State) : Out := amoOp s d a b q 1 false
def execAor (d a b : BitVec 6) (q : BitVec 2) (s : State) : Out := amoOp s d a b q 2 false
def execAxor (d a b : BitVec 6) (q : BitVec 2) (s : State) : Out := amoOp s d a b q 3 false
def execAmin (d a b : BitVec 6) (q : BitVec 2) (s : State) : Out := amoOp s d a b q 4 false
def execAmax (d a b : BitVec 6) (q : BitVec 2) (s : State) : Out := amoOp s d a b q 5 false
def execAminu (d a b : BitVec 6) (q : BitVec 2) (s : State) : Out := amoOp s d a b q 6 false
def execAmaxu (d a b : BitVec 6) (q : BitVec 2) (s : State) : Out := amoOp s d a b q 7 false
def execAswap (d a b : BitVec 6) (q : BitVec 2) (s : State) : Out := amoOp s d a b q 8 false
def execAcas (d a b : BitVec 6) (q : BitVec 2) (s : State) : Out := amoOp s d a b q 9 false
def execAaddW (d a b : BitVec 6) (q : BitVec 2) (s : State) : Out := amoOp s d a b q 0 true
def execAandW (d a b : BitVec 6) (q : BitVec 2) (s : State) : Out := amoOp s d a b q 1 true
def execAorW (d a b : BitVec 6) (q : BitVec 2) (s : State) : Out := amoOp s d a b q 2 true
def execAxorW (d a b : BitVec 6) (q : BitVec 2) (s : State) : Out := amoOp s d a b q 3 true
def execAminW (d a b : BitVec 6) (q : BitVec 2) (s : State) : Out := amoOp s d a b q 4 true
def execAmaxW (d a b : BitVec 6) (q : BitVec 2) (s : State) : Out := amoOp s d a b q 5 true
def execAminuW (d a b : BitVec 6) (q : BitVec 2) (s : State) : Out := amoOp s d a b q 6 true
def execAmaxuW (d a b : BitVec 6) (q : BitVec 2) (s : State) : Out := amoOp s d a b q 7 true
def execAswapW (d a b : BitVec 6) (q : BitVec 2) (s : State) : Out := amoOp s d a b q 8 true
def execAcasW (d a b : BitVec 6) (q : BitVec 2) (s : State) : Out := amoOp s d a b q 9 true

/-! ## Reductions (R290, R161) -/

def redNeed (b : GReg) (code : Nat) (ea : Word) (n : Nat) : Need := ⟨b, code, ea, n, pW, false, true, false, n⟩

/-- A RED: FN 8 is RFADD, which repeatable mode refuses after the access checks. -/
def redOp (s : State) (a b : BitVec 6) (o : Nat) (w : Bool) : Out :=
  run s (op s [.g a, .g b] [] 4 fun t vs => do
    let ea := argW vs 0
    let v := argW vs 1
    let (t1, _, _) ← homeOp t (redNeed (arg vs 0).g a.toNat ea (if w then 4 else 8))
      (check (!(o = 8 && t.repApplied)) .nondet ea)
      (fun u l => do
        let u1 ← atHome ea l (u.red u.cur l o w v)
        .ok (.done u1 0 0))
      (fun key rk => .homeRed (node12 t) (berth2 t) (ctx12 t) rk (w64 key) (BitVec.ofNat 4 o) (BitVec.ofNat 1 (b2n w)) v)
    .ok (t1, []))

def execRadd (a b : BitVec 6) (w : BitVec 1) (s : State) : Out := redOp s a b 0 (w = 1)
def execRand (a b : BitVec 6) (w : BitVec 1) (s : State) : Out := redOp s a b 1 (w = 1)
def execRor (a b : BitVec 6) (w : BitVec 1) (s : State) : Out := redOp s a b 2 (w = 1)
def execRxor (a b : BitVec 6) (w : BitVec 1) (s : State) : Out := redOp s a b 3 (w = 1)
def execRmin (a b : BitVec 6) (w : BitVec 1) (s : State) : Out := redOp s a b 4 (w = 1)
def execRmax (a b : BitVec 6) (w : BitVec 1) (s : State) : Out := redOp s a b 5 (w = 1)
def execRminu (a b : BitVec 6) (w : BitVec 1) (s : State) : Out := redOp s a b 6 (w = 1)
def execRmaxu (a b : BitVec 6) (w : BitVec 1) (s : State) : Out := redOp s a b 7 (w = 1)
def execRfadd (a b : BitVec 6) (s : State) : Out := redOp s a b 8 true

/-! ## Reservations (R291) -/

def granNeed (b : GReg) (code : Nat) (ea : Word) : Need := ⟨b, code, ea, 16, pR ||| pW ||| pY, true, true, false, 16⟩

/-- The size that the native core records for a reservation's address (R156): of the leaf or run, 0 outside private memory. -/
def State.recordSize (s : State) (va : Nat) : Nat :=
  match place va with
  | .priv =>
    match s.translate s.cur s.here.ctxid va with
    | .ok (_, t) => t.size
    | .error _ => 0
  | _ => 0

/-- LRW of the executing thread at the home (R154). -/
def lrwHere (t u : State) (l : Loc) (ea : Word) : M HomeRes := do
  let (u1, r) ← atHome ea l
    (u.lrw u.cur l t.ident.1 t.ident.2 t.cur t.cb t.here.ctxid ea.toNat (u.recordSize ea.toNat))
  match r with
  | some (v, st) => .ok (.done u1 v st)
  | none => .ok (.waits (u1.setMe { u1.me with wait := .lrw l.key }))

def execLrw (d a b : BitVec 6) (s : State) : Out :=
  run s (op s [.g a] [.g d, .g b] 4 fun t vs => do
    let ea := argW vs 0
    let (t1, v, st) ← homeOp t (granNeed (arg vs 0).g a.toNat ea) (.ok ()) (fun u l => lrwHere t u l ea)
      (fun key rk => .homeLrw (node12 t) (berth2 t) (ctx12 t) rk (w64 key) ea)
    .ok (t1.acquireHere, [.data v, .data st]))

/-- SCH and RELQ of the executing thread; they release (R131). -/
def schOp (t : State) (base : GReg) (a : BitVec 6) (store : Bool) (v : Word) : M (State × List Val) := do
  let (t1, st, _) ← homeOp t (granNeed base a.toNat base.val) (released t scDevice)
    (fun u l => do
      let (u1, st) ← atHome base.val l (u.sch u.cur l t.ident.1 t.ident.2 store v)
      .ok (.done u1 st 0))
    (fun key rk => .homeSch (node12 t) (berth2 t) (ctx12 t) rk (w64 key) (BitVec.ofNat 1 (b2n store)) v)
  .ok (t1, [.data st])

def execSch (d a b : BitVec 6) (s : State) : Out :=
  run s (op s [.g a, .g b] [.g d] 4 fun t vs => schOp t (arg vs 0).g a true (argW vs 1))

def execRelq (d a : BitVec 6) (s : State) : Out :=
  run s (op s [.g a] [.g d] 4 fun t vs => schOp t (arg vs 0).g a false 0)

/-! ## Control blocks (R145) -/

/-- The words of a control block: its bytes as one number, and which of the granules at the given offsets are CAP pairs. The
thread never moves for it. `i0` counts the remote accesses that the instruction has made before it. -/
def loadBlock (s : State) (a : Need) (caps : List Nat) (i0 : Nat := 0) : M (State × Nat × List Bool) := do
  capChecks s.kern a
  let (s1, w) ← locate s a
  match w with
  | .here l => do
    let s2 ← loadCheck s1.cur s1 l
    let (s3, x) := loadPieces s2.cur s2 l
    .ok (s3, x, caps.map fun o =>
      match l.find? fun p => p.1.va = a.ea.toNat + o && p.1.va % 16 = 0 with
      | some p => (s3.loadWord s3.cur p.2).2.2 = tagCap
      | none => false)
  | .remote r off => do
    let ps := pieces a.ea.toNat a.n a.n
    let (s2, x) ← remoteLoad s1 a r ps i0
    if a.ea.toNat % 16 ≠ 0 then .ok (s2, x, caps.map fun _ => false)
    else do
      let (s3, bs) ← caps.zipIdx.foldlM (fun (u : State × List Bool) p => do
        let (u1, q) ← remoteAccess u.1 a r (i0 + ps.length + p.2) ⟨off + p.1, 16, .ldc, 0, 0, true⟩
        match q with
        | .ok _ _ c => .ok (u1, u.2 ++ [c])
        | _ => .ok (u1, u.2 ++ [false])) (s2, [])
      .ok (s3, x, bs)
  | .device _ => deviceTrap s1 a.ea

/-- A field of a control block: `n` bytes at `off`. -/
def blockF (x off n : Nat) : Nat := x / 2 ^ (8 * off) % 2 ^ (8 * n)

/-! ## Curd logs (R162, R163, R292) -/

/-- A log descriptor after its checks: the region's address and SEGREC. -/
structure LogDesc where
  a : Nat
  segrec : Nat
  deriving DecidableEq, Repr

/-- Reads and checks a log descriptor and its region (R162, R163); a region in the alias is the executing rank's window. -/
def logDesc (s : State) (base : GReg) (code : Nat) : M (State × LogDesc) := do
  let da := base.val
  let (s1, x, cs) ← loadBlock s (loadNeed base code da 32) [0]
  let v := w64 (blockF x 0 8)
  let sh := w64 (blockF x 8 8)
  let segrec := blockF x 16 4
  check (cs == [true]) .captag da
  check (1 ≤ segrec && segrec ≤ 2 ^ 24 && blockF x 20 12 = 0) .copyform da
  check (capWell sh) .captag da
  check (hasPerm sh (pR ||| pW)) .capperm da
  check (v.toNat % 64 = 0) .align v
  check (capBase v sh ≤ v.toNat && ((v.toNat + 65 * segSize segrec : Nat) : Int) ≤ capTop v sh) .capbounds v
  .ok (s1, ⟨match place v.toNat with | .alias_ o => windowVa s.here.rank o | _ => v.toNat, segrec⟩)

/-- A target as a record names it (R164). -/
def State.logVa (s : State) (ea : Word) : Nat :=
  match place ea.toNat with
  | .alias_ o => windowVa s.here.rank o
  | _ => ea.toNat

/-- STATUS with LSEQ one higher (R165). -/
def Berth.bumpLseq (b : Berth) : Berth := { b with status := setF b.status 32 16 (b.lseq + 1) }

/-- LOGA's record goes to its log: a failure in the region names its address there (R165). -/
def logaHere (u : State) (l : Loc) (ea : Word) (g : LogDesc) (r : LogRec) : M HomeRes := do
  let u1 ← atHome ea l (u.logaTarget u.cur l)
  match u1.appendLog u1.cur u1.here.ctxid u1.kern g.a g.segrec (logSeg l) r with
  | .ok u2 => .ok (.done u2 0 0)
  | .error (.bad c, va) => trap c (w64 va)
  | .error (.wait m, _) => .ok (.waits (u.repeatLater u.here.ctxid m))

def execLoga (d a b : BitVec 6) (s : State) : Out :=
  run s (op s [.g a, .g b, .g d] [] 4 fun t vs => do
    let ea := argW vs 0
    let x := argW vs 1
    let (t1, g) ← if t.me.wait = .none then logDesc t (arg vs 2).g d.toNat else .ok (t, ⟨0, 0⟩)
    let o := getF x 32 2
    let r : LogRec := ⟨o, t.logVa ea, getF x 0 32, t.nativeRank, t.me.lseq⟩
    let (t2, _, _) ← homeOp t1 (redNeed (arg vs 0).g a.toNat ea 4) (check (o ≠ 3) .copyform x)
      (fun u l => logaHere u l ea g r)
      (fun key _ => .homeLoga (node12 t) (berth2 t) (ctx12 t) (BitVec.ofNat 1 (b2n t.kern)) (w64 g.a)
        (BitVec.ofNat 32 g.segrec) (w64 key) (w64 r.va) (BitVec.ofNat 2 o) (BitVec.ofNat 32 (getF x 0 32)) (BitVec.ofNat 10 r.rank)
        (BitVec.ofNat 16 r.seq))
    .ok (t2.setMe t2.me.bumpLseq, []))

/-! ## FENCE (R294) -/

/-- The thread's TLBIs that have not completed (R48). -/
def State.tlbiOpen (s : State) : Bool := s.tlbis.any fun r => r.node = s.cur && r.berth = s.cb

/-- A FENCE of scope `sc`; `rel` for the kinds that release, `acq` for those that acquire (R129). -/
def fenceOp (s : State) (sc : BitVec 3) (rel acq : Bool) : Out :=
  run s (if (rel && s.sendsOpen sc.toNat) || (6 ≤ sc.toNat && s.tlbiOpen) then .error (.wait s)
    else .ok ((if acq && 2 ≤ sc.toNat then s.acquireHere else s).retire 4))

def execFenceAcq (sc : BitVec 3) (s : State) : Out := fenceOp s sc false true
def execFenceRel (sc : BitVec 3) (s : State) : Out := fenceOp s sc true false
def execFenceAr (sc : BitVec 3) (s : State) : Out := fenceOp s sc true true
def execFenceSc (sc : BitVec 3) (s : State) : Out := fenceOp s sc true true

/-! ## Waits (R174, R295) -/

def waitNeed (b : GReg) (code : Nat) (ea : Word) : Need := ⟨b, code, ea, 4, pR, true, false, false, 4⟩

/-- The load at issue: it passes, or the thread registers with the word's home. -/
def waitHere (u : State) (l : Loc) (ea : Word) (ne : Bool) (b : BitVec 32) : M HomeRes :=
  let (u1, x, t) := u.loadWord u.cur l
  if t = tagPoison then trap .poison (w64 (ea.toNat / 8 * 8))
  else if waitPasses ne (half x l.key) b then .ok (.done u1 0 0)
  else .ok (.waits (u1.registerWait u1.cur u1.cb ea.toNat l ne b))

def waitOp (s : State) (a b : BitVec 6) (ne : Bool) : Out :=
  run s (op s [.g a, .g b] [] 4 fun t vs => do
    let ea := argW vs 0
    let c := (argW vs 1).setWidth 32
    let (t1, x, _) ← homeOp t (waitNeed (arg vs 0).g a.toNat ea) (.ok ()) (fun u l => waitHere u l ea ne c)
      (fun key rk => .homeWaitRegister (node12 t) (berth2 t) (ctx12 t) rk (w64 key) (BitVec.ofNat 1 (b2n ne)) c)
    check (x ≠ 1) .poison (w64 (ea.toNat / 8 * 8))
    .ok (t1.acquireHere, []))

def execWaitge (a b : BitVec 6) (s : State) : Out := waitOp s a b false
def execWaitne (a b : BitVec 6) (s : State) : Out := waitOp s a b true

/-! ## Barriers (R296) -/

def bqryNeed (b : GReg) (code : Nat) (ea : Word) : Need := ⟨b, code, ea, 16, pR, true, false, false, 16⟩

/-- A barrier operation of the executing thread at the home; a BAW that waits keeps its destination for a stop, and one that was
stopped has resumed (R173). -/
def barHere (u : State) (l : Loc) (ea : Word) (o : Nat) (v : Word) (baw : Option Nat) : M HomeRes := do
  let (u1, r) ← atHome ea l (u.barrier u.cur u.cb ea.toNat l o v)
  match r with
  | .val x => .ok (.done u1 x 0)
  | .waits p =>
    let b := if baw.isSome then u1.me.setWarr false else u1.me
    .ok (.waits (u1.setMe { b with wait := .barrier l.key (baw.map fun d => (d, p)) }))

/-- Whether a barrier instruction releases (R131): BINIT, BARR, BKILL, BAW at its arrival. -/
def barReleases (o : Nat) : Bool := o = 0 || o = 1 || o = 3 || o = 5

/-- A barrier instruction: FN `o`, operand `v`. -/
def barOp (t : State) (base : GReg) (a : BitVec 6) (o : Nat) (v : Word) (gate : M Unit) (baw : Option Nat) :
    M (State × Word) := do
  let need := if o = 6 then bqryNeed base a.toNat base.val else granNeed base a.toNat base.val
  let (t1, x, _) ← homeOp t need (do gate; if barReleases o then released t scDevice else .ok ()) (fun u l => barHere u l base.val o v baw)
    (fun key rk => .homeBarrier (node12 t) (berth2 t) (ctx12 t) rk (w64 key) (BitVec.ofNat 3 o) v)
    (if o = 2 then baw.map fun d => (d, v) else none)
  .ok (t1, x)

def execBinit (a b : BitVec 6) (s : State) : Out :=
  run s (op s [.g a, .g b] [] 4 fun t vs => do
    let n := (argW vs 1).toNat
    let (t1, _) ← barOp t (arg vs 0).g a 0 (argW vs 1) (check (1 ≤ n && n < 2 ^ 32) .barstate (argW vs 0)) none
    .ok (t1, []))

def execBarr (d a : BitVec 6) (s : State) : Out :=
  run s (op s [.g a] [.g d] 4 fun t vs => do
    let (t1, x) ← barOp t (arg vs 0).g a 1 0 (.ok ()) none
    .ok (t1, [.data x]))

def execBwait (d a b : BitVec 6) (s : State) : Out :=
  run s (op s [.g a, .g b] [.g d] 4 fun t vs => do
    let (t1, x) ← barOp t (arg vs 0).g a 2 (argW vs 1) (.ok ()) none
    .ok (t1.acquireHere, [.data x]))

/-- BAW; resumed with WARR set, it waits for the phase it has stored, as BWAIT, and clears WARR (R173). -/
def execBaw (d a : BitVec 6) (s : State) : Out :=
  run s (op s [.g a] [.g d] 4 fun t vs => do
    let again := t.me.warr
    let (t1, x) ← barOp t (arg vs 0).g a (if again then 2 else 3) (if again then t.me.g[d.toNat].val else w64 d.toNat)
      (.ok ()) (some d.toNat)
    .ok ((t1.setMe (t1.me.setWarr false)).acquireHere, [.data x]))

def execBexp (a b : BitVec 6) (s : State) : Out :=
  run s (op s [.g a, .g b] [] 4 fun t vs => do
    let (t1, _) ← barOp t (arg vs 0).g a 4 (argW vs 1) (.ok ()) none
    .ok (t1, []))

def execBkill (a : BitVec 6) (s : State) : Out :=
  run s (op s [.g a] [] 4 fun t vs => do
    let (t1, _) ← barOp t (arg vs 0).g a 5 0 (.ok ()) none
    .ok (t1, []))

def execBqry (d a : BitVec 6) (s : State) : Out :=
  run s (op s [.g a] [.g d] 4 fun t vs => do
    let (t1, x) ← barOp t (arg vs 0).g a 6 0 (.ok ()) none
    .ok (t1, [.data x]))

end Sys2Proof.Machine
end

