-- ==== Sys2Proof/Machine/Copy.lean ====
section
/-! DEFINITION. The copy engine: requests (R299 to R301), the transfer (R302 to R308), completion and notices (R306, R309),
confidential copies (R472), curd-log merges (R166, R167, R293), and the tag instructions (R310, R311). -/

namespace Sys2Proof.Machine

/-! ## Completion codes (R306) -/

def codeOk : Nat := 1
def codePartial : Nat := 2
def codeOverflow : Nat := 3
def codeRefused : Nat := 4
def codeReplay : Nat := 5
def codeTagfail : Nat := 6

/-- Whether the tag is in the range of the berth that issues (R180). -/
def tagInRange (berth tag : Nat) : Bool := if berth = 0 then 48 ≤ tag else tag < 48

/-! ## TAGS (R310, R311) -/

/-- Sets a bit of TAGS; the order in which bits were set is kept. -/
def Core.setTag (c : Core) (i : Nat) : Core :=
  if bitOf c.tags i then c else { c with tags := setF c.tags i 1 1, tagOrder := c.tagOrder ++ [i] }

def Core.clearTag (c : Core) (i : Nat) : Core :=
  { c with tags := setF c.tags i 1 0, tagOrder := c.tagOrder.filter (· ≠ i) }

/-- Clears the bits of a mask. -/
def Core.clearTags (c : Core) (m : Word) : Core :=
  { c with tags := c.tags &&& ~~~m, tagOrder := c.tagOrder.filter fun i => !bitOf m i }

/-- The status word of a tag. -/
def Core.tagStatus (c : Core) (i : Nat) : Word := if h : i < 64 then c.copyStatus[i] else 0

def Core.setTagStatus (c : Core) (i : Nat) (w : Word) : Core :=
  if h : i < 64 then { c with copyStatus := c.copyStatus.set i w } else c

/-! ## Requests (R300) -/

/-- The lowest address of [a, a + n) outside the layout, or in the device window (R14, R15, R300 step 4). -/
def layoutFail (a n : Nat) : Option Nat :=
  match place a with
  | .priv => if a + n ≤ 2 ^ 47 then none else some (2 ^ 47)
  | .window _ off => if off + n ≤ lmSize then none else some (a - off + lmSize)
  | .alias_ off => if off + n ≤ lmSize then none else some (aliasBase + lmSize)
  | _ => some a

/-- Whether any part of [a, a + n) lies in another rank's window. -/
def meetsOther (rank a n : Nat) : Bool :=
  let lo := max a windowBase
  let hi := min (a + n) (windowBase + 2 ^ 27)
  lo < hi && !(windowVa rank 0 ≤ lo && hi ≤ windowVa rank 0 + 2 ^ 17)

/-- Whether any part of [a, a + n) lies in the LM windows. -/
def meetsWindow (a n : Nat) : Bool := decide (max a windowBase < min (a + n) (windowBase + 2 ^ 27))

/-- A range's needs for a copy. -/
def copyNeed (b : GReg) (code : Nat) (ea n perms : Nat) : Need := ⟨b, code, w64 ea, n, perms, false, false, false, 0⟩

/-- The parts of a copy: offset in the source, destination address, bytes. The destination word in which one block of a deal ends
and the rank's next one begins is one store (R302), made with the first: `more` is what the next one adds to it, as source offset
and bytes, and `skip` what the next one then leaves out. -/
structure Seg where
  off : Nat
  dst : Nat
  len : Nat
  skip : Nat := 0
  more : Option (Nat × Nat) := none
  deriving DecidableEq, Repr

/-- The blocks of a deal (R307) from block `i` on. -/
def dealSegs (aux : Word) (o len i : Nat) : Nat → List Seg
  | 0 => []
  | fuel + 1 =>
    let blk := getF aux 0 20
    let c := getF aux 40 10 + 1
    if len ≤ i * blk then []
    else
      let d := o + blk * (i / c)
      let n := min blk (len - i * blk)
      let next := (i + c) * blk
      { off := i * blk, dst := windowVa (getF aux 20 10 + getF aux 30 10 * (i % c)) d, len := n
        skip := if i < c then 0 else min n ((8 - d % 8) % 8)
        more := if (d + n) % 8 = 0 || len ≤ next then none else some (next, min (8 - (d + n) % 8) (len - next)) } ::
        dealSegs aux o len (i + 1) fuel

/-- The deal pattern's fields and blocks are in range (R307). A rank that no block of this LEN reaches passes nothing (log 110). -/
def dealOk (aux : Word) (dst len : Nat) : Bool :=
  let blk := getF aux 0 20
  let c := getF aux 40 10 + 1
  let n := (len + blk - 1) / blk
  let o := (dst - windowBase) % 2 ^ 17
  getF aux 50 14 = 0 && getF aux 30 10 ≠ 0 && blk ≠ 0 && blk % 8 = 0 && blk ≤ lmSize &&
    windowBase ≤ dst && dst < windowBase + 2 ^ 27 &&
    getF aux 20 10 + getF aux 30 10 * (min n c - 1) < 1024 &&
    (List.range (min n c)).all fun j =>
      let last := (n - 1 - j) / c * c + j
      o + blk * (last / c) + min blk (len - last * blk) ≤ lmSize

/-- The parts of a request that moves `len` bytes. -/
def segsOf (deal : Bool) (aux : Word) (dst len : Nat) : List Seg :=
  if deal then dealSegs aux ((dst - windowBase) % 2 ^ 17) len 0 (len / 8 + 1) else [{ off := 0, dst := dst, len := len }]

/-- The parts as they are moved: the blocks of a deal to one rank lie side by side in source and destination, and are one. -/
def movesOf (deal : Bool) (aux : Word) (dst len : Nat) : List Seg :=
  if deal && getF aux 40 10 = 0 then
    [{ off := 0, dst := windowVa (getF aux 20 10) ((dst - windowBase) % 2 ^ 17), len := len }]
  else segsOf deal aux dst len

/-- The checks of destination ranges against DST, with M for a window range (R300 step 3). -/
def dstChecks (s : State) (b : GReg) (code : Nat) : List Seg → M Unit
  | [] => .ok ()
  | g :: gs => do
    capChecks s.kern (copyNeed b code g.dst g.len (pW ||| (if meetsWindow g.dst g.len then pM else 0)))
    dstChecks s b code gs

/-- What a barrier's place is kept under beside its address: the key slot; in an LM the rank that named it, none for the alias. -/
def barKey (va : Nat) (l : Loc) : Nat :=
  match place va with
  | .window r _ => r
  | .alias_ _ => 1024
  | _ => l.slot

/-- The barrier that a copy names, as its entry keeps it (R300 step 5, R152). In another rank's LM it is reached as an operation there
is: it waits while the rank is in transit or absent (R108, R192). -/
def barrierPlace (s : State) (aux : GReg) (code : Nat) : M (State × Nat × Nat × Nat) := do
  let a := granNeed aux code aux.val
  preChecks s.kern a
  let (s1, w) ← locate s a
  let (s2, l) ← match w with
    | .here ((_, l) :: _) => .ok (s1, l)
    | .remote r off => do
      let (s2, _) ← windowCheck s1 a r
      let c := s2.here.ctxid
      let (s3, p) := s2.lmPlace s2.cur c r off
      match p with
      | .at_ l => .ok (s3, l)
      | .foreign k => .error (.wait (s3.repeatLater c (.absent k r)))
      | .wait h => .error (.wait (s3.repeatLater c h))
      | .invalid => .error (.wait s3)
    | _ => deviceTrap s1 a.ea
  let (s3, _, _, _) ← atHome aux.val l (s2.granule s2.cur l)
  .ok (s3, l.key, s.here.ctxid, barKey a.ea.toNat l)

/-- A request after its checks (R300): the entry to queue. `vs` holds the quad and, with NOTIFY, the notice word. Of no bytes, it takes
DST as it stands, for its notice alone (R305; log 100). -/
def copyRequest (s : State) (kind : CopyKind) (q : BitVec 4) (vs : List Val) : M (State × CopyEntry) := do
  let src := (arg vs 0).g
  let x := argW vs 2
  let dst := if getF x 0 48 = 0 then s.me.getG (quad q 1) else (arg vs 1).g
  let aux := (arg vs 3).g
  let len := getF x 0 48
  let tag := getF x 48 6
  let note := if bitOf x 54 then argW vs 4 else 0
  let a := 4 * q.toNat
  let deal := decide (kind = .deal)
  let crypt := decide (kind = .crypt)
  check (getF x 59 5 = 0 && bitOf x 56 = deal && bitOf x 58 = crypt && !(bitOf x 57 && (deal || crypt)) &&
    tagInRange s.cb tag) .copyform x
  if len ≠ 0 then do
    capChecks s.kern
      (copyNeed src a src.val.toNat len (pR ||| (if meetsOther s.here.rank src.val.toNat len then pM else 0)))
    check (!deal || dealOk aux.val dst.val.toNat len) .copyform aux.val
    dstChecks s dst (a + 1) (segsOf deal aux.val dst.val.toNat len)
    let bad := (layoutFail src.val.toNat len).toList ++ (if deal then [] else (layoutFail dst.val.toNat len).toList)
    match bad with
    | [] => .ok ()
    | f :: fs => trap .pagefault (w64 (fs.foldl min f))
  else .ok ()
  let (s1, bar) ← if bitOf x 57 then do
      let (t, b) ← barrierPlace s aux (a + 3)
      .ok (t, some b)
    else .ok (s, none)
  let (s2, desc) ← if crypt && len ≠ 0 then do
      check (!(aux.tag ≠ .cap && !s1.kern)) .captag (w64 (a + 3))
      let need := { loadNeed aux (a + 3) aux.val 32 with align := 8 }
      preChecks s1.kern need
      let (t, d, _) ← loadBlock s1 need []
      .ok (t, natToBytes 32 d)
    else .ok (s1, [])
  .ok (s2, { id := s2.here.nextCopy, kind := kind, berth := s.cb, src := src, dst := dst, len := len, tag := tag
             ordered := bitOf x 55, notify := bitOf x 54, nrank := getF note 0 10, cookie := note >>> 32, bar := bar
             aux := aux, desc := desc, ctx := s.here.ctxid, srank := s.nativeRank, kern := s.kern
             launch := s.countSlot, started := false, moved := false, code := 0, first := 0, age := s.freeCtr })

/-! ## Completion (R306, R309) -/

/-- CODE's number for KIND. -/
def CopyKind.code : CopyKind → Nat
  | .copy => 0
  | .deal => 1
  | .crypt => 2
  | .merge => 3

/-- A status word. -/
def statusWord (first kind : Nat) (nlost : Bool) (code : Nat) : Word :=
  w64 ((if code = codeOk then 0 else first) * 2 ^ 16 + kind * 2 ^ 12 + b2n nlost * 2 ^ 8 + code)

/-- The status word of a tag after another completion: the largest code decides, NLOST is the OR (R306). -/
def mergeStatus (old : Word) (e : CopyEntry) (lost : Bool) : Word :=
  if getF old 0 8 ≤ e.code then statusWord e.first e.kind.code (lost || bitOf old 8) e.code
  else setF old 8 1 (b2n (lost || bitOf old 8))

/-- The notice of a copy or MERGE. -/
def CopyEntry.notice (e : CopyEntry) (n : Nat) : Msg :=
  let m := decide (e.kind = .merge)
  ⟨w64 (e.tag * 2 ^ 16 + e.kind.code * 2 ^ 12 + e.code), if m then 0 else e.cookie, if m then e.src.val else e.dst.val,
    if m then 0 else w64 e.len, 0, e.srank, n, e.ctx, e.nrank, true, 0⟩

/-- The address a Silt record of an entry names: DST, or the descriptor address of a MERGE, as in its notice (R309, R459). -/
def CopyEntry.siltAddr (e : CopyEntry) : Word :=
  match e.kind with
  | .merge => e.src.val
  | _ => e.dst.val

/-- The tag's bit is set and its berth's SLEEP ends. -/
def State.completeTag (s : State) (n tag : Nat) : State :=
  (s.setCore n ((s.core n).setTag tag)).wakeSleep n (if tag < 48 then 1 else 0)

/-- The place of the barrier that an entry named, at its completion: none when no core holds it for this context any more, and what a
rank in transit or absent makes it wait for (R56, R108, R192). -/
def State.barPlace (s : State) (n : Nat) (b : Nat × Nat × Nat) : Except LmWait (Option Loc) :=
  let (key, ctx, k) := b
  let l := keyLoc key ctx k
  if l.kind ≠ .lm then .ok (some l)
  else if k = 1024 then .ok (if (s.core n).ctxid = ctx then some l else none)
  else
    match (s.lmPlace n ctx k ((key - 2 ^ 49) % 2 ^ 17)).2 with
    | .at_ l => .ok (some l)
    | .wait h => .error h
    | _ => .ok none

/-- The verified words of a COPYC become DATA, under the translation that their POISON was written under (R147, R472). -/
def State.reveal (s : State) (n : Nat) (e : CopyEntry) : State :=
  e.plain.foldl (fun t w =>
    let l := keyLoc w.1 w.2.1 w.2.2.1
    if ((t.takeHome n l).homeWord l).2 = tagSync then t else t.writeHome n l w.2.2.2 tagData) s

/-- The end of an entry (R306): NI lookup, status word, TAGS bit, barrier, notice. It waits while the NI has no room to
hold its notice. -/
def State.finishTo (s0 : State) (n : Nat) (e : CopyEntry) (bar : Option Loc) : Option State :=
  let s := s0.reveal n e
  let sent : Option (State × Bool) :=
    if e.notify then
      match s.niTake n (rankPacket s n e.ctx e.nrank e.srank e.launch (.nmsg (e.notice n))) with
      | .taken t => some (t, false)
      | .bridge t => some (t, false)
      | .invalid t => some (t.countRefused n e.launch, true)
      | .full _ => none
    else some (s, false)
  match sent with
  | none => none
  | some (s1, lost) =>
    let c := s1.core n
    let c1 := c.setTagStatus e.tag (mergeStatus (c.tagStatus e.tag) e lost)
    let c2 := { c1 with fifo := c1.fifo.filter fun x => x.id ≠ e.id }
    let s2 := s1.setCore n c2
    let s2r := s2.record n 1 (0x20 + e.code) e.siltAddr
    let s3 := if c2.fifo.any fun x => x.tag = e.tag then s2r else s2r.completeTag n e.tag
    some (match bar with
      | some l => s3.subtractBytes n l e.len
      | none => s3)

/-- The end of an entry, which waits while the LM of its barrier's rank cannot be reached (R192). -/
def State.finishCopy (s : State) (n : Nat) (e : CopyEntry) : Option State :=
  match e.bar with
  | none => s.finishTo n e none
  | some b =>
    match s.barPlace n b with
    | .ok l => s.finishTo n e l
    | .error _ => none

/-- What an entry that cannot complete yet leaves: ABSENT where the rank of its barrier is not resident (R192). -/
def State.waitCopy (s : State) (n : Nat) (e : CopyEntry) : State :=
  match e.bar.map (s.barPlace n ·) with
  | some (.error m) => s.repeatLater e.ctx m
  | _ => s

/-! ## Acceptance (R301, R305) -/

/-- Whether every earlier copy of the entry's berth has completed (R304). -/
def Core.orderedReady (c : Core) (e : CopyEntry) : Bool :=
  !e.ordered || (c.fifo.takeWhile fun x => x.id ≠ e.id).all fun x => x.berth ≠ e.berth

/-- The event that starts or completes an entry. -/
def State.copyEvent (s : State) (n : Nat) (e : CopyEntry) : State :=
  s.later (if e.moved then .copyComplete (BitVec.ofNat 12 n) (BitVec.ofNat 6 e.tag) else .copyStart (BitVec.ofNat 12 n))

/-- Acceptance of a request: with no other entry of its tag in flight, the tag's bit and status word are cleared; a copy
of no bytes is over at once, or once the copies before it are. -/
def State.accept (s : State) (e : CopyEntry) : State :=
  let c := s.here
  let c1 := if c.fifo.any fun x => x.tag = e.tag then c else (c.clearTag e.tag).setTagStatus e.tag 0
  let c2 := { c1 with fifo := c1.fifo ++ [e], nextCopy := c1.nextCopy + 1 }
  let s1 := (s.setHere c2).record s.cur 1 0x10 e.siltAddr
  if e.len = 0 && e.kind ≠ .merge && c2.orderedReady e then
    let e1 := { e with started := true, moved := true, code := codeOk }
    let s2 := s1.setHere { s1.here with fifo := c1.fifo ++ [e1] }
    (s2.finishCopy s2.cur e1).getD ((s2.waitCopy s2.cur e1).copyEvent s2.cur e1)
  else s1.copyEvent s1.cur e

/-- The sources of a request: the quad, and the notice word with NOTIFY (R299). One of no bytes does not read DST, nor AUX but for
BAR (R305). -/
def copySrcs (s : State) (q : BitVec 4) (b : BitVec 6) : List Src :=
  let x := s.me.getG (quad q 2)
  let none := x.tag ≠ .empty && getF x.val 0 48 = 0
  [.g (quad q 0), .g (if none then 0 else quad q 1), .g (quad q 2), .g (if none && !bitOf x.val 57 then 0 else quad q 3)] ++
    (if bitOf x.val 54 then [.g b] else [])

/-- COPY, COPYD, COPYC: they stall while the FIFO is full; every earlier event of the thread precedes them (R131). -/
def copyOp (s : State) (kind : CopyKind) (a : BitVec 4) (b : BitVec 6) : Out :=
  run s (do
    nativeOnly s
    op s (copySrcs s a b) [] 4 fun t vs => do
      let (t1, e) ← copyRequest t kind a vs
      released t scDevice
      if 16 ≤ t1.here.fifo.length then .error (.wait t) else .ok (t1.accept e, []))

def execCopy (a : BitVec 4) (b : BitVec 6) (s : State) : Out := copyOp s .copy a b
def execCopyd (a : BitVec 4) (b : BitVec 6) (s : State) : Out := copyOp s .deal a b
def execCopyc (a : BitVec 4) (b : BitVec 6) (s : State) : Out := copyOp s .crypt a b

def execCopynb (d : BitVec 6) (a : BitVec 4) (b : BitVec 6) (s : State) : Out :=
  run s (do
    nativeOnly s
    op s (copySrcs s a b) [.g d] 4 fun t vs => do
      let (t1, e) ← copyRequest t .copy a vs
      if 16 ≤ t1.here.fifo.length then .ok (t, [.data 1])
      else do
        released t scDevice
        .ok (t1.accept e, [.data 0]))

/-! ## Where a copy reads and writes (R303) -/

/-- What the engine finds at an address. -/
inductive CopyPlace
  | at_ (l : Loc) (cs : Bool)
  | fault (code : Nat)
  | retry (k : LmWait)

/-- The place of an address for an entry, for reading or writing. -/
def State.copyPlace (s : State) (n : Nat) (e : CopyEntry) (va : Nat) (wr : Bool) : State × CopyPlace :=
  match place va with
  | .priv =>
    match s.translate n e.ctx va with
    | .error _ => (s, .fault codePartial)
    | .ok (s1, t) =>
      if (t.ko && !e.kern) || (if wr then !t.w else !t.r) then (s1, .fault codePartial) else (s1, .at_ (t.loc va) t.cs)
  | .alias_ off => (s, if (s.core n).ctxid = e.ctx then .at_ (lmLoc n off) true else .fault codePartial)
  | .window r off =>
    let (s1, p) := s.lmPlace n e.ctx r off
    (s1, match p with
      | .at_ l => .at_ l true
      | .invalid => .fault codeRefused
      | .foreign _ => .fault codePartial
      | .wait h => .retry h)
  | _ => (s, .fault codePartial)

/-- A source word as the engine reads it. -/
inductive SrcWord
  | data (v : Word) (cap : Bool)
  | poison
  | fault (code : Nat)
  | retry (k : LmWait)

/-- Whether an uncorrectable error at a place of R86's table, of an address, makes a word POISON: the word of an L1, an LM, the pool or
a dirty L2 line; in DRAM the 64 bytes, or the 256 bytes of a tag word. -/
def errorHits (place addr : Nat) (l : Loc) : Bool :=
  if place = 2 || place = 3 then addr / 8 = l.key / 8
  else if place = 4 then addr / 64 = l.key / 64
  else place = 5 && addr / 256 = l.key / 256

/-- Whether a word holds an uncorrectable error that has not been met yet: the engine's read of it meets it (R86, R303). -/
def State.latent (s : State) (l : Loc) : Bool := s.agenda.any fun e =>
  match e with
  | .memoryError _ place _ _ addr unc => unc = 1 && errorHits place.toNat addr.toNat l
  | _ => false

/-- The source word at an address. -/
def State.readSource (s : State) (n : Nat) (e : CopyEntry) (va : Nat) : State × SrcWord :=
  let (s1, p) := s.copyPlace n e va false
  match p with
  | .fault c => (s1, .fault c)
  | .retry k => (s1, .retry k)
  | .at_ l _ =>
    let (s2, v, t) := s1.readWord l
    (s2, if s1.latent l then .fault codePartial else if t = tagPoison then .poison else .data v (t = tagCap))

/-- A transfer so far: the state, the largest code and the lowest affected offset, and whether it must be tried again. -/
structure Xfer where
  s : State
  code : Nat
  first : Option Nat
  again : Option LmWait
  plain : List (Nat × Nat × Nat × Word) := []

/-- Records an event with a code at an offset (R303). -/
def Xfer.note (x : Xfer) (code off : Nat) : Xfer :=
  { x with
    code := max x.code code
    first := some (match x.first with | some f => min f off | none => off) }

/-- The engine writes a destination word. -/
def State.copyWrite (s : State) (n : Nat) (l : Loc) (v : Word) (t : Nat) : State :=
  let s1 := s.writeHome n l v t
  if t = tagPoison then s1.poisonWaits l false else s1

/-- Bytes [b0, b1) of a word replaced by the low bytes of `x`; the other bytes of a POISON word become 0 (R22). -/
def putBytes (old : Word) (t b0 b1 : Nat) (x : Nat) : Word := mergePiece ⟨b0, b1 - b0⟩ old t x

/-- The source bytes of one destination word, of one or two source words: those bytes as a number and, of a whole word, whether it
was CAP. -/
inductive SrcBytes
  | data (x : Nat) (cap : Bool)
  | poison
  | fault (code : Nat)
  | retry (k : LmWait)

/-- The `k` bytes at source address `a`: a wait first, then the larger code, then POISON (R303). -/
def State.readBytes (s : State) (n : Nat) (e : CopyEntry) (a k : Nat) : State × SrcBytes :=
  let (s1, r0) := s.readSource n e (a / 8 * 8)
  let (s2, r1) := if a % 8 + k ≤ 8 then (s1, SrcWord.data 0 false) else s1.readSource n e (a / 8 * 8 + 8)
  (s2, match r0, r1 with
    | .retry q, _ => .retry q
    | _, .retry q => .retry q
    | .fault c, .fault d => .fault (max c d)
    | .fault c, _ => .fault c
    | _, .fault c => .fault c
    | .poison, _ => .poison
    | _, .poison => .poison
    | .data v c, .data w _ => .data ((v.toNat + 2 ^ 64 * w.toNat) / 2 ^ (8 * (a % 8)) % 2 ^ (8 * k)) (c && a % 8 = 0 && k = 8))

/-- The bytes of one part, then of another: a wait first, then the larger code, then POISON; `k` bytes come first. -/
def SrcBytes.join (x y : SrcBytes) (k : Nat) : SrcBytes :=
  match x, y with
  | .retry q, _ => .retry q
  | _, .retry q => .retry q
  | .fault c, .fault d => .fault (max c d)
  | .fault c, _ => .fault c
  | _, .fault c => .fault c
  | .poison, _ => .poison
  | _, .poison => .poison
  | .data v _, .data w _ => .data (v + 2 ^ (8 * k) * w) false

/-- The source bytes of a destination word: `k` from address `a` on, and those that the rank's next block adds (R302). -/
def State.readParts (s : State) (n : Nat) (e : CopyEntry) (a k : Nat) (more : Option (Nat × Nat)) : State × SrcBytes :=
  let (s1, r) := s.readBytes n e a k
  match more with
  | none => (s1, r)
  | some (o, j) =>
    let (s2, q) := s1.readBytes n e (e.src.val.toNat + o) j
    (s2, r.join q k)

/-- What a source word gives a destination word that cannot be written: its code still counts (R303). -/
def Xfer.noteSrc (x : Xfer) (r : SrcBytes) (off : Nat) : Xfer :=
  match r with
  | .fault c => x.note c off
  | _ => x

/-- One destination word at `w` whose bytes [b0, b1) come from source address `a` on, and those after them from the next block; `off`
is the source offset of its first byte, from which FIRST is taken (log 110); `cap` says that a CAP may move (R23, R302, R303). -/
def Xfer.word (x : Xfer) (n : Nat) (e : CopyEntry) (w b0 b1 a off : Nat) (more : Option (Nat × Nat)) (cap : Bool) : Xfer :=
  let (s1, d) := x.s.copyPlace n e w true
  let (s2, r) := s1.readParts n e a (b1 - b0) more
  let top := b1 + (more.map (·.2)).getD 0
  match d, r with
  | .retry k, _ => { x with again := some k }
  | _, .retry k => { x with again := some k }
  | .fault c, r => ({ x with s := s2 }.noteSrc r off).note c off
  | .at_ l cs, r =>
    let t := (s2.takeHome n l).homeWord l
    if t.2 = tagSync then ({ x with s := s2 }.noteSrc r off).note codePartial off
    else
      match r with
      | .data y c =>
        if cap && c && cs then { x with s := s2.copyWrite n l (w64 y) tagCap }
        else { x with s := s2.copyWrite n l (putBytes t.1 t.2 b0 top y) tagData }
      | _ => { x with s := s2.copyWrite n l 0 tagPoison }.noteSrc r off

/-- A part of a copy, word by word; `done` bytes of it have moved. `lo`, `hi` bound the part's destination, `mayCap` holds
when the capabilities allow a CAP to move. -/
def Xfer.seg (x : Xfer) (n : Nat) (e : CopyEntry) (g : Seg) (mayCap : Bool) (done : Nat) : Nat → Xfer
  | 0 => x
  | fuel + 1 =>
    if g.len ≤ done then x
    else
      let d := g.dst + done
      let k := min (g.len - done) (8 - d % 8)
      let a := e.src.val.toNat + g.off + done
      let w := d / 8 * 8
      let p := d / 16 * 16
      let cap := mayCap && g.dst ≤ p && p + 16 ≤ g.dst + g.len && (a + p) % 16 = d % 16
      let more := if g.len ≤ done + k then g.more else none
      let y := x.word n e w (d % 8) (d % 8 + k) a (g.off + done) more cap
      if y.again.isSome then y else y.seg n e g mayCap (done + k) fuel

def Xfer.segs (x : Xfer) (n : Nat) (e : CopyEntry) (mayCap : Bool) : List Seg → Xfer
  | [] => x
  | g :: gs =>
    let y := x.seg n e g mayCap g.skip (g.len / 8 + 2)
    if y.again.isSome then y else y.segs n e mayCap gs

/-- Whether the capabilities of a request let a CAP move (R23). -/
def CopyEntry.mayCap (e : CopyEntry) : Bool :=
  (e.src.tag ≠ .cap || hasPerm e.src.sh pLC) && (e.dst.tag ≠ .cap || hasPerm e.dst.sh pSC)

/-- The transfer of a COPY or COPYD. -/
def State.transfer (s : State) (n : Nat) (e : CopyEntry) : Xfer :=
  Xfer.segs ⟨s, codeOk, none, none, []⟩ n e e.mayCap (movesOf (e.kind = .deal) e.aux.val e.dst.val.toNat e.len)

/-! ## Confidential copies (R308, R472) -/

/-- Gathers the source bytes; none when a source fault or POISON is met. -/
def State.gather (s : State) (n : Nat) (e : CopyEntry) (i : Nat) : Nat → State × Option LmWait × Option (List Byte)
  | 0 => (s, none, some [])
  | fuel + 1 =>
    if e.len ≤ i then (s, none, some [])
    else
      let a := e.src.val.toNat + i
      let k := min (e.len - i) (8 - a % 8)
      let (s1, r) := s.readSource n e (a / 8 * 8)
      match r with
      | .retry q => (s1, some q, none)
      | .data v _ =>
        let (s2, q, bs) := s1.gather n e (i + k) fuel
        (s2, q, bs.map ((((natToBytes 8 v.toNat).drop (a % 8)).take k) ++ ·))
      | _ =>
        let (s2, q, _) := s1.gather n e (i + k) fuel
        (s2, q, none)

/-- Writes the destination words from a list of bytes, or as POISON with zero data bytes when there is none. Words of plaintext stand
POISON too, until the entry completes (R472). -/
def Xfer.fill (x : Xfer) (n : Nat) (e : CopyEntry) (bs : Option (List Byte)) (i : Nat) : Nat → Xfer
  | 0 => x
  | fuel + 1 =>
    if e.len ≤ i then x
    else
      let d := e.dst.val.toNat + i
      let k := min (e.len - i) (8 - d % 8)
      let (s1, p) := x.s.copyPlace n e (d / 8 * 8) true
      let y : Xfer :=
        match p with
        | .fault c => { x with s := s1 }.note c i
        | .retry q => { x with again := some q }
        | .at_ l _ =>
          let t := (s1.takeHome n l).homeWord l
          if t.2 = tagSync then { x with s := s1 }.note codePartial i
          else
            match bs with
            | none => { x with s := s1.copyWrite n l 0 tagPoison }
            | some b =>
              let v := putBytes t.1 t.2 (d % 8) (d % 8 + k) (bytesToNat ((b.drop i).take k))
              { x with s := s1.copyWrite n l v tagPoison, plain := x.plain ++ [(l.key, l.ctx, l.slot, v)] }
      if y.again.isSome then y else y.fill n e bs (i + k) fuel

/-- The key of a context and KEYIX. -/
def State.sessionKey (s : State) (ctx ix : Nat) : Option SessionKey := s.keys.find? fun k => k.ctx = ctx && k.ix = ix

/-- The transfer of a COPYC. -/
def State.decrypt (s : State) (n : Nat) (e : CopyEntry) : Xfer :=
  let counter := bytesToNat (e.desc.take 8)
  let ix := bytesToNat ((e.desc.drop 8).take 2)
  let words := e.len / 8 + 2
  let stop (c : Nat) : Xfer := ⟨s, c, none, none, []⟩
  if bytesToNat ((e.desc.drop 10).take 6) ≠ 0 then stop codeRefused
  else
    match s.sessionKey e.ctx ix with
    | none => stop codeRefused
    | some k =>
      if place e.dst.val.toNat ≠ .priv then stop codeRefused
      else if counter ≤ k.high.toNat then stop codeReplay
      else
        let (s1, again, bs) := s.gather n e 0 words
        match again, bs with
        | some q, _ => ⟨s, codeOk, none, some q, []⟩
        | none, none =>
          let x := Xfer.fill ⟨s1, codePartial, none, none, []⟩ n e none 0 words
          { x with first := none }
        | none, some ct =>
          let iv := k.pre ++ bytesBE 8 counter
          if gcmTag k.key iv (natToBytes 8 e.len) ct = e.desc.drop 16 then
            let x := Xfer.fill ⟨s1, codeOk, none, none, []⟩ n e (some (gcmText k.key iv ct)) 0 words
            { x with
              s := { x.s with
                keys := x.s.keys.map fun q => if q.ctx = k.ctx && q.ix = k.ix then { q with high := w64 counter } else q } }
          else
            let x := Xfer.fill ⟨s1, codeTagfail, none, none, []⟩ n e none 0 words
            { x with first := none }

/-! ## Starting and completing entries (R301, R304) -/

/-- Whether an entry may start now: fewer than four run, ORDERED holds, every earlier entry has started, no MERGE of its log runs
(R166), and no COPYC of its key runs or was accepted before it (R472). -/
def State.mayStart (s : State) (n : Nat) (e : CopyEntry) : Bool :=
  let c := s.core n
  let before := c.fifo.takeWhile fun x => x.id ≠ e.id
  c.fifo.countP (·.started) < 4 && c.orderedReady e &&
    (match e.kind with
    | .crypt => s.cores.all fun p => p.2.fifo.all fun x =>
        !(x.kind = .crypt && x.ctx = e.ctx && (x.desc.drop 8).take 2 = (e.desc.drop 8).take 2 && (x.started || x.age < e.age))
    | .merge => s.cores.all fun p => p.2.fifo.all fun x =>
        !(x.kind = .merge && x.ctx = e.ctx && x.aux.val = e.aux.val && x.started)
    | _ => true) && before.all (·.started)

/-- The FIFO with an entry replaced. -/
def Core.putEntry (c : Core) (e : CopyEntry) : Core :=
  { c with fifo := c.fifo.map fun x => if x.id = e.id then e else x }

/-- The entries that the engine can work on: those that run and whose bytes have not moved, and the next one that may start. -/
def State.workable (s : State) (n : Nat) : List CopyEntry :=
  let l := (s.core n).fifo
  (l.filter fun x => x.started && !x.moved && decide (x.kind ≠ .merge)) ++
    ((l.find? fun x => !x.started).toList.filter (s.mayStart n ·))

/-- The engine moves an entry's bytes; while a rank that it names is in transit or absent, the entry runs on (R108, R192). -/
def State.moveBytes (s : State) (n : Nat) (e : CopyEntry) : State :=
  let x := if e.len = 0 then ⟨s, codeOk, none, none, []⟩ else if e.kind = .crypt then s.decrypt n e else s.transfer n e
  match x.again with
  | some q => ((s.setCore n ((s.core n).putEntry { e with started := true })).repeatLater e.ctx q).copyEvent n e
  | none =>
    let e1 := { e with started := true, moved := true, code := x.code, first := x.first.getD 0, plain := x.plain }
    (x.s.setCore n ((x.s.core n).putEntry e1)).copyEvent n e1

/-- COPY_START: the engine works on an entry, one of those it can (R301), freely chosen; a MERGE's pass follows its start. -/
def State.copyStart (s : State) (n : Nat) : State :=
  match s.workable n with
  | [] => if (s.core n).fifo.any fun x => !x.moved then s.later (.copyStart (BitVec.ofNat 12 n)) else s
  | e0 :: es =>
    let e := ((e0 :: es)[s.free % (es.length + 1)]?).getD e0
    let s1 := if es.isEmpty then s else s.drawn
    match e.kind with
    | .merge =>
      (s1.setCore n ((s1.core n).putEntry { e with started := true })).later
        (.mergePass (BitVec.ofNat 12 n) (BitVec.ofNat 6 e.tag))
    | _ => s1.moveBytes n e

/-- An entry of a tag whose transfer is over completes. -/
def State.copyComplete (s : State) (n tag : Nat) (merge : Bool) : State :=
  match (s.core n).fifo.find? (fun x => x.tag = tag && x.moved && decide (x.kind = .merge) = merge) with
  | none => s
  | some e =>
    (s.finishCopy n e).getD ((s.waitCopy n e).later (if merge then .mergeComplete (BitVec.ofNat 12 n) (BitVec.ofNat 6 tag)
      else .copyComplete (BitVec.ofNat 12 n) (BitVec.ofNat 6 tag)))

/-! ## MERGE (R166, R167, R293) -/

def execMerge (a b : BitVec 6) (s : State) : Out :=
  run s (do
    nativeOnly s
    op s [.g a, .g b] [] 4 fun t vs => do
      let (t1, g) ← logDesc t (arg vs 0).g a.toNat
      let x := argW vs 1
      check (tagInRange t.cb (getF x 0 6)) .copyform x
      let e : CopyEntry :=
        { id := t1.here.nextCopy, kind := .merge, berth := t.cb, src := (arg vs 0).g, dst := GReg.zero, len := 0
          tag := getF x 0 6, ordered := false, notify := bitOf x 8, nrank := getF x 32 10, cookie := 0, bar := none
          aux := ⟨w64 g.a, w64 g.segrec, .data⟩, desc := [], ctx := t.here.ctxid, srank := t.nativeRank, kern := t.kern
          launch := t.countSlot, started := false, moved := false, code := 0, first := 0, age := t.freeCtr }
      released t scDevice
      if 16 ≤ t1.here.fifo.length then .error (.wait t) else .ok (t1.accept e, []))

/-- The state of a merge pass: the lowest offset of the region that failed, whether a target was skipped, and what it has to wait for. -/
structure Pass where
  s : State
  low : Option Nat
  skipped : Bool
  again : Option LmWait := none

def Pass.fail (x : Pass) (off : Nat) : Pass :=
  { x with low := some (match x.low with | some f => min f off | none => off) }

/-- A place that a pass cannot reach: a failure, by `f`, or a rank for which it waits (R108, R192). -/
def Pass.stop (x : Pass) (r : LogStop) (f : Pass → Pass) : Pass :=
  match r with
  | .bad _ => f x
  | .wait m => { x with again := some m }

/-- Reads `k` words of the region from offset `off` on; every word that fails counts. -/
def Pass.read (x : Pass) (n : Nat) (e : CopyEntry) (off : Nat) : Nat → Pass × Option (List Word)
  | 0 => (x, some [])
  | k + 1 =>
    match x.s.logWord n e.ctx e.kern (e.aux.val.toNat + off) with
    | .error (r, _) => ((x.stop r (·.fail off)).read n e (off + 8) k |>.1, none)
    | .ok (s1, _, w) =>
      let (y, r) := Pass.read { x with s := s1 } n e (off + 8) k
      (y, r.map (w :: ·))

/-- Writes a word of the region. -/
def Pass.write (x : Pass) (n : Nat) (e : CopyEntry) (off : Nat) (w : Word) : Pass :=
  match x.s.logWord n e.ctx e.kern (e.aux.val.toNat + off) with
  | .error (r, _) => x.stop r (·.fail off)
  | .ok (s1, l, _) => { x with s := s1.writeHome n l w tagData }

/-- A segment that a pass has switched: its number, its closed half, that half's COUNT and OVF. -/
structure Closed where
  seg : Nat
  half : Nat
  count : Nat
  ovf : Nat

/-- The pass switches ACTIVE of a segment whose header can be read and written. -/
def Pass.switch (x : Pass) (n : Nat) (e : CopyEntry) (seg : Nat) : Pass × Option Closed :=
  let o := seg * segSize e.aux.sh.toNat
  let (y, h) := x.read n e o 8
  match h with
  | none => (y, none)
  | some ws =>
    let act := ws.getD 2 0
    let half := getF act 0 1
    (y.write n e (o + 16) (setF act 0 8 (1 - half)),
      some ⟨seg, half, (ws.getD half 0).toNat, getF (ws.getD 3 0) (32 * half) 32⟩)

def Pass.switchAll (x : Pass) (n : Nat) (e : CopyEntry) : List Nat → Pass × List Closed
  | [] => (x, [])
  | g :: gs =>
    let (y, c) := x.switch n e g
    let (z, r) := y.switchAll n e gs
    (z, c.toList ++ r)

/-- The record of four words. -/
def recOf (ws : List Word) : LogRec :=
  ⟨getF (ws.getD 0 0) 48 4, getF (ws.getD 0 0) 0 48, getF (ws.getD 1 0) 0 32, getF (ws.getD 2 0) 0 10, getF (ws.getD 3 0) 0 16⟩

/-- The sort key of R166: VA, source rank, source sequence, value bits, OP. -/
def LogRec.key (r : LogRec) : Nat := (((r.va * 2 ^ 10 + r.rank) * 2 ^ 16 + r.seq) * 2 ^ 32 + r.val) * 16 + r.op

def insertRec (r : LogRec) : List LogRec → List LogRec
  | [] => [r]
  | x :: xs => if r.key ≤ x.key then r :: x :: xs else x :: insertRec r xs

def sortRecs (l : List LogRec) : List LogRec := l.foldr insertRec []

/-- Reads the records of a closed half; one that cannot be read is left out. -/
def Pass.records (x : Pass) (n : Nat) (e : CopyEntry) (off : Nat) : Nat → Pass × List LogRec
  | 0 => (x, [])
  | k + 1 =>
    let (y, r) := x.read n e off 4
    let (z, rs) := y.records n e (off + 32) k
    (z, match r with | some ws => recOf ws :: rs | none => rs)

/-- Applies a record to its target (R166 step 2, R167; log 87). -/
def Pass.apply (x : Pass) (n : Nat) (e : CopyEntry) (r : LogRec) : Pass :=
  match x.s.logPlace n e.ctx e.kern r.va with
  | .error r => x.stop r fun y => { y with skipped := true }
  | .ok l =>
    let s1 := x.s.takeHome n l
    let (w, t) := s1.homeWord l
    if t = tagSync || t = tagPoison then { x with skipped := true }
    else
      let old := (half w l.key).toNat
      let y := match r.op with
        | 0 => (fpAdd fp32 rmRNE old r.val).1
        | 1 => (fpMin fp32 old r.val).1
        | _ => (fpMax fp32 old r.val).1
      let v := setHalf w (l.key % 8) (BitVec.ofNat 32 y)
      { x with s := (s1.putHome l v tagData).changed l v }

/-- Applies a closed half unless an overflow decides the outcome, then empties it. -/
def Pass.close (x : Pass) (n : Nat) (e : CopyEntry) (ovfl : Bool) (c : Closed) : Pass :=
  let rec_ := e.aux.sh.toNat
  let o := c.seg * segSize rec_
  let y :=
    if ovfl then x
    else
      let (z, rs) := x.records n e (o + 64 + 32 * rec_ * c.half) (min c.count rec_)
      (sortRecs rs).foldl (fun p r => p.apply n e r) z
  let y1 := y.write n e (o + 8 * c.half) 0
  let (y2, h) := y1.read n e (o + 24) 1
  match h with
  | some (w :: _) => y2.write n e (o + 24) (setF w (32 * c.half) 32 0)
  | _ => y2

/-- The merge pass of an entry (R166, R167), repeated whole while a rank that its region or a target names is in transit or absent. -/
def State.mergePass (s : State) (n tag : Nat) : State :=
  match (s.core n).fifo.find? (fun x => x.tag = tag && x.kind = .merge && x.started && !x.moved) with
  | none => s
  | some e =>
    let (x, cs) := Pass.switchAll ⟨s, none, false, none⟩ n e (List.range 65)
    let ovfl := cs.any fun c => c.ovf ≠ 0
    let y := cs.foldl (fun p c => p.close n e ovfl c) x
    match y.again with
    | some m => (s.repeatLater e.ctx m).later (.mergePass (BitVec.ofNat 12 n) (BitVec.ofNat 6 tag))
    | none =>
      let code := if ovfl then codeOverflow else if y.low.isSome || y.skipped then codePartial else codeOk
      let e1 := { e with moved := true, code := code, first := y.low.getD 0 }
      (y.s.setCore n ((y.s.core n).putEntry e1)).later (.mergeComplete (BitVec.ofNat 12 n) (BitVec.ofNat 6 tag))

/-! ## The tag instructions (R311, R320) -/

/-- The mask that a tag instruction acts on. -/
def State.tagMask (s : State) (x : Word) : Word := if s.cb = 0 then x else x &&& 0x0000FFFFFFFFFFFF

/-- Waits until the tags of the mask satisfy `p`, then returns TAGS & m; m = 0 returns 0 at once. With `.acq` the observation of a
tag acquires: what its copies did precedes every later event of the thread (R131, R134). -/
def tagWait (s : State) (d a : BitVec 6) (len : Nat) (acq : Bool) (p : Word → Word → Bool) : Out :=
  run s (do
    nativeOnly s
    op s [.g a] [.g d] len fun t vs =>
      let m := t.tagMask (argW vs 0)
      if m = 0 then .ok (t, [.data 0])
      else if p (t.here.tags &&& m) m then .ok (if acq then t.acquireHere else t, [.data (t.here.tags &&& m)])
      else .error (.wait t))

/-- TFF: the bit of the mask that was set earliest, cleared in the same step; it acquires as TWANY does. -/
def tffOp (s : State) (d a : BitVec 6) (len : Nat) (acq : Bool) : Out :=
  run s (do
    nativeOnly s
    op s [.g a] [.g d] len fun t vs =>
      let m := t.tagMask (argW vs 0)
      if m = 0 then .ok (t, [.data (BitVec.allOnes 64)])
      else
        match t.here.tagOrder.find? fun i => bitOf m i && bitOf t.here.tags i with
        | some i =>
          let u := t.setHere (t.here.clearTag i)
          .ok (if acq then u.acquireHere else u, [.data (w64 i)])
        | none => .error (.wait t))

def execTwany (d a : BitVec 6) (q : BitVec 1) (s : State) : Out := tagWait s d a 4 (q = 1) fun x _ => x ≠ 0
def execTwall (d a : BitVec 6) (q : BitVec 1) (s : State) : Out := tagWait s d a 4 (q = 1) fun x m => x = m
def execTff (d a : BitVec 6) (q : BitVec 1) (s : State) : Out := tffOp s d a 4 (q = 1)
def execCTwany (d a : BitVec 5) (s : State) : Out := tagWait s (d.setWidth 6) (a.setWidth 6) 2 true fun x _ => x ≠ 0
def execCTff (d a : BitVec 5) (s : State) : Out := tffOp s (d.setWidth 6) (a.setWidth 6) 2 true

def execTclr (a : BitVec 6) (s : State) : Out :=
  run s (do
    nativeOnly s
    op s [.g a] [] 4 fun t vs => .ok (t.setHere (t.here.clearTags (t.tagMask (argW vs 0))), []))

def execTget (d a : BitVec 6) (s : State) : Out :=
  run s (do
    nativeOnly s
    op s [.g a] [.g d] 4 fun t vs => do
      let i := getF (argW vs 0) 0 6
      check (t.cb = 0 || i < 48) .copyform (argW vs 0)
      .ok (t, [.data (t.here.tagStatus i)]))

end Sys2Proof.Machine
end

