-- ==== Sys2Proof/Machine/Flags.lean ====
section
/-! DEFINITION. The flags of VSTAT (R238, R239), the rounding mode and trap control of ARITH (R233), and the completion of an
instruction that meets an illegal TERN5 byte (R232). -/

namespace Sys2Proof.Machine

/-- ARITH.RM (R233). -/
def Berth.rm (b : Berth) : Nat := getF b.arith 0 2

/-- ARITH.TILTRAP (R233). -/
def Berth.tilTrap (b : Berth) : Bool := bitOf b.arith 7

/-- ARITH.SKEY, zero-extended (R233, R237). -/
def Berth.skey (b : Berth) : Word := w64 (getF b.arith 16 48)

/-- Flags are set and never cleared by an instruction (R238). -/
def State.addFlags (s : State) (fl : Nat) : State := s.setMe { s.me with vstat := s.me.vstat ||| w64 fl }

/-- Whether TIL is among the flags. -/
def hasTil (fl : Nat) : Bool := fl.testBit 6

/-- The end of an instruction whose flags are `fl`, its state `t` already past it: when TIL is among them and TILTRAP is 1, the
results stand and the thread takes TERNILL there, EVAL the instruction's address (R232). -/
def tilEnd (s t : State) (fl : Nat) : M State :=
  if hasTil fl && s.me.tilTrap then .error (.keep t .ternill s.me.pc) else .ok t

end Sys2Proof.Machine
end

