-- ==== Sys2Proof/Machine/Task.lean ====
section
/-! DEFINITION. The dispensers (R397 to R412) and the TASK instructions (R319). -/

namespace Sys2Proof.Machine

/-! ## What a dispenser reads and writes (R398, R402) -/

/-- What an agent without a thread finds of a rank's LM: its core must be up and hold the context and the rank (R56, R192, R448). -/
def State.agentLm (s : State) (ctx rank off : Nat) : LmPlace :=
  match s.rankEntry (s.readWord (s.rankLoc ctx rank)).2.1 with
  | .invalid => .invalid
  | .transit => .wait .later
  | .valid n => s.lmAt ctx rank off n

/-- The place of an address as such an agent reaches it in a context: the layout, translation, and the page's R or W; the LM of a
rank through the rank table. -/
def State.agentLoc (s : State) (ctx va : Nat) (wr : Bool) : Option Loc :=
  match place va with
  | .priv =>
    match s.walkRoot ctx va with
    | .ok l => if (if wr then l.w else l.r) && !s.keyless l then some (l.loc va) else none
    | .error _ => none
  | .window r off =>
    match s.agentLm ctx r off with
    | .at_ l => some l
    | _ => none
  | _ => none

/-- What such an agent waits for at an address. -/
def State.agentWait (s : State) (ctx va : Nat) : Option LmWait :=
  match place va with
  | .window r off =>
    match s.agentLm ctx r off with
    | .wait h => some h
    | .foreign n => some (.absent n r)
    | _ => none
  | _ => none

/-- A word that such an agent reads; none when it cannot be read or is POISON. -/
def State.agentWord (s : State) (ctx va : Nat) : Option Word :=
  match s.agentLoc ctx va false with
  | none => none
  | some l => let (_, v, t) := s.readWord l; if t = tagPoison then none else some v

/-- `k` words from `va` on, all readable. -/
def State.agentWords (s : State) (ctx va : Nat) : Nat → Option (List Word)
  | 0 => some []
  | k + 1 => do
    let v ← s.agentWord ctx va
    let r ← s.agentWords ctx (va + 8) k
    pure (v :: r)

/-- A store by such an agent. -/
def State.agentStore (s : State) (ctx va : Nat) (v : Word) : State :=
  match s.agentLoc ctx va true with
  | none => s
  | some l => s.writeHome mcNode l v tagData

/-- The dispatch block's address, from the context's header (R398); none when that cannot be read. -/
def State.dispatchBlock (s : State) (ctx : Nat) : Option Nat :=
  let (_, h, t) := s.header ctx 72
  if t = tagPoison then none else some (getF h 6 42 * 64)

/-- Entry `q` of an island queue table (R399); none when POISON. -/
def State.queueEntry (s : State) (isl q : Nat) : Option Word :=
  let t := (s.disp isl).qtab
  let (_, v, g) := s.readWord (physLoc (bitOf t 7) (getF t 12 36 * 2 ^ 12 + 16 * q) 0 0)
  if g = tagPoison then none else some v

/-! ## Launches and records -/

def Dispenser.launch (d : Dispenser) (slot : Nat) : Option Launch := d.launches.find? (·.slot = slot)

def Dispenser.setLaunch (d : Dispenser) (l : Launch) : Dispenser :=
  { d with launches := d.launches.map fun x => if x.slot = l.slot then l else x }

def State.setLaunch (s : State) (isl : Nat) (l : Launch) : State := s.setDisp isl ((s.disp isl).setLaunch l)

def Launch.fate (l : Launch) (i : Nat) : Fate := l.fates.getD i .ended

def Launch.setFate (l : Launch) (i : Nat) (f : Fate) : Launch := { l with fates := l.fates.set i f }

/-- A record takes its first nonzero status (R398). -/
def Launch.bad (l : Launch) (i st : Nat) : Launch :=
  match alGet l.bads i with
  | some _ => l
  | none => { l with bads := alSet l.bads i st }

def Launch.va (l : Launch) (i : Nat) : Nat := l.base + 32 * i

/-- The index of the record at an address, if the launch has one there. -/
def Launch.index (l : Launch) (ctx va : Nat) : Option Nat :=
  if l.ctx = ctx && l.base ≤ va && (va - l.base) % 32 = 0 && (va - l.base) / 32 < l.fates.length then some ((va - l.base) / 32)
  else none

/-- A range lies within the bounds of the launch's gA; a DATA gA has none. -/
def Launch.inBounds (l : Launch) (a n : Nat) : Bool :=
  l.cap.tag ≠ .cap || (capBase l.cap.val l.cap.sh ≤ a && ((a + n : Nat) : Int) ≤ capTop l.cap.val l.cap.sh)

/-- A successor list (R402): its well-formed entries, of the first 64, and whether all of it is well formed. -/
def State.successors (s : State) (l : Launch) (la : Nat) : List Nat × Bool :=
  match s.agentWord l.ctx la with
  | none => ([], false)
  | some h =>
    let n := getF h 0 16
    let ws := (List.range (min n 64)).filterMap fun i =>
      if l.inBounds (la + 8 + 8 * i) 8 then s.agentWord l.ctx (la + 8 + 8 * i) else none
    let good := ws.filter fun w => getF w 48 16 = 0 && w.toNat % 32 = 0
    (good.map BitVec.toNat, getF h 16 48 = 0 && n ≤ 64 && l.inBounds la (8 * (n + 1)) && good.length = n)

/-- A record with its successor list, and whether it is well formed (R401 to R403); its ARG is not read. -/
def State.readTask (s : State) (l : Launch) (va : Nat) : Task × Bool :=
  let r (o : Nat) := s.agentWord l.ctx (va + o)
  let w0 := (r 0).getD 0
  let w2 := (r 16).getD 0
  let w3 := (r 24).getD 0
  let ranked := bitOf w0 55
  let shape := getF w0 48 4
  let hint := getF w3 32 10
  let off := getF w2 16 32
  let (succs, listOk) := if off = 0 then ([], true) else if off % 8 ≠ 0 then ([], false) else s.successors l (va + off)
  let rankOk := !ranked || s.rankEntry (s.readWord (s.rankLoc l.ctx hint)).2.1 != .invalid
  (⟨getF w0 0 48, getF w0 52 2, shape, ranked, hint, succs⟩,
    (r 0).isSome && (r 16).isSome && (r 24).isSome &&
      getF w0 56 8 = 0 && !bitOf w0 54 && getF w2 48 16 = 0 && getF w3 42 22 = 0 && shape ≤ 4 && !(ranked && shape ≠ 0) &&
      rankOk && !bitOf w0 0 && listOk && l.inBounds va 32)

/-- What the reading of a record and its successor list waits for. -/
def State.taskWait (s : State) (l : Launch) (va : Nat) : Option LmWait :=
  let list := match s.agentWord l.ctx (va + 16) with
    | some w => if getF w 16 32 = 0 then [] else [va + getF w 16 32]
    | none => []
  ([va] ++ list).findSome? (s.agentWait l.ctx ·)

/-- A task has ended: its successors are decremented next (R402). -/
def State.endTask (s : State) (isl slot i : Nat) (succs : List Nat) : State :=
  match (s.disp isl).launch slot with
  | none => s
  | some l =>
    let s1 := s.setLaunch isl (l.setFate i .ended)
    let d := s1.disp isl
    (s1.setDisp isl
      { d with
        ended := d.ended ++ [(slot, i, succs)]
        reserve := d.reserve.filter fun r => !(r.1 = slot && r.2.1 = i) }).later (.dependencyDecrement (BitVec.ofNat 1 isl))

/-- A task that does not run ends at once with a status (R403, R404). -/
def State.failTask (s : State) (isl slot i st : Nat) (succs : List Nat) : State :=
  match (s.disp isl).launch slot with
  | none => s
  | some l => (s.setLaunch isl (l.bad i st)).endTask isl slot i succs

/-- A record becomes ready, once (R402): it is read with its successor list; a malformed one ends at once (R403). One in the LM of a
rank in transit or absent is read later (R108, R192). -/
def State.makeReady (s : State) (isl slot i : Nat) : State :=
  match (s.disp isl).launch slot with
  | none => s
  | some l =>
    match l.fate i, s.taskWait l (l.va i) with
    | .waiting, none =>
      let (t, ok) := s.readTask l (l.va i)
      if ok then
        let d := s.disp isl
        s.setDisp isl { d.setLaunch (l.setFate i (.ready d.seqno t)) with seqno := d.seqno + 1 }
      else s.failTask isl slot i 1 t.succs
    | .waiting, some m => s.repeatLater l.ctx m
    | _, _ => s

/-- COUNT of the record at an address, as memory holds it. -/
def State.recordCount (s : State) (ctx va : Nat) : Nat :=
  match s.agentWord ctx (va + 16) with
  | some w => getF w 0 16
  | none => 0

/-- Records of count 0 in the LMs of ranks, which an earlier reading had to wait for, are read. -/
def State.lateRecords (s : State) (isl : Nat) : State :=
  (s.disp isl).launches.foldl (fun t l => l.fates.zipIdx.foldl (fun u x =>
    if x.1 = .waiting && windowBase ≤ l.va x.2 && u.recordCount l.ctx (l.va x.2) = 0 then u.makeReady isl l.slot x.2 else u) t) s

/-! ## Acceptance (R400) -/

/-- A dispenser accepts a launch, or refuses it: the Bool is true for acceptance. -/
def State.launch (s : State) (isl ctx : Nat) (cap : GReg) (word : Word) : State × Bool :=
  let d := s.disp isl
  let n := getF word 0 16
  let e := getF word 18 8
  let base := cap.val.toNat % 2 ^ 48
  match s.dispatchBlock ctx with
  | none => (s, false)
  | some db =>
    match s.agentWords ctx db 8, s.agentWords ctx (db + 64 + 32 * e) 4 with
    | some _, some (w0 :: _) =>
      let q := if isl = 0 then getF w0 8 8 else getF w0 0 8
      let free := (List.range 1024).filter fun k => (d.launch k).isNone
      match s.queueEntry isl q with
      | none => (s, false)
      | some qe =>
        if !d.en || !bitOf w0 63 || !bitOf qe 63 || getF qe 48 12 ≠ ctx || 64 ≤ d.launches.countP (fun l => l.queue = q) ||
            free.isEmpty then (s, false)
        else
          let slot := free.getD (s.free % free.length) 0
          let lid := match s.agentWord ctx (base + 24) with
            | some w => getF w 0 32
            | none => 0
          let l : Launch :=
            ⟨slot, q, db + 64 + 32 * e, ctx, getF word 16 2, cap, base, lid, List.replicate n .waiting, [], none⟩
          let s1 := s.drawn.setDisp isl { d with launches := d.launches ++ [l] }
          let s2 := (List.range n).foldl (fun t i =>
            if t.recordCount ctx (l.va i) = 0 then t.makeReady isl slot i else t) s1
          (s2.laterOnce (.launchSweep (BitVec.ofNat 1 isl)), true)
    | _, _ => (s, false)

/-! ## Dependencies (R402) -/

/-- Decrements COUNT of a successor at its home; the second result is 0, or the status the decrementing launch takes. -/
def State.decrement (s : State) (ctx va : Nat) : State × Nat :=
  match s.agentLoc ctx (va + 16) true with
  | none => (s, 1)
  | some l =>
    let s1 := s.takeHome mcNode l
    let (v, t) := s1.homeWord l
    if t = tagPoison || t = tagSync then (s1, 1)
    else
      let c := getF v 0 16
      if c = 0 then (s1, 2)
      else
        let s2 := s1.writeHome mcNode l (setF v 0 16 (c - 1)) tagData
        if c = 1 then
          let hits := [0, 1].flatMap fun i => ((s2.disp i).launches.filterMap fun x =>
            match x.index ctx va with
            | some k => if x.fate k = .waiting then some (i, x.slot, k) else none
            | none => none)
          (match hits with
            | (i, sl, k) :: _ => s2.makeReady i sl k
            | [] => s2, 0)
        else (s2, 0)

/-- The successors of one ended task, in list order; from one in the LM of a rank in transit or absent on, they are decremented later
(R108, R192). -/
def State.decrements (s : State) (isl slot i ctx : Nat) : List Nat → State
  | [] => s
  | va :: r =>
    match s.agentWait ctx va with
    | some m =>
      let s1 := s.repeatLater ctx m
      let d := s1.disp isl
      (s1.setDisp isl { d with ended := (slot, i, va :: r) :: d.ended }).later (.dependencyDecrement (BitVec.ofNat 1 isl))
    | none =>
      let (s1, st) := s.decrement ctx va
      let s2 :=
        if st = 0 then s1
        else
          match (s1.disp isl).launch slot with
          | some l => s1.setLaunch isl (l.bad i st)
          | none => s1
      s2.decrements isl slot i ctx r

/-- DEPENDENCY_DECREMENT: the oldest ended task's successors. -/
def execDependencyDecrement (isl : BitVec 1) (s : State) : Out :=
  let i := isl.toNat
  .next (match (s.disp i).ended with
    | [] => s
    | (slot, k, succs) :: r =>
      let s1 := s.setDisp i { s.disp i with ended := r }
      match (s1.disp i).launch slot with
      | none => s1
      | some l => s1.decrements i slot k l.ctx succs)

/-- A member of a dispatched task has executed TEXIT (R178, R402). -/
def State.taskEnded (s : State) (lslot va : Nat) : State :=
  let isl := lslot / 1024
  match (s.disp isl).launch (lslot % 1024) with
  | none => s
  | some l =>
    match l.index l.ctx va with
    | none => s
    | some i =>
      match l.fate i with
      | .running k t =>
        if k ≤ 1 then s.endTask isl l.slot i t.succs else s.setLaunch isl (l.setFate i (.running (k - 1) t))
      | _ => s

/-! ## Effective priority (R406) -/

/-- The tasks of a launch that are ready or running. -/
def Launch.live (l : Launch) : List Task :=
  l.fates.filterMap fun f =>
    match f with
    | .ready _ t => some t
    | .running _ t => some t
    | _ => none

/-- Every unended launch with its island. -/
def State.launches (s : State) : List (Nat × Launch) :=
  s.disp0.launches.map (fun l => (0, l)) ++ s.disp1.launches.map (fun l => (1, l))

/-- Whether launch `b` depends on launch `a`. -/
def State.depends (s : State) (a b : Launch) : Bool :=
  a.live.any fun t => t.succs.any fun va => (b.index a.ctx va).isSome && s.recordCount a.ctx va ≠ 0

/-- One round of inheritance over (island, slot, effective priority). -/
def State.inherit (s : State) (p : List ((Nat × Launch) × Nat)) : List ((Nat × Launch) × Nat) :=
  p.map fun a => (a.1, p.foldl (fun r b => if s.depends a.1.2 b.1.2 then min r b.2 else r) a.2)

def State.inherits (s : State) (p : List ((Nat × Launch) × Nat)) : Nat → List ((Nat × Launch) × Nat)
  | 0 => p
  | k + 1 => s.inherits (s.inherit p) k

/-- The effective priorities of an island's launches, by slot. -/
def State.priorities (s : State) (isl : Nat) : List (Nat × Nat) :=
  let l := s.launches
  ((s.inherits (l.map fun x => (x, x.2.prio)) l.length).filter fun x => x.1.1 = isl).map fun x => (x.1.2.slot, x.2)

/-! ## Placement (R404, R405, R407) -/

/-- The nodes of an island's logical cores, in order. -/
def State.islandCores (s : State) (isl : Nat) : List Nat :=
  if isl = 0 then (List.range 512).map (s.coreNode 0) else (List.range 8).map (s.coreNode 1)

/-- A core waits for work (R404); one that is OFF waits for none (log 101). -/
def Core.waits (c : Core) : Bool := c.power != .off && !c.b1.occupied && !c.away && c.ready.isEmpty

/-- The pool tag in force: a pending one takes effect at the moment when the core waits for work (R411). -/
def Core.tagNow (c : Core) : Nat := if c.waits then c.poolNew.getD c.poolTag else c.poolTag

/-- A core's tag changes at a boundary, and DSP_POOL with it (R411). -/
def State.rebind (s : State) (n : Nat) : State :=
  let c := s.core n
  match c.poolNew with
  | some k =>
    let s1 := s.setCore n { c with poolTag := k, poolNew := none }
    let isl := b2n (isRill n)
    let g := if isl = 1 then 0 else groupOf n
    match (s1.poolCores isl g).find? (·.2 = n) with
    | some (i, _) =>
      let d := s1.disp isl
      s1.setDisp isl { d with pools := d.pools.set g (setF (d.pools.getD g 0) (2 * i) 2 k) }
    | none => s1
  | none => s

/-- Before a core that waits for work is given some: its wait was a boundary (R411). -/
def State.rebindIdle (s : State) (n : Nat) : State := if (s.core n).waits then s.rebind n else s

/-- Whether a node lies in a withheld group (R407). -/
def State.withheld (s : State) (n : Nat) : Bool := n < 0x400 && s.heldGroup (groupOf n)

/-- A core takes an unranked task of a context and pool: its own context's (log 101). -/
def State.takes (s : State) (ctx pool n : Nat) : Bool :=
  let c := s.core n
  c.waits && c.ctxid = ctx && !s.withheld n && (c.tagNow = 3 || c.tagNow = pool)

/-- Tiles (shapes 1 to 3) or groups (shape 4) of an island's cores. -/
def State.areas (s : State) (isl shape : Nat) : List (List Nat) :=
  let k := if shape = 4 then 16 else 4
  let l := s.islandCores isl
  (List.range (l.length / k)).map fun i => (l.drop (k * i)).take k

/-- Cores reserved for gang tasks other than this one. -/
def Dispenser.reservedFor (d : Dispenser) (slot i : Nat) : List Nat :=
  (d.reserve.filter fun r => !(r.1 = slot && r.2.1 = i)).flatMap (·.2.2)

/-- The nodes a ready task would be placed on now. -/
def State.placement (s : State) (isl : Nat) (l : Launch) (i : Nat) (t : Task) : Option (List Nat) :=
  let busy := (s.disp isl).reservedFor l.slot i
  if t.ranked then
    match s.rankEntry (s.readWord (s.rankLoc l.ctx t.hint)).2.1 with
    | .valid n => if !s.withheld n && (s.core n).ready.length < 16 && !busy.contains n then some [n] else none
    | _ => none
  else if t.shape = 0 then
    ((s.islandCores isl).find? fun n => s.takes l.ctx t.pool n && !busy.contains n).map fun n => [n]
  else
    let l1 := (s.areas isl t.shape).filter fun a => a.all fun n => s.takes l.ctx t.pool n && !busy.contains n
    l1[s.free % l1.length]?

/-- A ready task: effective priority, queue, order of readiness, record address, launch, index, task. -/
structure Cand where
  prio : Nat
  queue : Nat
  order : Nat
  va : Nat
  l : Launch
  i : Nat
  t : Task
  deriving DecidableEq, Repr

/-- The ready tasks of an island, at the effective priorities of the round; a launch newer than the round has its own (R406). -/
def State.cands (s : State) (isl : Nat) : List Cand :=
  let p := (s.disp isl).prios
  (s.disp isl).launches.flatMap fun l => l.fates.zipIdx.filterMap fun x =>
    match x.1 with
    | .ready n t => some ⟨(alGet p l.slot).getD l.prio, l.queue, n, l.va x.2, l, x.2, t⟩
    | _ => none

/-- Earlier of two candidates in the order of readiness, ties by record address (R408). -/
def Cand.before (a b : Cand) : Bool := a.order < b.order || (a.order = b.order && a.va ≤ b.va)

def firstCand : List Cand → Option Cand
  | [] => none
  | c :: r =>
    match firstCand r with
    | some d => some (if c.before d then c else d)
    | none => some c

/-- The gang task that heads a priority reserves the eligible tile or group with the most cores waiting, the lowest-numbered on
a tie, when no whole one is free (R404). -/
def State.reserveHead (s : State) (isl : Nat) (cs : List Cand) : State :=
  match firstCand cs with
  | none => s
  | some c =>
    let d := s.disp isl
    if c.t.shape = 0 || (s.placement isl c.l c.i c.t).isSome || d.reserve.any (fun r => r.1 = c.l.slot && r.2.1 = c.i) then s
    else
      let busy := d.reservedFor c.l.slot c.i
      let ok := (s.areas isl c.t.shape).filter fun a => a.all fun n =>
        (s.core n).power != .off && (s.core n).ctxid = c.l.ctx && !s.withheld n &&
          ((s.core n).tagNow = 3 || (s.core n).tagNow = c.t.pool) && !busy.contains n
      let count (a : List Nat) : Nat := a.countP fun n => (s.core n).waits
      match ok with
      | [] => s
      | a :: r =>
        let best := r.foldl (fun b x => if count b < count x then x else b) a
        s.setDisp isl { d with reserve := d.reserve ++ [(c.l.slot, c.i, best)] }

/-- The stack of a rank: STACK cut to its part, with its address at the top and only R and W (R404). -/
def State.cutStack (s : State) (ctx rank : Nat) : Option GReg :=
  match s.dispatchBlock ctx with
  | none => none
  | some db =>
    match s.agentLoc ctx db false, s.agentLoc ctx (db + 8) false, s.agentWord ctx (db + 16) with
    | some l0, some l1, some sz =>
      let (_, v, t0) := s.readWord l0
      let (_, sh, t1) := s.readWord l1
      let n := getF sz 0 32
      let lo := capBase v sh + (rank * n : Nat)
      let a := BitVec.ofInt 64 lo
      if t0 = tagCap && t1 = tagCap && capWell sh && getF sz 32 32 = 0 && n % 16 = 0 && 256 ≤ n && n ≤ 0x3FFFF0 && 0 ≤ lo &&
          capHolds v sh a then
        match setBounds false ⟨a, sh, .cap⟩ (w64 n) with
        | .ok g => some ⟨a + w64 n, setF g.sh 0 8 (capP g.sh &&& (pR ||| pW)), .cap⟩
        | .error _ => none
      else none
    | _, _, _ => none

/-- The task-record capability: gA at the record, with only R and LC. -/
def recordCap (g : GReg) (va : Nat) : GReg :=
  let a := w64 va
  ⟨a, setF g.sh 0 8 (capP g.sh &&& (pR ||| pLC)), if g.tag = .cap && capWell g.sh && capHolds g.val g.sh a then .cap else .data⟩

/-- Gang coordinates of a logical core number (R354). -/
def gangCoord (shape lc : Nat) : Nat × Nat :=
  match shape with
  | 0 => (0, 0)
  | 1 => (0, lc % 4)
  | 2 => (lc % 4, 0)
  | 3 => (lc % 4 / 2, lc % 2)
  | _ => (lc / 4 % 4, lc % 4)

/-- Cores of a shape (R353). -/
def shapeCores (shape : Nat) : Nat := if shape = 0 then 1 else if shape = 4 then 16 else 4

/-- The `k`-th member's entry of a ready queue (R424). -/
def State.readyEntry (s : State) (isl : Nat) (c : Cand) (n k : Nat) (stk : GReg) : Ready :=
  let rank := if c.t.ranked then c.t.hint else (s.core n).rank
  let (row, col) := gangCoord c.t.shape k
  let slot := getF (s.readWord (s.rankLoc c.l.ctx rank)).2.1 10 8
  ⟨dataReg (w64 (c.prio * 2 ^ 62 + c.t.shape * 2 ^ 58 + row * 2 ^ 56 + col * 2 ^ 54 + (isl * 1024 + c.l.slot) * 2 ^ 43 +
      rank * 2 ^ 33 + slot * 2 ^ 25 + 1)),
    dataReg (w64 c.t.entry), stk, recordCap c.l.cap c.va⟩

/-- Hands a placed task to its cores (R404, R405); it is placed later while STACK lies in the LM of a rank in transit or absent. -/
def State.dispatch (s : State) (isl : Nat) (c : Cand) (ns : List Nat) : State :=
  let rankOf (n : Nat) : Nat := if c.t.ranked then c.t.hint else (s.core n).rank
  let stks := ns.map fun n => s.cutStack c.l.ctx (rankOf n)
  let wait := (s.dispatchBlock c.l.ctx).bind (s.agentWait c.l.ctx ·)
  if wait.isSome then s.repeatLater c.l.ctx (wait.getD .later)
  else if stks.any Option.isNone then s.failTask isl c.l.slot c.i 3 c.t.succs
  else
    let s2 := s.setLaunch isl (c.l.setFate c.i (.running ns.length c.t))
    let s3 := (ns.zip stks).zipIdx.foldl (fun t p =>
      match p.1.2 with
      | some g =>
        let t1 := t.rebindIdle p.1.1
        let k := t1.core p.1.1
        t1.setSched p.1.1 { k with ready := k.ready ++ [t.readyEntry isl c p.1.1 p.2 g] }
      | none => t) s2
    s3.record mcNode 2 1 (w64 c.va)

/-- The queue that fills a slot at a priority: the one whose turn it is while it has QUOTA left and a placeable task, else the
next in ascending order (R408). -/
def State.turnQueue (s : State) (isl p : Nat) (qs : List Nat) : Nat × Nat × Nat :=
  let fresh (q : Nat) : Nat × Nat × Nat :=
    (q, 0, max 1 (match s.queueEntry isl q with | some w => getF w 0 16 | none => 1))
  let lowest := qs.foldl min (qs.headD 0)
  match alGet (s.disp isl).turn p with
  | none => fresh lowest
  | some (q, used, quota) =>
    if qs.contains q && used < quota then (q, used, quota)
    else
      match (qs.filter fun x => q < x) with
      | x :: r => fresh (r.foldl min x)
      | [] => fresh lowest

/-- Whether the cores reserved for a gang task are still needed: it is ready, or its threads have not all started (R404). -/
def State.reserved (s : State) (isl : Nat) (r : Nat × Nat × List Nat) : Bool :=
  match (s.disp isl).launch r.1 with
  | none => false
  | some l =>
    match l.fate r.2.1 with
    | .ready _ _ => true
    | .running _ _ => r.2.2.any fun n => (s.core n).ready.any fun q =>
        getF q.q0.val 43 11 = isl * 1024 + r.1 && q.q3.val = w64 (l.va r.2.1)
    | _ => false

/-- What a dispenser does before it fills a slot: effective priorities of a new round, reservations that have ended, late records. -/
def State.openSlot (s0 : State) (isl : Nat) : State :=
  let s := s0.lateRecords isl
  let d := s.disp isl
  s.setDisp isl
    { d with
      slot := (d.slot + 1) % 64, prios := if d.slot = 0 then s.priorities isl else d.prios
      reserve := d.reserve.filter (s.reserved isl ·) }

/-- One dispatch slot (R408). -/
def State.fillSlot (s : State) (isl : Nat) : State :=
  let n := (s.disp isl).slot
  let s1 := (List.range 4).foldl (fun t p => t.reserveHead isl ((t.cands isl).filter fun c => c.prio = p))
    (s.openSlot isl)
  let ok := (s1.cands isl).filter fun c => (s1.placement isl c.l c.i c.t).isSome
  let has (p : Nat) : Bool := ok.any fun c => c.prio = p
  match (if 61 ≤ n && has (n - 60) then some (n - 60) else (List.range 4).find? has) with
  | none => s1
  | some p =>
    let here := ok.filter fun c => c.prio = p
    let (q, used, quota) := s1.turnQueue isl p (here.map (·.queue))
    match firstCand (here.filter fun c => c.queue = q) with
    | none => s1
    | some c =>
      match s1.placement isl c.l c.i c.t with
      | none => s1
      | some ns =>
        let e := s1.disp isl
        ((s1.setDisp isl { e with turn := alSet e.turn p (q, used + 1, quota) }).drawn).dispatch isl c ns

/-- DISPATCH_SLOT: slots are offered as long as the dispenser is enabled. -/
def execDispatchSlot (isl : BitVec 1) (s : State) : Out :=
  .next (if (s.disp isl.toNat).en then (s.fillSlot isl.toNat).laterOnce (.dispatchSlot isl) else s)

/-! ## Launch end (R409, R410) -/

/-- Whether a core is idle for a launch slot. -/
def Core.idleFor (c : Core) (k : Nat) : Bool :=
  !((c.b1.occupied || c.away) && c.b1.launch = some k) && !([c.b2, c.b3].any fun b => b.occupied && b.launch = some k) &&
    !(c.ready.any fun r => getF r.q0.val 43 11 = k) && !(c.fifo.any fun e => e.launch = some k)

/-- The sums of a launch slot over every NI of the powered islands. -/
def State.sums (s : State) (k : Nat) : Nat × Nat :=
  s.cores.foldl (fun r p => ((r.1 + (alGet p.2.sent k).getD 0) % 2 ^ 32, (r.2 + (alGet p.2.received k).getD 0) % 2 ^ 32)) (0, 0)

/-- Whether a launch satisfies the conditions of a sweep; then its sums. -/
def State.sweepOk (s : State) (isl : Nat) (l : Launch) : Option (Nat × Nat) :=
  let k := isl * 1024 + l.slot
  let x := s.sums k
  let open_ := l.fates.any fun f =>
    match f with
    | .waiting => true
    | .ready _ _ => true
    | _ => false
  if x.1 = x.2 && !open_ && !((s.disp isl).ended.any fun e => e.1 = l.slot) && s.cores.all (fun p => p.2.idleFor k) then some x
  else none

/-- The period of 2048 router cycles at this time; the time base advances at 5/6 of the router clock (R120, R409). -/
def State.sweepPeriod (s : State) : Nat := s.time.toNat * 6 / 10240

/-- LAUNCH_SWEEP, once in each period: a launch has ended when two successive sweeps satisfy the conditions with the same sums. -/
def execLaunchSweep (isl : BitVec 1) (s : State) : Out :=
  let i := isl.toNat
  let d := s.disp i
  .next (if d.launches.isEmpty then s
    else if s.sweepPeriod ≤ d.swept then s.laterOnce (.launchSweep isl)
    else
      let r := d.launches.map fun l => (l, s.sweepOk i l)
      let done := r.filter fun p => p.2.isSome && p.1.seen = p.2
      let s1 := s.setDisp i { d with launches := r.map fun p => { p.1 with seen := p.2 }, swept := s.sweepPeriod }
      let s2 := done.foldl (fun t p => t.laterOnce (.launchEnd isl (BitVec.ofNat 10 p.1.slot))) s1
      s2.laterOnce (.launchSweep isl))

/-- The end of a launch: word 2 of its entry, then DONE, then its slot is freed with the slot's counters clear. -/
def State.endLaunch (s : State) (isl : Nat) (l : Launch) : State :=
  let first := l.bads.head?
  let w2 := match first with
    | some (i, st) => w64 (i % 2 ^ 16 * 2 ^ 48 + st * 2 ^ 32 + l.lid)
    | none => w64 (0xFFFF * 2 ^ 48 + l.lid)
  let s1 := s.agentStore l.ctx (l.entry + 16) w2
  let s2 := match s1.agentWord l.ctx (l.entry + 8) with
    | some v => s1.agentStore l.ctx (l.entry + 8) (v + 1)
    | none => s1
  let k := isl * 1024 + l.slot
  let s3 : State := { s2 with cores := s2.cores.map fun p =>
    (p.1, { p.2 with sent := p.2.sent.filter (·.1 ≠ k), received := p.2.received.filter (·.1 ≠ k) }) }
  let d := s3.disp isl
  (s3.setDisp isl
    { d with launches := d.launches.filter (·.slot ≠ l.slot), prios := d.prios.filter (·.1 ≠ l.slot) }).record mcNode 2 3 (w64 (k * 2 ^ 32 + l.lid))

/-! ## Scheduling pools (R411) -/

/-- POOL_REBIND: at a moment when the core waits for work. -/
def execPoolRebind (node : BitVec 12) (s : State) : Out :=
  let n := node.toNat
  .next (if (s.core n).poolNew.isNone then s
    else if (s.core n).waits then s.rebind n else s.laterOnce (.poolRebind node))

/-- The core of a group that the occupancy monitor marks for a pool in need: of a pool other than it with no placeable task and no
waiting work, the lowest-numbered core that waits for work, or else the lowest-numbered. -/
def markCore (s : State) (ns : List Nat) (busyPools : List Nat) (need : Nat) : Option Nat :=
  let other := ns.filter fun n => let t := (s.core n).tagNow; t ≠ need && !busyPools.contains t
  match other.head? with
  | none => none
  | some f =>
    let same := other.filter fun n => (s.core n).tagNow = (s.core f).tagNow
    some ((same.find? fun n => (s.core n).waits).getD f)

/-- OCCUPANCY_WINDOW: while REBIND is 1, cores are marked for the pools in need. -/
def execOccupancyWindow (isl : BitVec 1) (s : State) : Out :=
  let i := isl.toNat
  let d := s.disp i
  let cs := s.cands i
  let work (p : Nat) : Bool := cs.any fun c => c.t.pool = p && !c.t.ranked
  let need := [0, 1, 2].filter fun p =>
    work p && !((s.islandCores i).any fun n => (s.core n).tagNow = p && (s.core n).waits)
  let busy := [0, 1, 2, 3].filter work
  let groups := if i = 0 then (List.range 32).map fun g => (g, (List.range 16).map fun j => s.coreNode 0 (16 * g + j))
    else [(0, s.islandCores 1)]
  let s1 := need.foldl (fun t p => groups.foldl (fun u g =>
    match markCore u g.2 busy p with
    | some n => (u.setCore n { u.core n with poolNew := some p }).laterOnce (.poolRebind (BitVec.ofNat 12 n))
    | none => u) t) s
  .next (if d.rebind then s1.laterOnce (.occupancyWindow isl) else s)

/-! ## Ending a thread (R319, R344, R454) -/

/-- An engine that holds nothing keeps its spill slot and its waiting berths (R344). -/
def Engine.toFree (e : Engine) : Engine :=
  { e with held := false, oen := false, ogang := false, acc := Vector.replicate 4 .empty, progress := none, flight := none }

/-- Whether a berth of the core is the engine's owner (R340). -/
def Engine.owner (e : Engine) (i : Nat) (b : Berth) : Bool :=
  e.held && e.ob = i && e.obase = getF b.mspill 14 3 && bitOf b.mspill 63

/-- Whether the spill slot holds a berth's state (R343). -/
def Engine.slotFor (e : Engine) (i : Nat) (b : Berth) : Bool :=
  match e.slot with
  | some p => bitOf b.mspill 63 && p.ob = i && p.obase = getF b.mspill 14 3
  | none => false

/-- A berth gives up what it holds of the engine. -/
def Engine.release (e : Engine) (i : Nat) (b : Berth) : Engine :=
  if e.owner i b then e.toFree else if e.slotFor i b then { e with slot := none } else e

/-- LEASE as it stands now: REM of an active lease counts down in µs of 1000 ticks (R120, R454). -/
def Berth.leaseNow (b : Berth) (now : Word) : Word :=
  if getF b.lease 61 3 = 1 then
    let r := getF b.lease 0 14 - (now - b.leaseAt).toNat / 1000
    setF (if r = 0 then setF b.lease 61 3 3 else b.lease) 0 14 r
  else b.lease

/-- The berth with its lease brought up to date. -/
def Berth.countLease (b : Berth) (now : Word) : Berth :=
  { b with lease := b.leaseNow now, leaseAt := b.leaseAt + w64 ((now - b.leaseAt).toNat / 1000 * 1000) }

/-- The lease of a thread gets a fate while it is active or frozen (R453, R454). -/
def Berth.endLease (b : Berth) (now : Word) (fate : Nat) : Berth :=
  let b1 := b.countLease now
  let f := getF b1.lease 61 3
  if f = 1 || f = 2 then { b1 with lease := setF b1.lease 61 3 fate } else b1

/-- A lease that goes on in a saved LEASE word leaves its berth (R437, R454). -/
def Berth.handLease (b : Berth) : Berth :=
  if getF b.lease 61 3 = 1 || getF b.lease 61 3 = 2 then { b with lease := 0 } else b

/-- A berth whose thread has ended: its files are EMPTY; port registers have no file state. -/
def Berth.emptied (b : Berth) : Berth :=
  { b with
    occupied := false, stopped := false, seqOn := false, g := Vector.replicate 64 GReg.none, v := Vector.replicate 32 ⟨0, false⟩
    k := Vector.replicate 4 ⟨0, false⟩, ox := Vector.replicate 4 ⟨0, false⟩, mspill := setF b.mspill 63 1 0
    gang := none, launch := none, task := 0, wait := .none, rsp := [], fetched := none }

/-- What happens at a core when B1 becomes empty: a pending TIMER or PREEMPT for it is dropped (R416). -/
def Core.emptyB1 (c : Core) (now : Word) : Core :=
  { c with
    b1 := if c.b1.timerDue now then { c.b1.emptied with timecmp := 0 } else c.b1.emptied
    preempt := none }

/-! ## The TASK instructions (R319) -/

/-- LAUNCH's own checks and access. -/
def launchNeed (a : BitVec 6) (g : GReg) (x : Word) : Need :=
  ⟨g, a.toNat, g.val, 32 * getF x 0 16, pR, true, false, false, 32⟩

/-- The triggers of KIND 3 that a held LAUNCH for an island queue fires (R451). -/
def State.launchTriggers (s : State) (q : Option Nat) : State :=
  let hit := (List.range 16).filter fun i =>
    match s.cascades[i]? with
    | some t => s.arm.getLsbD i && t.kind = 3 && (t.param.toNat.testBit 8 || some (t.param.toNat % 256) = q)
    | none => false
  hit.foldl (fun t i => t.laterOnce (.cascadeFire (BitVec.ofNat 4 i))) s

/-- The island queue that a launch of a context names. -/
def State.launchQueue (s : State) (isl ctx : Nat) (x : Word) : Option Nat := do
  let db ← s.dispatchBlock ctx
  let w ← s.agentWord ctx (db + 64 + 32 * getF x 18 8)
  pure (if isl = 0 then getF w 8 8 else getF w 0 8)

/-- What a LAUNCH waits for: its dispatch block may lie in the LM of a rank in transit or absent (R108, R192). -/
def State.launchWait (s : State) (x : Word) : Option LmWait :=
  (s.dispatchBlock s.here.ctxid).bind fun db =>
    [db, db + 64 + 32 * getF x 18 8].findSome? (s.agentWait s.here.ctxid ·)

/-- LAUNCH; it releases (R131). It checks the launch word, then the priority, then gA's range: the order is the model's choice (log 114). -/
def execLaunch (d a b : BitVec 6) (s : State) : Out :=
  run s (do
    nativeOnly s
    op s [.g a, .g b] [.g d] 4 fun t vs => do
      let x := argW vs 1
      let isl := getF x 26 1
      check (getF x 0 16 ≠ 0 && getF x 27 37 = 0) .copyform x
      check (t.kern || getF x 16 2 ≠ 0) .priv x
      let n := launchNeed a (arg vs 0).g x
      preChecks t.kern n
      let (t1, w) ← locate t n
      match w with
      | .device _ => deviceTrap t1 n.ea
      | .remote r _ => (do let _ ← windowCheck t1 n r; .ok ())
      | .here _ => .ok ()
      if isl = 0 && isRill t1.cur && !t1.bridge then
        .error (.wait ((t1.launchTriggers (t1.launchQueue 0 t1.here.ctxid x)).setMe { t1.me with wait := .bridge }))
      else if (t1.launchWait x).isSome then .error (.wait (t1.repeatLater t1.here.ctxid ((t1.launchWait x).getD .later)))
      else do
        released t1 scDevice
        let (t2, ok) := t1.launch isl t1.here.ctxid (arg vs 0).g x
        .ok (t2, [.data (if ok then 0 else 1)]))

/-- TEXIT; it releases (R131). -/
def execTexit (s : State) : Out :=
  run s (do
    nativeOnly s
    check (s.cb ≠ 0) .illegal (wordR 0x45 1 0 0 0 0)
    if s.here.engine.mmaBusy s.cb then .error (.wait s) else .ok ()
    released s scDevice
    .ok (
      let b := s.me
      let s1 := s.record s.cur 2 2 (w64 b.task)
      let c := s1.here
      let c1 := { c with engine := c.engine.release s.cb b, b1 := c.b1.endLease s.time 6 }
      let s2 := s1.setHere (c1.emptyB1 (s.timeAt s.cur))
      match b.launch with
      | some k => s2.taskEnded k b.task
      | none => s2))

/-- TYIELD: PREEMPT with reason 1, EPC at the next instruction. B1 stops there at once: while B0 is busy, or an entry before it in the
order of R418 leaves B1 running, it waits there for the PREEMPT (log 33). -/
def execTyield (s : State) : Out :=
  run s (do
    nativeOnly s
    check (s.cb ≠ 0) .illegal (wordR 0x45 2 0 0 0 0)
    let t := s.retire 4
    if s.me.gang.isSome then .ok t
    else
      let c := t.here
      let t1 := t.setHere { c with preempt := some (c.preempt.getD 1) }
      let t2 := t1.takeEntry t1.cur
      .ok (if t2.here.b1.stopped then t2 else t2.stopBerth t2.cur 1))

/-- LBND: a boundary of R411 and R456; while a move of the context waits for boundaries, the thread stops after it. -/
def execLbnd (a : BitVec 6) (s : State) : Out :=
  run s (do
    nativeOnly s
    let t ← op s [.g a] [] 4 fun t vs => .ok (t.record t.cur 2 4 (w64 (getF (argW vs 0) 0 32)), [])
    if s.cb ≠ 1 then .ok t
    else
      let t1 := t.rebind t.cur
      if t1.portage.phase = 1 && getF t1.portage.run 0 12 = t1.here.ctxid then .ok (t1.setMe { t1.me with wait := .lbnd })
      else .ok t1)

end Sys2Proof.Machine
end

