-- ==== Sys2Proof/Machine/Matrix.lean ====
section
/-! DEFINITION. The matrix engine: holding, spill and reload, tile headers, block-exact accumulation, gangs, and the MAT
instructions (R244 to R247, R340 to R364). -/

namespace Sys2Proof.Machine

/-! ## The accumulators -/

def Engine.allEmpty (e : Engine) : Bool := e.acc.toList.all (· == .empty)

/-- The form code of an accumulator (R360). -/
def Acc.form : Acc → Nat
  | .empty => 0
  | .fp32 _ => 1
  | .int32 _ => 2

def Acc.elems : Acc → List (BitVec 32)
  | .empty => List.replicate 1024 0
  | .fp32 e => e
  | .int32 e => e

def Acc.ofForm (form : Nat) (e : List (BitVec 32)) : Acc :=
  match form with
  | 0 => .empty
  | 1 => .fp32 e
  | _ => .int32 e

/-- Completes block BLK of a stopped MMA and counts it (R347, before a spill or an MSAVE). -/
def Engine.countBlock (e : Engine) : Engine :=
  match e.progress with
  | some p =>
    match p.kept with
    | some b =>
      { e.addBlocks p.acc [b] with progress := some { p with blk := p.blk + 1, kept := none, til := p.til || b.til } }
    | none => e
  | none => e

/-- Any other MAT instruction of the owner: block BLK is completed and PEND cleared (R347). -/
def Engine.dropPending (e : Engine) : Engine := { e.countBlock with progress := none }

/-! ## Holding the engine (R343) -/

/-- The issuer's hold on the engine. -/
inductive Hold | owner | claim | without
  deriving DecidableEq, Repr

def Engine.wait (e : Engine) (i : Nat) : Engine :=
  if e.waiting.contains i then e else { e with waiting := e.waiting ++ [i] }

/-- Whether the engine's owner is parked: OB's berth holds no thread that is the owner. -/
def Core.parked (c : Core) : Bool :=
  c.engine.held && !((c.engine.ob = 0 || c.b1.occupied) && c.engine.owner c.engine.ob (c.berth c.engine.ob))

def Berth.mclass (b : Berth) : Nat := getF b.prio 0 2

/-- Whether a waiting claim lets the owner be spilled: it is parked, or a decode claimant meets a prompt owner (R343, R346). -/
def Core.maySpill (c : Core) (cls : Nat) : Bool :=
  c.engine.held && !c.engine.ogang && c.engine.slot.isNone && (c.parked || (cls = 2 && c.engine.oclass = 1))

/-- Whether the spill slot's owner waits for the engine and is to be served next: the claim that a spill was made for comes before it. -/
def Core.slotWaits (c : Core) : Bool :=
  match c.engine.slot with
  | some p => c.engine.grant.isNone && !p.lost && c.engine.waiting.contains p.ob && c.engine.slotFor p.ob (c.berth p.ob)
  | none => false

/-- Waits for the engine; `ev` is what the wait sets off. -/
def matWait {α : Type} (s : State) (ev : Option Event) : M α :=
  let c := s.here
  let s1 := s.setHere { c with engine := c.engine.wait s.cb }
  .error (.wait (match ev with | some e => s1.laterOnce e | none => s1))

/-- The engine executes a thread's MAT instructions one at a time, in program order: one waits while an MMA that the thread has gone
past is in flight (R355). -/
def matOrder (s : State) : M Unit := if s.here.engine.mmaBusy s.cb then .error (.wait s) else .ok ()

/-- Resolves the issuing thread's hold on the engine (R343). -/
def resolveHold (s : State) (claims : Bool) : M Hold := do
  matOrder s
  let e := s.here.engine
  let b := s.me
  let n := BitVec.ofNat 12 s.cur
  if e.owner s.cb b then .ok .owner
  else if bitOf b.mspill 63 then
    (if e.slotFor s.cb b && !(e.slot.any (·.lost)) then matWait s (if e.held then none else some (.engineReload n))
     else
       let c := s.here
       let t := s.setHere { c with engine := if e.slotFor s.cb b then { e with slot := none } else e }
       .error (.keep (t.setMe { t.me with mspill := setF b.mspill 63 1 0 }) .spillfault b.mspill))
  else if !claims then .ok .without
  else if !e.held then
    (if e.grant = some s.cb then .ok .claim
     else if e.grant.isSome || s.here.slotWaits || (e.waiting.head?.any (· ≠ s.cb)) then matWait s none
     else .ok .claim)
  else if s.here.maySpill b.mclass then
    matWait (s.setHere { s.here with engine := { e with grant := e.grant.or (some s.cb) } }) (some (.engineSpill n))
  else matWait s none

/-- The engine HELD by a berth with no accumulator written (R340). -/
def Engine.claimed (e : Engine) (i : Nat) (b : Berth) : Engine :=
  { (e.toFree).unwait i with
    held := true, ob := i, obase := getF b.mspill 14 3, oen := bitOf b.mspill 0, oclass := b.mclass, ogang := b.gang.isSome }

/-- The state after a hold is resolved for an instruction that claims: HELD and OWN 1. -/
def State.takeHold (s : State) (h : Hold) : State :=
  match h with
  | .claim =>
    let c := s.here
    let t := s.setHere { c with engine := c.engine.claimed s.cb s.me }
    t.setMe { t.me with mspill := setF t.me.mspill 63 1 1 }
  | _ => s

def State.setEngine (s : State) (e : Engine) : State := s.setHere { s.here with engine := e }

/-- A stopped gang MMA of a thread is over (R363). -/
def Berth.endStep (b : Berth) : Berth := { b with gang := b.gang.map fun g => { g with mid := none } }

/-- A stopped MMA that never completes: block BLK is added, PEND cleared, and the flags of its blocks set (R239, R347). -/
def State.dropPending (s : State) : State :=
  match s.here.engine.progress with
  | some p =>
    let s1 := s.setEngine s.here.engine.dropPending
    let s2 := s1.setMe s1.me.endStep
    if p.til || p.kept.any (·.til) then s2.addFlags flTIL else s2
  | none => s

/-- After an instruction that leaves all accumulators EMPTY the engine is FREE and OWN 0 (R344). -/
def State.freeIfEmpty (s : State) : State :=
  if s.here.engine.allEmpty then
    let s1 := s.setEngine s.here.engine.toFree
    s1.setMe { s1.me with mspill := setF s1.me.mspill 63 1 0 }
  else s

/-! ## Spill and reload (R345) -/

/-- The 512 words of an accumulator. -/
def accWords (a : Acc) : List Word :=
  let e := a.elems
  (List.range 512).map fun i => (e.getD (2 * i) 0).setWidth 64 ||| ((e.getD (2 * i + 1) 0).setWidth 64 <<< 32)

/-- Elements of an accumulator from its words. -/
def wordsAcc (ws : List Word) : List (BitVec 32) := ws.flatMap fun (w : Word) => [w.setWidth 32, (w >>> 32).setWidth 32]

/-- Writes the four accumulators of an engine to a region of the core's LM. -/
def State.writeRegion (s : State) (n base : Nat) (e : Engine) : State :=
  s.writeWords n (lmLoc n (base * 0x4000)) (e.acc.toList.flatMap accWords)

/-- The accumulators that a region holds. -/
def State.readRegion (s : State) (n base : Nat) (forms : List Nat) : Vector Acc 4 :=
  Vector.ofFn fun i => Acc.ofForm (forms.getD i.val 0) (wordsAcc (s.readWords (lmLoc n (base * 0x4000 + 0x1000 * i.val)) 512))

/-- The accumulators of a spilled state: its region's, with the blocks that a stop has left owed (R355; log 36). -/
def State.spilledAccs (s : State) (n : Nat) (p : Spill) : Vector Acc 4 :=
  let e : Engine := { Engine.free with acc := s.readRegion n p.obase p.forms }
  match p.owed with
  | some f => (e.addBlocks f.acc f.blocks).acc
  | none => e.acc

/-- The spilled state as an engine: its accumulators, its record as a stop leaves it. -/
def State.spilledEngine (s : State) (n : Nat) (p : Spill) : Engine :=
  let e : Engine := { Engine.free with acc := s.spilledAccs n p }
  match p.flight with
  | some f => if f.past then e.addBlocks f.acc f.blocks else { e with progress := some f.stopped }
  | none => { e with progress := p.progress }

/-- `State.dropPending` for an instruction that does not resolve its hold: the issuer's stopped MMA, in the engine or spilled, whose
block BLK is then completed into its region (R347). -/
def State.endPending (s : State) : State :=
  let e := s.here.engine
  if e.owner s.cb s.me then s.dropPending
  else
    match e.slot with
    | some p =>
      if e.slotFor s.cb s.me then
        match p.progress with
        | some q =>
          let s0 := if p.lost || q.kept.isNone then s
            else s.writeRegion s.cur p.obase (s.spilledEngine s.cur p).countBlock
          let s1 := s0.setEngine { e with slot := some { p with progress := none, owed := none } }
          let s2 := s1.setMe s1.me.endStep
          if q.til || q.kept.any (·.til) then s2.addFlags flTIL else s2
        | none => s
      else s
    | none => s

/-- ENGINE_SPILL: the owner's state moves to its region and the slot, when the claim that called for it still waits; an owner whose MMA
is in flight waits from then on, behind that claim. Its pins end (R77). -/
def execEngineSpill (node : BitVec 12) (s : State) : Out :=
  let n := node.toNat
  let c := s.core n
  let e := c.engine
  .next (if !(e.grant.any fun i => c.maySpill (c.berth i).mclass) then s
    else
      let e1 := match e.flight with
        | some f =>
          { e.addBlocks f.acc (f.blocks.take 1) with
            waiting := (e.wait f.berth).waiting
            flight := some { f with next := f.next + (f.blocks.take 1).length, blocks := f.blocks.tail, pins := []
                                    til := f.til || (f.blocks.take 1).any (·.til) } }
        | none => e.countBlock
      let oen := if c.parked then e.oen else bitOf (c.berth e.ob).mspill 0
      let lost := !(oen && e.obase ≤ 5)
      let p : Spill := ⟨e.ob, e.obase, e.oclass, e1.acc.toList.map Acc.form, e1.progress, e1.flight, lost, none⟩
      let s1 := if lost then s else s.writeRegion n e.obase e1
      (s1.setCore n { s1.core n with engine := { e1.toFree with slot := some p } }).settlePins n)

/-- ENGINE_RELOAD: the slot's state comes back for its waiting owner; one whose MMA is in flight waits on while it cannot (R343). -/
def execEngineReload (node : BitVec 12) (s : State) : Out :=
  let n := node.toNat
  let c := s.core n
  .next (match c.engine.slot with
    | some p =>
      if c.engine.held || !c.slotWaits then (if p.flight.isSome then s.laterOnce (.mmaComplete node) else s)
      else
        let b := c.berth p.ob
        let e : Engine :=
          { (c.engine.toFree).unwait p.ob with
            held := true, ob := p.ob, obase := p.obase, oclass := p.oclass, oen := bitOf b.mspill 0, ogang := b.gang.isSome
            acc := s.spilledAccs n p, progress := p.progress, flight := p.flight, slot := none }
        let s1 := s.setCore n { c with engine := e }
        if p.flight.isSome then s1.laterOnce (.mmaComplete node) else s1
    | none => s)

/-! ## Tile headers (R348 to R350) -/

/-- A tile header as read. -/
structure Tile where
  addr : Nat
  data : GReg
  scale : GReg
  rows : Nat
  cols : Nat
  stride : Nat
  fmt : Nat
  smode : Nat
  flags : Nat
  rsv : Nat
  korg : Nat
  deriving DecidableEq, Repr

def Tile.u (t : Tile) : Bool := t.flags.testBit 0
def Tile.w32 (t : Tile) : Bool := t.flags.testBit 1

/-- The access to a tile header's 48 bytes. -/
def tileNeed (code : BitVec 6) (base : GReg) : Need := ⟨base, code.toNat, base.val, 48, pR, true, false, false, 16⟩

/-- The remote accesses that the read of a header makes (R110). -/
def tileReads (s : State) (code : BitVec 6) (base : GReg) : Nat :=
  match locate s (tileNeed code base) with
  | .ok (_, .remote _ _) => (pieces base.val.toNat 48 48).length + 2
  | _ => 0

/-- Check 1 of R352: the header's address, its 48 bytes; `i0` counts the remote accesses made before. -/
def tileHeader (s : State) (code : BitVec 6) (base : GReg) (i0 : Nat := 0) : M (State × Tile) := do
  let a := tileNeed code base
  preChecks s.kern a
  let (s1, x, cs) ← loadBlock s a [0, 16] i0
  let cap (o : Nat) (i : Nat) : GReg :=
    ⟨w64 (blockF x o 8), w64 (blockF x (o + 8) 8), if cs.getD i false then .cap else .data⟩
  .ok (s1, ⟨base.val.toNat, cap 0 0, cap 16 1, blockF x 32 2, blockF x 34 2, blockF x 36 4, blockF x 40 1 % 16,
    blockF x 40 1 / 16, blockF x 41 1, blockF x 42 2, blockF x 44 4⟩)

/-- HDRFMT with a reason (R352). -/
def hdrCheck (p : Bool) (t : Tile) (reason : Nat) : M Unit := check p .hdrfmt (w64 (reason * 2 ^ 56 + t.addr % 2 ^ 48))

/-- Bytes of an element. -/
def Tile.elem (t : Tile) (w32 : Bool) : Nat := if w32 then 4 else if t.fmt ≤ 1 then 2 else 1

/-- Row length in bytes (R350). -/
def Tile.rowLen (t : Tile) (w32 : Bool) : Nat :=
  if w32 then 4 * t.cols
  else
    match t.fmt with
    | 0 => 2 * t.cols
    | 1 => 2 * t.cols
    | 4 => (t.cols + 1) / 2
    | 6 => (t.cols + 1) / 2
    | 7 => (t.cols + 4) / 5
    | _ => t.cols

/-- Reason 1: reserved values, and U without FMT 5. -/
def Tile.reserved (t : Tile) (w32 : Bool) : Bool :=
  (!w32 && 8 ≤ t.fmt) || 4 ≤ t.smode || 4 ≤ t.flags || t.rsv ≠ 0 || (t.u && t.fmt ≠ 5)

/-- Reason 3, the part about SMODE 0: the SCALE slot is not a DATA zero pair. -/
def Tile.scaleSlotBad (t : Tile) : Bool := t.smode = 0 && t.scale ≠ GReg.zero

/-- Reason 4. -/
def Tile.sizeBad (t : Tile) (w32 : Bool) : Bool := t.rows = 0 || t.cols = 0 || (1 < t.rows && t.stride < t.rowLen w32)

/-- Check 3 of R352. -/
def tileCaps (kern : Bool) (t : Tile) : M Unit := do
  check (kern || t.data.tag = .cap) .captag (w64 t.addr)
  check (kern || t.smode = 0 || t.scale.tag = .cap) .captag (w64 (t.addr + 16))

/-- Check 4 of R352. -/
def tileAligns (t : Tile) (w32 : Bool) : M Unit := do
  check (t.data.val.toNat % t.elem w32 = 0) .align t.data.val
  check (t.rows = 1 || t.stride % t.elem w32 = 0) .align (t.data.val + w64 t.stride)

/-- Checks 3 and 4 of R352 for one header. -/
def tileSlots (kern : Bool) (t : Tile) (w32 : Bool) : M Unit := do
  tileCaps kern t
  tileAligns t w32

/-- One range of tile data or scales: the slot's address, the slot, the range. -/
structure Range where
  slot : Nat
  base : GReg
  ea : Word
  n : Nat
  deriving DecidableEq, Repr

def insertRange (r : Range) : List Range → List Range
  | [] => [r]
  | x :: l => if r.ea.toNat < x.ea.toNat then r :: x :: l else x :: insertRange r l

/-- Ranges in ascending address order. -/
def sortRanges (l : List Range) : List Range := l.foldl (fun a r => insertRange r a) []

/-- Check 5 of R352 for a list of ranges in order: R32 steps 2 to 9; another rank's window traps MIGFAULT. -/
def rangeChecksFor (rd wr : Bool) : State → List Range → M (State × List (Range × List (Piece × Loc)))
  | s, [] => .ok (s, [])
  | s, r :: rs => do
    let a : Need := ⟨r.base, r.slot, r.ea, r.n, (if rd then pR else 0) ||| (if wr then pW else 0), rd, wr, false, 0⟩
    capChecks s.kern a
    let (s1, w) ← locate s a
    match w with
    | .here l => do
      let (s2, out) ← rangeChecksFor rd wr s1 rs
      .ok (s2, (r, l) :: out)
    | .remote _ _ => trap .migfault r.ea
    | .device _ => deviceTrap s1 r.ea

/-- The same for ranges that are only written or only read. -/
def rangeChecks (wr : Bool) (s : State) (rs : List Range) : M (State × List (Range × List (Piece × Loc))) :=
  rangeChecksFor (!wr) wr s rs

/-- The bytes of checked ranges as numbers, POISON trapping (R88). -/
def rangeLoads : State → List (Range × List (Piece × Loc)) → M (State × List (Range × Nat))
  | s, [] => .ok (s, [])
  | s, (r, l) :: rs => do
    let s1 ← loadCheck s.cur s l
    let (s2, x) := loadPieces s1.cur s1 l
    let (s3, out) ← rangeLoads s2 rs
    .ok (s3, (r, x) :: out)

/-- The home lines outside LM that ranges touch. -/
def rangeLines (l : List (Range × List (Piece × Loc))) : List Nat :=
  ((l.flatMap fun p => p.2.filterMap fun q => if q.2.kind = .lm then none else some (q.2.key / 64)).eraseDups)

/-- The lines that a fetch still pins once it has read them all: the last read come first, and at most 256 lines and 4 of a set of
the L1 stand; the pins of lines read before have ended, as the fetch waited for them (R77; log 92). -/
def limitPins (l : List Nat) : List Nat :=
  l.foldr (fun k r => if r.length < 256 && (r.filter (· % 1024 = k % 1024)).length < 4 then k :: r else r) []

/-! ## The sub-tile (R353, R354) -/

def Core.row0 (c : Core) : Nat := getF c.geom 32 16
def Core.col0 (c : Core) : Nat := getF c.geom 48 16
def Core.crow (c : Core) : Nat := getF c.geom 2 2
def Core.ccol (c : Core) : Nat := getF c.geom 0 2
def Core.shape (c : Core) : Nat := getF c.geom 8 3

/-- The rows m of output that a core's accumulators stand for, below an extent. -/
def Core.rowsBelow (c : Core) (n : Nat) : List Nat := ((List.range 32).map (c.row0 + 32 * c.crow + ·)).filter (· < n)

/-- The columns n of output. -/
def Core.colsBelow (c : Core) (n : Nat) : List Nat := ((List.range 32).map (c.col0 + 32 * c.ccol + ·)).filter (· < n)

/-! ## Operands of an MMA (R351, R352, R356) -/

def Tile.row (t : Tile) (m : Nat) : Word := t.data.val + w64 (m * t.stride)

def Tile.blocks (t : Tile) : Nat := (t.cols + 47) / 48

/-- The bytes of a row before block `j` (R350). -/
def Tile.blockOff (t : Tile) (j : Nat) : Nat :=
  match t.fmt with
  | 0 => 96 * j
  | 1 => 96 * j
  | 4 => 24 * j
  | 6 => 24 * j
  | 7 => 48 * j / 5
  | _ => 48 * j

/-- The bytes of blocks `j0` on of row `m`. -/
def Tile.dataRange (t : Tile) (j0 m : Nat) : Range :=
  ⟨t.addr, t.data, t.row m + w64 (t.blockOff j0), t.rowLen false - t.blockOff j0⟩

/-- The scale bytes of blocks `j0` on of row `m`. -/
def Tile.scaleRange (t : Tile) (j0 m : Nat) : Range :=
  let k (o n : Nat) : Range := ⟨t.addr + 16, t.scale, t.scale.val + w64 o, n⟩
  match t.smode with
  | 1 => k (m * t.blocks + j0) (t.blocks - j0)
  | 2 => k j0 (t.blocks - j0)
  | _ => k 0 (min 1 (t.blocks - j0))

/-- The data and scale ranges of blocks `j0` on of some rows. -/
def Tile.ranges (t : Tile) (j0 : Nat) (rows : List Nat) : List Range :=
  let sc := match t.smode with
    | 0 => []
    | 1 => rows.map (t.scaleRange j0)
    | _ => (rows.take 1).map (t.scaleRange j0)
  (rows.map (t.dataRange j0) ++ sc).filter (0 < ·.n)

/-- The value loaded for a range. -/
def rangeVal (l : List (Range × Nat)) (r : Range) : Nat :=
  match l.find? fun p => p.1 = r with
  | some p => p.2
  | none => 0

/-- The rows of a panel from the loaded ranges of its blocks `j0` on. -/
def Tile.panel (t : Tile) (l : List (Range × Nat)) (j0 : Nat) (rows : List Nat) : Panel :=
  rows.map fun m =>
    let scales := (List.range t.blocks).map fun j =>
      match t.smode with
      | 0 => 0x7F
      | 3 => rangeVal l (t.scaleRange j0 m) % 256
      | _ => rangeVal l (t.scaleRange j0 m) / 2 ^ (8 * (j - j0)) % 256
    (rangeVal l (t.dataRange j0 m) * 2 ^ (8 * t.blockOff j0), scales)

/-- The pair of formats that R351 allows with an accumulator's form. -/
def pairOk (form fa fb : Nat) : Bool :=
  if treeFmt fa || treeFmt fb then fa = fb && form = 1
  else if intFmt fa && intFmt fb then true
  else !intFmt fa && !intFmt fb && form = 1

/-- Check 1 of an MMA: both headers. -/
def mmaTiles (s : State) (a b : BitVec 6) (ha hb : GReg) : M (State × Tile × Tile) := do
  let (s1, x) ← tileHeader s a ha
  let (s2, y) ← tileHeader s1 b hb (tileReads s a ha)
  .ok (s2, x, y)

/-- Check 2 of R352 for one header of an MMA by itself: reasons 1, 3 (its SCALE slot), 4 and 5 in that order (log 35). -/
def mmaHeader (t : Tile) : M Unit := do
  hdrCheck (!t.reserved false) t 1
  hdrCheck (!t.scaleSlotBad) t 3
  hdrCheck (!t.sizeBad false) t 4
  hdrCheck (t.korg % 48 = 0) t 5

/-- Checks 2 to 4 of an MMA with an accumulator of a form: header hA, header hB, and then the pair with its reasons 2, 3 and 5. R352
does not order the HDRFMT failures of two headers: this order is the model's choice (log 35). -/
def mmaChecks (kern : Bool) (form : Nat) (x y : Tile) : M Unit := do
  mmaHeader x
  mmaHeader y
  hdrCheck (pairOk form x.fmt y.fmt) x 2
  let noScale := treeFmt x.fmt || form = 2
  hdrCheck (!(noScale && x.smode ≠ 0)) x 3
  hdrCheck (!(noScale && y.smode ≠ 0)) y 3
  hdrCheck (x.cols = y.cols && x.korg = y.korg) y 5
  tileCaps kern x
  tileCaps kern y
  tileAligns x false
  tileAligns y false

/-- Checks 1 to 4 of an MMA. -/
def mmaHeaders (s : State) (d : BitVec 2) (a b : BitVec 6) (ha hb : GReg) : M (State × Tile × Tile) := do
  let (s1, x, y) ← mmaTiles s a b ha hb
  mmaChecks s1.kern (s.here.engine.getAcc d.toNat).form x y
  .ok (s1, x, y)

/-- The rows of A and of B that a core reads; `ra` and `rb` say whether it reads A rows and B rows (R363). -/
def Core.mmaRows (c : Core) (x y : Tile) (ra rb : Bool) : List Nat × List Nat :=
  let ms := c.rowsBelow x.rows
  let ns := c.colsBelow y.rows
  (if ra && !ns.isEmpty then ms else [], if rb && !ms.isEmpty then ns else [])

/-- The operand fetch of an MMA: check 5 over the rows this core reads, and every word of their blocks `j0` on (R356). -/
def mmaFetch (s : State) (x y : Tile) (ra rb : Bool) (j0 : Nat := 0) : M (State × Panel × Panel × List Nat) := do
  let (ma, nb) := s.here.mmaRows x y ra rb
  let (s1, _) ← rangeChecks false s (sortRanges (x.ranges 0 ma ++ y.ranges 0 nb))
  let (s2, l) ← rangeChecks false s1 (sortRanges (x.ranges j0 ma ++ y.ranges j0 nb))
  let (s3, v) ← rangeLoads s2 l
  .ok (s3, x.panel v j0 ma, y.panel v j0 nb, limitPins (rangeLines l))

/-- The blocks from `j0` on of fetched panels. -/
def blocksFrom (fa fb : Nat) (ua ub : Bool) (cols : Nat) (a b : Panel) (j0 nb : Nat) : List MmaBlock :=
  (List.range (nb - j0)).map fun j => mmaBlock fa fb ua ub cols a b (j0 + j)

/-- An MMA goes in flight on a core: some of its blocks, freely many but not all, are added before a stop can come. -/
def State.startFlight (s : State) (n i d j0 : Nat) (bs : List MmaBlock) (til : Bool) (pins : List Nat)
    (gang : Option (Nat × List Nat)) : State :=
  let k := s.free % max 1 bs.length
  let c := s.core n
  let e := c.engine.addBlocks d (bs.take k)
  let f : Flight := ⟨i, d, j0 + k, bs.drop k, til || (bs.take k).any (·.til), pins, gang, false⟩
  let s1 := s.drawn.setCore n { c with engine := { e with flight := some f, progress := none } }
  (s1.setBerthAt n i { s1.berthAt n i with wait := .mma }).laterOnce (.mmaComplete (BitVec.ofNat 12 n))

/-- Whether a stopped MMA is pending that an MMA naming `d` continues (R347). -/
def Engine.pends (e : Engine) (d : Nat) : Bool := e.progress.any (·.acc = d)

/-- The stopped MMA that an MMA naming `d` continues: its BLK completed, the block to go on with (R356), and its TIL. -/
def Engine.continued (e : Engine) (d : Nat) : Engine × Nat × Bool :=
  match e.progress with
  | some p => if p.acc = d then ({ e.countBlock with progress := none }, p.blk + b2n p.kept.isSome, p.til || p.kept.any (·.til)) else (e, 0, false)
  | none => (e, 0, false)

/-- An MMA of a berth that names `d` begins: the stopped MMA that it continues gives the block to go on with and TIL, another
stopped MMA ends (R347). -/
def State.beginMma (s : State) (n i d : Nat) : State × Nat × Bool :=
  let c := s.core n
  let b := c.berth i
  let e := c.engine
  if e.pends d then
    let (e1, j0, til) := e.continued d
    (s.setCore n { c with engine := e1 }, j0, til)
  else
    match e.progress with
    | some p =>
      let fl := if p.til || p.kept.any (·.til) then w64 flTIL else 0
      (s.setCore n ({ c with engine := e.dropPending }.setBerth i { b.endStep with vstat := b.vstat ||| fl }), 0, false)
    | none => (s, 0, false)

/-- The local MMA: headers, fetch, flight. A stopped MMA goes on or ends only once every check and read has been made (R9). -/
def localMma (s : State) (d : BitVec 2) (a b : BitVec 6) (ha hb : GReg) : M State := do
  let (s1, x, y) ← mmaHeaders s d a b ha hb
  let (s2, pa, pb, pins) ← mmaFetch s1 x y true true (s1.here.engine.continued d.toNat).2.1
  let (s3, j0, til) := s2.beginMma s2.cur s2.cb d.toNat
  .ok (s3.startFlight s3.cur s3.cb d.toNat j0 (blocksFrom x.fmt y.fmt x.u y.u x.cols pa pb j0 x.blocks) til pins none)

/-! ## Gang MMAs (R363) -/

/-- Rows and columns of cores of a shape. -/
def shapeDims (shape : Nat) : Nat × Nat :=
  match shape with
  | 1 => (1, 4)
  | 2 => (4, 1)
  | 3 => (2, 2)
  | 4 => (4, 4)
  | _ => (1, 1)

/-- The node of member (row, col). -/
def Gang.node (g : Gang) (row col : Nat) : Nat := g.members.getD (row * (shapeDims g.shape).2 + col) 0

/-- What members compare: the fields of both headers, ROW0 and COL0. -/
def stepKey (c : Core) (x y : Tile) : List Nat :=
  let k (t : Tile) : List Nat :=
    [t.data.val.toNat, t.scale.val.toNat, t.rows, t.cols, t.stride, t.fmt, t.smode, t.flags, t.korg]
  k x ++ k y ++ [c.row0, c.col0]

/-- A member's part in a step: its checks and what it reads. A check that fails is the member's failure; `key` is empty when
its headers could not be read. -/
def gangIssue (s : State) (d : BitVec 2) (a b : BitVec 6) (ha hb : GReg) : M (State × GangIssue) :=
  let bad (key : List Nat) (k : Cause) (v : Word) : GangIssue :=
    ⟨some (k, v), key, ha.val.toNat, d.toNat, 0, 0, false, false, 0, 0, 0, [], [], []⟩
  match mmaTiles s a b ha hb with
  | .error (.trap k v) => .ok (s, bad [] k v)
  | .error e => .error e
  | .ok (s1, x, y) =>
    let c := s1.here
    let rest : M (State × GangIssue) := do
      mmaChecks s1.kern (s.here.engine.getAcc d.toNat).form x y
      let (s2, pa, pb, pins) ← mmaFetch s1 x y (c.ccol = 0) (c.crow = 0)
      let live := !(c.rowsBelow x.rows).isEmpty && !(c.colsBelow y.rows).isEmpty
      .ok (s2, ⟨none, stepKey c x y, x.addr, d.toNat, x.fmt, y.fmt, x.u, y.u, x.cols,
        if live then (c.rowsBelow x.rows).length else 0, if live then (c.colsBelow y.rows).length else 0, pa, pb, pins⟩)
    match rest with
    | .error (.trap k v) => .ok (s1, bad (stepKey c x y) k v)
    | r => r

/-- Whether two threads belong to the same gang: one task of one launch on the same cores (R362). -/
def Berth.sameGang (a b : Berth) : Bool :=
  a.gang.isSome && a.gang.map (·.members) = b.gang.map (·.members) && a.launch = b.launch && a.task = b.task

/-- The part that a member of a thread's gang has brought to the step. -/
def State.issueOf (s : State) (b : Berth) (n : Nat) : Option GangIssue :=
  match (s.berthAt n 1).wait with
  | .gangMma r => if b.sameGang (s.berthAt n 1) then some r else none
  | _ => none

/-- HDRFMT with a reason at a header's address (R363). -/
def hdrTrap (reason addr : Nat) : Cause × Word := (.hdrfmt, w64 (reason * 2 ^ 56 + addr % 2 ^ 48))

/-- Whether a member's headers and origins differ from member (0, 0)'s, when both could be read. -/
def GangIssue.differs (r first : GangIssue) : Bool := !r.key.isEmpty && !first.key.isEmpty && r.key ≠ first.key

/-- What a member of a step does: trap its own cause, trap HDRFMT, or add its blocks. -/
def memberVerdict (first : GangIssue) (bad : Bool) (r : GangIssue) : Option (Cause × Word) :=
  match r.fail with
  | some x => some x
  | none => if r.differs first then some (hdrTrap 6 r.addr) else if bad then some (hdrTrap 7 r.addr) else none

/-- Starts one member's blocks from the panels of members (CROW, 0) and (0, CCOL), and sends its own panels. -/
def State.startMember (s : State) (g : Gang) (n : Nat) (r : GangIssue) (issues : List (Nat × GangIssue)) : State :=
  let c := s.core n
  let (rows, cols) := shapeDims g.shape
  let na := g.node c.crow 0
  let nb := g.node 0 c.ccol
  let pa := match alGet issues na with | some x => x.a | none => []
  let pb := match alGet issues nb with | some x => x.b | none => []
  let bs := blocksFrom r.fa r.fb r.ua r.ub r.cols (pa.take r.na) (pb.take r.nb) 0 ((r.cols + 47) / 48)
  -- only the member whose own fetch met an illegal byte sets TIL (R232)
  let own := bs.zipIdx.map fun p =>
    { p.1 with
      til := r.a.any (fun q => tileTil r.fa q.1 r.cols p.2) || r.b.any fun q => tileTil r.fb q.1 r.cols p.2 }
  let (s1, j0, til) := s.beginMma n 1 r.acc
  let gang := some (g.step, ([na, nb].filter (· ≠ n)).eraseDups)
  let s2 := s1.startFlight n 1 r.acc j0 (own.drop j0) til r.pins gang
  let b := s2.berthAt n 1
  let s3 := s2.setBerthAt n 1 { b with gang := some { g with step := g.step + 1, mid := some ⟨r.key, r.addr, own⟩ } }
  let dests := (if c.ccol = 0 then (List.range cols).map (g.node c.crow ·) else []) ++
    (if c.crow = 0 then (List.range rows).map (g.node · c.ccol) else [])
  ((dests.eraseDups).filter (· ≠ n)).foldl (fun t m =>
    t.inject { src := n, dst := m, ctx := c.ctxid, ranked := false, drank := 0, srank := c.rank, epoch := c.epoch, launch := none
               body := .gangb n g.step }) s3

/-- The last member's arrival decides the step for every member. -/
def State.decideStep (s : State) (g : Gang) : State :=
  let issues := g.members.filterMap fun n => (s.issueOf s.me n).map fun r => (n, r)
  if issues.length < g.members.length then s
  else
    match issues with
    | [] => s
    | (_, first) :: _ =>
      let bad := issues.any fun p => p.2.fail.isSome || p.2.differs first
      issues.foldl (fun t p =>
        match memberVerdict first bad p.2 with
        | some (k, v) => (t.setBerthAt p.1 1 { t.berthAt p.1 1 with wait := .failed k v }).settlePins p.1
        | none =>
          match (t.berthAt p.1 1).gang with
          | some h => t.startMember h p.1 p.2 issues
          | none => t) s

/-- Whether a thread's gang MMA is stopped mid-step: it has started and is not in flight. -/
def Gang.stalls (g : Option Gang) (flying : Bool) : Bool := g.any (·.mid.isSome) && !flying

/-- Whether a member of the gang of core `n`'s thread is stopped mid-step, at its core or saved: the step stalls (R363). -/
def State.gangStalled (s : State) (n : Nat) : Bool :=
  let b := s.berthAt n 1
  let g := b.gang
  (match g with
    | some h => h.members.any fun m =>
        let c := s.core m
        b.sameGang c.b1 && Gang.stalls c.b1.gang (c.engine.flightOf 1).isSome
    | none => false) ||
  s.saved.any fun x => g.isSome && x.gang.map (·.members) = g.map (·.members) && x.launch = b.launch && x.task = b.task &&
    Gang.stalls x.gang false

/-- A member that continues its part in a step fails: the members that it stalls trap HDRFMT with reason 7 (R363). -/
def State.failStep (s : State) (g : Gang) : State :=
  g.members.foldl (fun t m =>
    let c := t.core m
    match c.b1.gang.bind (·.mid) with
    | some k =>
      if m ≠ s.cur && s.me.sameGang c.b1 && (c.engine.flightOf 1).isSome then
        let c1 := c.stopMma 1
        let (k1, v) := hdrTrap 7 k.addr
        (t.setCore m { c1 with b1 := { c1.b1 with wait := .failed k1 v } }).settlePins m
      else t
    | none => t) s

/-- The gang MMA that a member was stopped in goes on (R347, R363): fresh headers, checked as at any issue and compared with those
of the step; the values of the later blocks are those that the step has read, each word once. -/
def gangAgain (s : State) (d : BitVec 2) (a b : BitVec 6) (ha hb : GReg) (g : Gang) (k : GangStep) : M State :=
  let r : M State := do
    let (s1, x, y) ← mmaHeaders s d a b ha hb
    let c := s1.here
    let (ma, nb) := c.mmaRows x y (c.ccol = 0) (c.crow = 0)
    let (s2, _) ← rangeChecks false s1 (sortRanges (x.ranges 0 ma ++ y.ranges 0 nb))
    hdrCheck (stepKey c x y = k.key) x 6
    let (s3, j0, til) := s2.beginMma s2.cur s2.cb d.toNat
    .ok (s3.startFlight s3.cur s3.cb d.toNat j0 (k.blocks.drop j0) til [] (some (g.step - 1, [])))
  match r with
  | .error (.trap c v) => .error (.keep (s.failStep g) c v)
  | r => r

/-! ## MMA and MZERO (R356, R357) -/

/-- The check that aD is not EMPTY, after the hold is resolved. -/
def accCheck (s : State) (h : Hold) (d : BitVec 2) : M Unit :=
  check (h = .owner && s.here.engine.getAcc d.toNat ≠ .empty) .emptyread (w64 (0x70 + d.toNat))

/-- A member that was stopped mid-step issues another MAT instruction: its block BLK is completed and it stalls the step no more (R347,
R363). -/
def State.leaveStep (s : State) : State :=
  let t := s.endPending
  t.setMe t.me.endStep

/-- The issue of an MMA whose hold is resolved. -/
def mmaIssue (s : State) (d : BitVec 2) (a b : BitVec 6) (ha hb : GReg) : M State := do
  match s.me.gang with
  | none => localMma s d a b ha hb
  | some g =>
    if g.round = 0 then localMma s d a b ha hb
    else
      match s.here.engine.pends d.toNat, g.mid with
      | true, some k => gangAgain s d a b ha hb g k
      | _, _ => do
        let (s1, r) ← gangIssue (if g.mid.isSome then s.leaveStep else s) d a b ha hb
        .ok ((s1.setMe { s1.me with wait := .gangMma r }).decideStep g)

/-- Whether the thread may go past its MMA in flight (R355): a gang's MMA may trap until every member has ended its part (R363), and
with TILTRAP 1 one that has met an illegal byte traps at its end (R232), and nothing after an instruction that traps has an effect
(R9). When it does is free (log 36). -/
def State.mayPass (s : State) : Bool := !s.me.tilTrap && (s.here.engine.flightOf s.cb).any (·.gang.isNone)

/-- The flags that an MMA in flight comes to. -/
def Engine.flightTil (e : Engine) (i : Nat) : Bool := (e.flightOf i).any fun f => f.til || f.blocks.any (·.til)

/-- MMA: its thread stands at it, so that a stop finds EPC there (R347), until its last block is added or the thread goes past it (R355);
its flags are there from then on (R239). -/
def execMma (d : BitVec 2) (a b : BitVec 6) (s : State) : Out :=
  run s (do
    nativeOnly s
    match s.me.wait with
    | .mma =>
      if s.here.engine.mmaBusy s.cb then
        if !s.mayPass then .error (.wait s)
        else if s.free % 2 = 1 then do
          let _ ← operands s [.g a, .g b] []
          let t := s.drawn.setEngine (s.here.engine.goPast s.cb)
          let t1 := if s.here.engine.flightTil s.cb then t.addFlags flTIL else t
          .ok ((t1.commit [.g a, .g b] [] []).retire 4)
        else .error (.wait s.drawn)
      else do
        let _ ← resolveHold s false
        .error (.wait s)
    | .gangMma _ => .error (.wait s)
    | .done til _ => do
      let vs ← operands s [.g a, .g b] []
      let _ := vs
      let fl := if til = 0 then 0 else flTIL
      tilEnd s (((s.addFlags fl).commit [.g a, .g b] [] []).retire 4) fl
    | _ => do
      let vs ← operands s [.g a, .g b] []
      let h ← resolveHold s false
      accCheck s h d
      let t ← mmaIssue (s.setEngine (s.here.engine.unwait s.cb)) d a b (arg vs 0).g (arg vs 1).g
      .error (.wait t))

/-- The engine has added the first block of the flight, and goes on. -/
def Engine.addFirst (e : Engine) (f : Flight) (b : MmaBlock) (r : List MmaBlock) : Engine :=
  { e.addBlocks f.acc [b] with flight := some { f with next := f.next + 1, blocks := r, til := f.til || b.til } }

/-- MMA_COMPLETE: the blocks left are added, one after another at free times, and the pins end; a gang's MMA first needs its
panels, and stalls while a member is stopped mid-step. A spilled MMA goes on once the engine is FREE and reloaded (R345). -/
def execMmaComplete (node : BitVec 12) (s : State) : Out :=
  let n := node.toNat
  let c := s.core n
  .next (match c.engine.flight with
    | none =>
      if (c.engine.slot.bind (·.flight)).isSome then
        (if c.engine.held then s.laterOnce (.mmaComplete node) else s.laterOnce (.engineReload node))
      else s
    | some f =>
      let missing := match f.gang with
        | some (k, l) => s.gangStalled n || l.any fun m => !c.gangPanels.contains (m, k)
        | none => false
      if missing then s.laterOnce (.mmaComplete node)
      else
        match f.blocks, s.free % 2 with
        | b :: b' :: r, 1 => ((s.drawn.setCore n { c with engine := c.engine.addFirst f b (b' :: r) }).laterOnce (.mmaComplete node))
        | _, _ =>
          let e := { c.engine.addBlocks f.acc f.blocks with flight := none, progress := none }
          let panels := match f.gang with
            | some (k, l) => c.gangPanels.filter fun p => !(l.contains p.1 && p.2 = k)
            | none => c.gangPanels
          let c1 := { c with engine := e, gangPanels := panels }
          let til := f.til || f.blocks.any (·.til)
          let s00 := (s.setCore n c1).settlePins n
          let s0 := if f.past then s00 else s00.answer n f.berth (if til then 1 else 0) 0
          let s1 := if (e.slot.bind (·.flight)).isSome then s0.laterOnce (.mmaComplete node) else s0
          if f.gang.isSome then s1.setBerthAt n f.berth (s1.berthAt n f.berth).endStep else s1)

def execMzero (d : BitVec 2) (f : BitVec 1) (s : State) : Out :=
  run s (do
    nativeOnly s
    let h ← resolveHold s true
    let t := (s.takeHold h).dropPending
    let z := List.replicate 1024 (0 : BitVec 32)
    .ok ((t.setEngine (t.here.engine.setAcc d.toNat (if f = 0 then .fp32 z else .int32 z))).retire 4))

/-! ## MLD and MST (R358, R359) -/

/-- The range of each output row that a core reads or writes, with its index. -/
def Tile.parts (t : Tile) (c : Core) (w32 : Bool) : List (Nat × Range) :=
  let ns := c.colsBelow t.cols
  match ns with
  | [] => []
  | n0 :: _ =>
    (c.rowsBelow t.rows).zipIdx.map fun p =>
      (p.2, ⟨t.addr, t.data, t.row p.1 + w64 (t.elem w32 * n0), t.elem w32 * ns.length⟩)

/-- The output rows that a core reads or writes a part of, whole, as check 5 of R352 takes them. -/
def Tile.outRows (t : Tile) (c : Core) (w32 : Bool) : List Range :=
  if (c.colsBelow t.cols).isEmpty then []
  else (c.rowsBelow t.rows).map fun m => ⟨t.addr, t.data, t.row m, t.rowLen w32⟩

def execMld (d : BitVec 2) (a : BitVec 6) (f : BitVec 1) (s : State) : Out :=
  run s (do
    nativeOnly s
    op s [.g a] [] 4 fun t vs => do
      let h ← resolveHold t true
      let (t1, x) ← tileHeader t a (arg vs 0).g
      hdrCheck (!x.reserved x.w32) x 1
      hdrCheck x.w32 x 2
      hdrCheck (!(x.scaleSlotBad || x.smode ≠ 0)) x 3
      hdrCheck (!x.sizeBad true) x 4
      hdrCheck (x.korg % 48 = 0) x 5
      tileSlots t1.kern x true
      let ps := x.parts t1.here true
      let (t1', _) ← rangeChecks false t1 (sortRanges (x.outRows t1.here true))
      let (t2, l) ← rangeChecks false t1' (sortRanges (ps.map (·.2)))
      let (t3, v) ← rangeLoads t2 l
      let cols := (t3.here.colsBelow x.cols).length
      let e := (List.range 1024).map fun k =>
        match ps.find? fun p => p.1 = k / 32 with
        | some p => if k % 32 < cols then BitVec.ofNat 32 (rangeVal v p.2 / 2 ^ (32 * (k % 32))) else 0
        | none => 0
      let t4 := (t3.takeHold h).dropPending
      .ok (t4.setEngine (t4.here.engine.setAcc d.toNat (if f = 0 then .fp32 e else .int32 e)), []))

/-- An element as MST stores it, with its flags (R359). -/
def storedElem (t : Tile) (form rm : Nat) (x : BitVec 32) : Nat × Nat :=
  if t.w32 then (x.toNat, 0)
  else
    match t.fmt with
    | 0 => fpCvt fp32 bf16 rm x.toNat
    | 1 => fpCvt fp32 fp16 rm x.toNat
    | 2 => fpCvt fp32 e4m3 rm x.toNat
    | 3 => fpCvt fp32 e5m2 rm x.toNat
    | _ => if form = 2 then intCvt (!t.u) 8 x.toInt else (0, 0)

/-- The conversions that R359 allows. -/
def storeFormOk (t : Tile) (form : Nat) : Bool := t.w32 || (t.fmt ≤ 3 && form = 1) || (t.fmt = 5 && form = 2)

def storeRangeChecks : State → List (Range × List (Piece × Loc)) → M State
  | s, [] => .ok s
  | s, (_, l) :: r => do
    let s1 ← storeCheck s.cur s l
    storeRangeChecks s1 r

def storeRanges (val : Range → Nat) : State → List (Range × List (Piece × Loc)) → State
  | s, [] => s
  | s, (r, l) :: rs => storeRanges val (storePieces s.cur s l (val r)) rs

def execMst (d : BitVec 2) (a : BitVec 6) (e : BitVec 1) (s : State) : Out :=
  run s (do
    nativeOnly s
    op s [.g a] [] 4 fun t0 vs => do
      let h ← resolveHold t0 false
      accCheck t0 h d
      let acc := t0.here.engine.dropPending.getAcc d.toNat
      let (t1, x) ← tileHeader t0 a (arg vs 0).g
      hdrCheck (!x.reserved x.w32) x 1
      hdrCheck (storeFormOk x acc.form) x 2
      hdrCheck (!(x.scaleSlotBad || x.smode ≠ 0)) x 3
      hdrCheck (!x.sizeBad x.w32) x 4
      hdrCheck (x.korg % 48 = 0) x 5
      tileSlots t1.kern x x.w32
      let ps := x.parts t1.here x.w32
      let (t1', _) ← rangeChecks true t1 (sortRanges (x.outRows t1.here x.w32))
      let (t2, l) ← rangeChecks true t1' (sortRanges (ps.map (·.2)))
      let t3 ← storeRangeChecks t2 l
      let cols := (t3.here.colsBelow x.cols).length
      let elems (i : Nat) : List (Nat × Nat) :=
        (List.range cols).map fun c => storedElem x acc.form t3.me.rm (acc.elems.getD (32 * i + c) 0)
      let val (r : Range) : Nat :=
        match ps.find? fun p => p.2 = r with
        | some p => (elems p.1).foldr (fun v y => v.1 + 2 ^ (8 * x.elem x.w32) * y) 0
        | none => 0
      let fl := ps.foldl (fun q p => (elems p.1).foldl (fun y v => y ||| v.2) q) 0
      let t4 := ((storeRanges val t3 l).dropPending).addFlags fl
      .ok (if e = 1 then (t4.setEngine (t4.here.engine.setAcc d.toNat .empty)).freeIfEmpty else t4, []))

/-! ## MSAVE and MRST (R360, R361) -/

/-- The state word. -/
def stateWord (p : Option Progress) (ob oclass obase : Nat) (forms : List Nat) : Word :=
  let pend := match p with
    | some q => 2 ^ 27 + q.acc * 2 ^ 25 + q.blk % 2 ^ 11 * 2 ^ 14
    | none => 0
  w64 (2 ^ 31 + pend + ob * 2 ^ 13 + oclass * 2 ^ 11 + obase * 2 ^ 8 +
    (List.range 4).foldl (fun r i => r + forms.getD i 0 * 4 ^ i) 0)

/-- MSAVE of a pending MMA keeps its mark of an illegal TERN5 byte with what it saves, the state word and the accumulators: the word has
no place for it, and R232's trap comes when a continued MMA completes, wherever the saved state has been copied (log 115). -/
def State.markTil (s : State) (k : Word) (e : Engine) : State :=
  let x := (k, e.acc.toList.flatMap accWords)
  let rest := s.tilAt.filter (· ≠ x)
  { s with tilAt := if e.progress.any (·.til) then rest ++ [x] else rest }

/-- Which state MSAVE acts on. -/
inductive Saved | engine | slot | nothing
  deriving DecidableEq, Repr

/-- The first that exists: the issuer's own; in B0 a parked owner's; in B0 the slot's, unless lost. -/
def State.savedState (s : State) (h : Hold) : Saved :=
  let c := s.here
  if h = .owner then .engine
  else if s.cb = 0 && c.parked then .engine
  else if s.cb = 0 && c.engine.slot.any (!·.lost) then .slot
  else .nothing

/-- Stores words at ascending places of an access. -/
def storeWords (s : State) (l : List (Piece × Loc)) (ws : List Word) : State :=
  storePieces s.cur s l (ws.foldr (fun w y => w.toNat + 2 ^ 64 * y) 0)

/-- The state that MSAVE and MRST name at gA: 16 KiB, 64-byte alignment. -/
def regionNeed (a : BitVec 6) (g : GReg) (wr : Bool) : Need :=
  ⟨g, a.toNat, g.val, 0x4000, if wr then pW else pR, !wr, wr, false, 64⟩

/-- The region's local places, or the words of another rank's window. -/
def saveRegion (s : State) (n : Need) (ws : List Word) : M State := do
  let (s1, w) ← locate s n
  match w with
  | .here l => do
    let s2 ← storeCheck s1.cur s1 l
    .ok (storeWords s2 l ws)
  | .remote r _ => remoteStore s1 n r (pieces n.ea.toNat n.n n.n) 0 (ws.foldr (fun w y => w.toNat + 2 ^ 64 * y) 0)
  | .device _ => deviceTrap s1 n.ea

/-- The checks of the region without storing. -/
def regionChecks (s : State) (n : Need) : M State := do
  preChecks s.kern n
  let (s1, w) ← locate s n
  match w with
  | .here l => if n.wr then storeCheck s1.cur s1 l else loadCheck s1.cur s1 l
  | .remote r _ => (do let (s2, _) ← windowCheck s1 n r; .ok s2)
  | .device _ => deviceTrap s1 n.ea

/-- A running owner whose spilled MMA is taken away: that MMA stops, and the owner meets its instruction again (R343, R347). -/
def State.stopSpilled (s : State) (p : Spill) : State :=
  match p.flight with
  | some f =>
    let c := s.here.stopMma f.berth
    let b := c.berth f.berth
    s.setHere (if b.wait == .mma then c.setBerth f.berth { b with wait := .none } else c)
  | none => s

def execMsave (d a : BitVec 6) (s : State) : Out :=
  run s (do
    nativeOnly s
    op s [.g a] [.g d] 4 fun t0 vs => do
      let h ← resolveHold t0 false
      let n := regionNeed a (arg vs 0).g true
      let t ← regionChecks t0 n
      let c := t.here
      match t.savedState h with
      | .nothing => .ok (t, [.data 0])
      | .engine => do
        let e := c.engine.countBlock
        let t' ← saveRegion t n (e.acc.toList.flatMap accWords)
        let k := stateWord e.progress e.ob e.oclass e.obase (e.acc.toList.map Acc.form)
        let t1 := t'.markTil k e
        let t2 := (t1.setEngine { e with held := false }.toFree)
        .ok (if h = .owner then t2.setMe { t2.me with mspill := setF t2.me.mspill 63 1 0 } else t2, [.data k])
      | .slot =>
        match c.engine.slot with
        | none => .ok (t, [.data 0])
        | some p => do
          let e := (t.spilledEngine t.cur p).countBlock
          let t1 ← saveRegion t n (e.acc.toList.flatMap accWords)
          let k := stateWord e.progress p.ob p.oclass p.obase p.forms
          let t2 := (t1.markTil k e).stopSpilled p
          .ok (t2.setEngine { t2.here.engine with slot := none }, [.data k]))

/-- The thread in B1 is the owner that an MRST of B0 has named: OEN and the gang are its own from then on (R361). -/
def Core.adopt (c : Core) : Core :=
  if c.b1.occupied && c.engine.owner 1 c.b1 then
    { c with engine := { c.engine with oen := bitOf c.b1.mspill 0, ogang := c.b1.gang.isSome } }
  else c

/-- Loads the region of an MRST. -/
def loadRegion (s : State) (n : Need) : M (State × List Word) := do
  let (s1, w) ← locate s n
  let (s2, x) ← match w with
    | .here l => (do
      let t ← loadCheck s1.cur s1 l
      .ok (loadPieces t.cur t l))
    | .remote r _ => remoteLoad s1 n r (pieces n.ea.toNat n.n n.n) 0
    | .device _ => deviceTrap s1 n.ea
  .ok (s2, (List.range 2048).map fun i => w64 (x / 2 ^ (64 * i) % 2 ^ 64))

/-- MRST: with V = 0 it restores nothing, and still ends the issuer's stopped MMA as the others do (R347; log 125). -/
def execMrst (a b : BitVec 6) (s : State) : Out :=
  run s (do
    nativeOnly s
    op s [.g a, .g b] [] 4 fun t vs => do
      let k := argW vs 1
      let forms := (List.range 4).map fun i => getF k (2 * i) 2
      check (getF k 32 32 = 0 && getF k 28 3 = 0 && !forms.contains 3) .spillfault k
      matOrder t
      if !bitOf k 31 then .ok (t.endPending, [])
      else do
        let n := regionNeed a (arg vs 0).g false
        let t1 ← regionChecks t n
        let e := t1.here.engine
        if e.held || e.slot.isSome || e.waiting.head?.any (· ≠ t1.cb) then matWait t1 none
        else do
          let (t2', ws) ← loadRegion t1 n
          let t2 := t2'.endPending
          let acc : Vector Acc 4 := Vector.ofFn fun i =>
            Acc.ofForm (forms.getD i.val 0) (wordsAcc ((ws.drop (512 * i.val)).take 512))
          if forms.all (· = 0) then .ok (t2.setEngine (t2.here.engine.unwait t2.cb), [])
          else
            let p : Option Progress := if bitOf k 27 then some ⟨getF k 25 2, getF k 14 11, none, t2.tilAt.contains (k, ws)⟩ else none
            let own := t2.cb = 1 || getF k 13 1 = 0
            let e1 : Engine :=
              if own then { t2.here.engine.claimed t2.cb t2.me with acc := acc, progress := p }
              else
                { (t2.here.engine.toFree).unwait t2.cb with
                  held := true, ob := 1, obase := getF k 8 3, oclass := getF k 11 2, oen := true, acc := acc, progress := p }
            let t3 := t2.setEngine e1
            .ok (if own then t3.setMe { t3.me with mspill := setF t3.me.mspill 63 1 1 } else t3.setHere t3.here.adopt, []))

/-! ## GANG and MPF (R362, R364) -/

/-- Whether every member of the issuing thread's gang has arrived at the same GANG. -/
def State.gangArrived (s : State) (g : Gang) : Bool :=
  g.members.all fun n =>
    match (s.berthAt n 1).wait, (s.berthAt n 1).gang with
    | .gang, some h => h.round = g.round && s.me.sameGang (s.berthAt n 1)
    | _, _ => false

/-- The last member's arrival completes the round for every member. -/
def State.gangRound (s : State) (g : Gang) : State :=
  if s.gangArrived g then
    g.members.foldl (fun t n =>
      let b := t.berthAt n 1
      t.setBerthAt n 1 { b with wait := .done (w64 g.members.length) 0, gang := b.gang.map fun h => { h with round := h.round + 1 } }) s
  else s

def execGang (d : BitVec 6) (s : State) : Out :=
  run s (do
    nativeOnly s
    op s [] [.g d] 4 fun t _ => do
      matOrder t
      match t.me.gang with
      | none => if t.here.shape = 0 then .ok (t.endPending, [.data 1]) else trap .illegal (wordR 0x60 6 d.toNat 0 0 0)
      | some g =>
        match t.me.wait with
        | .done x _ => .ok (t.endPending, [.data x])
        | .gang => .error (.wait t)
        | _ =>
          let t1 := t.leaveStep
          .error (.wait ((t1.setMe { t1.me with wait := .gang }).gangRound g)))

/-- Fills the lines of a range, stopping where it cannot be reached. -/
def fillRanges (s : State) (wr : Bool) : List Range → State
  | [] => s
  | r :: rs =>
    match rangeChecks wr s [r] with
    | .ok (s1, l) =>
      let s2 := l.foldl (fun t p => p.2.foldl (fun u q =>
        if q.2.kind = .lm then u else u.fill u.cur q.2) t) s1
      fillRanges s2 wr rs
    | .error _ => s

def execMpf (a : BitVec 6) (s : State) : Out :=
  run s (do
    nativeOnly s
    op s [.g a] [] 4 fun t vs => do
      matOrder t
      let (t0, x) ← tileHeader t a (arg vs 0).g
      let t1 := t0.endPending
      if x.reserved false || x.scaleSlotBad || x.sizeBad false || x.korg % 48 ≠ 0 then .ok (t1, [])
      else
        match tileSlots t1.kern x false with
        | .error _ => .ok (t1, [])
        | .ok _ => .ok (fillRanges t1 false (x.ranges 0 (t1.here.rowsBelow x.rows)), []))

end Sys2Proof.Machine
end

