-- ==== Sys2Proof/Machine/Taps.lean ====
section
/-! DEFINITION. The tap unit: the batch map, probe entries and their cache, scoring, TAP and TSTEER (R384 to R396). -/

namespace Sys2Proof.Machine

/-! ## Reads through DATA addresses (R386) -/

/-- TAPEN fields (R385). -/
def Core.tapOn (c : Core) : Bool := bitOf c.tapen 0
def Core.bmOn (c : Core) : Bool := bitOf c.tapen 1
def Core.tapBase (c : Core) : Nat := getF c.tapen 12 36 * 4096

/-- A kernel read of private memory: checks 6 to 10 of R32; the LM windows and the alias have no page. -/
def kernRead (s : State) (va n : Nat) : M (State × Nat) := do
  let ps := pieces va n n
  let a : Need := ⟨GReg.zero, 0, w64 va, n, 0, true, false, false, 0⟩
  let (s1, l) ← placePieces s.cur s.here.ctxid true a s (ps.takeWhile fun p => place p.va = .priv)
  match ps.find? fun p => place p.va ≠ .priv with
  | some p => trap .pagefault (w64 p.va)
  | none => do
    let s2 ← loadCheck s1.cur s1 l
    .ok (loadPieces s2.cur s2 l)

/-- The batch map: DEAD and STEER; with BMEN 0 no row is dead and none accepts steering (R387). -/
def batchMap (s : State) : M (State × Nat × Nat) := do
  if s.here.bmOn then do
    let (s1, x) ← kernRead s s.here.tapBase 16
    .ok (s1, blockF x 0 8, blockF x 8 8)
  else .ok (s, 0, 0)

/-- Drops every cached probe entry and vector of a core (R385, R389). -/
def Core.dropProbes (c : Core) : Core := { c with probes := [] }

/-- A read that the tap unit caches: the cached bytes when they are there (R146), else memory's. -/
def probeRead (s : State) (va n : Nat) : M (State × Nat) :=
  match s.here.probes.find? fun p => p.addr = va && p.ctx = s.here.ctxid && p.bytes.length = n with
  | some p => .ok (s, bytesToNat p.bytes)
  | none => do
    let (s1, x) ← kernRead s va n
    let c := s1.here
    .ok (s1.setHere { c with probes := ⟨va, c.ctxid, natToBytes n x⟩ :: c.probes }, x)

/-- The cache may have lost its entries by the time an instruction reads them (R389: "may cache"); the choice is free. -/
def State.mayForget (s : State) : State :=
  if s.free % 2 = 0 then s.drawn else s.drawn.setHere s.here.dropProbes

/-! ## Probe entries (R388) -/

/-- A probe entry that is not empty, with its index and its vectors. -/
structure Probe where
  p : Nat
  waddr : Nat
  saddr : Nat
  bias : Nat
  theta : Nat
  gain : Nat
  act : Nat
  w : Nat
  sv : Nat
  deriving DecidableEq, Repr

/-- Whether the 32 bytes of a non-empty entry are malformed. -/
def probeBad (x : Nat) : Bool :=
  4 ≤ blockF x 28 1 || blockF x 29 3 ≠ 0 || blockF x 6 2 ≠ 0 || blockF x 14 2 ≠ 0 || blockF x 0 6 % 64 ≠ 0 ||
    (blockF x 28 1 = 2 && blockF x 8 6 % 64 ≠ 0)

def probeOf (p x : Nat) : Probe :=
  ⟨p, blockF x 0 6, blockF x 8 6, blockF x 16 4, blockF x 20 4, blockF x 24 4, blockF x 28 1, 0, 0⟩

/-- The non-empty entries of tap index `i`, in ascending p, each checked. -/
def probeEntries (s : State) (i : Nat) : List Nat → M (State × List Probe)
  | [] => .ok (s, [])
  | p :: ps => do
    let va := s.here.tapBase + 64 + 32 * (8 * i + p)
    let (s1, x) ← probeRead s va 32
    if blockF x 28 1 = 0 then probeEntries s1 i ps
    else do
      check (!probeBad x) .copyform (w64 va)
      let (s2, r) ← probeEntries s1 i ps
      .ok (s2, probeOf p x :: r)

/-- The vectors of entries: the weights, and for steering the steering vector. -/
def probeVectors (cols : Nat) (steer : Bool) : State → List Probe → M (State × List Probe)
  | s, [] => .ok (s, [])
  | s, q :: qs => do
    let (s1, w) ← probeRead s q.waddr (2 * cols)
    let (s2, v) ← if steer then probeRead s1 q.saddr (2 * cols) else .ok (s1, 0)
    let (s3, r) ← probeVectors cols steer s2 qs
    .ok (s3, { q with w := w, sv := v } :: r)

/-! ## Scoring (R390) -/

/-- An element of a row of the residual tile as FP32 bits. -/
def rowElem (w32 : Bool) (x k : Nat) : Nat := if w32 then x / 2 ^ (32 * k) % 2 ^ 32 else x / 2 ^ (16 * k) % 2 ^ 16 * 2 ^ 16

/-- Product `k` of a row and a weight vector; beyond COLS the padding of R246. -/
def tapProduct (w32 : Bool) (cols x w k : Nat) : FpV :=
  if k < cols then elemProduct (fp32.decode (rowElem w32 x k)) (bf16.decode (w / 2 ^ (16 * k) % 2 ^ 16)) else .fin false 0 0

/-- The score of a row against a weight vector and a bias. -/
def tapScore (w32 : Bool) (cols x w bias : Nat) : Nat :=
  let acc := (List.range ((cols + 47) / 48)).foldl (fun acc j =>
    (fpAddV fp32 rmRNE (fp32.decode acc) (treeSum ((List.range 48).map fun t => tapProduct w32 cols x w (48 * j + t)))).1) 0
  (fpAdd fp32 rmRNE acc bias).1

/-- Whether a probe fires on a row: score >= THETA, false with a NaN. -/
def Probe.fires (q : Probe) (w32 : Bool) (cols x : Nat) : Bool :=
  (fpCmp fp32 3 q.theta (tapScore w32 cols x q.w q.bias)).1

/-- A steered element (R394): every fired probe's product added in turn, then rounded to the element format. -/
def steerElem (w32 : Bool) (x k : Nat) (qs : List Probe) : Nat :=
  let v := qs.foldl (fun v q =>
    (fpAdd fp32 rmRNE v (fpMul fp32 rmRNE q.gain (q.sv / 2 ^ (16 * k) % 2 ^ 16 * 2 ^ 16)).1).1) (rowElem w32 x k)
  if w32 then v else (fpCvt fp32 bf16 rmRNE v).1

/-- A steered row as a number. -/
def steerRow (w32 : Bool) (cols x : Nat) (qs : List Probe) : Nat :=
  (List.range cols).foldl (fun r k => r + steerElem w32 x k qs * 2 ^ ((if w32 then 32 else 16) * k)) 0

/-! ## The instructions (R391 to R394) -/

/-- What a TAP or TSTEER that is on has read: the tile, the probes, and the live rows with their places and STEER bits. -/
structure TapRead where
  tile : Tile
  probes : List Probe
  rows : List (Nat × Bool × Range × List (Piece × Loc))

/-- Checks 1 to 6 of R392. -/
def tapChecks (s : State) (a : BitVec 6) (ga : GReg) (i : Nat) (steer : Bool) : M (State × TapRead) := do
  let (s1, t) ← tileHeader s a ga
  hdrCheck (t.w32 || t.fmt = 0) t 2
  hdrCheck (t.smode = 0 && t.scale = GReg.zero) t 3
  hdrCheck (1 ≤ t.rows && t.rows ≤ 64 && 1 ≤ t.cols) t 4
  hdrCheck (t.korg = 0) t 5
  hdrCheck (!t.u && t.flags < 4 && t.rsv = 0) t 1
  tileSlots s1.kern t t.w32
  let (s2, dead, steers) ← batchMap s1
  let (s3, es) ← probeEntries s2.mayForget i (List.range 8)
  let (s4, qs) ← probeVectors t.cols steer s3 (if steer then es.filter (·.act = 2) else es)
  let live := (List.range t.rows).filter fun r => !dead.testBit r
  let rs := live.map fun r => (⟨t.addr, t.data, t.row r, t.rowLen t.w32⟩ : Range)
  let (s5, out) ← rangeChecksFor true steer s4 (sortRanges rs)
  .ok (s5, ⟨t, qs, live.map fun r =>
    let g : Range := ⟨t.addr, t.data, t.row r, t.rowLen t.w32⟩
    (r, steers.testBit r, g, (match out.find? fun p => p.1 = g with | some p => p.2 | none => []))⟩)

/-- SYNC words among the words to be written trap (R392 step 7). -/
def syncChecks : State → List (Nat × List (Piece × Loc)) → M State
  | s, [] => .ok s
  | s, (_, l) :: r => do
    let s1 ← storeCheck s.cur s l
    syncChecks s1 r

/-- The fired and trapping rows and the lowest trapping probe of R393. -/
def tapResult (w32 : Bool) (cols : Nat) (qs : List Probe) (rows : List (Nat × Nat)) : Nat × Nat × Nat :=
  rows.foldl (fun (u : Nat × Nat × Nat) p =>
    let hit := qs.filter fun q => q.fires w32 cols p.2
    let tr := hit.filter (·.act = 3)
    (if hit.isEmpty then u.1 else u.1 + 2 ^ p.1, if tr.isEmpty then u.2.1 else u.2.1 + 2 ^ p.1,
      tr.foldl (fun m q => min m q.p) u.2.2)) (0, 0, 8)

/-- TAP: gD and SEQTRAP stand when TAPHIT is taken after it. -/
def execTap (d a b : BitVec 6) (s : State) : Out :=
  run s (do
    nativeOnly s
    let srcs : List Src := [.g a, .g b]
    let vs ← operands s srcs [.g d]
    let i := getF (argW vs 1) 0 6
    let (t, f, tr, pmin) ← (if s.here.tapOn then do
        let (s1, r) ← tapChecks s a (arg vs 0).g i false
        let (s2, xs) ← rangeLoads s1 (r.rows.map fun q => q.2.2)
        let (f, tr, pmin) := tapResult r.tile.w32 r.tile.cols r.probes ((r.rows.map (·.1)).zip (xs.map (·.2)))
        .ok (s2, f, tr, pmin)
      else .ok (s, 0, 0, 8) : M (State × Nat × Nat × Nat))
    if !hasRoom s [.g d] then .error (.wait s)
    else
      let t1 := t.setMe { t.me with seqtrap := t.me.seqtrap ||| w64 tr }
      let t2 := (t1.commit srcs [.g d] [.data (w64 f)]).retire 4
      if tr = 0 then .ok t2 else .error (.keep t2 .taphit (w64 (i * 2 ^ 8 + pmin))))

/-- TSTEER: every score is taken before any element is written. -/
def execTsteer (a b : BitVec 6) (s : State) : Out :=
  run s (do
    nativeOnly s
    op s [.g a, .g b] [] 4 fun t vs => do
      if !t.here.tapOn then .ok (t, [])
      else do
        let (s1, r) ← tapChecks t a (arg vs 0).g (getF (argW vs 1) 0 6) true
        let use := r.rows.filter fun q => q.2.1
        let (s2, xs) ← rangeLoads s1 (use.map fun q => q.2.2)
        let outs := (use.zip xs).filterMap fun p =>
          let hit := r.probes.filter fun q => q.fires r.tile.w32 r.tile.cols p.2.2
          if hit.isEmpty then none else some (steerRow r.tile.w32 r.tile.cols p.2.2 hit, p.1.2.2.2)
        let s3 ← syncChecks s2 outs
        .ok (outs.foldl (fun u q => storePieces u.cur u q.2 q.1) s3, []))

end Sys2Proof.Machine
end

