-- ==== Sys2Proof/Machine/Sampling.lean ====
section
/-! DEFINITION. The sampling collective (R365 to R377) and the grammar unit (R378 to R383). -/

namespace Sys2Proof.Machine

/-! ## Local blocks -/

/-- The bytes of a block that is never reached by a remote word access: R32, then MIGFAULT for another rank's window, then
POISON (R372, R381). -/
def localBlock (s : State) (a : Need) : M (State × Nat × List (Piece × Loc)) := do
  preChecks s.kern a
  let (s1, w) ← locate s a
  match w with
  | .here l => do
    let s2 ← loadCheck s1.cur s1 l
    let (s3, x) := loadPieces s2.cur s2 l
    .ok (s3, x, l)
  | .remote _ _ => trap .migfault a.ea
  | .device _ => deviceTrap s1 a.ea

/-- The places of a block that is to be written. -/
def localPlaces (s : State) (a : Need) : M (State × List (Piece × Loc)) := do
  preChecks s.kern a
  let (s1, w) ← locate s a
  match w with
  | .here l => .ok (s1, l)
  | .remote _ _ => trap .migfault a.ea
  | .device _ => deviceTrap s1 a.ea

/-! ## Slices (R365) -/

def sliceCount (w : Word) : Nat := getF w 0 16
def sliceBase (w : Word) : Nat := getF w 16 24

/-- MO: offset of the mask bitmap. -/
def maskOff (count : Nat) : Nat := 8 * ((count + 1) / 2)

/-- Length of a slice block. -/
def sliceLen (count : Nat) : Nat := maskOff count + 8 * ((count + 63) / 64)

/-- The tokens of a slice: an unmasked token's logit, none for a masked one. -/
def sliceTokens (count x : Nat) : List (Option Nat) :=
  (List.range count).map fun i => if x.testBit (8 * maskOff count + i) then some (x / 2 ^ (32 * i) % 2 ^ 32) else none

/-- A logit as the sampler takes it: NaN counts as -∞. -/
def logitOf (z : Nat) : Nat := if (fp32.decode z).isNan then 0xFF800000 else z

/-- NANL when an unmasked logit is NaN. -/
def nanFlag (l : List (Option Nat)) : Nat :=
  if l.any fun z => match z with | some x => (fp32.decode x).isNan | none => false then flNANL else 0

/-! ## Weights (R369) -/

/-- The classes of T; none outside the domain. -/
inductive Temp | greedy | uniform | normal
  deriving DecidableEq, Repr

def tempOf (t : Nat) : Option Temp :=
  if t / 2 ^ 23 % 2 ^ 8 = 0 then some .greedy
  else if t = 0x7F800000 then some .uniform
  else if t < 0x7F800000 then some .normal
  else none

/-- ⌊w × 2^40⌋, at most 2^40, of a nonnegative FP32 value. -/
def fixed40 (w : Nat) : Nat :=
  match fp32.decode w with
  | .inf _ => 2 ^ 40
  | .nan _ => 0
  | .fin _ m e => min (if 0 ≤ e + 40 then m * 2 ^ (min (e + 40).toNat 200) else m / 2 ^ (-(e + 40)).toNat) (2 ^ 40)

/-- W_i of an unmasked token with logit `z`. -/
def weight (t mx : Nat) (z : Nat) : Nat :=
  let eq := (fpCmp fp32 0 z mx).1
  match tempOf t with
  | some .greedy => b2n eq
  | some .uniform => 1
  | some .normal =>
    if eq then 2 ^ 40
    else
      let d := (fpSub fp32 rmRNE z mx).1
      let x := (fpMul fp32 rmRNE d 0x3FB8AA3B).1
      let y := (fpDiv fp32 rmRNE x t).1
      fixed40 (fpExp2 fp32 rmRNE y).1
  | none => 0

/-- The weights of a slice; a masked token has weight 0, a NaN maximum counts as -∞ (R365). -/
def weights (t mx : Nat) (l : List (Option Nat)) : List Nat :=
  l.map fun z => match z with
    | some x => weight t (logitOf mx) (logitOf x)
    | none => 0

/-- The largest of two FP32 values, -0 below +0 (R241). -/
def fpLargest (x y : Nat) : Nat := if (fp32.decode x).below (fp32.decode y) then y else x

/-- The largest unmasked logit of a slice. -/
def sliceMax (l : List (Option Nat)) : Option Nat :=
  l.foldl (fun m z => match m, z with
    | none, some x => some (logitOf x)
    | some y, some x => some (fpLargest y (logitOf x))
    | m, none => m) none

/-! ## The members of a step (R367) -/

/-- FN codes of the sampling instructions. -/
def fnSmax : Nat := 0
def fnSmass : Nat := 1
def fnSdraw : Nat := 2
def fnSloc : Nat := 3

/-- SAMPLEDOM's EVAL. -/
def domEval (reason v : Nat) : Word := w64 (reason * 2 ^ 56 + v % 2 ^ 48)

/-- The member number of a core in its gang: CROW × C + CCOL. -/
def Core.memberNo (c : Core) : Nat := c.crow * (shapeDims c.shape).2 + c.ccol

/-- Puts a core into a list in the order of the member numbers. -/
def State.insertMember (s : State) (n : Nat) : List Nat → List Nat
  | [] => [n]
  | m :: l => if (s.core n).memberNo < (s.core m).memberNo then n :: m :: l else m :: s.insertMember n l

/-- The members that a thread samples with, by member number; itself when it is in no gang that has completed a GANG. -/
def State.sampleMembers (s : State) : List (Nat × Nat) :=
  match s.me.gang with
  | some g =>
    if g.round ≠ 0 && s.cb = 1 then (g.members.foldl (fun l n => s.insertMember n l) []).map fun n => (n, 1)
    else [(s.cur, s.cb)]
  | none => [(s.cur, s.cb)]

/-- What a member of the issuing thread's collective has brought to the step. -/
def State.sampleOf (s : State) (p : Nat × Nat) : Option SampleIssue :=
  let b := s.berthAt p.1 p.2
  match b.wait with
  | .sample r => if p = (s.cur, s.cb) || s.me.sameGang b then some r else none
  | _ => none

/-- A member of a step: its berth, its part, the failure of its checks, the DEAD bits of its batch map, and its slice's tokens. -/
structure Member where
  at_ : Nat × Nat
  issue : SampleIssue
  fail : Option (Cause × Word)
  map : Nat
  toks : List (Option Nat)
  deriving DecidableEq, Repr

/-- Reads one member's batch map. -/
def readBatch (s : State) (p : Nat × Nat) (q : SampleIssue) : State × Member :=
  match batchMap { s with cur := p.1, cb := p.2 } with
  | .ok (t, dead, _) => (t, ⟨p, q, none, dead, []⟩)
  | .error (.trap c v) => (s, ⟨p, q, some (c, v), 0, []⟩)
  | .error _ => (s, ⟨p, q, none, 0, []⟩)

/-- Whether some member's batch map marks a member's row dead (R368). -/
def Member.dead (ms : List Member) (m : Member) : Bool := ms.any fun x => x.map.testBit m.issue.row

/-- The slice block of a member (R372 steps 2 to 5), every word of it (log 126). -/
def readSlice (s : State) (q : SampleIssue) : M (State × List (Option Nat)) := do
  let k := sliceCount q.gb
  check (k ≤ 8192) .copyform q.gb
  if k = 0 then .ok (s, [])
  else do
    let (s1, x, _) ← localBlock s ⟨q.ga, q.code, q.ga.val, sliceLen k, pR, true, false, false, 8⟩
    .ok (s1, sliceTokens k x)

/-- The checks of R372 that a member makes on a live row, and what it reads. -/
def sampleChecks (s : State) (q : SampleIssue) : M (State × List (Option Nat)) := do
  check (q.fn = fnSmax || (tempOf q.temp).isSome) .sampledom (domEval 1 q.temp)
  if q.fn = fnSdraw then .ok (s, []) else readSlice s q

/-- A member's checks, which it makes on a live row; `ms` holds every member's batch map. -/
def checkMember (ms : List Member) (s : State) (m : Member) : State × Member :=
  match m.fail, Member.dead ms m with
  | some _, _ => (s, m)
  | none, true => (s, m)
  | none, false =>
    match sampleChecks { s with cur := m.at_.1, cb := m.at_.2 } m.issue with
    | .ok (t, l) => (t, { m with toks := l })
    | .error (.trap c v) => (s, { m with fail := some (c, v) })
    | .error _ => (s, m)

/-- Step 3 of R367: a member whose FN or row differs from member 0's. -/
def compareMember (first : SampleIssue) (m : Member) : Member :=
  match m.fail with
  | some _ => m
  | none =>
    if m.issue.fn = first.fn && m.issue.row = first.row then m
    else { m with fail := some (.sampledom, domEval 2 m.issue.fn) }

/-- The token that holds `u` (R376): its slice's BASE plus its index. -/
def findToken (u : Nat) : List (Nat × List Nat) → Nat
  | [] => 0
  | (base, ws) :: r =>
    if u < ws.sum then
      base + ((List.range ws.length).find? fun i => u < (ws.take (i + 1)).sum).getD 0
    else findToken (u - ws.sum) r

/-- A member's weights. -/
def Member.weights (m : Member) : List Nat := Machine.weights m.issue.temp m.issue.max m.toks

/-- What a step gives on a live row when no member failed (R373 to R376): the result, or the trap of every member. -/
def sampleResult (key : Word) (first : SampleIssue) (ms : List Member) : Except (Cause × Word) Nat :=
  let total := (ms.map fun m => m.weights.sum).sum
  if first.fn = fnSmax then
    match sliceMax ((ms.filterMap fun m => sliceMax m.toks).map some) with
    | some x => .ok x
    | none => .error (.gramdead, w64 first.row)
  else if first.fn = fnSmass then .ok total
  else if first.fn = fnSdraw then
    (if tempOf first.temp = some .greedy then .ok 0 else .ok (kcgBelow (kcg key first.pos) first.gb.toNat))
  else
    let u := first.gd.toNat
    if total ≤ u then .error (.sampledom, domEval 4 u)
    else .ok (findToken u (ms.map fun m => (sliceBase m.issue.gb, m.weights)))

/-- gD for a dead row (R368). -/
def deadResult (fn : Nat) : Word :=
  if fn = fnSmax then 0xFF800000 else if fn = fnSmass then 0 else 0xFFFFFFFFFFFFFFFF

/-- Ends a member's wait with a result and its flags, or with a trap. -/
def State.endMember (s : State) (p : Nat × Nat) (r : Except (Cause × Word) (Word × Nat)) : State :=
  let b := s.berthAt p.1 p.2
  match r with
  | .ok (v, fl) => s.setBerthAt p.1 p.2 { b with wait := .done v (w64 fl) }
  | .error (c, v) => s.setBerthAt p.1 p.2 { b with wait := .failed c v }

/-- Applies a function that passes the state along to each member. -/
def overMembers {α : Type} (f : State → α → State × Member) : State → List α → State × List Member
  | s, [] => (s, [])
  | s, x :: r =>
    let (s1, m) := f s x
    let (s2, l) := overMembers f s1 r
    (s2, m :: l)

/-- What each member does once all have arrived (R367 steps 2 to 5). -/
def State.sampleStep (s : State) : State :=
  let ps := s.sampleMembers
  let issues := ps.filterMap fun p => (s.sampleOf p).map fun q => (p, q)
  match issues with
  | [] => s
  | (p0, first) :: _ =>
    if issues.length < ps.length then s
    else
      let (s1, bs) := overMembers (fun t x => readBatch t x.1 x.2) s issues
      let (s2, ms) := overMembers (checkMember bs) s1 bs
      let s3 := { s2 with cur := s.cur, cb := s.cb }
      let cs := ms.map (compareMember first)
      if cs.any fun m => m.fail.isSome then
        cs.foldl (fun t m => t.endMember m.at_ (.error (m.fail.getD (.sampledom, domEval 3 0)))) s3
      else if cs.any (Member.dead bs) then cs.foldl (fun t m => t.endMember m.at_ (.ok (deadResult first.fn, 0))) s3
      else
        let r := sampleResult (s.berthAt p0.1 p0.2).seqkey first cs
        cs.foldl (fun t m => t.endMember m.at_ (r.map fun v => (w64 v, nanFlag m.toks))) s3

/-! ## SMAX, SMASS, SDRAW, SLOC (R371) -/

/-- Completes a sampling instruction with its result and flags. -/
def sampleEnd (s : State) (srcs : List Src) (d : BitVec 6) (v fl : Word) : M State :=
  if hasRoom s [.g d] then .ok (((s.addFlags fl.toNat).commit srcs [.g d] [.data v]).retire 4) else .error (.wait s)

/-- A sampling instruction: it arrives, the last member's arrival makes the step, and then each member completes. -/
def sampleOp (s : State) (srcs : List Src) (d : BitVec 6) (q : List Val → SampleIssue) : Out :=
  run s (do
    nativeOnly s
    match s.me.wait with
    | .sample _ => .error (.wait s)
    | .done v fl => sampleEnd s srcs d v fl
    | _ => do
      let vs ← operands s srcs [.g d]
      let t := (s.setMe { s.me with wait := .sample (q vs) }).sampleStep
      match t.me.wait with
      | .done v fl => sampleEnd t srcs d v fl
      | .failed c v => .error (.keep t c v)
      | _ => .error (.wait t))

def execSmax (d a b : BitVec 6) (s : State) : Out :=
  sampleOp s [.g a, .g b, .ox 2] d fun vs =>
    ⟨fnSmax, a.toNat, (arg vs 0).g, argW vs 1, 0, 0, 0, getF (arg vs 2).x 0 6, 0⟩

def execSmass (d a b : BitVec 6) (s : State) : Out :=
  sampleOp s [.g a, .g b, .ox 0, .ox 2, .ox 3] d fun vs =>
    ⟨fnSmass, a.toNat, (arg vs 0).g, argW vs 1, 0, getF (arg vs 2).x 0 32, 0, getF (arg vs 3).x 0 6, getF (arg vs 4).x 0 32⟩

def execSdraw (d b : BitVec 6) (s : State) : Out :=
  sampleOp s [.g b, .ox 0, .ox 1, .ox 2] d fun vs =>
    ⟨fnSdraw, 0, GReg.zero, argW vs 0, 0, getF (arg vs 1).x 0 32, (arg vs 2).x, getF (arg vs 3).x 0 6, 0⟩

def execSloc (d a b : BitVec 6) (s : State) : Out :=
  sampleOp s [.g a, .g b, .g d, .ox 0, .ox 2, .ox 3] d fun vs =>
    ⟨fnSloc, a.toNat, (arg vs 0).g, argW vs 1, argW vs 2, getF (arg vs 3).x 0 32, 0, getF (arg vs 4).x 0 6,
      getF (arg vs 5).x 0 32⟩

/-! ## The grammar state block and tables (R378 to R381) -/

/-- A grammar state block as read. -/
structure GramBlock where
  addr : Nat
  depth : Nat
  stack : List (Nat × Nat)       -- entries with the address of the word that holds each
  table : GReg
  places : List (Piece × Loc)

/-- The header of the grammar tables. -/
structure Gram where
  table : GReg
  slot : Nat
  nstates : Nat
  ntok : Nat
  eos : Nat
  mask : Nat
  trans : Nat
  dep : Nat
  tok : Nat
  pool : Nat
  deriving DecidableEq, Repr

/-- A malformed word traps COPYFORM at its address (R381). -/
def wellWord (p : Bool) (a : Word) : M Unit := check p .copyform a

/-- `n` bytes of the tables at an offset. -/
def tableRead (s : State) (t : GReg) (slot off n : Nat) : M (State × Nat) := do
  let (s1, x, _) ← localBlock s ⟨t, slot, t.val + w64 off, n, pR, true, false, false, 0⟩
  .ok (s1, x)

/-- The state block at gA, read under R32. -/
def gramBlock (s : State) (code : BitVec 6) (g : GReg) : M (State × GramBlock) := do
  let (s1, x, l) ← localBlock s ⟨g, code.toNat, g.val, 160, pR, true, false, false, 16⟩
  let isCap : Bool := match l.head? with
    | some p => (s1.loadWord s1.cur p.2).2.2 == tagCap
    | none => false
  let t : GReg := ⟨w64 (blockF x 0 8), w64 (blockF x 8 8), if isCap then .cap else .data⟩
  check (if isCap then capWell t.sh else s.kern) .captag g.val
  wellWord (blockF x 18 6 = 0 && blockF x 16 2 ≤ 64) (g.val + 16)
  wellWord (blockF x 24 8 = 0) (g.val + 24)
  .ok (s1, ⟨g.val.toNat, blockF x 16 2,
    (List.range 64).map (fun i => (blockF x (32 + 2 * i) 2, g.val.toNat + 32 + i / 4 * 8)), t, l⟩)

/-- The tables' header. -/
def gramHeader (s : State) (b : GramBlock) : M (State × Gram) := do
  let (s1, x) ← tableRead s b.table b.addr 0 64
  let at_ (o : Nat) : Word := b.table.val + w64 o
  let ns := blockF x 0 4
  let nt := blockF x 4 4
  let eos := blockF x 8 4
  wellWord (ns ≠ 0 && nt ≠ 0 && nt ≤ 2 ^ 24) (at_ 0)
  wellWord (eos < nt && blockF x 12 4 = 0) (at_ 8)
  wellWord (blockF x 16 8 % 8 = 0) (at_ 16)
  wellWord (blockF x 24 8 % 8 = 0) (at_ 24)
  wellWord (blockF x 32 8 % 8 = 0) (at_ 32)
  wellWord (blockF x 40 8 % 8 = 0) (at_ 40)
  wellWord (blockF x 48 8 % 8 = 0) (at_ 48)
  wellWord (blockF x 56 8 = 0) (at_ 56)
  .ok (s1, ⟨b.table, b.addr, ns, nt, eos, blockF x 16 8, blockF x 24 8, blockF x 32 8, blockF x 40 8, blockF x 48 8⟩)

def Gram.read (g : Gram) (s : State) (off n : Nat) : M (State × Nat) := tableRead s g.table g.slot off n

/-- The address of an offset. -/
def Gram.addr (g : Gram) (off : Nat) : Word := g.table.val + w64 off

/-- OFF and LEN of a token's spelling. -/
def Gram.spelling (g : Gram) (s : State) (t : Nat) : M (State × Nat × Nat) := do
  let (s1, w) ← g.read s (g.tok + 8 * t) 8
  let len := blockF w 4 2
  wellWord (blockF w 6 2 = 0 && len ≤ 1024) (g.addr (g.tok + 8 * t))
  .ok (s1, blockF w 0 4, len)

/-- A state read from the stack or used is below NSTATES. -/
def Gram.state (g : Gram) (q : Nat × Nat) : M Unit := wellWord (q.1 < g.nstates) (w64 q.2)

/-- A walk's verdict: rejected, or accepted with the new stack and depth. -/
abbrev Walk := Option (List (Nat × Nat) × Nat)

/-- The bytes of a token against a stack (R380): `o` is the offset of the next byte, `k` bytes remain. -/
def Gram.walkBytes (g : Gram) : State → List (Nat × Nat) → Nat → Nat → Nat → M (State × Walk)
  | s, st, d, _, 0 => .ok (s, some (st, d))
  | s, st, d, o, k + 1 => do
    if d = 0 then .ok (s, none)
    else do
      let top := st.getD (d - 1) (0, 0)
      g.state top
      let (s1, b) ← g.read s o 1
      let eo := g.trans + 8 * (256 * top.1 + b)
      let (s2, e) ← g.read s1 eo 8
      let ea := (g.addr eo).toNat
      wellWord (e / 2 ^ 34 = 0) (g.addr eo)
      let next := (blockF e 0 2, ea)
      let aux := (blockF e 2 2, ea)
      match e / 2 ^ 32 % 4 with
      | 0 => .ok (s2, none)
      | 1 => do
        g.state next
        g.walkBytes s2 (st.set (d - 1) next) d (o + 1) k
      | 2 => do
        if d = 64 then .ok (s2, none)
        else do
          g.state aux
          g.state next
          g.walkBytes s2 ((st.set (d - 1) aux).set d next) (d + 1) (o + 1) k
      | _ => g.walkBytes s2 st (d - 1) (o + 1) k

/-- walk of R380. -/
def Gram.walk (g : Gram) (s : State) (st : List (Nat × Nat)) (d t : Nat) : M (State × Walk) := do
  if t = g.eos then .ok (s, if d = 0 then some (st, d) else none)
  else if d = 0 || g.ntok ≤ t then .ok (s, none)
  else do
    let (s1, off, len) ← g.spelling s t
    if len = 0 then .ok (s1, none) else g.walkBytes s1 st d (g.pool + off) len

/-! ## GRMASK and GRSTEP (R382, R383) -/

/-- The words of mask row `st` at the given indices. -/
def Gram.maskWords (g : Gram) (st : Nat) : State → List Nat → M (State × List (Nat × Nat))
  | s, [] => .ok (s, [])
  | s, i :: r => do
    let (s1, w) ← g.read s (g.mask + 8 * ((g.ntok + 63) / 64) * st + 8 * i) 8
    let (s2, l) ← g.maskWords st s1 r
    .ok (s2, (i, w) :: l)

/-- The tokens of state's list that the walk accepts, from entry `i` of the list at `off` on; only those in the slice are
walked. -/
def Gram.listed (g : Gram) (b : GramBlock) (inSlice : Nat → Bool) (off : Nat) : State → Nat → Nat → M (State × List Nat)
  | s, _, 0 => .ok (s, [])
  | s, i, k + 1 => do
    let (s1, t) ← g.read s (off + 4 * i) 4
    let (s2, ok) ← if inSlice t then g.walk s1 b.stack b.depth t else .ok (s1, none)
    let (s3, l) ← g.listed b inSlice off s2 (i + 1) k
    .ok (s3, if ok.isSome then t :: l else l)

/-- The tokens of a slice that the grammar allows. -/
def allowedTokens (s : State) (b : GramBlock) (g : Gram) (base count : Nat) : M (State × List Nat) := do
  if b.depth = 0 then .ok (s, if base ≤ g.eos && g.eos < base + count then [g.eos] else [])
  else do
    let top := b.stack.getD (b.depth - 1) (0, 0)
    g.state top
    let cand := ((List.range count).map (base + ·)).filter fun t => t < g.ntok && t ≠ g.eos
    let (s1, ws) ← g.maskWords top.1 s ((cand.map (· / 64)).eraseDups)
    let row := cand.filter fun t => ((alGet ws (t / 64)).getD 0).testBit (t % 64)
    let (s2, w) ← g.read s1 (g.dep + 8 * top.1) 8
    wellWord (blockF w 0 4 % 8 = 0 && blockF w 6 2 = 0) (g.addr (g.dep + 8 * top.1))
    let (s3, l) ← g.listed b (fun t => cand.contains t) (blockF w 0 4) s2 0 (blockF w 4 2)
    .ok (s3, row ++ l)

/-- The bitmap of a slice's allowed tokens. -/
def maskBits (base : Nat) (l : List Nat) : Nat := l.foldl (fun r t => r ||| 2 ^ (t - base)) 0

def execGrmask (d a b : BitVec 6) (s : State) : Out :=
  run s (do
    nativeOnly s
    op s [.g a, .g b, .g d] [] 4 fun t vs => do
      let (t1, blk) ← gramBlock t a (arg vs 0).g
      let (t2, g) ← gramHeader t1 blk
      let k := sliceCount (argW vs 1)
      let base := sliceBase (argW vs 1)
      let (t3, l) ← allowedTokens t2 blk g base k
      if k = 0 then .ok (t3, [])
      else do
        let sl := (arg vs 2).g
        let (t4, ps) ← localPlaces t3 ⟨sl, d.toNat, sl.val, sliceLen k, pW, false, true, false, 8⟩
        let out := ps.filter fun p => sl.val.toNat + maskOff k ≤ p.1.va
        let t5 ← storeCheck t4.cur t4 out
        .ok (storePieces t5.cur t5 out (maskBits base l), []))

/-- The stores of an accepted step: DEPTH, then the entries below the new DEPTH that changed. -/
def gramStores (b : GramBlock) (st : List (Nat × Nat)) (d : Nat) : List (Nat × Nat) :=
  (b.addr + 16, d) ::
    ((List.range d).filter fun i => (st.getD i (0, 0)).1 ≠ (b.stack.getD i (0, 0)).1).map fun i =>
      (b.addr + 32 + 2 * i, (st.getD i (0, 0)).1)

/-- The place of a 16-bit field of the block. -/
def fieldPlace (ps : List (Piece × Loc)) (va : Nat) : List (Piece × Loc) :=
  match ps.find? fun p => p.1.va = va / 8 * 8 with
  | some p => [(⟨va, 2⟩, p.2)]
  | none => []

def execGrstep (d a b : BitVec 6) (s : State) : Out :=
  run s (do
    nativeOnly s
    op s [.g a, .g b] [.g d] 4 fun t vs => do
      let ga := (arg vs 0).g
      let (t1, blk) ← gramBlock t a ga
      let (t2, g) ← gramHeader t1 blk
      let (t3, w) ← g.walk t2 blk.stack blk.depth (getF (argW vs 1) 0 24)
      match w with
      | none => .ok (t3, [.data 1])
      | some (st, dep) => do
        let (t4, ps) ← localPlaces t3 ⟨ga, a.toNat, ga.val, 160, pW, false, true, false, 16⟩
        let sts := (gramStores blk st dep).map fun x => (x.2, fieldPlace ps x.1)
        let t5 ← syncChecks t4 sts
        .ok (sts.foldl (fun u x => storePieces u.cur u x.2 x.1) t5, [.data (if dep = 0 then 2 else 0)]))

end Sys2Proof.Machine
end

