-- ==== Sys2Proof/Machine/Sysreg.lean ====
section
/-! DEFINITION. The system registers: what reading and writing each of them does (R5, R12, R13, R56, R186 to R190, R210 to R212,
R250, R310, R341, R342, R353, R385, R389, R421 to R428), SRR, SRW and SRX (R431), and the rows of the opcode table that are one
such write. -/

namespace Sys2Proof.Machine

/-! ## Access (R210, R211) -/

/-- Whether a register may be read and written, for a privilege: 0 user, 1 kernel, 2 monitor; none where no number is
assigned. -/
def regAccess (priv num : Nat) : Option (Bool × Bool) :=
  let k := priv ≠ 0
  if num = 0x000 then some (true, k)
  else if 0x001 ≤ num && num ≤ 0x006 then some (k, k)
  else if num = 0x007 then some (true, true)
  else if num = 0x010 then some (true, k)
  else if num = 0x011 then some (true, true)
  else if num = 0x012 then some (true, k)
  else if 0x013 ≤ num && num ≤ 0x015 then some (true, true)
  else if num = 0x016 then some (true, k)
  else if num = 0x020 || num = 0x021 then some (true, k)
  else if num = 0x022 || num = 0x023 then some (true, false)
  else if num = 0x024 then some (true, priv = 2)
  else if num = 0x030 then some (true, true)
  else if num = 0x031 || num = 0x032 then some (true, k)
  else if num = 0x040 then some (k, k)
  else if num = 0x041 then some (true, k)
  else if num = 0x042 then some (k, k)
  else if num = 0x050 then some (true, false)
  else if num = 0x060 then some (false, k)
  else none

/-- The registers of R210 that a berth or a thread holds, STATUS apart: an access in B0 reaches the berth of STATUS.TB
(R422). NATIVE is not among them, of which the kernel in B0 reads its own (R212; log 46). -/
def perBerth (num : Nat) : Bool :=
  num = 1 || num = 2 || num = 3 || num = 7 || (0x012 ≤ num && num ≤ 0x016) || num = 0x030 || num = 0x031 || num = 0x050

/-- The berth that an access of the executing thread reaches. -/
def State.regBerth (s : State) (num : Nat) : Nat := if s.cb = 0 && perBerth num then s.me.tb else s.cb

/-! ## Reading -/

/-- STATUS of a berth: the B0-only fields read 0 elsewhere; PRIV is the berth's (R421). -/
def State.statusOf (s : State) (n i : Nat) : Word :=
  let b := s.berthAt n i
  if i = 0 then setF (b.status &&& 0x0000FFFF0000FF80) 0 2 (if n = mcNode then 2 else 1)
  else b.status &&& 0x0000FFFF00008000

/-- NATIVE (R212). -/
def State.nativeReg (s : State) (n i : Nat) : Word :=
  if i = 0 then w64 n else w64 ((s.berthAt n i).nrank * 2 ^ 22 + (s.berthAt n i).nberth * 2 ^ 12 + (s.berthAt n i).nnode)

/-- ISLAND (R212). -/
def State.islandReg (s : State) (n : Nat) : Word :=
  w64 (b2n (n = mcNode) * 2 ^ 25 + b2n (isRill n) * 2 ^ 24 + s.lcoreOf n * 2 ^ 12 + n)

/-- Entries of a priority in the ready queue. -/
def Core.queued (c : Core) (p : Nat) : Nat := (c.ready.filter fun r => getF r.q0.val 62 2 = p).length

/-- RQSTAT (R425). -/
def Core.rqstat (c : Core) : Word :=
  w64 (b2n c.noguest * 2 ^ 47 + b2n c.b3.occupied * 2 ^ 43 + b2n c.b2.occupied * 2 ^ 42 + b2n c.away * 2 ^ 41 +
    b2n c.b1.occupied * 2 ^ 40 + c.dispCur * 2 ^ 36 + b2n c.den * 2 ^ 35 + c.queued 3 * 2 ^ 15 + c.queued 2 * 2 ^ 10 +
    c.queued 1 * 2 ^ 5 + c.queued 0)

/-- INQSTAT (R190). -/
def Core.inqstat (c : Core) : Word := w64 (b2n c.hold * 2 ^ 16 + c.inbox.length * 2 ^ 8 + c.urgent.length)

/-- OVFBASE (R189). -/
def Core.ovfReg (c : Core) : Word :=
  w64 (c.ovfTail * 2 ^ 29 + c.ovfHead * 2 ^ 20 + c.ovfSize * 2 ^ 16 + c.ovfBase * 2 ^ 6 + b2n c.ovfEn)

/-- The value of a register of core `n` as it stands for berth `i`. -/
def State.regVal (s : State) (n i num : Nat) : Word :=
  let c := s.core n
  let b := c.berth i
  if num = 0x000 then s.statusOf n i
  else if num = 0x001 then b.cause
  else if num = 0x002 then b.epc
  else if num = 0x003 then b.eval
  else if num = 0x004 then c.tvec
  else if num = 0x005 then c.ksavea
  else if num = 0x006 then c.ksaveb
  else if num = 0x007 then b.timecmp
  else if num = 0x010 then c.tags
  else if num = 0x011 then c.geom
  else if num = 0x012 then b.prio
  else if num = 0x013 then b.mspill
  else if num = 0x014 then b.vstat
  else if num = 0x015 then b.arith
  else if num = 0x016 then b.repst
  else if num = 0x020 then w64 c.ctxid
  else if num = 0x021 then w64 c.rank
  else if num = 0x022 then s.nativeReg n i
  else if num = 0x023 then s.islandReg n
  else if num = 0x024 then w64 (b2n s.rep)
  else if num = 0x030 then b.seqkey
  else if num = 0x031 then b.seqtrap
  else if num = 0x032 then c.tapen
  else if num = 0x040 then c.rqstat
  else if num = 0x041 then c.inqstat
  else if num = 0x042 then c.ovfReg
  else if num = 0x050 then b.leaseNow s.time
  else 0

/-! ## Writes with an effect beyond their field -/

/-- The LM clear of R56: every word 0 with tag DATA; the sync objects there end, and the waits for its words end too: their threads,
of the context that has left, issue again and find the LM foreign (R56, R57). -/
def State.lmClear (s : State) (n : Nat) : State :=
  let grans := (((s.resv.map (·.gran)) ++ s.barriers.map (·.addr)).filter (inLm n)).eraseDups
  let s1 := grans.foldl State.endGranule s
  (s1.words.filter fun w => inLm n w.addr).foldl (fun t w =>
    (t.dropWaits w.node w.berth).setBerthAt w.node w.berth { t.berthAt w.node w.berth with wait := .none }) (s1.lmErase n)

/-- Moves the urgent entries of contexts other than 0 to their MSGBUFs (R428). -/
def State.moveUrgent (s : State) (n : Nat) : State :=
  let c := s.core n
  let s1 := s.setCore n { c with urgent := c.urgent.filter (·.ctx = 0) }
  (c.urgent.filter (·.ctx ≠ 0)).foldl (fun t m => (t.msgbufPut n m.ctx (m.arrival true)).1) s1

/-- A write of CTXID (R12, R13, R56, R428); of the ring's registers only EN changes (log 95), and the ports have the bindings of the rank (log 93). -/
def State.setCtx (s : State) (n : Nat) (v : Word) : M State := do
  let c := s.core n
  let new := getF v 0 12
  if new = c.ctxid then .ok s
  else do
    check (!(c.b1.occupied || c.b2.occupied || c.b3.occupied || c.away)) .illegal 0x020
    let s1 := (s.moveEntries n fun t a => (t.msgbufPut n a.ctx a).1).moveUrgent n
    let s2 := s1.setCore n { (s1.core n).dropProbes with ctxid := new, hold := false, ovfEn := false }
    .ok ((s2.lmClear n).loadBinds n)

/-- A write of RANK (R186, R188); the ports have the bindings of the new rank (R194, R207; log 93). -/
def State.setRank (s : State) (n : Nat) (v : Word) : State :=
  if getF v 0 10 = (s.core n).rank then s
  else
    let s1 := s.moveEntries n fun t a => t.overflow n a false
    (s1.setCore n { s1.core n with rank := getF v 0 10, hold := true }).loadBinds n

/-- A write of INQSTAT: HOLD ← 0 takes effect only when the ring is empty (R190). -/
def Core.setInqstat (c : Core) (v : Word) : Core :=
  if bitOf v 16 then { c with hold := true } else if c.ovfHead = c.ovfTail then { c with hold := false } else c

/-- A write of OVFBASE (R189). -/
def Core.setOvf (c : Core) (v : Word) : M Core := do
  let size := getF v 16 4
  let base := getF v 6 10
  check (!(bitOf v 0 && (9 < size || 0x18000 < 128 * (base + 2 ^ size)))) .illegal 0x042
  .ok { c with ovfHead := getF v 20 9, ovfSize := size, ovfBase := base, ovfEn := bitOf v 0 }

/-- A write of TAPEN: a new TBASE drops the cached probes (R385). -/
def Core.setTapen (c : Core) (v : Word) : Core :=
  let w := v &&& 0x0000FFFFFFFFF003
  let c1 := { c with tapen := w }
  if getF w 12 36 = getF c.tapen 12 36 then c1 else c1.dropProbes

/-- A write of TAPINV (R389). -/
def Core.setTapinv (c : Core) (v : Word) : Core := if bitOf v 0 then c.dropProbes else c

/-- A write of GEOM (R353); `inGang` when the writing thread is a gang task's. -/
def Core.setGeom (c : Core) (v : Word) (inGang : Bool) : M Core := do
  let shape := getF v 8 3
  let (rows, cols) := shapeDims shape
  check (shape ≤ 4 && getF v 2 2 < rows && getF v 0 2 < cols) .illegal 0x011
  check (!(inGang && (getF v 8 3 ≠ getF c.geom 8 3 || getF v 0 4 ≠ getF c.geom 0 4))) .illegal 0x011
  .ok { c with geom := v &&& 0xFFFFFFFF0000070F }

/-- A write of PRIO (R342). -/
def Berth.setPrio (b : Berth) (v : Word) : M Berth := do
  check (getF v 0 2 ≠ 3) .illegal 0x012
  .ok { b with prio := w64 (getF v 0 2) }

/-- A write of MSPILL (R341). -/
def Berth.setMspill (b : Berth) (v : Word) : M Berth := do
  let w := (b.mspill &&& ~~~0x1C001) ||| (v &&& 0x1C001)
  check (!(bitOf b.mspill 63 && w ≠ b.mspill)) .illegal 0x013
  .ok { b with mspill := w }

/-- The entries of a list of at most `k` in a free order (log 25). -/
def State.anyOrder : Nat → List Nat → State → State × List Nat
  | 0, l, s => (s, l)
  | k + 1, l, s =>
    if l.length ≤ 1 then (s, l)
    else
      let i := s.free % l.length
      let (t, r) := State.anyOrder k (l.eraseIdx i) s.drawn
      (t, l.getD i 0 :: r)

/-- A write of TAGS: the bits it sets count as set now, at one moment, so their order among themselves is free (R310, R311, R434;
log 25). -/
def State.setTags (s : State) (n : Nat) (v : Word) : State :=
  let c := s.core n
  let new := v &&& ~~~c.tags
  let (s0, is) := State.anyOrder 64 ((List.range 64).filter fun i => bitOf new i) s
  let s1 := s0.setCore n (is.foldl (fun d i => d.setTag i) (c.clearTags (~~~v)))
  let s2 := if new &&& 0x0000FFFFFFFFFFFF ≠ 0 then s1.wakeSleep n 1 else s1
  if new &&& 0xFFFF000000000000 ≠ 0 then s2.wakeSleep n 0 else s2

/-- A write of TVEC: the two lines that begin there are locked in the instruction cache and refilled (R420). -/
def State.setTvec (s : State) (n : Nat) (v : Word) : State :=
  let w := v &&& 0x0000FFFFFFFFFFFE
  let c := s.core n
  let s1 := s.setCore n { c with tvec := w, icache := (c.icache.filter (!·.bytes.isEmpty)).map fun l => { l with locked := false } }
  [w.toNat / 64 * 64, w.toNat / 64 * 64 + 64].foldl (fun t va =>
    match t.translate n c.ctxid va with
    | .ok (t1, l) =>
      let k := (l.loc va).key / 64
      let d := t1.core n
      let t2 := t1.setCore n { d with icache := d.icache.filter fun x => x.line ≠ k }
      let (t3, _) := t2.iline n (l.loc va)
      let e := t3.core n
      t3.setCore n { e with icache := e.icache.map fun x => if x.line = k then { x with locked := true } else x }
    | .error _ => t) s1

/-- Guests leave B2 and B3 at their next boundary (R117, R425). -/
def State.evictGuests (s : State) (n : Nat) : State :=
  [2, 3].foldl (fun t i =>
    let b := t.berthAt n i
    if !b.occupied then t
    else if t.inside n i then t.laterOnce (.rqstatEvict (BitVec.ofNat 12 n))
    else t.sendHome n i none true) s

/-- The guest berth that holds the away thread of a core (R182). -/
def State.awayAt (s : State) (n : Nat) : Option (Nat × Nat) :=
  (s.cores.flatMap fun p => [(p.1, 2), (p.1, 3)]).find? fun q =>
    let b := s.berthAt q.1 q.2
    b.occupied && b.nnode = n && (s.core q.1).ctxid = (s.core n).ctxid

/-- The away thread is returned from where it runs, at its next boundary (R182, R428). -/
def State.callBack (s : State) (n : Nat) : State :=
  match s.awayAt n with
  | some (m, i) => if s.inside m i then s else s.sendHome m i none false
  | none => s

/-- RECALL (R428): no effect unless AWAY. -/
def State.recallAway (s : State) (n : Nat) : State :=
  let c := s.core n
  if c.away then (s.setCore n { c with recalled := true }).callBack n else s

/-- A write of RQSTAT (R425). -/
def State.setRqstat (s : State) (n : Nat) (v : Word) : State :=
  let c := s.core n
  let s1 := s.setSched n { c with noguest := bitOf v 47, dispCur := getF v 36 2, den := bitOf v 35 }
  let s2 := if bitOf v 48 then s1.evictGuests n else s1
  if bitOf v 49 then s2.recallAway n else s2

/-- A write of REPEAT: every core has applied it when the write completes (R250, R251). -/
def State.setRepeat (s : State) (v : Word) : State := { s with rep := bitOf v 0, repApplied := bitOf v 0 }

/-- A write of STATUS: PRIV is read-only, the B0-only fields exist in B0 (R421). -/
def Berth.setStatus (b : Berth) (v : Word) (isB0 : Bool) : Berth :=
  let m : Word := if isB0 then 0x0000FFFF0000FF80 else 0x0000FFFF00008000
  { b with status := (b.status &&& ~~~m) ||| (v &&& m) }

/-- A TIMER of berth `i` that is not pending any more: its SLEEP was not issued before it when it becomes pending again (R434). -/
def Wait.timerOff (w : Wait) (i : Nat) : Wait :=
  match w with
  | .sleep d m => let k := if i = 0 then 2 else 0; .sleep d (if m.testBit k then m - 2 ^ k else m)
  | _ => w

/-- The write of a register of core `n` that stands for berth `i`; `inGang` when a gang task's thread writes (R5, R431). -/
def State.regSet (s : State) (n i num : Nat) (v : Word) (inGang : Bool) : M State := do
  let c := s.core n
  let b := c.berth i
  let sb (x : Berth) : M State := .ok (s.setBerthAt n i x)
  let sc (x : Core) : M State := .ok (s.setCore n x)
  if num = 0x000 then sb (b.setStatus v (i = 0))
  else if num = 0x001 then sb { b with cause := v &&& 0xFF }
  else if num = 0x002 then sb { b with epc := v &&& 0x0000FFFFFFFFFFFF }
  else if num = 0x003 then sb { b with eval := v }
  else if num = 0x004 then .ok (s.setTvec n v)
  else if num = 0x005 then sc { c with ksavea := v }
  else if num = 0x006 then sc { c with ksaveb := v }
  else if num = 0x007 then
    let w := if v ≠ 0 && v ≤ s.timeAt n then b.wait else b.wait.timerOff i
    let s1 := s.setBerthAt n i { b with timecmp := v, wait := w }
    .ok (if v = 0 then s1 else s1.laterOnce (.timerExpire (BitVec.ofNat 12 n) (BitVec.ofNat 2 i)))
  else if num = 0x010 then .ok (s.setTags n v)
  else if num = 0x011 then do
    let c1 ← c.setGeom v inGang
    sc c1
  else if num = 0x012 then do
    let b1 ← b.setPrio v
    sb b1
  else if num = 0x013 then do
    let b1 ← b.setMspill v
    sb b1
  else if num = 0x014 then sb { b with vstat := v &&& 0xFF }
  else if num = 0x015 then sb { b with arith := v &&& 0xFFFFFFFFFFFF0083 }
  else if num = 0x016 then sb { b with repst := v &&& 0xFFFCFFFFFFFFFFFF }
  else if num = 0x020 then s.setCtx n v
  else if num = 0x021 then .ok (s.setRank n v)
  else if num = 0x024 then .ok (s.setRepeat v)
  else if num = 0x030 then sb { b with seqkey := v }
  else if num = 0x031 then sb { b with seqtrap := v }
  else if num = 0x032 then sc (c.setTapen v)
  else if num = 0x040 then .ok (s.setRqstat n v)
  else if num = 0x041 then sc (c.setInqstat v)
  else if num = 0x042 then do
    let c1 ← c.setOvf v
    sc c1
  else if num = 0x060 then sc (c.setTapinv v)
  else .ok s

/-! ## SRR, SRW, SRX (R431) -/

/-- Step 5 of R219 for a register number: unassigned numbers trap ILLEGAL, forbidden accesses PRIV (R211). -/
def regCheck (s : State) (num : Nat) (rd wr : Bool) : M Unit :=
  match regAccess s.priv num with
  | none => trap .illegal (w64 num)
  | some (r, w) => check ((!rd || r) && (!wr || w)) .priv (w64 num)

/-- A stopped berth's EPC is reached only at its boundary (R420). -/
def State.regReady (s : State) (num : Nat) : Bool :=
  let i := s.regBerth num
  !(s.cb = 0 && num = 0x002 && (s.berthAt s.cur i).stopped && s.inside s.cur i)

/-- Whether an event is a write of a berth's register that has not taken effect yet. -/
def Event.isRegWrite (e : Event) (n i : Nat) : Bool :=
  match e with
  | .registerWrite node berth _ _ => node.toNat = n && berth.toNat = i
  | _ => false

/-- Whether a write of another berth's register waits for that berth's next boundary (R422): it is inside an instruction, or an
earlier write waits. -/
def State.delayed (s : State) (i : Nat) : Bool :=
  i ≠ s.cb && (s.inside s.cur i || s.agenda.any (·.isRegWrite s.cur i))

def State.inGang (s : State) : Bool := s.cb ≠ 0 && s.me.gang.isSome

/-- A register access: reads for `rd`, writes for `wr`. -/
def sysreg (s : State) (d : BitVec 6) (n : BitVec 12) (rd wr : Bool) : Out :=
  run s (do
    nativeOnly s
    let num := n.toNat
    op s (if wr then [.g d] else []) (if rd then [.g d] else []) 4 (step5 := regCheck s num rd wr) fun t vs => do
      if !t.regReady num then .error (.wait t)
      else do
        let i := t.regBerth num
        let old := t.regVal t.cur i num
        let t1 ← if wr then t.regSet t.cur i num (argW vs 0) t.inGang else .ok t
        let t2 := if wr && t.delayed i then
            t.later (.registerWrite (BitVec.ofNat 12 t.cur) (BitVec.ofNat 2 i) (n.setWidth 64) (argW vs 0))
          else t1
        .ok (t2, if rd then [.data old] else []))

def execSrr (d : BitVec 6) (n : BitVec 12) (s : State) : Out := sysreg s d n true false
def execSrw (d : BitVec 6) (n : BitVec 12) (s : State) : Out := sysreg s d n false true
def execSrx (d : BitVec 6) (n : BitVec 12) (s : State) : Out := sysreg s d n true true

/-! ## The rows that are one write

A row names the core; a trap is the kernel's of that core. -/

/-- The outcome of a write made by the kernel of core `n`. -/
def writeBy (s : State) (n : Nat) (r : M State) : Out :=
  match r with
  | .ok t => .next t
  | .error (.trap c v) => .next (s.enterOwn n c v)
  | .error _ => .next s

def execCtxidWrite (node : BitVec 12) (v : BitVec 64) (s : State) : Out := writeBy s node.toNat (s.setCtx node.toNat v)
def execRankWrite (node : BitVec 12) (v : BitVec 64) (s : State) : Out := .next (s.setRank node.toNat v)

def execInqstatWrite (node : BitVec 12) (v : BitVec 64) (s : State) : Out :=
  .next (s.setCore node.toNat ((s.core node.toNat).setInqstat v))

def execOvfbaseWrite (node : BitVec 12) (v : BitVec 64) (s : State) : Out :=
  writeBy s node.toNat (s.regSet node.toNat 0 0x042 v false)

def execTvecWrite (node : BitVec 12) (v : BitVec 64) (s : State) : Out := .next (s.setTvec node.toNat v)

def execTapenWrite (node : BitVec 12) (v : BitVec 64) (s : State) : Out :=
  .next (s.setCore node.toNat ((s.core node.toNat).setTapen v))

def execTapinvWrite (node : BitVec 12) (v : BitVec 64) (s : State) : Out :=
  .next (s.setCore node.toNat ((s.core node.toNat).setTapinv v))

def execRepeatWrite (v : BitVec 64) (s : State) : Out := .next (s.setRepeat v)

def execMspillWrite (node : BitVec 12) (berth : BitVec 2) (v : BitVec 64) (s : State) : Out :=
  writeBy s node.toNat (s.regSet node.toNat berth.toNat 0x013 v false)

def execPrioWrite (node : BitVec 12) (berth : BitVec 2) (v : BitVec 64) (s : State) : Out :=
  writeBy s node.toNat (s.regSet node.toNat berth.toNat 0x012 v false)

/-- GEOM_WRITE by the thread of a berth. -/
def execGeomWrite (node : BitVec 12) (berth : BitVec 2) (v : BitVec 64) (s : State) : Out :=
  let n := node.toNat
  match s.regSet n berth.toNat 0x011 v (berth ≠ 0 && (s.berthAt n berth.toNat).gang.isSome) with
  | .ok t => .next t
  | .error (.trap c x) =>
    .next (if berth = 0 then s.enterOwn n c x else s.enterUser n c x)
  | .error _ => .next s

def execTagsWrite (node : BitVec 12) (v : BitVec 64) (s : State) : Out := .next (s.setTags node.toNat v)

def execRqstatRecall (node : BitVec 12) (s : State) : Out := .next (s.recallAway node.toNat)

def execRqstatEvict (node : BitVec 12) (s : State) : Out := .next (s.evictGuests node.toNat)

/-- REGISTER_WRITE: a write of any other register, a system register by its number or a register of the device window by its
address; one of a berth inside an instruction takes effect at its next boundary (R422). -/
def execRegisterWrite (node : BitVec 12) (berth : BitVec 2) (r v : BitVec 64) (s : State) : Out :=
  let n := node.toNat
  if deviceBase ≤ r.toNat then
    .next (match devReg (r.toNat - deviceBase) with
      | some x => { s with cur := n, cb := 0 }.devSet x v
      | none => s)
  else if s.inside n berth.toNat then .next (s.again (.registerWrite node berth r v))
  else
    match regAccess (if n = mcNode then 2 else 1) r.toNat with
    | some (_, true) => writeBy s n (s.regSet n berth.toNat r.toNat v false)
    | some (_, false) => .next (s.enterOwn n .priv r)
    | none => .next (s.enterOwn n .illegal r)

end Sys2Proof.Machine
end

