-- ==== Sys2Proof/Machine/System.lean ====
section
/-! DEFINITION. The SYS and SYS2 instructions (R429 to R442) but the register accesses: TRAP, BRK, ERET and the start of a task,
OXW, SLEEP, TIME, the ready queue, IFENCE, TLBI, SILT, LEASE. -/

namespace Sys2Proof.Machine

/-! ## TRAP, BRK, OXW, TIME, SILT (R430, R432, R433, R441) -/

def execTrap (a : BitVec 6) (s : State) : Out :=
  run s (do
    let vs ← operands s [.g a] []
    trap .syscall (argW vs 0))

def execBrk (n : BitVec 12) (s : State) : Out := run s (trap .brk (n.setWidth 64))

def execOxw (a : BitVec 6) (n : BitVec 2) (s : State) : Out :=
  run s (op s [.g a] [] 4 fun t vs => .ok (t.setMe (t.me.setOx n (argW vs 0)), []))

def execTime (d : BitVec 6) (s : State) : Out := run s (op s [] [.g d] 4 fun t _ => .ok (t, [.data (t.timeAt t.cur)]))

/-- SILT: a user-class record. -/
def execSilt (a b : BitVec 6) (s : State) : Out :=
  run s (op s [.g a, .g b] [] 4 fun t vs => .ok (t.record t.cur 4 (getF (argW vs 1) 0 8) (w64 (getF (argW vs 0) 0 48)), []))

/-! ## ERET and the start of a task (R419, R430) -/

/-- The word of ERET. -/
def eretWord (a : BitVec 4) : Word := wordR 0x70 1 0 (4 * a.toNat) 0 0

/-- Reserved bits of word 0 of a ready-queue entry (R424). -/
def quadReserved (q : Word) : Bool := bitOf q 61 || getF q 2 23 ≠ 0

/-- The nodes of a gang in row-major order: the aligned cores of `node`'s tile or group (R178, R354). -/
def State.gangNodes (s : State) (node shape : Nat) : List Nat :=
  let k := shapeCores shape
  let l := s.lcoreOf node
  (List.range k).map fun i => s.coreNode (b2n (isRill node)) (l / k * k + i)

/-- The gang of a task that starts with a shape. -/
def State.gangOf (s : State) (node shape : Nat) : Option Gang :=
  if 1 ≤ shape && shape ≤ 4 then some ⟨shape, s.gangNodes node shape, 0, 0, none⟩ else none

/-- A thread starts in B1 of a core (R207, R430), its code and data as the launch left them (R131, R143); PA and PB are unbound then
(R194; log 93). -/
def State.startTask (s : State) (n : Nat) (q0 : Word) (entry : Word) (g2 g3 : GReg) : State :=
  let s0 := s.rebindIdle n
  let c := s0.core n
  let pc := entry &&& 0x0000FFFFFFFFFFFF
  let g := ((Vector.replicate 64 GReg.none).set 2 g2).set 3 g3
  let shape := getF q0 58 3
  let b : Berth :=
    { c.b1 with
      occupied := true, stopped := true, pc := pc, epc := pc, g := g
      v := Vector.replicate 32 ⟨0, false⟩, k := Vector.replicate 4 ⟨0, false⟩, ox := Vector.replicate 4 ⟨0, false⟩
      status := 0, arith := 0, vstat := 0, repst := 0, seqOn := false, seqtrap := 0, mspill := 0, timecmp := 0
      nrank := c.rank, nberth := 1, nnode := n, gang := s.gangOf n shape, launch := some (getF q0 43 11)
      task := g3.val.toNat, wait := .none, rsp := [], fetched := none }
  let c1 : Core :=
    { c.acquire with
      ports := (c.ports.set 4 { c.ports[4] with bind := .unbound }).set 5 { c.ports[5] with bind := .unbound }
      b1 := b, geom := w64 (shape * 2 ^ 8 + getF q0 56 2 * 4 + getF q0 54 2), dispCur := getF q0 62 2
      b0 := { c.b0 with status := setF c.b0.status 12 1 1 } }
  ((s0.setCore n c1).keepBinds n).dropILines n fun x => x.ctx = c.ctxid

/-- The checks of ERET's quad (R430); B1 of the management core never holds a thread (R413, log 99). -/
def startChecks (s : State) (a : BitVec 4) (q : Word) : M Unit := do
  check (s.me.tb = 1 && !s.here.b1.occupied && !s.here.away && s.cur ≠ mcNode) .illegal (eretWord a)
  check (bitOf q 0 && !bitOf q 1 && !quadReserved q && getF q 33 10 = s.here.rank) .copyform q

/-- Where ERET goes must not be odd (R213, R419): EPC of B0, or of a B1 that resumes. -/
def eretChecks (s : State) : M Unit :=
  let c := s.here
  if c.b0.ktrap then check (!bitOf c.b0.epc 0) .align c.b0.epc
  else check (!(c.b0.sb.testBit 0 && c.b1.occupied && bitOf c.b1.epc 0)) .align c.b1.epc

/-- ERET (R419); a thread that resumes may have a TIMECMP or a stop of its own to meet. -/
def execEret (a : BitVec 4) (s : State) : Out :=
  run s (do
    check s.kern .priv (eretWord a)
    let vs ← operands s (if a = 0 then [] else quadSrcs a) []
    if a = 0 || s.here.b0.ktrap then do
      eretChecks s
      .ok s.endEntry
    else do
      let q := argW vs 0
      startChecks s a q
      let t := s.startTask s.cur q (argW vs 1) (arg vs 2).g (arg vs 3).g
      eretChecks t
      .ok t.endEntry)

/-! ## SLEEP (R434) -/

/-- The asynchronous causes pending for a berth, as a mask. -/
def Core.causesFor (c : Core) (i : Nat) (now : Word) : Nat :=
  if i = 0 then
    b2n (!c.urgent.isEmpty) + 2 * b2n c.wakeSrc.isSome + 4 * b2n (c.b0.timerDue now) + 8 * b2n c.absent.isSome
  else b2n (c.b1.timerDue now) + 2 * b2n (c.preempt.isSome || c.dispatchDue)

/-- Whether a cause is pending that was not at issue; one that becomes pending and goes again before the berth's turn has ended the SLEEP
as it came (State.wakeSleep; log 55). -/
def newCause (old now : Nat) : Bool := (List.range 4).any fun i => now.testBit i && !old.testBit i

/-- The deadline of a SLEEP: a nonzero gA at or below the time base. -/
def deadlinePassed (d now : Word) : Bool := d ≠ 0 && d ≤ now

def execSleep (a : BitVec 6) (s : State) : Out :=
  run s (do
    nativeOnly s
    let vs ← operands s [.g a] []
    let d := argW vs 0
    let done : M State := .ok ((s.commit [.g a] [] []).retire 4)
    let causes := s.here.causesFor s.cb (s.timeAt s.cur)
    if deadlinePassed d (s.timeAt s.cur) then done
    else
      match s.me.wait with
      | .woken => done
      | .sleep _ old => if newCause old causes then done else .error (.wait s)
      | _ =>
        let t := s.setMe { s.me with wait := .sleep d causes }
        .error (.wait (if d = 0 then t
          else t.laterOnce (.sleepDeadline (BitVec.ofNat 12 s.cur) (BitVec.ofNat 2 s.cb)))))

/-- SLEEP_DEADLINE: the time base reaches the deadline of a SLEEP, which ends. -/
def execSleepDeadline (node : BitVec 12) (berth : BitVec 2) (s : State) : Out :=
  .next (match (s.berthAt node.toNat berth.toNat).wait with
    | .sleep d _ =>
      if deadlinePassed d (s.timeAt node.toNat) then s.wakeSleep node.toNat berth.toNat
      else if d = 0 then s else s.laterOnce (.sleepDeadline node berth)
    | _ => s)

/-! ## The ready queue (R424, R435) -/

/-- The head: the oldest entry of the smallest priority. -/
def readyHead (l : List Ready) : Option Ready :=
  ([0, 1, 2, 3].findSome? fun p => l.find? fun r => getF r.q0.val 62 2 = p)

/-- The queue without its head. -/
def readyRest (l : List Ready) : List Ready :=
  match readyHead l with
  | some h => l.erase h
  | none => l

/-- Room of the ready queue. -/
def readyRoom : Nat := 16

def execRqpush (d : BitVec 6) (a : BitVec 4) (s : State) : Out :=
  run s (do
    check s.kern .priv (wordR 0x70 8 d.toNat (4 * a.toNat) 0 0)
    op s (quadSrcs a) [.g d] 4 fun t vs =>
      let q := argW vs 0
      let c := t.here
      if !bitOf q 0 || quadReserved q then .ok (t, [.data 2])
      else if readyRoom ≤ c.ready.length then .ok (t, [.data 1])
      else
        let t1 := t.rebindIdle t.cur
        .ok (t1.setSched t.cur { t1.here with ready := c.ready ++ [⟨(arg vs 0).g, (arg vs 1).g, (arg vs 2).g, (arg vs 3).g⟩] },
          [.data 0]))

def execRqpop (d : BitVec 4) (s : State) : Out :=
  run s (do
    check s.kern .priv (wordR 0x70 9 (4 * d.toNat) 0 0 0)
    op s [] (quadDsts d) 4 fun t _ =>
      let c := t.here
      match readyHead c.ready with
      | some r => .ok (t.setHere { c with ready := readyRest c.ready }, [.ofG r.q0, .ofG r.q1, .ofG r.q2, .ofG r.q3])
      | none => .ok (t, [.data 0, .data 0, .data 0, .data 0]))

def execRqpeek (d : BitVec 6) (s : State) : Out :=
  run s (do
    check s.kern .priv (wordR 0x70 10 d.toNat 0 0 0)
    op s [] [.g d] 4 fun t _ =>
      .ok (t, [.data (match readyHead t.here.ready with | some r => r.q0.val | none => 0)]))

/-! ## IFENCE (R142, R439) -/

/-- The instructions that the berths of a core have fetched and not issued are discarded (R142). -/
def Core.unfetch (c : Core) : Core :=
  let drop (b : Berth) : Berth := if b.wait = .none && b.rsp.isEmpty then { b with fetched := none } else b
  { c with b0 := drop c.b0, b1 := drop c.b1, b2 := drop c.b2, b3 := drop c.b3 }

/-- Drops a context's lines from the instruction cache of a core, and what its berths have fetched from them. -/
def State.dropCode (s : State) (ctx n : Nat) : State :=
  let s1 := s.dropILines n fun x => x.ctx = ctx
  if (s1.core n).ctxid = ctx then s1.setCore n (s1.core n).unfetch else s1

/-- IFENCE at THREAD or CORE is over at once; at a wider scope it waits for the other cores' acknowledgements. Its release waits for
the thread's messages and port values first (R129), and at DEVICE and SYSTEM for its TLBIs (R48). -/
def execIfence (sc : BitVec 3) (s : State) : Out :=
  run s (match s.me.wait with
    | .ifence _ => .error (.wait s)
    | .done _ _ => .ok (s.retire 4)
    | _ =>
      if s.sendsOpen sc.toNat || (6 ≤ sc.toNat && s.tlbiOpen) then .error (.wait s)
      else
        let t := s.dropCode s.here.ctxid s.cur
        if sc.toNat ≤ 1 then .ok (t.retire 4)
        else .error (.wait ((t.setMe { t.me with wait := .ifence sc.toNat, fetched := s.me.fetched }).later
          (.ifenceComplete (BitVec.ofNat 12 s.cur) (BitVec.ofNat 2 s.cb)))))

/-- IFENCE_COMPLETE: every core in scope has dropped its lines and acknowledged. -/
def execIfenceComplete (node : BitVec 12) (berth : BitVec 2) (s : State) : Out :=
  let n := node.toNat
  let b := s.berthAt n berth.toNat
  .next (match b.wait with
    | .ifence sc => ((s.scopeNodes n sc).foldl (fun t m => t.dropCode (s.core n).ctxid m) s).answer n berth.toNat 0 0
    | _ => s)

/-! ## TLBI (R45 to R48, R105, R107, R440) -/

/-- The word of TLBI. -/
def tlbiWord (a b : BitVec 6) (f : BitVec 2) : Word := wordR 0x70 14 f.toNat a.toNat b.toNat 0

/-- TLBI: the request enters the CTL network; at most 8 of a thread are open. -/
def execTlbi (a b : BitVec 6) (f : BitVec 2) (s : State) : Out :=
  run s (do
    check s.kern .priv (tlbiWord a b f)
    let srcs : List Src := if f = 0 then [.g a] else if f = 1 then [.g a, .g b] else []
    op s srcs [] 4 fun t vs => do
      let va := argW vs 1
      check (!(f = 1 && getF va 48 16 ≠ 0)) .pagefault va
      if 8 ≤ (t.tlbis.filter fun r => r.node = t.cur && r.berth = t.cb).length then .error (.wait t)
      else
        let left := (t.cores.filter fun p => p.2.power != .off).map (·.1)
        let q : TlbiReq :=
          ⟨t.nextTlbi, t.cur, t.cb, f.toNat, if f = 2 then 0 else getF (argW vs 0) 0 12, if f = 1 then va.toNat else 0, left⟩
        .ok ((t.sendTlbi q).record t.cur 1 0x31 (w64 q.va), []))

/-! ## LEASE (R442, R453, R454) -/

/-- The groups that active leases boost, but for the lease of one berth. -/
def State.boosted (s : State) (n i : Nat) : List Nat :=
  ((s.cores.flatMap fun p => [(p.1, 0), (p.1, 1)]).filterMap fun q =>
    let w := (s.berthAt q.1 q.2).leaseNow s.time
    if q ≠ (n, i) && getF w 61 3 = 1 then some (getF w 37 5) else none).eraseDups

/-- Whether a lease may boost a group: it is neither HOT, OVER nor withheld, and after the grant at most one group of a
super-group and at most four in all are boosted. -/
def State.leaseGrants (s : State) (n i g : Nat) : Bool :=
  let x := s.group g
  let l := (g :: s.boosted n i).eraseDups
  !x.hot && !x.overBudget && !x.withhold && l.length ≤ 4 && (l.filter fun h => h / 4 = g / 4).length ≤ 1

/-- An active lease. -/
def leaseWord (fate g rem : Nat) : Word := w64 (fate * 2 ^ 61 + g * 2 ^ 37 + rem)

/-- A berth with an active lease from now on. -/
def State.grantLease (s : State) (n i g rem : Nat) : State :=
  let s1 := s.setBerthAt n i { s.berthAt n i with lease := leaseWord 1 g rem, leaseAt := s.time }
  s1.laterOnce (.leaseExpire (BitVec.ofNat 12 n) (BitVec.ofNat 2 i))

def execLease (d a : BitVec 6) (s : State) : Out :=
  run s (do
    nativeOnly s
    op s [.g a] [.g d] 4 fun t vs =>
      let us := (argW vs 0).toNat
      let g := groupOf t.cur
      if 10000 < us then .ok (t, [.data 3])
      else if us = 0 then .ok (t.setMe (t.me.endLease t.time 6), [.data 0])
      else if t.rep then .ok (t, [.data 1])
      else if isRill t.cur || !t.leaseGrants t.cur t.cb g then .ok (t, [.data 2])
      else .ok ((t.grantLease t.cur t.cb g us).record t.cur 3 2 (w64 (g * 2 ^ 14 + us)), [.data 0]))

/-- LEASE_EXPIRE: REM has reached 0 (R454). -/
def execLeaseExpire (node : BitVec 12) (berth : BitVec 2) (s : State) : Out :=
  let n := node.toNat
  let i := berth.toNat
  let b := (s.berthAt n i).countLease s.time
  let t := s.setBerthAt n i b
  .next (if getF b.lease 61 3 = 1 then t.laterOnce (.leaseExpire node berth) else t)

end Sys2Proof.Machine
end

