-- ==== Sys2Proof/Machine/Save.lean ====
section
/-! DEFINITION. The save area of R436, GSAVE and GRST (R437, R438). -/

namespace Sys2Proof.Machine

/-! ## The words of a save area -/

/-- Registers with no file state: g0 and the ports (R436). -/
def fixedG (n : Nat) : Bool := n = 0 || (56 ≤ n && n ≤ 61)

/-- The value and shadow of g_n as saved. -/
def savedG (b : Berth) (n : Nat) : Word × Word :=
  let r := b.getG (BitVec.ofNat 6 n)
  if fixedG n || r.tag = .empty then (0, 0) else (r.val, r.sh)

/-- The tag codes of the g registers (R201). -/
def savedTags (b : Berth) : Nat :=
  (List.range 64).foldl (fun r n =>
    r + (if fixedG n then 0 else (b.getG (BitVec.ofNat 6 n)).tag.code.toNat) * 2 ^ (2 * n)) 0

/-- v_n as saved: v28 to v31 as 0. -/
def savedV (b : Berth) (n : Nat) : List Word :=
  let r := b.getV (BitVec.ofNat 5 n)
  if n < 28 && r.full then (List.range 8).map fun i => r.val.extractLsb' (64 * i) 64 else List.replicate 8 0

def savedK (b : Berth) (n : Nat) : Word :=
  let r := b.getK (BitVec.ofNat 2 n)
  if n ≠ 0 && r.full then r.val else 0

def oxAt (b : Berth) (n : Nat) : XReg := if h : n < 4 then b.ox[n] else ⟨0, false⟩

def savedOx (b : Berth) (n : Nat) : Word := if (oxAt b n).full then (oxAt b n).val else 0

/-- Which v, k and OX registers are not EMPTY. -/
def savedMap (b : Berth) : Nat :=
  (List.range 32).foldl (fun r n => r + b2n (28 ≤ n || (b.getV (BitVec.ofNat 5 n)).full) * 2 ^ n) 0 +
    (List.range 4).foldl (fun r n => r + b2n (n = 0 || (b.getK (BitVec.ofNat 2 n)).full) * 2 ^ (32 + n)) 0 +
    (List.range 4).foldl (fun r n => r + b2n (oxAt b n).full * 2 ^ (36 + n)) 0

/-- The 14 words of the system range, in order. -/
def savedSys (b : Berth) (lease geom : Word) : List Word :=
  [b.epc, b.status &&& 0x0000FFFF00008000, b.arith, b.vstat, b.repst, b.cause, b.eval, b.timecmp, b.prio, b.mspill, b.seqkey,
    b.seqtrap, lease, geom]

/-- Words at consecutive offsets. -/
def wordsAt (off : Nat) (ws : List Word) : List (Nat × Word) := ws.zipIdx.map fun p => (off + 8 * p.2, p.1)

/-- The reserved words at the end of an area (R436), which every save stores as 0. -/
def areaTail : List (Nat × Word) := wordsAt 0xCD0 (List.replicate 102 0)

/-- The words that a save of the ranges `sel` stores, by rising offset. -/
def saveWords (b : Berth) (lease geom : Word) (sel : Nat) : List (Nat × Word) :=
  let g := sel.testBit 0
  (if g then wordsAt 0 ((List.range 64).flatMap fun n => [(savedG b n).1, (savedG b n).2]) else []) ++
    (if sel.testBit 1 then wordsAt 0x400 ((List.range 32).flatMap (savedV b)) else []) ++
    (if sel.testBit 2 then wordsAt 0xC00 ((List.range 4).map (savedK b)) ++ wordsAt 0xC20 ((List.range 4).map (savedOx b))
      else []) ++
    (if g then wordsAt 0xC40 [w64 (savedTags b), w64 (savedTags b / 2 ^ 64)] else []) ++
    (if sel.testBit 1 || sel.testBit 2 then [(0xC50, w64 (savedMap b))] else []) ++
    [(0xC58, w64 (sel % 16))] ++
    (if sel.testBit 3 then wordsAt 0xC60 (savedSys b lease geom) else []) ++ areaTail

/-- The offsets of the words that a restore of the ranges `sel` reads. -/
def loadOffs (sel : Nat) : List Nat := ((saveWords Berth.vacant 0 0 sel).map (·.1)).filter (· < 0xCD0)

/-! ## Access to the area -/

def areaNeed (g : GReg) (code : Nat) (wr : Bool) : Need := ⟨g, code, g.val, 4096, if wr then pW else pR, !wr, wr, false, 64⟩

/-- A list of words as one little-endian number. -/
def packWords : List Word → Nat
  | [] => 0
  | w :: r => w.toNat + 2 ^ 64 * packWords r

/-- Stores words at offsets of the area. -/
def storeArea (s : State) (a : Need) (ws : List (Nat × Word)) : M State := do
  preChecks s.kern a
  let (s1, w) ← locate s a
  let base := a.ea.toNat
  let offs := ws.map (·.1)
  let x := packWords (ws.map (·.2))
  match w with
  | .here l => do
    let l1 := l.filter fun p => offs.contains (p.1.va - base)
    let s2 ← storeCheck s1.cur s1 l1
    .ok (storePieces s2.cur s2 l1 x)
  | .remote r _ => remoteStore s1 a r (offs.map fun o => ⟨base + o, 8⟩) 0 x
  | .device _ => deviceTrap s1 a.ea

/-- The checks of a store of words at offsets of the area. -/
def areaChecks (s : State) (a : Need) (offs : List Nat) : M Unit := do
  preChecks s.kern a
  let (s1, w) ← locate s a
  match w with
  | .here l => do
    let _ ← storeCheck s1.cur s1 (l.filter fun p => offs.contains (p.1.va - a.ea.toNat))
    .ok ()
  | .remote r _ => do
    let _ ← windowCheck s1 a r
    .ok ()
  | .device _ => deviceTrap s1 a.ea

/-- Loads the words at offsets of the area. -/
def loadArea (s : State) (a : Need) (offs : List Nat) : M (State × List (Nat × Word)) := do
  preChecks s.kern a
  let (s1, w) ← locate s a
  let base := a.ea.toNat
  let out (x : Nat) : List (Nat × Word) := offs.zipIdx.map fun p => (p.1, w64 (x / 2 ^ (64 * p.2)))
  match w with
  | .here l => do
    let l1 := l.filter fun p => offs.contains (p.1.va - base)
    let s2 ← loadCheck s1.cur s1 l1
    let (s3, x) := loadPieces s2.cur s2 l1
    .ok (s3, out x)
  | .remote r _ => do
    let (s2, x) ← remoteLoad s1 a r (offs.map fun o => ⟨base + o, 8⟩) 0
    .ok (s2, out x)
  | .device _ => deviceTrap s1 a.ea

/-! ## GSAVE (R437) -/

/-- Keeps what the part knows of a thread saved at core `n` beside its area. -/
def State.keepThread (s : State) (n ctx rank : Nat) (ea : Option Nat) (launch : Option Nat) (task : Nat) (g : Option Gang) : State :=
  { s with
    saved := ⟨ctx, rank, ea, launch, task, g, s.timeAt n⟩ :: s.saved.filter fun x => !(x.ctx = ctx && x.rank = rank && x.ea = ea) }

/-- The thread of an area: the one saved there, else the one the part parked for the rank. -/
def State.keptThread (s : State) (ctx rank ea : Nat) : Option SavedThread :=
  match s.saved.find? fun x => x.ctx = ctx && x.rank = rank && x.ea = some ea with
  | some x => some x
  | none => s.saved.find? fun x => x.ctx = ctx && x.rank = rank && x.ea = none

/-- LEASE as a save with bit 3 freezes it (R454). -/
def Berth.frozenLease (b : Berth) (now : Word) : Word := (b.endLease now 2).lease

/-- B1 becomes empty after a save with FREE: the lease is frozen with bit 3 and ended without it. -/
def State.freeSaved (s : State) (ea sel : Nat) : State :=
  let c := s.here
  let b := c.b1
  let s1 := s.keepThread s.cur c.ctxid b.nrank (some ea) b.launch b.task b.gang
  let c1 := { c with b1 := if sel.testBit 3 then b.handLease else b.endLease s.time 6 }
  (s1.setHere (c1.emptyB1 (s.timeAt s.cur))).record s.cur 0 0xF3 b.epc

/-- GSAVE: its checks come before the wait for B1's boundary (R219, R420). -/
def execGsave (a b : BitVec 6) (s : State) : Out :=
  run s (do
    let w := wordR 0x70 11 0 a.toNat b.toNat 0
    check s.kern .priv w
    op s [.g a, .g b] [] 4 fun t vs => do
      let c := t.here
      check (t.me.tb = 1 && c.b1.occupied && c.b1.stopped) .illegal w
      let sel := getF (argW vs 1) 0 5
      let need := areaNeed (arg vs 0).g a.toNat true
      let lease := if sel.testBit 4 then c.b1.frozenLease t.time else c.b1.leaseNow t.time
      let ws := saveWords c.b1 lease c.geom sel
      if t.inside t.cur 1 then do
        areaChecks t need (ws.map (·.1))
        .error (.wait t)
      else do
        let t1 ← storeArea t need ws
        .ok (if sel.testBit 4 then t1.freeSaved (argW vs 0).toNat sel else t1, []))

/-! ## GRST (R438) -/

/-- The word at an offset of the words read. -/
def areaWord (ws : List (Nat × Word)) (o : Nat) : Word := (alGet ws o).getD 0

/-- The tag code of g_n in an area. -/
def areaTag (ws : List (Nat × Word)) (n : Nat) : Nat :=
  getF (areaWord ws (if n < 32 then 0xC40 else 0xC48)) (2 * (n % 32)) 2

def restoredG (ws : List (Nat × Word)) (n : Nat) : GReg :=
  match areaTag ws n with
  | 0 => ⟨areaWord ws (16 * n), areaWord ws (16 * n + 8), .data⟩
  | 1 => ⟨areaWord ws (16 * n), areaWord ws (16 * n + 8), .cap⟩
  | _ => GReg.none

def restoredV (ws : List (Nat × Word)) (n : Nat) : VReg :=
  if bitOf (areaWord ws 0xC50) n then
    ⟨BitVec.ofNat 512 (packWords ((List.range 8).map fun i => areaWord ws (0x400 + 64 * n + 8 * i))), true⟩
  else ⟨0, false⟩

def restoredX (ws : List (Nat × Word)) (off bit : Nat) : XReg :=
  if bitOf (areaWord ws 0xC50) bit then ⟨areaWord ws off, true⟩ else ⟨0, false⟩

/-- The register ranges of an area into a berth; ports, g0 and k0 are untouched. -/
def Berth.restoreFiles (b : Berth) (ws : List (Nat × Word)) (sel : Nat) : Berth :=
  { b with
    g := if sel.testBit 0 then Vector.ofFn fun i : Fin 64 => if fixedG i then b.g[i] else restoredG ws i else b.g
    v := if sel.testBit 1 then Vector.ofFn fun i : Fin 32 => if 28 ≤ i.val then b.v[i] else restoredV ws i else b.v
    k := if sel.testBit 2 then
        Vector.ofFn fun i : Fin 4 => if i.val = 0 then b.k[i] else restoredX ws (0xC00 + 8 * i) (32 + i) else b.k
    ox := if sel.testBit 2 then Vector.ofFn fun i : Fin 4 => restoredX ws (0xC20 + 8 * i) (36 + i) else b.ox }

/-- LEASE as GRST hands it to the power controller (R454): on a core of GROUP it runs again, elsewhere it is void. -/
def restoredLease (n : Nat) (w : Word) : Word :=
  let f := getF w 61 3
  if f = 1 || f = 2 then
    (if !isRill n && groupOf n = getF w 37 5 then setF w 61 3 1 else setF w 61 3 5)
  else w

/-- The system range of an area into a berth; a repetition that it finds active is resumed (R273). -/
def Berth.restoreSys (b : Berth) (ws : List (Nat × Word)) (n : Nat) (now : Word) : Berth :=
  let x (i : Nat) : Word := areaWord ws (0xC60 + 8 * i)
  { b with
    epc := x 0 &&& 0x0000FFFFFFFFFFFF, status := x 1 &&& 0x0000FFFF00008000
    arith := x 2 &&& 0xFFFFFFFFFFFF0083, vstat := x 3 &&& 0xFF, repst := x 4 &&& 0xFFFCFFFFFFFFFFFF, cause := x 5 &&& 0xFF
    eval := x 6, timecmp := x 7, prio := x 8 &&& 3, mspill := x 9 &&& 0x800000000001C001, seqkey := x 10, seqtrap := x 11
    lease := restoredLease n (x 12 &&& 0xE00003E000003FFF), leaseAt := now : Berth }.resumeSeq

/-- An empty B1 takes the thread of an area, stopped; a thread that the part knows goes on once the time base has passed its save
(R122). -/
def State.takeThread (s : State) (ea : Nat) : State :=
  let c := s.here
  let k := s.keptThread c.ctxid c.rank ea
  let late (x : SavedThread) : Bool := s.timeAt s.cur < x.tdep + 8
  let b : Berth :=
    { c.b1.emptied with
      occupied := true, stopped := true, nrank := c.rank, nberth := 1, nnode := s.cur
      launch := k.bind (·.launch), task := (k.map (·.task)).getD 0, gang := k.bind (·.gang)
      wait := match k with | some x => if late x then .arrive x.tdep none false else .none | none => .none }
  let s1 : State := match k with
    | some x =>
      let t : State := { s with saved := s.saved.erase x }
      if late x then t.later (.migResume (BitVec.ofNat 12 s.cur) 1) else t
    | none => s
  let s2 := s1.rebindIdle s.cur
  s2.setHere { s2.here with b1 := b, b0 := { c.b0 with status := setF c.b0.status 12 1 1 } }

/-- The events that a restored TIMECMP and lease set off. -/
def State.armThread (s : State) : State :=
  let b := s.here.b1
  let n := BitVec.ofNat 12 s.cur
  let s1 := if b.timecmp = 0 then s else s.laterOnce (.timerExpire n 1)
  if getF b.lease 61 3 = 1 then s1.laterOnce (.leaseExpire n 1) else s1

/-- GRST: a B1 inside an instruction has its registers written at its next boundary (R420, R422). -/
def execGrst (a b : BitVec 6) (s : State) : Out :=
  run s (do
    let w := wordR 0x70 12 0 a.toNat b.toNat 0
    check s.kern .priv w
    op s [.g a, .g b] [] 4 fun t vs => do
      let c := t.here
      let sel := getF (argW vs 1) 0 4
      check (t.me.tb = 1 && !c.away && (c.b1.occupied || (sel.testBit 3 && t.cur ≠ mcNode))) .illegal w
      let ea := argW vs 0
      let (t1, ws) ← loadArea t (areaNeed (arg vs 0).g a.toNat false) (loadOffs sel)
      check ((List.range 4).all fun i => !sel.testBit i || bitOf (areaWord ws 0xC58) i) .copyform (ea + 0xC58)
      check (!sel.testBit 0 || (List.range 64).all fun n => areaTag ws n ≠ 3) .copyform (ea + 0xC40)
      if c.b1.occupied && t.inside t.cur 1 then .error (.wait t)
      else do
        let t2 := if t1.here.b1.occupied then t1 else t1.takeThread ea.toNat
        let d := t2.here
        let b1 := d.b1.restoreFiles ws sel
        if sel.testBit 3 then
          let d1 := { d with b1 := b1.restoreSys ws t2.cur t2.time, geom := areaWord ws 0xCC8 &&& 0xFFFFFFFF0000070F }.adopt
          .ok ((t2.setHere d1).armThread, [])
        else .ok (t2.setHere { d with b1 := b1 }, []))

end Sys2Proof.Machine
end

