-- ==== Sys2Proof/Machine/Net.lean ====
section
/-! DEFINITION. What the network brings (R92, R97, R98, R104 to R119, R182, R188, R192, R193, R318): arrivals of messages, port
values, remote accesses, threads and acknowledgements, the release of held packets, and TLBI at the cores (R45 to R48, R105,
R107, R156). -/

namespace Sys2Proof.Machine

/-! ## Taking a packet off the network (R94, R98) -/

/-- The virtual network of a packet kind. -/
def Body.vn : Body → Nat
  | .evict _ => 1
  | .mig _ => 2
  | .umsg _ => 3
  | .rwrsp _ _ => 4
  | .dack _ => 4
  | .gangb _ _ => 4
  | .mrsp _ => 4
  | .rwreq _ _ => 5
  | _ => 6

/-- The oldest packet between two nodes on a virtual network. -/
def State.firstPacket (s : State) (src dst vn : Nat) : Option Packet :=
  s.net.find? fun p => p.src = src && p.dst = dst && p.body.vn = vn

/-- Whether a Rutuqua link carries packets (R474). -/
def State.linkUp (s : State) (l : Nat) : Bool :=
  match s.links[l]? with
  | some .paired => true
  | _ => false

/-- Whether a packet comes from the peer over a link that carries none: before pairing none crosses, and what was in flight when the link
went down is refused (R474). -/
def State.refusedPeer (s : State) (p : Packet) : Bool := isLink p.src && !s.linkUp (p.src - 0x450)

/-- The arrival `e` of the oldest packet between two nodes on a virtual network; another kind arrives first, so `e` comes later. -/
def arrival (s : State) (e : Event) (src dst : BitVec 12) (vn : Nat) (f : State → Packet → State) : Out :=
  .next (match s.firstPacket src.toNat dst.toNat vn with
    | none => s
    | some p =>
      if p.event = e then
        let t : State := { s with net := s.net.erase p }
        if s.refusedPeer p then t else f t p
      else s.again e)

/-- GANGB_ARRIVE: a broadcast panel reaches a member (R363). -/
def execGangbArrive (src dst : BitVec 12) (s : State) : Out :=
  arrival s (.gangbArrive src dst) src dst 4 fun t p =>
    match p.body with
    | .gangb m k =>
      let c := t.core dst.toNat
      t.setCore dst.toNat { c with gangPanels := c.gangPanels ++ [(m, k)] }
    | _ => t

/-- The acknowledgement of a rank-addressed packet (R106); one of the peer's is acknowledged at its link. -/
def State.ack (s : State) (p : Packet) : State :=
  if p.ranked && !isLink p.src && !p.acked then
    s.send p.dst
      { src := p.dst, dst := p.src, ctx := p.ctx, ranked := false, drank := 0, srank := 0, epoch := p.epoch, launch := none
        body := .dack p.epoch }
  else s

/-- A counted packet counts as received; one from the peer is not counted here (R409). -/
def State.countIn (s : State) (n : Nat) (p : Packet) : State :=
  match p.launch with
  | some k => let c := s.core n; if isLink p.src then s else s.setCore n { c with received := bump c.received k }
  | none => s

/-- An arrival for a core that is not up waits at its NI (R448), which may fire a trigger (R451). -/
def State.waitAtNi (s : State) (n : Nat) (p : Packet) : State :=
  let c := s.core n
  ((s.setCore n { c with atNi := c.atNi ++ [p] }).packetTriggers p).autoWake n

/-- Whether what an NI hands over can be taken: its core takes part, and nothing of the same flow waits at the NI before it (R98, R448). -/
def State.niTakes (s : State) (p : Packet) : Bool :=
  s.reachable p.dst && !(s.core p.dst).atNi.any fun q => q.src = p.src && q.body.vn = p.body.vn

/-! ## Messages and port values (R188, R193) -/

/-- Places a message or port value. -/
def State.placePacket (s : State) (n : Nat) (p : Packet) : State :=
  let s1 := s.countIn n p
  match p.body with
  | .nmsg m => s1.settle n { m.arrival false with ctx := p.ctx, drank := p.drank }
  | .umsg m => s1.settle n { m.arrival true with ctx := p.ctx, drank := p.drank }
  | .gport q v => s1.settle n (v.arrival q p.ctx p.drank)
  | .vport q v => s1.settle n (v.arrival q p.ctx p.drank)
  | _ => s1

/-- A message or port value with the time base at its arrival (R189). -/
def Packet.stamp (p : Packet) (t : Word) : Packet :=
  { p with
    body := match p.body with
      | .nmsg m => .nmsg { m with time := t }
      | .umsg m => .umsg { m with time := t }
      | .gport q v => .gport q { v with time := t }
      | .vport q v => .vport q { v with time := t }
      | b => b }

/-- A message or port value reaches its NI. -/
def State.takeMessage (s : State) (p0 : Packet) : State :=
  let p := p0.stamp (s.timeAt p0.dst)
  let s1 := s.ack p
  if s.niTakes p then s1.placePacket p.dst p else s1.waitAtNi p.dst p

def execNmsgArrive (src dst : BitVec 12) (s : State) : Out := arrival s (.nmsgArrive src dst) src dst 6 State.takeMessage
def execUmsgArrive (src dst : BitVec 12) (s : State) : Out := arrival s (.umsgArrive src dst) src dst 3 State.takeMessage
def execGportArrive (src dst : BitVec 12) (s : State) : Out := arrival s (.gportArrive src dst) src dst 6 State.takeMessage
def execVportArrive (src dst : BitVec 12) (s : State) : Out := arrival s (.vportArrive src dst) src dst 6 State.takeMessage

/-- A port's oldest outbound value is gone; `lost` when it was discarded (R318). -/
def State.popOut (s : State) (n p : Nat) (lost : Bool) : State :=
  let c := s.core n
  let q := c.port p
  s.setCore n (c.setPort p { q with outq := q.outq.tail, lost := q.lost || lost })

/-- A value for the peer leaves the NI of a core: its link interface takes it, or a link that is down refuses it, which sets LOST; either
counts as received here (R318, R409, R474). -/
def State.linkTake (s : State) (n : Nat) (p : Packet) : State :=
  let s1 := s.countIn n p
  if s.linkUp (p.dst - 0x450) then { s1 with peerOut := s1.peerOut ++ [p] }
  else
    let c := s1.core n
    match p.sport with
    | some q => s1.setCore n (c.setPort q { c.port q with lost := true })
    | none => s1

/-- The packet of an outbound value, toward the rank of its binding (R193). -/
def outPacket (s : State) (n p : Nat) (o : OutVal) : Packet :=
  { rankPacket s n o.ctx o.bind.rank o.val.srank o.launch
      (if o.bind.port < 6 then .gport o.bind.port o.val else .vport o.bind.port o.val) with
    sport := some p, sender := o.sender }

/-- PORT_OUTBOUND_SEND: the NI takes the oldest value of an outbound queue. Toward a Torrent core or, from Rill, a link it may have to
wait for the bridge (R92). -/
def State.sendOut (s : State) (n p : Nat) : State :=
  match ((s.core n).port p).outq with
  | [] => s
  | o :: _ =>
    let k := outPacket s n p o
    if o.bind.peer then
      let q := { k with dst := 0x450 + o.bind.link }
      let s1 := (s.countSent n q).popOut n p false
      let c := s1.core n
      if isRill n && !s.bridge then s1.setCore n { c with bridgeHeld := c.bridgeHeld ++ [q] } else s1.linkTake n q
    else
      match s.niTake n k with
      | .taken t => t.popOut n p false
      | .bridge t => t.popOut n p false
      | .invalid t => (t.popOut n p true).countRefused n o.launch
      | .full t => t.later (.portOutboundSend (BitVec.ofNat 12 n) (BitVec.ofNat 4 p))

def execPortOutboundSend (node : BitVec 12) (p : BitVec 4) (s : State) : Out := .next (s.sendOut node.toNat p.toNat)

/-! ## Remote word accesses (R60, R110, R192) -/

/-- A remote word access at the LM of core `n`. -/
def State.serve (s : State) (n : Nat) (q : RwReq) : State × RwRsp :=
  let l := lmLoc n (q.off / 8 * 8)
  let (_, v, t) := s.loadWord n l
  let two := q.op = .ldc || q.op = .stc
  let h := l.plus 8
  let (_, v2, t2) := s.loadWord n h
  let p : Piece := ⟨q.off % 8, q.size⟩
  match q.op with
  | .load => if t = tagPoison then (s, .poison (q.off / 8 * 8)) else (s, .ok (w64 (pieceOf p v)) 0 false)
  | .ldc =>
    if t = tagPoison then (s, .poison (q.off / 8 * 8))
    else if t2 = tagPoison then (s, .poison (q.off / 8 * 8 + 8))
    else (s, .ok v v2 (q.cap && t = tagCap))
  | _ =>
    if t = tagSync then (s, .syncstore (q.off / 8 * 8))
    else if two && t2 = tagSync then (s, .syncstore (q.off / 8 * 8 + 8))
    else if two then
      let k := if q.cap then tagCap else tagData
      ((s.storeWord n l q.data k).storeWord n h q.sh k, .ok 0 0 false)
    else
      let w := if q.op = .bytes then mergeBytes q.sh.toNat v t q.data else mergePiece p v t q.data.toNat
      (s.storeWord n l w tagData, .ok 0 0 false)

/-- The answer to a remote access travels back. -/
def State.respond (s : State) (p : Packet) (berth : Nat) (r : RwRsp) : State :=
  s.send p.dst
    { src := p.dst, dst := p.src, ctx := p.ctx, ranked := false, drank := 0, srank := 0, epoch := p.epoch, launch := none
      body := .rwrsp berth r }

/-- A remote access reaches its core: it is served there, or the rank is absent (R192). -/
def State.takeRequest (s : State) (p : Packet) : State :=
  match p.body with
  | .rwreq b q =>
    if !s.niTakes p then s.waitAtNi p.dst p
    else if (s.core p.dst).resident p.ctx p.drank then
      let (s1, r) := s.serve p.dst q
      s1.respond p b r
    else (s.respond p b .absent).raiseAbsent p.dst 4 p.ctx p.drank
  | _ => s

def execRwreqArrive (src dst : BitVec 12) (s : State) : Out := arrival s (.rwreqArrive src dst) src dst 5 State.takeRequest

/-- A response reaches its core, where it also acknowledges the request (R106). An absent rank is asked again (R192). -/
def State.takeResponse (s : State) (p : Packet) : State :=
  let n := p.dst
  let s1 := s.setCore n ((s.core n).acked p.epoch)
  match p.body with
  | .rwrsp i r =>
    let b := s1.berthAt n i
    if b.wait ≠ .remote then s1
    else if r = .absent then
      (s1.setBerthAt n i { b with wait := .absent }).later (.rwreqRetry (BitVec.ofNat 12 n) (BitVec.ofNat 2 i))
    else s1.setBerthAt n i { b with wait := .none, rsp := b.rsp ++ [r] }
  | _ => s1

def execRwrspArrive (src dst : BitVec 12) (s : State) : Out := arrival s (.rwrspArrive src dst) src dst 4 State.takeResponse

/-- RWREQ_RETRY: the issuing NI sends the request again. -/
def execRwreqRetry (node : BitVec 12) (berth : BitVec 2) (s : State) : Out :=
  let b := s.berthAt node.toNat berth.toNat
  .next (if b.wait = .absent then s.setBerthAt node.toNat berth.toNat { b with wait := .none } else s)

/-- DACK_ARRIVE: a rank-addressed packet of an epoch has been delivered (R106, R107). Of the acknowledgements to a core, one arrives
that no earlier packet of its source precedes (R98). -/
def execDackArrive (node : BitVec 12) (epoch : BitVec 1) (s : State) : Out :=
  let n := node.toNat
  let mine (p : Packet) : Bool := p.dst = n && p.body = .dack (epoch = 1)
  .next (match s.net.find? fun p => mine p && s.firstPacket p.src n 4 = some p with
    | some p => { s with net := s.net.erase p }.setCore n ((s.core n).acked (epoch = 1))
    | none => if s.net.any mine then s.later (.dackArrive node epoch) else s)

/-- MRSP_ARRIVE: the answer of another rank's LM reaches the berth whose operation was there (R111), behind the earlier packets of that
core's flow (R98). -/
def execMrspArrive (node : BitVec 12) (berth : BitVec 2) (s : State) : Out :=
  let n := node.toNat
  let b := s.berthAt n berth.toNat
  .next (match s.net.find? fun p => p.dst = n && p.body = .mrsp berth.toNat with
    | some p =>
      if s.firstPacket p.src n 4 = some p then
        let t : State := { s with net := s.net.erase p }
        if b.wait.isHome && !b.rsp.isEmpty then t.answer n berth.toNat 0 0 else t
      else s.later (.mrspArrive node berth)
    | none => s)

/-! ## Threads that arrive (R113 to R119, R182, R192) -/

/-- A lease follows its thread to the core `n` (R454). -/
def State.moveLease (s : State) (native n : Nat) : State :=
  let b := (s.berthAt native 1).countLease s.time
  let g := groupOf n
  if getF b.lease 61 3 ≠ 1 then s
  else if isRill n then s.setBerthAt native 1 (b.endLease s.time 5)
  else if getF b.lease 37 5 = g then s
  else if s.leaseGrants native 1 g then s.setBerthAt native 1 { b with lease := setF b.lease 37 5 g }
  else s.setBerthAt native 1 (b.endLease s.time 4)

/-- A berth that holds what a thread brings; `held` when it stays stopped there. -/
def Berth.withThread (b : Berth) (t : Thread) (held : Bool) : Berth :=
  { b with
    occupied := true, stopped := held, seqOn := bitOf t.repst 63, pc := t.pc, g := t.g, v := t.v, k := t.k, ox := Vector.replicate 4 ⟨0, false⟩
    status := t.status, arith := t.arith, vstat := t.vstat, repst := t.repst, nnode := t.nnode, nrank := t.nrank
    launch := t.launch, task := t.task, wait := .arrive t.tdep t.trap t.bounced, rsp := [], fetched := none }

/-- The thread has arrived in a berth; it goes on when the time base allows (R122). -/
def State.arrived (s : State) (n i : Nat) (t : Thread) : State :=
  ((s.moveLease t.nnode n).record n 0 0xF2 t.pc).later (.migResume (BitVec.ofNat 12 n) (BitVec.ofNat 2 i))

/-- The place of an offset in a rank's record (R197). -/
def State.recordLoc (s : State) (ctx rank off : Nat) : Loc :=
  let h := s.headerVal ctx 64
  physLoc (bitOf h 7) (getF h 17 31 * 2 ^ 17 + rank * 0x20000 + off) 0 0

/-- Writes words at offsets of a rank's record, tag DATA. -/
def State.putRecord (s : State) (n ctx rank : Nat) (ws : List (Nat × Word)) : State :=
  ws.foldl (fun t w => t.writeHome n (t.recordLoc ctx rank w.1) w.2 tagData) s

/-- STATE of a record (R197). -/
def State.recordState (s : State) (n ctx rank st : Nat) : State :=
  let l := s.recordLoc ctx rank 0x1F000
  s.writeHome n l (setF (s.readWord l).2.1 0 2 st) tagData

/-- The registers of a thread as they go into its record: CAUSE and EVAL 0, OX EMPTY, the rest of the system registers those of
the native berth (R192). -/
def parkedBerth (b : Berth) (t : Thread) : Berth := { b.withThread t false with epc := t.pc, cause := 0, eval := 0 }

/-- A thread that returns to a core where its rank is no longer resident is parked in its rank's record (R118, R192). -/
def State.park (s : State) (n ctx : Nat) (t : Thread) : State :=
  let c := s.core n
  let b := parkedBerth c.b1 t
  let s1 := s.putRecord n ctx t.nrank
    ((saveWords b (b.frozenLease s.time) c.geom 0xF).map fun w => (0x1C000 + w.1, w.2))
  let s2 := (s1.recordState n ctx t.nrank 2).keepThread n ctx t.nrank none t.launch t.task none
  let d := s2.core n
  let d1 := if d.away then { d with away := false, recalled := false, b1 := d.b1.handLease }.emptyB1 (s.timeAt n) else d
  (s2.setCore n d1).raiseAbsent n 5 ctx t.nrank

/-- Whether an entry that B0 handles has stopped berth `i` (R417): a thread that arrives there issues nothing before the ERET. -/
def Core.stops (c : Core) (i : Nat) : Bool := !c.idle0 && c.b0.sb.testBit (i - 1)

/-- A thread comes back to its native berth (R116 to R118); a recalled one stays stopped there, with PREEMPT (R428), and so does one
whose berth an entry has stopped (log 98). -/
def State.arriveHome (s : State) (n ctx : Nat) (t : Thread) : State :=
  let c := s.core n
  if !(c.away && c.resident ctx t.nrank) then s.park n ctx t
  else
    let held := c.recalled || c.stops 1
    let b := c.b1.withThread t held
    let b1 := if held then { b with epc := t.pc &&& 0x0000FFFFFFFFFFFF } else b
    (s.setCore n
      { c with away := false, recalled := false, b1 := b1, preempt := if c.recalled then some 3 else c.preempt }).arrived n 1 t

/-- A migration that a core refuses goes back to the thread's native node (R192, R428). -/
def State.bounce (s : State) (p : Packet) (t : Thread) : State :=
  s.send p.dst
    { p with src := p.dst, dst := t.nnode, ranked := false, drank := 0, body := .mig { t with pc := t.back, bounced := true } }

/-- A free guest berth, B2 before B3. -/
def Core.freeGuest (c : Core) : Option Nat :=
  if !c.b2.occupied then some 2 else if !c.b3.occupied then some 3 else none

/-- A guest enters a berth. -/
def State.placeGuest (s : State) (n i : Nat) (t : Thread) : State :=
  let c := s.core n
  (s.setCore n { c.setBerth i ((c.berth i).withThread t (c.stops i)) with guestAge := i = 3 }).arrived n i t

/-- The guest that arrived earlier leaves at its next boundary (R117); none when it is inside an instruction. -/
def State.evictEarlier (s : State) (n : Nat) : Option State :=
  let i := if (s.core n).guestAge then 2 else 3
  if s.inside n i then none else some (s.sendHome n i none true)

/-- A migrating or returning thread that a core's NI hands over (R116, R117, R192); none while the guest that must leave first is
inside an instruction. -/
def State.migIn (s : State) (p : Packet) (t : Thread) : Option State :=
  let n := p.dst
  let c := s.core n
  if !p.ranked then some (s.arriveHome n p.ctx t)
  else if t.nnode ≠ n && c.noguest then some (s.bounce p t)
  else if !c.resident p.ctx p.drank then some ((s.bounce p t).raiseAbsent n 4 p.ctx p.drank)
  else if t.nnode = n then some (s.arriveHome n p.ctx t)
  else
    match c.freeGuest with
    | some i => some (s.placeGuest n i t)
    | none => (s.evictEarlier n).map fun s1 => s1.placeGuest n (if c.guestAge then 2 else 3) t

/-- MIG_ARRIVE; while its berth is not free yet, its packet stays the oldest of its flow. -/
def State.takeMig (s : State) (e : Event) (p : Packet) : State :=
  match p.body with
  | .mig t =>
    if s.niTakes p then
      match s.migIn p t with
      | some s1 => s1.ack p
      | none => { s with net := p :: s.net }.later e
    else (s.ack p).waitAtNi p.dst p
  | _ => s

def execMigArrive (src dst : BitVec 12) (s : State) : Out :=
  arrival s (.migArrive src dst) src dst 2 fun t p => t.takeMig (.migArrive src dst) p

/-- An evicted thread reaches its native node, which always takes it (R118). -/
def State.takeEvict (s : State) (p : Packet) : State :=
  match p.body with
  | .evict t => if s.niTakes p then s.arriveHome p.dst p.ctx t else s.waitAtNi p.dst p
  | _ => s

def execEvictArrive (src dst : BitVec 12) (s : State) : Out := arrival s (.evictArrive src dst) src dst 1 State.takeEvict

/-- MIG_DEPART: a thread that is at a boundary leaves for a rank's core (R113, R114), its messages delivered (R140). -/
def execMigDepart (node : BitVec 12) (berth : BitVec 2) (rank : BitVec 10) (s : State) : Out :=
  let n := node.toNat
  let i := berth.toNat
  let b := s.berthAt n i
  let (s1, st) := s.findRank n (s.core n).ctxid rank.toNat
  let sends := { s with cur := n, cb := i }.sendsOpen scDevice
  .next (match st with
    | .valid k =>
      if i ≠ 0 && b.occupied && !b.stopped && b.wait = .none && b.rsp.isEmpty && b.gang.isNone && !bitOf b.mspill 63 && !sends then
        s1.sendAway n i rank.toNat k b.pc
      else s
    | _ => s)

/-- The time base of a destination has passed TDEP + 8 (R122). -/
def timePassed (now tdep : Word) : Bool := !((now - tdep - 8).setWidth 40 : BitVec 40).msb

/-- MIG_RESUME: an arrived thread goes on (R119, R122): the V words of the L1 become I; a thread that returned for a trap takes
it, one that was refused elsewhere repeats its access later (R116, R192). -/
def execMigResume (node : BitVec 12) (berth : BitVec 2) (s : State) : Out :=
  let n := node.toNat
  let i := berth.toNat
  let b := s.berthAt n i
  .next (match b.wait with
    | .arrive tdep tr bounced =>
      if !timePassed (s.timeAt node.toNat) tdep then s.later (.migResume node berth)
      else
        let s1 := s.setCore n ((s.core n).acquire)
        let go (w : Wait) : State := s1.setBerthAt n i { b with wait := w }
        match tr with
        | some (c, v) => if i = 1 then (go .none).enterUser n c v else go .none
        | none => if bounced then (go .retry).later (.migRetry node) else go .none
    | _ => s)

/-- MIG_RETRY: the thread of a refused migration repeats its access (R192). -/
def execMigRetry (node : BitVec 12) (s : State) : Out :=
  let b := s.berthAt node.toNat 1
  .next (if b.wait = .retry then s.setBerthAt node.toNat 1 { b with wait := .none } else s)

/-! ## What waited at an NI (R448) -/

/-- A packet that waited at the NI of a core is handled as if it arrived now; it has been acknowledged. A thread that finds no berth, or
comes behind such a one, stays. -/
def State.deliver (s : State) (p : Packet) : State :=
  let stay : State := s.setCore p.dst { s.core p.dst with atNi := (s.core p.dst).atNi ++ [p] }
  match p.body with
  | .rwreq _ _ => s.takeRequest p
  | .rwrsp _ _ => s.takeResponse p
  | .mig t => if (s.core p.dst).atNi.any (fun q => q.src = p.src && q.body.vn = 2) then stay else (s.migIn p t).getD stay
  | .evict _ => s.takeEvict p
  | _ => s.placePacket p.dst p

/-- What waited at the NI of a core is handled in its order; the threads that found no berth are the oldest packets of their flows again
(R117). -/
def State.deliverAll (s : State) (n : Nat) : State :=
  let c := s.core n
  let t := c.atNi.foldl State.deliver (s.setCore n { c with atNi := [] })
  let w := (t.core n).atNi
  { t.setCore n { t.core n with atNi := [] } with
    net := w.map (fun p => { p with acked := true }) ++ t.net, agenda := t.agenda ++ w.map Packet.event }

/-! ## TLBI at the cores (R45 to R48, R105 to R108, R156) -/

/-- Whether a TLBI removes a leaf. -/
def TlbiReq.hitsLeaf (q : TlbiReq) (t : Tlb) : Bool :=
  q.form = 2 || (t.ctx = q.ctx && (q.form = 0 || (t.vbase ≤ q.va && q.va < t.vbase + t.size)))

/-- Whether a TLBI removes a rank's entry (R105). -/
def TlbiReq.hitsRank (q : TlbiReq) (ctx rank : Nat) : Bool :=
  q.form = 2 || (ctx = q.ctx && (q.form = 0 ||
    match place q.va with
    | .window r _ => r = rank
    | _ => windowBase ≤ q.va && q.va < windowBase + 2 ^ 27 && (q.va - windowBase) / 2 ^ 17 = rank))

/-- Whether a TLBI ends a reservation (R156). -/
def TlbiReq.hitsResv (q : TlbiReq) (r : Resv) : Bool :=
  q.form = 2 || (r.ctx = q.ctx && (q.form = 0 ||
    match place r.va with
    | .window k _ => q.hitsRank r.ctx k
    | .priv => 0 < r.size && q.va / r.size = r.va / r.size
    | _ => false))

/-- Ends the reservations of a core's native threads that a TLBI matches: queued LRWs return status 1, held ones pass on. -/
def State.endResvs (s : State) (n : Nat) (q : TlbiReq) : State :=
  let hit (r : Resv) : Bool := r.node = n && q.hitsResv r
  let queued := s.resv.filter fun r => hit r && !r.holds
  let held := s.resv.filter fun r => hit r && r.holds
  let s1 : State := { s with resv := s.resv.filter fun r => !hit r }
  let s2 := queued.foldl (fun t r => t.answer r.waitNode r.waitBerth 0 1) s1
  held.foldl (fun t r => t.grantNext (keyLoc r.gran r.ctx r.slot)) s2

/-- A held packet whose rank has become invalid is refused without a trap (R104, R108), and counts as received (R409): a port value
sets LOST; a remote access issues again, as one that was stopped (log 97). -/
def State.refuseHeld (s : State) (n : Nat) (p : Packet) : State :=
  let s1 := s.countIn n p
  match p.body, p.sport with
  | .rwreq i _, _ => let b := s1.berthAt n i; s1.setBerthAt n i (if b.wait = .held then { b with wait := .none } else b)
  | _, some q => let c := s1.core n; s1.setCore n (c.setPort q { c.port q with lost := true })
  | _, none => s1

/-- A held remote access leaves: its berth waits for the response from now on. -/
def State.unhold (s : State) (n : Nat) (p : Packet) : State :=
  match p.body with
  | .rwreq i _ =>
    let b := s.berthAt n i
    if b.wait = .held then s.setBerthAt n i { b with wait := .remote } else s
  | _ => s

/-- The NI of a core reads the entries of ranks with held packets again after a TLBI (R108). -/
def State.reread (s : State) (n : Nat) (q : TlbiReq) : State :=
  let c := s.core n
  let hit := c.heldPkts.filter fun p => q.hitsRank p.ctx p.drank
  let s1 := s.setCore n { c with heldPkts := c.heldPkts.filter fun p => !q.hitsRank p.ctx p.drank }
  hit.foldl (fun t p =>
    let (t1, st) := t.lookRank n p.ctx p.drank
    match st with
    | .valid k => (t1.unhold n p).depart n { p with dst := k }
    | .transit => let d := t1.core n; t1.setCore n { d with heldPkts := d.heldPkts ++ [p] }
    | .invalid => t1.refuseHeld n p) s1

/-- Removes from a core's TLB and rank-translation cache, its group's TLB and its walkers' cache what a TLBI names (R45, R105). -/
def State.dropEntries (s : State) (n : Nat) (q : TlbiReq) : State :=
  let c := s.core n
  { s.setCore n
      { c with
        tlb := c.tlb.filter fun t => !q.hitsLeaf t
        rankCache := c.rankCache.filter fun r => !q.hitsRank r.ctx r.rank } with
    gtlb := alSet s.gtlb (routerOf n) ((s.groupTlb n).filter fun t => !q.hitsLeaf t)
    wcache := (s.dropWalks q (walkersOf n)).wcache }

/-- The TLBs and the NI of a core drop what a TLBI names; the NI flips its epoch (R45, R105, R107). -/
def State.dropFor (s : State) (n : Nat) (q : TlbiReq) : State :=
  let s1 := s.dropEntries n q
  let c := s1.core n
  ((s1.setCore n { c with epoch := !c.epoch, tlbiAck := some q.id, tlbiCopies := c.nextCopy }).endResvs n q).reread n q

/-- Whether the place at which a thread of a core waits is still the one that its address names, with the access that it needs (R147). -/
def State.waitStands (s : State) (w : Waiter) (wr : Bool) : Bool :=
  let ctx := (s.core w.node).ctxid
  match place w.va with
  | .priv =>
    match s.walkRoot ctx w.va with
    | .ok t => t.loc w.va = keyLoc w.addr w.ctx w.slot && !s.keyless t && t.r && (t.w || !wr) && (!t.ko || w.berth = 0)
    | .error _ => false
  | .window r off => match (s.lmPlace w.node ctx r off).2 with
    | .at_ l => l.key = w.addr
    | _ => false
  | _ => true

/-- A waiting instruction is taken from its home and issues again, a BAW as one that has arrived (R173, R175). -/
def State.waitAgain (s : State) (w : Waiter) : State :=
  let s1 := s.dropWaits w.node w.berth
  s1.setBerthAt w.node w.berth (s1.berthAt w.node w.berth).interrupt

/-- The waits of a core's threads under a translation that a TLBI has removed end, so that no event follows under it (R147). -/
def State.dropStale (s : State) (n : Nat) : State :=
  let bs := s.barriers.filter fun w => w.node = n && !s.waitStands w true
  let ws := s.words.filter fun w => w.node = n && !s.waitStands w false
  (bs ++ ws).foldl State.waitAgain s

/-- A node acknowledges a TLBI, which completes with the last one (R46). -/
def State.ackTlbi (s : State) (n id : Nat) : State :=
  let c := s.core n
  let s1 : State :=
    { s.setCore n { c with tlbiAck := none } with
      tlbis := s.tlbis.map fun q => if q.id = id then { q with left := q.left.filter (· ≠ n) } else q }
  if s1.tlbis.any fun q => q.id = id && q.left.isEmpty then s1.laterOnce (.tlbiComplete (BitVec.ofNat 16 id)) else s1

/-- Whether an entry still acts on a place that its request or its start translated: its barrier's, or words that it has yet to turn to
DATA (R147). -/
def CopyEntry.holdsPlace (e : CopyEntry) : Bool := e.bar.any (fun b => b.1 < 2 ^ 49) || !e.plain.isEmpty

/-- Whether every access of a core that may have used an old translation has finished (R47, R107, R147). -/
def Core.drained (c : Core) : Bool :=
  (if c.epoch then c.unacked.1 else c.unacked.2) = 0 && [c.b0, c.b1, c.b2, c.b3].all (!·.wait.isHome) &&
    c.fifo.all fun e => c.tlbiCopies ≤ e.id || !e.holdsPlace

/-- Whether an earlier TLBI of the same issuer has yet to be acknowledged by a core: they arrive in the order they were sent (R98). -/
def State.tlbiBefore (s : State) (n : Nat) (q : TlbiReq) : Bool :=
  (s.tlbis.takeWhile fun r => r.id ≠ q.id).any fun r => r.node = q.node && r.left.contains n

/-- TLBI_ARRIVE: at a core that is not up it is acknowledged at once; a second one waits for the first (R46, R107). At the
acknowledgement no wait under the old translation is left (R147). -/
def execTlbiArrive (id : BitVec 16) (node : BitVec 12) (s : State) : Out :=
  let n := node.toNat
  let c := s.core n
  let wait (t : State) : State := t.again (.tlbiArrive id node)
  .next (match s.tlbis.find? fun q => q.id = id.toNat with
    | none => s
    | some q =>
      if s.tlbiBefore n q then wait s
      else if !s.niUp n then ((((s.dropEntries n q).endResvs n q).reread n q).dropStale n).ackTlbi n q.id
      else
        match c.tlbiAck with
        | none => wait (s.dropFor n q)
        | some k => if k = q.id && c.drained then (s.dropStale n).ackTlbi n q.id else wait s)

/-- TLBI_COMPLETE (R46). -/
def execTlbiComplete (id : BitVec 16) (s : State) : Out :=
  .next { s with tlbis := s.tlbis.filter fun q => !(q.id = id.toNat && q.left.isEmpty) }

end Sys2Proof.Machine
end

