-- ==== Sys2Proof/Machine/HomeEvents.lean ====
section
/-! DEFINITION. The steps of the homes and of the part's memory units: operations that reach a home (R61, R111, R151 to R175),
fills, registrations, revocations and write-backs (R63, R64), walks (R35), memory errors (R86), key slots (R54), slice columns
(R71 to R73), copies (R301 to R309) and merges (R166), and the causes that become pending at a core (R416, R417). -/

namespace Sys2Proof.Machine

/-! ## Operations at another rank's LM (R111) -/

/-- The answer of a home travels back to the berth whose operation is out. -/
def State.homeAnswer (s : State) (n i : Nat) (r : RwRsp) : State :=
  let b := s.berthAt n i
  match b.wait with
  | .home _ m =>
    (s.setBerthAt n i { b with rsp := [r] }).inject
      { src := m, dst := n, ctx := (s.core n).ctxid, ranked := false, drank := 0, srank := 0, epoch := false, launch := none
        body := .mrsp i }
  | _ => s

/-- An absent rank's LM was named (R192): the operation is repeated later. -/
def State.homeAbsent (s : State) (m n i ctx rank : Nat) : State :=
  let s1 := s.raiseAbsent m 4 ctx rank
  let b := s1.berthAt n i
  if b.wait.isHome then
    (s1.setBerthAt n i { b with wait := .absent }).later (.rwreqRetry (BitVec.ofNat 12 n) (BitVec.ofNat 2 i))
  else s1

/-- An operation's result at its home: an answer, a wait at the home, or a refusal. -/
def State.homeResult (s : State) (n i : Nat) (r : HomeM (State × Option (Word × Word))) : State :=
  match r with
  | .ok (t, some (a, b)) => t.homeAnswer n i (.ok a b false)
  | .ok (t, none) => t
  | .error (c, k) => s.homeAnswer n i (.refused c k)

/-- The core of an LM address. -/
def lmNode (key : Nat) : Nat := (key - 2 ^ 49) / 2 ^ 17

/-- The event `e`, an operation of berth `i` of core `n` in a context, reaches the home of `l`. At an LM the core must be up
(R448), reached across an open bridge (R92), and hold the named rank (R56, R192). -/
def atHomeOf (s : State) (e : Event) (n i ctx rank : Nat) (l : Loc) (f : State → State) : Out :=
  .next (if l.kind = .lm then
      let m := lmNode l.key
      if isRill n && !isRill m && !s.bridge then s.again e
      else if !s.reachable m then (s.autoWake m).again e
      else if (s.core m).resident ctx rank then f s
      else s.homeAbsent m n i ctx rank
    else f s)

/-- An operation in its usual form: what it does at the home, and its answer. -/
def homeStep (s : State) (e : Event) (node : BitVec 12) (berth : BitVec 2) (ctx kslot : BitVec 12) (addr : BitVec 64)
    (f : State → Loc → HomeM (State × Option (Word × Word))) : Out :=
  let l := keyLoc addr.toNat ctx.toNat kslot.toNat
  atHomeOf s e node.toNat berth.toNat ctx.toNat kslot.toNat l fun t => t.homeResult node.toNat berth.toNat (f t l)

def execHomeAmo (node : BitVec 12) (berth : BitVec 2) (ctx kslot : BitVec 12) (addr : BitVec 64) (op : BitVec 4) (w : BitVec 1)
    (v e : BitVec 64) (s : State) : Out :=
  homeStep s (.homeAmo node berth ctx kslot addr op w v e) node berth ctx kslot addr fun t l => do
    let (t1, x) ← t.amo node.toNat l op.toNat (w = 1) v e
    .ok (t1, some (x, 0))

def execHomeRed (node : BitVec 12) (berth : BitVec 2) (ctx kslot : BitVec 12) (addr : BitVec 64) (op : BitVec 4) (w : BitVec 1)
    (v : BitVec 64) (s : State) : Out :=
  homeStep s (.homeRed node berth ctx kslot addr op w v) node berth ctx kslot addr fun t l => do
    let t1 ← t.red node.toNat l op.toNat (w = 1) v
    .ok (t1, some (0, 0))

/-- The identity of a berth's thread at the homes (R154). -/
def State.identAt (s : State) (n i : Nat) : Nat × Nat := if i ≤ 1 then (n, i) else ((s.berthAt n i).nnode, 1)

def execHomeLrw (node : BitVec 12) (berth : BitVec 2) (ctx kslot : BitVec 12) (addr va : BitVec 64) (s : State) : Out :=
  let n := node.toNat
  let i := berth.toNat
  homeStep s (.homeLrw node berth ctx kslot addr va) node berth ctx kslot addr fun t l => do
    let (t1, r) ← t.lrw n l (t.identAt n i).1 (t.identAt n i).2 n i ctx.toNat va.toNat 0
    .ok (match r with
      | some x => (t1, some x)
      | none => (t1.setBerthAt n i { t1.berthAt n i with wait := .lrw l.key }, none))

def execHomeSch (node : BitVec 12) (berth : BitVec 2) (ctx kslot : BitVec 12) (addr : BitVec 64) (st : BitVec 1) (v : BitVec 64)
    (s : State) : Out :=
  let n := node.toNat
  let i := berth.toNat
  homeStep s (.homeSch node berth ctx kslot addr st v) node berth ctx kslot addr fun t l => do
    let (t1, x) ← t.sch n l (t.identAt n i).1 (t.identAt n i).2 (st = 1) v
    .ok (t1, some (x, 0))

/-- The address by which a place in the LM of a rank is named; another place's is not kept, and translates to nothing. -/
def Loc.nameBy (l : Loc) (rank : Nat) : Nat := if l.kind = .lm then windowVa rank (l.key % 2 ^ 17) else 2 ^ 48

/-- HOME_BARRIER; the operand of a BAW is its destination register, and a resumed one waits as BWAIT, its WARR cleared (R173). -/
def execHomeBarrier (node : BitVec 12) (berth : BitVec 2) (ctx kslot : BitVec 12) (addr : BitVec 64) (op : BitVec 3)
    (v : BitVec 64) (s : State) : Out :=
  let n := node.toNat
  let i := berth.toNat
  homeStep s (.homeBarrier node berth ctx kslot addr op v) node berth ctx kslot addr fun t l => do
    let (t1, r) ← t.barrier n i (l.nameBy kslot.toNat) l op.toNat v
    .ok (match r with
      | .val x => (t1, some (x, 0))
      | .waits p =>
        let b := t1.berthAt n i
        (t1.setBerthAt n i
          (match b.wait with
          | .home (some x) _ => { b.setWarr false with wait := .barrier l.key (some x) }
          | _ => { b with wait := .barrier l.key (if op = 3 then some (v.toNat, p) else none) }), none))

def execHomeWaitRegister (node : BitVec 12) (berth : BitVec 2) (ctx kslot : BitVec 12) (addr : BitVec 64) (ne : BitVec 1)
    (v : BitVec 32) (s : State) : Out :=
  let n := node.toNat
  let i := berth.toNat
  homeStep s (.homeWaitRegister node berth ctx kslot addr ne v) node berth ctx kslot addr fun t l =>
    let (t1, x, g) := t.readHome l
    if g = tagPoison then .error (.poison, l.key / 8 * 8)
    else if waitPasses (ne = 1) (half x l.key) v then .ok (t1, some (0, 0))
    else .ok (t1.registerWait n i (l.nameBy kslot.toNat) l (ne = 1) v, none)

/-- HOME_LOGA: the check of the target, then the record (R165); the target's rank is that of its address. While the region's rank is in
transit or absent the home waits (R108, R192). -/
def execHomeLoga (node : BitVec 12) (berth : BitVec 2) (ctx : BitVec 12) (kern : BitVec 1) (region : BitVec 64)
    (segrec : BitVec 32) (addr va : BitVec 64) (op : BitVec 2) (v : BitVec 32) (rank : BitVec 10) (seq : BitVec 16) (s : State) :
    Out :=
  let n := node.toNat
  let i := berth.toNat
  let l := keyLoc addr.toNat ctx.toNat 0
  let named := match place va.toNat with
    | .window r _ => r
    | _ => (s.core (lmNode l.key)).rank
  let e : Event := .homeLoga node berth ctx kern region segrec addr va op v rank seq
  atHomeOf s e n i ctx.toNat named l fun t =>
    match t.logaTarget n l with
    | .error (c, k) => t.homeAnswer n i (.refused c k)
    | .ok t1 =>
      match t1.appendLog n ctx.toNat (kern = 1) region.toNat segrec.toNat (logSeg l)
          ⟨op.toNat, va.toNat, v.toNat, rank.toNat, seq.toNat⟩ with
      | .ok t2 => t2.homeAnswer n i (.ok 0 0 false)
      | .error (.bad c, k) => t.homeAnswer n i (.failed c (w64 k))
      | .error (.wait m, _) => (t.repeatLater ctx.toNat m).again e

/-- WAIT_VALUE: a value of the word reaches a waiting core (R174). -/
def execWaitValue (node : BitVec 12) (berth : BitVec 2) (v : BitVec 32) (s : State) : Out :=
  .next (s.testWait node.toNat berth.toNat v)

/-- HOME_DISC: a discard reaches the home of a word (R80, R82). -/
def execHomeDisc (node ctx kslot : BitVec 12) (addr : BitVec 64) (s : State) : Out :=
  .next (s.discHome node.toNat (keyLoc addr.toNat ctx.toNat kslot.toNat))

/-! ## Fills, registrations, revocations (R63, R64) -/

def execHomeFill (node ctx kslot : BitVec 12) (addr : BitVec 64) (s : State) : Out :=
  let l := keyLoc addr.toNat ctx.toNat kslot.toNat
  .next (if l.kind = .lm then s else s.fill node.toNat l)

/-- HOME_REGISTRATION: a store to a word that was not owned becomes owned. -/
def execHomeRegistration (node ctx kslot : BitVec 12) (addr v : BitVec 64) (s : State) : Out :=
  .next (s.storeWord node.toNat (keyLoc (addr.toNat / 8 * 8) ctx.toNat kslot.toNat) v tagData)

/-- OWNERSHIP_REVOKE: an owner is revoked, or a read is forwarded to it. -/
def execOwnershipRevoke (node : BitVec 12) (addr : BitVec 64) (fwd : BitVec 1) (s : State) : Out :=
  let k := addr.toNat / 8
  .next (if (s.ownersOf k).contains node.toNat then (if fwd = 1 then s.forward k else s.revoke node.toNat k) else s)

/-- HOME_WRITEBACK: the line of an address leaves an L1; a pinned line is not evicted (R77). -/
def execHomeWriteback (node : BitVec 12) (addr : BitVec 64) (s : State) : Out :=
  let n := node.toNat
  let line := addr.toNat / 64
  .next (if (s.core n).pinned.contains line then s else s.evictLine n line)

/-- TLB_WALK: a missed address is translated, which fills the TLBs (R42, R43). -/
def execTlbWalk (node : BitVec 12) (va : BitVec 64) (s : State) : Out :=
  let n := node.toNat
  .next (match s.translate n (s.core n).ctxid va.toNat with
    | .ok (t, _) => t
    | .error _ => s)

/-! ## Memory errors (R86, R88) -/

/-- A word becomes POISON at its home by an error there. -/
def State.poisonHome (s : State) (l : Loc) : State := (s.putHome l 0 tagPoison).poisonWaits l (l.kind = .dram)

/-- A place's 256 bytes whose tags one word of the tag carve holds: four units (R69). -/
def Loc.carveBase (l : Loc) : Loc := { l with key := l.key / 256 * 256 }

/-- Whether a core's L1 holds a V word. -/
def Core.hasV (c : Core) (word : Nat) : Bool := c.l1.any fun x => x.word = word && !x.owned

/-- Where an error was found, and whether it can be corrected: 0 instruction cache, 1 a V word in L1 or, where that holds none, a clean
L2 line, 2 an OD or OC word in L1, 3 an LM or pool word or a dirty L2 line, 4 DRAM data, 5 the DRAM tag carve, 6 a page-table
entry. A line of TVEC is refetched into its locked place (R420). -/
def State.memoryError (s : State) (n place : Nat) (l : Loc) (unc : Bool) : State :=
  let c := s.core n
  let w := l.key / 8
  let words (t : State) (k : Loc) (m : Nat) : State := (List.range m).foldl (fun u j => u.poisonHome (k.plus (8 * j))) t
  if place = 0 then s.dropILines n (·.line = l.key / 64)
  else if !unc then s
  else
    match place with
    | 1 =>
      if c.hasV w then s.setCore n { c with l1 := c.l1.filter fun x => x.word ≠ w || x.owned }
      else { s with l2 := s.l2.filter fun x => x.unit ≠ l.key / 64 || x.dirty }
    | 2 =>
      (s.setCore n { c with
        l1 := c.l1.map fun x => if x.word = w && x.owned then { x with val := 0, tag := tagPoison, st := .od } else x }).poisonWaits l false
    | 4 => words s l.lineBase 8
    | 5 => words s l.carveBase 32
    | 3 => s.poisonHome { l with key := w * 8 }
    | 6 => s.poisonHome { l with key := w * 8 }
    | _ => s

/-- MEMORY_ERROR, with its record: in the management core's ring for the pool, L2 and DRAM (R459), with the line's context, or for an LM
the context that is resident there (R458). Every error of an instruction cache is uncorrectable (R86). -/
def execMemoryError (node : BitVec 12) (place : BitVec 3) (ctx kslot : BitVec 12) (addr : BitVec 64) (unc : BitVec 1) (s : State) :
    Out :=
  let l := keyLoc addr.toNat ctx.toNat kslot.toNat
  let n := node.toNat
  let s1 := s.memoryError n place.toNat l (unc = 1)
  let own := place = 0 || place = 2 || (place = 1 && (s.core n).hasV (l.key / 8)) || l.kind = .lm
  .next (s1.recordFor (if own then n else mcNode) (if l.kind = .lm then (s.core n).ctxid else l.ctx) 1 (if unc = 1 || place = 0 then 2 else 1) addr)

/-! ## Key slots (R54) -/

/-- The command's work is done; BUSY falls with KSLOT_DONE. -/
def kslotOver (s : State) : Out := .next (s.later .kslotDone)

/-- A command that names slot or context 0 sets ERR and does nothing. -/
def kslotStep (slot : BitVec 12) (s t : State) : Out := if slot = 0 then .next { s with kslotErr := true } else kslotOver t

/-- A fresh key in a slot. -/
def State.loadKey (s : State) (n : Nat) : State :=
  { s with slots := ⟨n, true, s.slotGen n + 1⟩ :: s.slots.filter (·.slot ≠ n) }

def execKslotLoad (slot : BitVec 12) (s : State) : Out := kslotStep slot s (s.loadKey slot.toNat)

/-- The lines whose context and key slot `p` names leave every L1, the L2 and the pool, without write-back. -/
def State.dropLines (s : State) (p : Nat → Nat → Bool) : State :=
  { s with
    cores := s.cores.map fun (q : Nat × Core) => (q.1, { q.2 with l1 := q.2.l1.filter fun w => !p w.ctx w.slot })
    l2 := s.l2.filter fun x => !p x.ctx x.slot
    owners := s.owners.filter fun o => !p o.2.1 o.2.2 }

/-- KSLOT_RETIRE: the key is erased, so that nothing deciphers under the slot, and on-chip lines under it go without write-back; a locked
line of TVEC cannot be refilled, and its place stays locked (R420; log 53). -/
def execKslotRetire (slot : BitVec 12) (s : State) : Out :=
  let n := slot.toNat
  let s1 : State := { s with slots := ⟨n, false, s.slotGen n + 1⟩ :: s.slots.filter (·.slot ≠ n) }
  let s2 := s1.dropLines fun _ k => k = n
  kslotStep slot s { s2 with cores := s2.cores.map fun q => (q.1, q.2.voidILines fun x => x.slot = n) }

/-- The DRAM home addresses of a TAGCLR, by KSLOT_ARG as the running command finds it (log 85). -/
def State.tagRange (s : State) (key : Nat) : Bool :=
  let a := getF s.kslotArg 12 26 * 4096
  a ≤ key && key < a + getF s.kslotArg 38 26 * 4096

/-- The granules of live sync objects whose home addresses `p` names. -/
def State.objectsIn (s : State) (p : Nat → Bool) : List Nat :=
  ((s.tags.filter fun c => c.2.toNat = tagSync && p (8 * c.1)).map fun c => 8 * c.1 / 16 * 16).eraseDups

/-- KSLOT_TAGCLR: objects end as by BKILL; every tag of the range is DATA, in memory and in every cache. -/
def execKslotTagclr (s : State) : Out :=
  let s0 := ((s.l2.map (·.unit)).filter fun u => s.tagRange (64 * u)).foldl State.l2WriteBack s
  let s1 := (s0.objectsIn s.tagRange).foldl State.endGranule s0
  kslotOver
    { s1 with
      tags := s1.tags.filter fun c => !s.tagRange (8 * c.1)
      l2 := s1.l2.map fun x => if s.tagRange (64 * x.unit) then { x with tags := List.replicate 8 tagData } else x
      cores := s1.cores.map fun q =>
        (q.1, { q.2 with
          l1 := q.2.l1.map fun w => if s.tagRange (8 * w.word) then { w with tag := tagData } else w
          icache := q.2.icache.map fun x => if s.tagRange (64 * x.line) then { x with bad := x.bad.map fun _ => false } else x }) }

/-- KSLOT_PURGE of a context, its instruction-cache lines too, of which TVEC's are refilled (R420; log 53); whether its dirty words are written back first is left open (R54). -/
def State.purge (s : State) (ctx : Nat) : State :=
  let dirty := s.cores.flatMap fun q => (q.2.l1.filter fun w => w.ctx = ctx).map fun w => (q.1, w.word)
  let back (t : State) : State :=
    (((dirty.foldl (fun t w => t.writeBack w.1 w.2) t).l2.filter (·.ctx = ctx)).map (·.unit)).foldl State.l2WriteBack
      (dirty.foldl (fun t w => t.writeBack w.1 w.2) t)
  let s1 := (if s.free % 2 = 0 then s else back s).drawn.dropLines fun c _ => c = ctx
  let s2 := s1.cores.foldl (fun (t : State) (q : Nat × Core) => t.dropILines q.1 fun x => x.ctx = ctx) s1
  { s2 with
    cores := s2.cores.map fun q => (q.1, { q.2 with tlb := q.2.tlb.filter (·.ctx ≠ ctx) })
    gtlb := s2.gtlb.map fun q => (q.1, q.2.filter (·.ctx ≠ ctx)) }

def execKslotPurge (ctx : BitVec 12) (s : State) : Out := kslotStep ctx s (s.purge ctx.toNat)

def execKslotDone (s : State) : Out := .next { s with kslotBusy := false }

/-! ## Slice columns (R71 to R73) -/

def execL2colGo (target : BitVec 8) (s : State) : Out := .next (s.l2Go target)

/-- A transition of the column in hand ends: its state has moved between the partner slices; a fold writes its dirty lines back and
drops its lines (R72). -/
def State.columnDone (s : State) (c : Nat) (on : Bool) : State :=
  if s.l2Busy && s.l2Cur = c then
    let m : BitVec 8 := BitVec.ofNat 8 (2 ^ c)
    let s1 := if on then s else s.l2Flush fun u => columnOf (64 * u) = c
    State.nextColumn { s1 with l2On := if on then s.l2On ||| m else s.l2On &&& ~~~m }
  else s

def execColumnFold (c : BitVec 3) (s : State) : Out := .next (s.columnDone c.toNat false)
def execColumnUnfold (c : BitVec 3) (s : State) : Out := .next (s.columnDone c.toNat true)

/-! ## Copies and merges (R301 to R309, R166) -/

def execCopyStart (node : BitVec 12) (s : State) : Out := .next (s.copyStart node.toNat)
def execCopyComplete (node : BitVec 12) (tag : BitVec 6) (s : State) : Out := .next (s.copyComplete node.toNat tag.toNat false)
def execMergePass (node : BitVec 12) (tag : BitVec 6) (s : State) : Out := .next (s.mergePass node.toNat tag.toNat)
def execMergeComplete (node : BitVec 12) (tag : BitVec 6) (s : State) : Out := .next (s.copyComplete node.toNat tag.toNat true)

/-! ## Causes at a core (R416, R417) -/

/-- Whether a SLEEP was issued with its berth's TIMER pending: that TIMER does not end it (R434). -/
def Berth.sleptDue (b : Berth) (i : Nat) : Bool :=
  match b.wait with
  | .sleep _ m => m.testBit (if i = 0 then 2 else 0)
  | _ => false

/-- TIMER_EXPIRE: the time base reaches a berth's TIMECMP, which makes TIMER pending and ends a SLEEP issued before. -/
def execTimerExpire (node : BitVec 12) (berth : BitVec 2) (s : State) : Out :=
  let b := s.berthAt node.toNat berth.toNat
  .next (if b.timecmp = 0 then s
    else if b.timerDue (s.timeAt node.toNat) then
      (if b.sleptDue berth.toNat then s else s.wakeSleep node.toNat berth.toNat)
    else s.laterOnce (.timerExpire node berth))

/-- TRAP_ENTRY: B0 takes the first pending cause. -/
def execTrapEntry (node : BitVec 12) (s : State) : Out := .next (s.takeEntry node.toNat)

/-- MACHINE_ENTRY, with its reason: 1 double trap, 2 register error. An operation of B0 that has reached its home is not stopped: the
entry waits for its end, while the freeze starts (R297, R461; log 62). -/
def execMachineEntry (node : BitVec 12) (reason : BitVec 2) (s : State) : Out :=
  let n := node.toNat
  let c := s.core n
  .next (if s.inside n 0 then
      (if c.machine then s else (s.setCore n { c with machine := true }).startFreeze n 0x84 c.ctxid).again (.machineEntry node reason)
    else s.enterMachine n (reason.setWidth 64))

/-- LAUNCH_END: a launch that has ended leaves its dispenser (R398, R410). -/
def execLaunchEnd (isl : BitVec 1) (slot : BitVec 10) (s : State) : Out :=
  .next (match (s.disp isl.toNat).launch slot.toNat with
    | some l =>
      match s.agentWait l.ctx l.entry with
      | some m => (s.repeatLater l.ctx m).later (.launchEnd isl slot)
      | none => s.endLaunch isl.toNat l
    | none => s)

end Sys2Proof.Machine
end

