-- ==== Sys2Proof/Machine/Power.lean ====
section
/-! DEFINITION. Power (R414, R443 to R451): the start of a core, the group handshake, waking, cascade triggers, and the island's
transitions. -/

namespace Sys2Proof.Machine

/-! ## Cores (R414, R443, R448) -/

/-- A core enters RUN from OFF: its B0 starts at KENTRY in context 0. -/
def State.coreStart (s : State) (n : Nat) : State :=
  let c := s.core n
  if c.power == .off then
    s.setCore n
      { c.powerOff with
        power := .run, idle0 := false, ringStopped := s.silt.frozen, b0 := { Berth.kernel with pc := s.cfg.kentry } }
  else s

/-- CORE_START; what waited at its NI is handled then. -/
def execCoreStart (node : BitVec 12) (s : State) : Out :=
  .next (if (s.core node.toNat).power == .off then (s.coreStart node.toNat).deliverAll node.toNat else s)

/-- A core resumes from RET or from a quiesce: its berths go on and B0 has WAKE pending with the sources `src` (R416, R448). -/
def State.wakeCore (s : State) (n : Nat) (src : Word) : State :=
  let c := s.core n
  (s.setCore n
    { c with power := .run, stoppedBy := false, noguest := false, wakeSrc := some (c.wakeSrc.getD 0 ||| src) }).wakeSleep n 0

/-- Pins end (R85), every line of a core's L1 is written back and dropped, and its instruction cache (R447 step 2, R443). -/
def State.dropCaches (s : State) (n : Nat) : State :=
  let s0 := (s.core n).pinned.foldl (fun t k => t.endPin n k) s
  let s1 := ((s0.core n).l1.map (·.word)).foldl (fun t w => t.writeBack n w) s0
  s1.setCore n { s1.core n with l1 := [], icache := [] }

/-- RILL_CORE_RET: a Rill compute core that has been IDLE long enough enters RET. -/
def execRillCoreRet (node : BitVec 12) (s : State) : Out :=
  let n := node.toNat
  let c := s.core n
  .next (if isRill n && n ≠ mcNode && c.power == .run then
      let s1 := s.dropCaches n
      s1.setCore n { s1.core n with power := .ret, tlb := [], probes := [] }
    else s)

/-- RILL_CORE_WAKE: an event of its own brings a Rill core back (R443, R450). -/
def execRillCoreWake (node : BitVec 12) (s : State) : Out :=
  let n := node.toNat
  let c := s.core n
  .next (if isRill n && c.power == .ret then
      { s with wakeSrc := s.wakeSrc ||| 0x100000 }.setCore n
        { c with power := .run, wakeSrc := some (c.wakeSrc.getD 0 ||| 0x100000) }
    else s)

/-! ## Quiesce and drain (R447) -/

/-- A berth of a quiesced core abandons its wait at its boundary, as a stop would (R420). -/
def State.pauseBerth (s : State) (n i : Nat) : State :=
  if s.inside n i then s
  else
    let was := (s.berthAt n i).stopped
    let s1 := s.stopBerth n i
    s1.setBerthAt n i { s1.berthAt n i with stopped := was, epc := (s.berthAt n i).epc }

/-- Quiesces a core: NOGUEST, EVICT, RECALL, and each berth stops at its next boundary. -/
def State.quiesceCore (s : State) (n : Nat) : State :=
  let c := s.core n
  if c.power == .off then s
  else
    let s1 := s.setCore n { c with noguest := true, stoppedBy := true }
    let s2 := (s1.evictGuests n).recallAway n
    [0, 1, 2, 3].foldl (fun t i => t.pauseBerth n i) s2

/-- Every berth of a core has stopped, every guest has left, its own thread is back. -/
def Core.quiet (c : Core) : Bool :=
  !c.b2.occupied && !c.b3.occupied && !c.away && [c.b0, c.b1, c.b2, c.b3].all (!·.busy)

def execGroupQuiesce (g : BitVec 5) (s : State) : Out :=
  let k := g.toNat
  let x := s.group k
  .next (if !x.quiesce || x.quiesced then s
    else
      let s1 := (groupNodes k).foldl State.quiesceCore s
      if (groupNodes k).all fun n => (s1.core n).quiet then
        let s2 := s1.setGroup k { s1.group k with quiesced := true }
        if x.wakeBy = 0 then s2.later (.groupDrain g) else s2
      else s1.later (.groupQuiesce g))

/-- GROUP_DRAIN: once copies and merges are complete and pins have ended. A drain that a wake has met is undone as it completes
(R449). -/
def execGroupDrain (g : BitVec 5) (s : State) : Out :=
  let k := g.toNat
  let x := s.group k
  .next (if !x.quiesced || x.drained then s
    else if (groupNodes k).all fun n => (s.core n).fifo.isEmpty && (s.core n).engine.flight.isNone then
      let s1 := (groupNodes k).foldl State.dropCaches s
      s1.setGroup k { s1.group k with drained := x.wakeBy = 0 }
    else s.later (.groupDrain g))

/-! ## Retention (R447, R448) -/

/-- GRET_SAVE OP 1: the state is in retention cells. -/
def execGretSaveRetain (g : BitVec 5) (s : State) : Out :=
  .next (s.setGroup g.toNat { s.group g.toNat with saved := true, img := false })

/-- GRET_SAVE OP 3: the cores of a RET group have their state back, still quiesced. -/
def execGretSaveRestore (g : BitVec 5) (s : State) : Out :=
  .next ((groupNodes g.toNat).foldl (fun t n =>
    let c := t.core n
    if c.power == .ret then t.setCore n { c with power := .run } else t) s)

/-- A step of GRET_SAVE. -/
def Event.isRetSave : Event → Bool
  | .gretSaveRetain _ => true
  | .gretSaveImage _ => true
  | .gretSaveRestore _ => true
  | _ => false

/-- GRET_SAVE_DONE: BUSY falls after every selected group's step. -/
def execGretSaveDone (s : State) : Out :=
  .next (if s.agenda.any Event.isRetSave then s.later .gretSaveDone else { s with retSave := false })

/-! ## The island (R444, R76, R92, R120) -/

/-- The packets in a Rill NI's hold buffer leave, and instructions that waited for them go on (R92). -/
def State.openBridge (s : State) (n : Nat) : State :=
  let c := s.core n
  let s1 := c.bridgeHeld.foldl (fun t p => if isLink p.dst then t.linkTake n p else t.inject p)
    (s.setCore n { c with bridgeHeld := [] })
  [0, 1, 2, 3].foldl (fun t i => if (t.berthAt n i).wait = .bridge then t.answer n i 0 0 else t) s1

/-- The time load (R120): each Torrent group's copies are Rill's to within 2 ticks, how far ahead is free (R121; log 91). -/
def State.loadTime (s : State) : State :=
  (List.range 32).foldl (fun t g => { t.drawn with skew := alSet t.skew g (t.free % 3) }) s

/-- TORRENT_BRING_UP: power, the time base when it comes from OFF, homes, bridge; then TSTATE is 2. -/
def State.bringUp (s : State) : State :=
  if s.tstate = 2 then s
  else
    let s1 := if s.tstate = 0 then s.loadTime else s
    ((List.range 9).map (0x800 + ·)).foldl State.openBridge
      { s1 with tstate := 2, bridge := true, tbusy := false, dramsr := false }

def execTorrentBringUp (s : State) : Out := .next s.bringUp

/-- Whether a packet has an end on Torrent. -/
def Packet.torrent (p : Packet) : Bool := p.src < 0x800 || p.dst < 0x800

/-- TORRENT_LEAVE_ON: the L2 writes back and stops serving (R76), homes move to the pool, the bridge is isolated; the walkers hold no
entries (R46), and in OFF the routers lose their power too. Packets on their way arrive first. -/
def execTorrentLeaveOn (s : State) : Out :=
  .next (if s.tstate ≠ 2 then s
    else if !s.allDown || s.groups.any (·.wakeBy ≠ 0) then { s with tbusy := false }
    else if s.net.any Packet.torrent then s.later .torrentLeaveOn
    else
      let nap := s.groups.any (·.state = 1)
      let s0 := s.l2Flush fun _ => true
      let s1 : State :=
        { s0 with tstate := if nap then 1 else 0, bridge := false, tbusy := false, wcache := s0.wcache.filter (·.1 = 8) }
      let s2 : State := if nap then s1
        else { s1 with cores := s1.cores.map fun p => if isRill p.1 then p else (p.1, p.2.unpowered) }
      if s2.srallow then s2.laterOnce .dramSelfRefreshEnter else s2)

/-- DRAM_SELF_REFRESH_ENTER: when it is allowed and Torrent is NAP or OFF. -/
def execDramSelfRefreshEnter (s : State) : Out :=
  .next (if s.srallow && s.tstate ≠ 2 then { s with dramsr := true }.laterOnce .dramSelfRefreshExit else s)

/-- DRAM_SELF_REFRESH_EXIT: an access or Torrent's return ends self-refresh, which may be entered again. -/
def execDramSelfRefreshExit (s : State) : Out :=
  let s1 : State := { s with dramsr := false }
  .next (if s.srallow && s.tstate ≠ 2 then s1.laterOnce .dramSelfRefreshEnter else s1)

/-! ## A group comes up (R448, R449) -/

/-- The logical cores of a group, without its spare position (R103). -/
def State.logicalNodes (s : State) (g : Nat) : List Nat := (List.range 16).map fun i => s.coreNode 0 (16 * g + i)

/-- A core of a group that comes up: from OFF it starts under R414, else it resumes. The spare runs nothing. -/
def State.raiseCore (s : State) (g : Nat) (src : Word) (n : Nat) : State :=
  let c := s.core n
  if c.power == .off then
    (if (s.logicalNodes g).contains n then s.coreStart n
      else s.setCore n { c.powerOff with power := .run, ringStopped := s.silt.frozen })
  else s.wakeCore n src

/-- A group comes up; arrivals that waited at its NIs are handled. -/
def State.raiseGroup (s : State) (g : Nat) (src : Word) : State :=
  let s1 := (groupNodes g).foldl (fun t n => t.raiseCore g src n) s
  let s2 := s1.setGroup g
    { s1.group g with
      quiesce := false, quiesced := false, drained := false, saved := false, img := false, gate := false, rail := 2
      railok := true, wakeBy := 0 }
  (groupNodes g).foldl State.deliverAll (s2.groupState g 0)

/-- GROUP_RESUME: the monitor has cleared MASK, or the clock gate of a group that was OFF. -/
def execGroupResume (g : BitVec 5) (s : State) : Out :=
  .next (if (s.group g.toNat).quiesce then s
    else if s.tstate ≠ 2 then ({ s with tbusy := true }.laterOnce .torrentBringUp).later (.groupResume g)
    else s.raiseGroup g.toNat 0)

/-- Whether a step of a group's handshake is under way (R449). -/
def State.inStep (s : State) (g : Nat) : Bool :=
  let k : BitVec 5 := BitVec.ofNat 5 g
  let x := s.group g
  (x.quiesce && !x.quiesced) || s.agenda.contains (.groupDrain k) || s.agenda.contains (.gretSaveRetain k) ||
    s.agenda.contains (.gretSaveImage k) || s.agenda.contains (.gretSaveRestore k)

/-- GROUP_WAKE: the hardware brings a group up once the island is ON and the step under way is complete. -/
def execGroupWake (g : BitVec 5) (s : State) : Out :=
  let k := g.toNat
  let x := s.group k
  .next (if x.wakeBy = 0 then s
    else if s.tstate ≠ 2 then
      ({ s with tbusy := true }.laterOnce .torrentBringUp).later (.groupWake g)
    else if s.inStep k then s.later (.groupWake g)
    else s.raiseGroup k x.wakeBy)

/-- RAIL_OK: a rail is at full voltage, once the island is ON; its group is in transition (R444). -/
def execRailOk (g : BitVec 5) (s : State) : Out :=
  let k := g.toNat
  .next (if (s.group k).rail ≠ 2 then s
    else if s.tstate ≠ 2 then ({ s with tbusy := true }.laterOnce .torrentBringUp).later (.railOk g)
    else
      let s1 := if (s.group k).state = 0 then s else s.groupState k 3
      s1.setGroup k { s1.group k with railok := true })

def execGclkGateWrite (v : BitVec 64) (s : State) : Out := .next (s.gateWrite v)
def execGrailCtlWrite (v : BitVec 64) (s : State) : Out := .next (s.railWrite v)

/-! ## Waking and cascade triggers (R450, R451) -/

/-- WAKE_GMASK: a WAKE write names groups. -/
def execWakeGmask (mask : BitVec 32) (src : BitVec 2) (s : State) : Out :=
  .next (s.wakeMask mask src)

/-- WAKE_TON: Torrent and every group. -/
def execWakeTon (src : BitVec 2) (s : State) : Out :=
  .next (s.wakeAll src)

def execWakeSrcRead (s : State) : Out := .next { s with wakeSrc := 0 }

def execWakeArmWrite (v : BitVec 64) (s : State) : Out := .next (s.armWrite v)

/-- CASCADE_FIRE: an armed trigger fires once. -/
def execCascadeFire (n : BitVec 4) (s : State) : Out :=
  let i := n.toNat
  .next (match s.cascades[i]? with
    | some t =>
      if s.arm.getLsbD i then
        let s1 : State :=
          { s with arm := s.arm &&& ~~~(BitVec.ofNat 17 (2 ^ i)), cascades := s.cascades.setIfInBounds i { t with fired := true } }
        s1.wakeGroups (if t.ton then List.range 32 else maskGroups t.gmask.toNat) (w64 (2 ^ i))
      else s
    | none => s)

/-! ## Sensors (R446) -/

/-- THERMAL_LIMIT: a group's junction crosses the limit. -/
def execThermalLimit (g : BitVec 5) (on : BitVec 1) (s : State) : Out :=
  .next (s.setGroup g.toNat { s.group g.toNat with hot := on = 1 })

/-- POWER_OVER_BUDGET: measured power crosses a nonzero BUDGET. -/
def execPowerOverBudget (g : BitVec 5) (on : BitVec 1) (s : State) : Out :=
  let x := s.group g.toNat
  .next (s.setGroup g.toNat { x with overBudget := on = 1 && x.budget ≠ 0 })

end Sys2Proof.Machine
end

