-- ==== Sys2Proof/Machine/Portage.lean ====
section
/-! DEFINITION. The per-rank record of a resident rank (R197), GRET_SAVE to images (R447), and the Portage engine (R455, R456). -/

namespace Sys2Proof.Machine

/-! ## The record of a resident rank (R197, R436, R360) -/

/-- Writes a word with its tag at an offset of a rank's record. -/
def State.putImage (s : State) (n ctx rank off : Nat) (v : Word) (t : Nat) : State :=
  s.writeHome n (s.recordLoc ctx rank off) v t

/-- The LM image, with the words' tags. -/
def State.saveLm (s : State) (n ctx rank : Nat) : State :=
  (List.range (lmSize / 8)).foldl (fun t i =>
    let (v, g) := t.homeWord (lmLoc n (8 * i))
    t.putImage n ctx rank (8 * i) v g) s

/-- The engine's accumulators of the B1 thread, as MSAVE finds them: in the engine or through the spill slot. -/
def State.savedAccs (s : State) (n : Nat) : Option (Vector Acc 4) :=
  let c := s.core n
  let e := c.engine
  if e.owner 1 c.b1 then some e.countBlock.acc
  else if e.slotFor 1 c.b1 then
    match e.slot with
    | some p =>
      if p.lost then none
      else
        some (s.spilledEngine n p).countBlock.acc
    | none => none
  else none

def State.saveAccs (s : State) (n ctx rank : Nat) : State :=
  match s.savedAccs n with
  | some a => s.putRecord n ctx rank (wordsAt 0x18000 (a.toList.flatMap accWords))
  | none => s

/-- The registers of the B1 thread as a GSAVE of every range would write them, with its lease `lease`; with no thread the selector word
is 0. -/
def State.saveRegs (s : State) (n ctx rank : Nat) (lease : Word) : State :=
  let c := s.core n
  let b := if c.b1.stopped then c.b1 else { c.b1 with epc := c.b1.pc &&& 0x0000FFFFFFFFFFFF }
  if b.occupied then
    (s.putRecord n ctx rank ((saveWords b lease c.geom 0xF).map fun w => (0x1C000 + w.1, w.2))).keepThread n ctx
      rank none b.launch b.task b.gang
  else s.putRecord n ctx rank [(0x1CC58, 0)]

/-- A value of a g port, a CAP pair with its tags. -/
def State.saveG (s : State) (n ctx rank off : Nat) (v sh : Word) (cap : Bool) : State :=
  let t := if cap then tagCap else tagData
  (s.putImage n ctx rank off v t).putImage n ctx rank (off + 8) sh t

/-- The inbound port values, and the fill counts. -/
def State.savePorts (s : State) (n ctx rank : Nat) : State :=
  let c := s.core n
  let s1 := (List.range 6).foldl (fun t p => ((c.port p).inq.zipIdx).foldl (fun u x =>
    u.saveG n ctx rank (0x1D000 + 128 * p + 16 * x.2) (x.1.val.setWidth 64) x.1.sh x.1.cap) t) s
  let s2 := (List.range 4).foldl (fun t p => ((c.port (6 + p)).inq.zipIdx).foldl (fun u x =>
    u.putRecord n ctx rank (wordsAt (0x1D400 + 256 * p + 64 * x.2) (vWords x.1.val))) t) s1
  let fill := (List.range 6).foldl (fun r p => r + (c.port p).inq.length * 16 ^ p) 0 +
    (List.range 4).foldl (fun r p => r + (c.port (6 + p)).inq.length * 8 ^ p * 2 ^ 24) 0
  s2.putRecord n ctx rank [(0x1F008, w64 fill)]

/-- The entries of a core's overflow ring, oldest first. -/
def State.ringEntries (s : State) (n : Nat) : List Arrival :=
  let c := s.core n
  let size := 2 ^ c.ovfSize
  if c.ovfEn then
    (List.range ((c.ovfTail + size - c.ovfHead) % size)).map fun i =>
      arrivalOf (s.readWords (lmLoc n (128 * (c.ovfBase + (c.ovfHead + i) % size))) 16)
  else []

/-- The pending entries: the inbox, then the ring's entries of the rank; up to 40 in the record, further ones, and those of other
ranks, in MSGBUF. -/
def State.savePending (s : State) (n ctx rank : Nat) : State :=
  let c := s.core n
  let ring := s.ringEntries n
  let mine := c.inbox.map (·.arrival false) ++ ring.filter (fun a => a.drank = rank)
  let s1 := ((mine.take 40).zipIdx).foldl (fun t x => t.putRecord n ctx rank (wordsAt (0x1D800 + 128 * x.2) x.1.words)) s
  let s2 := (mine.drop 40 ++ ring.filter (fun a => a.drank ≠ rank)).foldl (fun t a => (t.msgbufPut n a.ctx a).1) s1
  s2.putRecord n ctx rank [(0x1F000, w64 (1 + min mine.length 40 * 2 ^ 16))]

/-- The ready-queue entries in the layout of R424; unused places are 0. -/
def State.saveReady (s : State) (n ctx rank : Nat) : State :=
  let l := (s.core n).ready
  (List.range 16).foldl (fun t i =>
    let o := 0x1EC00 + 64 * i
    match l[i]? with
    | some r =>
      let t1 := (t.putRecord n ctx rank [(o, r.q0.val), (o + 8, r.q1.val), (o + 48, 0), (o + 56, 0)])
      (t1.saveG n ctx rank (o + 16) r.q2.val r.q2.sh (r.q2.tag = .cap)).saveG n ctx rank (o + 32) r.q3.val r.q3.sh (r.q3.tag = .cap)
    | none => t.putRecord n ctx rank (wordsAt o (List.replicate 8 0))) s

/-- A resident rank goes into its record, STATE saved, its thread's lease as `lease`; the record's reserved bytes are 0. -/
def State.saveRank (s : State) (n : Nat) (lease : Word) : State :=
  let c := s.core n
  let x := c.ctxid
  let r := c.rank
  ((((((s.saveLm n x r).saveAccs n x r).saveRegs n x r lease).savePorts n x r).saveReady n x r).savePending n x r).putRecord n x r
    (wordsAt 0x1F010 (List.replicate 510 0))

/-- A core's resident rank saved to its image; context 0 has none (R12). -/
def State.saveImage (s : State) (n : Nat) : State :=
  let c := s.core n
  if c.ctxid = 0 then s else s.saveRank n (c.b1.frozenLease s.time)

/-- GRET_SAVE OP 2: each resident rank of the group goes into its record. -/
def execGretSaveImage (g : BitVec 5) (s : State) : Out :=
  let k := g.toNat
  let s1 := (s.logicalNodes k).foldl State.saveImage s
  .next (s1.setGroup k { s1.group k with saved := true, img := true })

/-! ## Portage (R455, R456) -/

/-- The node of the Portage engine (R89). -/
def portageNode : Nat := 0x840

def State.setPortage (s : State) (p : Portage) : State := { s with portage := p }

/-- The context that the move is of. -/
def State.moveCtx (s : State) : Nat := getF s.portage.run 0 12

/-- The cores on which a context is resident. -/
def State.ctxCores (s : State) (ctx : Nat) : List Nat := (s.cores.filter fun p => p.2.power != .off && p.2.ctxid = ctx).map (·.1)

/-- The end of a move with its status: the supervisor block, whose word 1 holds 1 and the status (log 103), ERR, PHASE 0. -/
def State.endMove (s : State) (err : Nat) : State :=
  let ctx := s.moveCtx
  let b := getF (s.headerVal ctx 80) 6 42 * 64
  let s1 := ((s.agentStore ctx (b + 8) (w64 (2 ^ 32 + err))).agentStore ctx (b + 16) (w64 ctx)).agentStore ctx (b + 24)
    (s.timeAt portageNode)
  let s2 := match s1.agentWord ctx b with
    | some v => s1.agentStore ctx b (v + 1)
    | none => s1
  s2.setPortage { s2.portage with err := err, phase := 0, saved := [], waitTlbi := [], abort := false }

/-- A TLBI by context issued by the engine, and the fence that waits for it (R109). -/
def State.moveTlbi (s : State) : State :=
  let left := (s.cores.filter fun p => p.2.power != .off).map (·.1)
  let q : TlbiReq := ⟨s.nextTlbi, portageNode, 0, 0, s.moveCtx, 0, left⟩
  let s1 := s.sendTlbi q
  s1.setPortage { s1.portage with waitTlbi := [q.id] }

/-- Whether the engine's TLBI has completed. -/
def State.fenced (s : State) : Bool := !s.tlbis.any fun q => s.portage.waitTlbi.contains q.id

/-- PORTAGE_GO: a move begins with PHASE 1. -/
def execPortageGo (v : BitVec 64) (s : State) : Out := .next (s.portageGo v)

/-- Threads that have stopped after LBND go on (R456). -/
def State.freeBoundaries (s : State) : State :=
  (s.ctxCores s.moveCtx).foldl (fun t n =>
    let b := t.berthAt n 1
    if b.wait = .lbnd then t.setBerthAt n 1 { b with wait := .none } else t) s

/-- PORTAGE_ABORT: abandons a move that waits in PHASE 1. -/
def execPortageAbort (s : State) : Out := .next (if s.portage.phase = 1 then s.freeBoundaries.endMove 4 else s)

/-- Every rank of the context is at a boundary. -/
def State.atBoundary (s : State) : Bool :=
  (s.ctxCores s.moveCtx).all fun n =>
    let c := s.core n
    !c.away && (!c.b1.occupied || (c.b1.wait = .lbnd && !c.engine.mmaBusy 1))

/-- The ranks of a context (R196). -/
def State.ranks (s : State) (ctx : Nat) : List Nat := List.range (getF (s.headerVal ctx 0) 12 10 + 1)

/-- PORTAGE_TRANSIT: at the boundary every rank-table entry gets TRANSIT, then TLBI and fence. -/
def execPortageTransit (s : State) : Out :=
  let ctx := s.moveCtx
  .next (if s.portage.phase ≠ 1 || s.portage.abort then s
    else if !s.atBoundary then s.later .portageTransit
    else
      let s1 := (s.ranks ctx).foldl (fun t r =>
        let l := t.rankLoc ctx r
        t.writeHome portageNode l (setF (t.readWord l).2.1 62 1 1) tagData) s
      ((s1.setPortage { s1.portage with phase := 2 }).moveTlbi).later .portageCopy)

/-- An entry of the target rank table (R455). -/
def State.targetEntry (s : State) (rank : Nat) : Word :=
  (s.readWord (physLoc false (getF s.portage.arg 13 35 * 2 ^ 13 + 8 * rank) 0 0)).2.1

/-- The lease of a moved thread (R454; log 107): void on Rill; frozen for its own group, and for another one that the move's grant
names; dropped where that group does not grant it. -/
def State.movedLease (s : State) (n : Nat) : Word :=
  let b := (s.core n).b1.countLease s.time
  match s.rankEntry (s.targetEntry (s.core n).rank) with
  | .valid k =>
    let g := groupOf k
    if getF b.lease 61 3 ≠ 1 then b.lease
    else if isRill k then (b.endLease s.time 5).lease
    else if getF b.lease 37 5 = g then b.frozenLease s.time
    else if s.leaseGrants n 1 g then setF (b.frozenLease s.time) 37 5 g
    else (b.endLease s.time 4).lease
  | _ => b.frozenLease s.time

/-- What a core keeps after its rank has been saved: B1 empty, queues empty. -/
def Core.movedOut (c : Core) (now : Word) : Core :=
  let e := c.engine.release 1 c.b1
  { { c with engine := e, b1 := c.b1.handLease }.emptyB1 now with
    inbox := [], ready := [], ovfHead := c.ovfTail, ports := c.ports.map fun q => { q with inq := [] } }

/-- Saves the rank of a core. -/
def State.moveOut (s : State) (n : Nat) : State :=
  let s1 := s.saveRank n (s.movedLease n)
  let c := s1.core n
  (s1.setCore n (c.movedOut (s.timeAt n))).setPortage { s1.portage with saved := s1.portage.saved ++ [(c.rank, n)] }

/-- Copies a page decrypted into its pool page, tags kept; under a key that has been erased each word becomes POISON, as the copy poison
rules have it (R54, R303). -/
def State.movePage (s : State) (src dst : Loc) : State :=
  (List.range 512).foldl (fun t i =>
    let (t1, v, g) := if s.slotLoaded src.slot then t.readHome (src.plus (8 * i)) else (t, 0, tagPoison)
    t1.writeHome portageNode (dst.plus (8 * i)) v g) s

/-- One entry of PORTAGE_LIST: a level-3 leaf entry's address and a pool page; none when the leaf is not a valid 4 KiB KIND 0 one. -/
def State.moveEntry (s : State) (i : Nat) : Option State :=
  let b := getF s.portage.list 4 44 * 16 + 16 * i
  let w0 := (s.readWord (physLoc false b 0 0)).2.1
  let w1 := (s.readWord (physLoc false (b + 8) 0 0)).2.1
  let l := physLoc false (getF w0 3 45 * 8) 0 0
  let e := (s.readWord l).2.1
  let page := getF w1 12 36
  if bitOf e 0 && bitOf e 1 && !bitOf e 6 && !bitOf e 7 && getF e 60 4 = 0 && s.inKind false (getF e 12 36 * 4096) 4096 then
    let slot := getF e 48 12
    let s1 := s.movePage (physLoc false (getF e 12 36 * 4096) s.moveCtx slot) (physLoc true (page * 4096) s.moveCtx slot)
    some (s1.writeHome portageNode l (setF (setF e 12 36 page) 7 1 1) tagData)
  else none

/-- The entries of PORTAGE_LIST in order; the Bool is false at a bad one. -/
def State.moveEntries' (s : State) (i : Nat) : Nat → State × Bool
  | 0 => (s, true)
  | k + 1 =>
    match s.moveEntry i with
    | some t => t.moveEntries' (i + 1) k
    | none => (s, false)

/-- PORTAGE_COPY: after the fence and the ranks' copies, each resident rank is saved and, with SLEEP, pages move. -/
def execPortageCopy (s : State) : Out :=
  let ns := s.ctxCores s.moveCtx
  .next (if s.portage.phase ≠ 2 then s
    else if !s.fenced || ns.any fun n => (s.core n).fifo.any fun e => e.ctx = s.moveCtx then s.later .portageCopy
    else
      let s1 := ns.foldl State.moveOut (s.setPortage { s.portage with phase := 3, time := s.time })
      let (s2, ok) := if bitOf s1.portage.run 41 then s1.moveEntries' 0 (getF s1.portage.list 48 16) else (s1, true)
      if ok then s2.later .portageRelease else s2.endMove 3)

/-- The kernel of a rank's target core is told by a UMSG of CTXID 0. -/
def State.tellKernel (s : State) (ctx rank : Nat) : State :=
  match s.rankEntry (s.targetEntry rank) with
  | .valid k =>
    let l := s.recordLoc ctx rank 0
    let a := if l.kind = .pool then l.key - 2 ^ 48 else l.key
    let m : Msg := ⟨1, w64 ctx, w64 rank, w64 a, 0, 0, portageNode, 0, 0, false, 0⟩
    s.inject { src := portageNode, dst := k, ctx := 0, ranked := false, drank := 0, srank := 0, epoch := false, launch := none
               body := .umsg m }
  | _ => s

/-- Whether a message or port value that a moved thread sent before its move has not been performed yet: the thread goes on elsewhere
after it (R140, R141). -/
def State.moveSends (s : State) : Bool :=
  let ctx := s.moveCtx
  s.portage.saved.any fun q =>
    let c := s.core q.2
    let mine (p : Packet) : Bool := p.src = q.2 && p.sender = 1 && p.ctx = ctx
    s.net.any mine || c.bridgeHeld.any mine || c.heldPkts.any mine ||
      c.ports.toList.any fun o => o.outq.any fun v => v.sender = 1 && v.ctx = ctx

/-- PORTAGE_RELEASE: RTAB2's entries go into the context's rank table, then TLBI and fence; once the moved threads' messages have been
performed (R140) the kernels are told, and the move ends. -/
def execPortageRelease (s : State) : Out :=
  let ctx := s.moveCtx
  let rs := s.ranks ctx
  .next (match s.portage.phase with
    | 3 =>
      if rs.all fun r => match s.rankEntry (s.targetEntry r) with | .valid _ => true | _ => false then
        let s1 := rs.foldl (fun t r => t.writeHome portageNode (t.rankLoc ctx r) (s.targetEntry r) tagData) s
        ((s1.setPortage { s1.portage with phase := 4 }).moveTlbi).later .portageRelease
      else s.endMove 2
    | 4 =>
      if s.fenced && !s.moveSends then (rs.foldl (fun t r => t.tellKernel ctx r) s).endMove 0 else s.later .portageRelease
    | _ => s)

end Sys2Proof.Machine
end

