-- ==== Sys2Proof/Machine/Silt.lean ====
section
/-! DEFINITION. The freeze of the Silt recorder and the Rind capsule (R461 to R466). -/

namespace Sys2Proof.Machine

/-! ## The freeze -/

/-- SILT_FREEZE: a monitor freeze names the context MCTX. -/
def execSiltFreeze (s : State) : Out := .next (s.startFreeze mcNode 0 s.silt.mctx)

def execSiltResume (s : State) : Out := .next s.siltResume

def execSiltRelease (s : State) : Out := .next s.siltRelease

/-- FREEZE_ARRIVE: one of the freezes on their way to a core reaches it, which from the first one on compares its time with F; at the
management core it is merged or counted (R463). -/
def execFreezeArrive (node : BitVec 12) (s : State) : Out :=
  let n := node.toNat
  let xs := s.silt.flying.filter (·.left.contains n)
  .next (match xs[s.free % xs.length]? with
    | none => s
    | some x =>
      let rest := s.silt.flying.map fun y => if y = x then { y with left := y.left.erase n } else y
      let s1 : State := { s with silt := { s.silt with flying := rest.filter (!·.left.isEmpty) } }
      let s2 := if xs.length = 1 then s1 else s1.drawn
      let s3 := s2.setCore n { s2.core n with freezeF := some ((s2.core n).freezeF.getD x.f) }
      (if n = mcNode then s3.freezeAtMc x else s3).laterOnce (.siltStop node))

/-- SILT_STOP: the core stops recording once its copy exceeds F + 2. -/
def execSiltStop (node : BitVec 12) (s : State) : Out :=
  let c := s.core node.toNat
  .next (match c.freezeF with
    | some f =>
      if f + 2 < s.timeAt node.toNat then s.setCore node.toNat { c with ringStopped := true } else s.later (.siltStop node)
    | none => s)

/-! ## The capsule -/

/-- Exactly `n` bytes. -/
def fit (n : Nat) (l : List Byte) : List Byte := (l ++ List.replicate n 0).take n

/-- Pads to 64 bytes. -/
def pad64 (l : List Byte) : List Byte := l ++ List.replicate ((64 - l.length % 64) % 64) 0

def recWord0 (r : SiltRecord) : Word := r.setWidth 64
def recWord1 (r : SiltRecord) : Word := (r >>> 64).setWidth 64
def recCtx (r : SiltRecord) : Nat := getF (recWord0 r) 0 12

/-- Whether a record is stamped at or before F (R462). -/
def keptAt (f : Word) (r : SiltRecord) : Bool :=
  let d : BitVec 40 := BitVec.ofNat 40 (getF (recWord0 r) 24 40) - f.setWidth 40
  d = 0 || d.msb

/-- Whether a context has opted in (R460). -/
def State.optedIn (s : State) (c : Nat) : Bool :=
  let l := physLoc (bitOf s.silt.opt 0) (getF s.silt.opt 9 39 * 2 ^ 9 + c / 64 * 8) 0 0
  bitOf (s.readWord l).2.1 (c % 64)

/-- Whether a record stays in clear (R464). -/
def State.inClear (s : State) (r : SiltRecord) : Bool := recCtx r = 0 || recCtx r = s.silt.fctx || s.optedIn (recCtx r)

/-- A record's payload after redaction (R459, R464). -/
def redactPayload (w1 : Word) : Nat :=
  let cls := getF w1 56 3
  let p := getF w1 0 48
  if cls ≤ 1 || (cls = 2 && getF w1 48 8 ≤ 2) then p / 4096 * 4096 else if cls = 4 then 0 else p

/-- A redacted record with its index in the digest table. -/
def redact (r : SiltRecord) (ix : Nat) : SiltRecord :=
  let w0 := setF (recWord0 r) 0 12 ix
  let w1 := setF (setF (recWord1 r) 0 48 (redactPayload (recWord1 r))) 63 1 1
  BitVec.ofNat 128 (w0.toNat + 2 ^ 64 * w1.toNat)

/-- The nodes of the powered islands that have a ring, ascending (R457, R465). -/
def State.ringNodes (s : State) : List Nat :=
  (if s.tstate = 0 then [] else (List.range 32).flatMap groupNodes) ++ (List.range 9).map (0x800 + ·)

/-- The kept records of a node; none for a core that is OFF. -/
def State.keptRing (s : State) (n : Nat) : List SiltRecord :=
  if (s.core n).power == .off then [] else (s.core n).ring.filter (keptAt s.silt.f)

/-- A record as the capsule holds it, and the contexts of the digest table so far. -/
def State.capsuleRecord (s : State) (ctxs : List Nat) (r : SiltRecord) : List Nat × SiltRecord :=
  if s.inClear r then (ctxs, r)
  else
    let cs := if ctxs.contains (recCtx r) then ctxs else ctxs ++ [recCtx r]
    (cs, redact r (cs.idxOf (recCtx r)))

def State.capsuleRecords (s : State) : List Nat → List SiltRecord → List Nat × List Byte
  | cs, [] => (cs, [])
  | cs, r :: rs =>
    let (c1, x) := s.capsuleRecord cs r
    let (c2, bs) := s.capsuleRecords c1 rs
    (c2, natToBytes 16 x.toNat ++ bs)

/-- The ring sections of a list of nodes. -/
def State.ringSections (s : State) : List Nat → List Nat → List Nat × List Byte
  | cs, [] => (cs, [])
  | cs, n :: ns =>
    let k := s.keptRing n
    let h := n + k.length * 2 ^ 16 + (if (s.core n).power == .off then 2 ^ 32 else 0)
    let (c1, bs) := s.capsuleRecords cs k
    let (c2, r) := s.ringSections c1 ns
    (c2, pad64 (natToBytes 16 h ++ bs) ++ r)

/-- The fault section. -/
def State.faultSection (s : State) : List Byte :=
  let b (i : Nat) : List Word :=
    let x := s.berthAt s.silt.node i
    [s.statusOf s.silt.node i, x.cause, x.epc, x.eval]
  (b 0 ++ b 1 ++ b 2 ++ b 3 ++ [s.islandStat] ++ (List.range 32).map (fun g => (s.group g).stat) ++
    [s.kslotStat, s.l2Stat]).flatMap fun w => natToBytes 8 w.toNat

/-- A signature of the identity key (R470, R475). -/
def State.identitySign (s : State) (x : List Byte) : List Byte := fit 384 (Config.secret 2 (s.idKey ++ x))

/-- The bytes of a capsule, its signature included. -/
def State.capsule (s : State) : List Byte :=
  let z := s.silt
  let salt := fit 32 (Config.secret 1 (natToBytes 8 s.freeCtr))
  let (ctxs, rings) := s.ringSections [] s.ringNodes
  let digests := pad64 (ctxs.flatMap fun c => sha256 (salt ++ natToBytes 2 c))
  let faults := pad64 s.faultSection
  let o1 := 256 + rings.length
  let o2 := o1 + digests.length
  let o3 := o2 + faults.length
  let words := [0x00000001444E4952, z.f.toNat, z.node + z.fctx * 2 ^ 16 + z.cause * 2 ^ 32,
    s.ringNodes.length + ctxs.length * 2 ^ 16, 256, o1, o2, o3]
  let body := fit 256 ((words.flatMap fun w => natToBytes 8 w) ++ sha256 (Config.secret 6 s.idKey)) ++ rings ++ digests ++ faults
  body ++ s.identitySign body

/-- Stores bytes under key slot 0 from a pool offset on, 8 at a time; `n` bounds the words. -/
def State.putPool (s : State) (off : Nat) (l : List Byte) : Nat → State
  | 0 => s
  | n + 1 =>
    if l.isEmpty then s
    else (s.writeHome mcNode (physLoc true off 0 0) (w64 (bytesToNat (l.take 8))) tagData).putPool (off + 8) (l.drop 8) n

/-- CAPSULE_BUILD: once every ring has stopped and no freeze can be merged any more (R463), the capsule is built, signed and stored. -/
def execCapsuleBuild (s : State) : Out :=
  .next (if !s.silt.build then s
    else if !s.mergeOver || s.siltNodes.any fun n => !(s.core n).ringStopped then s.later .capsuleBuild
    else
      let b := s.capsule
      let s1 := s.drawn.putPool (s.silt.base * 2 ^ 20) b (b.length / 8)
      { s1 with silt := { s1.silt with ftime := s.silt.f, valid := true, build := false, held := s.silt.base } })

/-- A byte of the held capsule; past its end 0. -/
def State.capsuleByte (s : State) (i : Nat) : Byte :=
  let b := poolKey (s.silt.held * 2 ^ 20)
  if i < mgetN s.mem (b + 56) 8 + 384 then mget s.mem (b + i) else 0

end Sys2Proof.Machine
end

