-- ==== Sys2Proof/Machine/HostLink.lean ====
section
/-! DEFINITION. The host link, the security protocols, the peer links and reset (R467 to R476): the mailbox and its commands, the host
window and the submission ring, SPDM and TDISP requests, link events, cold and warm reset. -/

namespace Sys2Proof.Machine

/-! ## The mailbox (R468) -/

/-- The host interface's node (R89). -/
def hostNode : Nat := 0x838

/-- The mailbox as the host reads it: 4 KiB. -/
def Mailbox.bytes (m : Mailbox) : List Byte :=
  natToBytes 8 m.doorbell.toNat ++ natToBytes 8 m.cmd.toNat ++ fit 32 (m.args.flatMap fun w => natToBytes 8 w.toNat) ++
    natToBytes 8 m.result.toNat ++ List.replicate 8 0 ++ fit 4032 m.data

/-- The mailbox with these bytes. -/
def Mailbox.ofBytes (l : List Byte) : Mailbox :=
  let w (i : Nat) : Word := w64 (bytesToNat ((l.drop (8 * i)).take 8))
  ⟨w 0, w 1, [w 2, w 3, w 4, w 5], w 6, (l.drop 64).take 4032⟩

/-- `l` with the bytes `x` laid over it from `o` on. -/
def overlay (l : List Byte) (o : Nat) (x : List Byte) : List Byte := l.take o ++ x ++ l.drop (o + x.length)

/-- The event that serves the command a mailbox holds. -/
def Mailbox.command (m : Mailbox) : Event :=
  let a (i : Nat) : Word := m.args.getD i 0
  match getF m.cmd 0 8 with
  | 1 => .capsuleRead (a 0) (a 1)
  | 2 => .capsuleRelease
  | 3 => .queueBase (a 0) (a 1)
  | 4 => .keyBind (a 0)
  | 5 => .windowSet (a 0) (a 1)
  | _ => .mailboxBadCommand (m.cmd.setWidth 8)

/-- A host write into the mailbox: of DOORBELL it is ignored while that is 1; one that sets it lets the MC serve the command. -/
def State.mailboxWrite (s : State) (o : Nat) (x : List Byte) : State :=
  let m := s.mailbox
  let m1 := Mailbox.ofBytes (overlay m.bytes o x)
  let m2 := if bitOf m.doorbell 0 then { m1 with doorbell := m.doorbell } else m1
  let s1 : State := { s with mailbox := m2 }
  if !bitOf m.doorbell 0 && bitOf m2.doorbell 0 then s1.later m2.command else s1

/-- A command ends: RESULT, then DOORBELL 0. -/
def State.result (s : State) (r : Nat) : State := { s with mailbox := { s.mailbox with result := w64 r, doorbell := 0 } }

/-- Boot is under way. -/
def State.booting (s : State) : Bool := s.boot ≠ 1 && s.boot ≠ 2

/-- A command as the MC serves it: before boot is over it waits; after a failed boot it is refused unless `always` (R476). -/
def command (s : State) (e : Event) (always : Bool) (f : State → State) : Out :=
  .next (if s.booting then s.later e else if s.boot = 2 && !always then s.result 2 else f s)

def execMailboxBadCommand (cmd : BitVec 8) (s : State) : Out :=
  command s (.mailboxBadCommand cmd) false fun t => t.result 1

/-- CAPSULE_READ. -/
def execCapsuleRead (off len : BitVec 64) (s : State) : Out :=
  command s (.capsuleRead off len) true fun t =>
    if t.silt.valid then
      let x := (List.range (min len.toNat 4032)).map fun i => t.capsuleByte (off.toNat + i)
      { t with mailbox := { t.mailbox with data := overlay (fit 4032 t.mailbox.data) 0 x } }.result 0
    else t.result 3

def execCapsuleRelease (s : State) : Out := command s .capsuleRelease false fun t => t.siltRelease.result 0

/-- QUEUE_BASE (R473): a ring that is too large, misaligned, or passes the pool is refused. -/
def execQueueBase (off n : BitVec 64) (s : State) : Out :=
  command s (.queueBase off n) false fun t =>
    if 12 < n.toNat || off.toNat % 8 ≠ 0 || 24 * 2 ^ 20 < off.toNat + 64 + 64 * 2 ^ n.toNat then t.result 2
    else ({ t with hostRing := some (off.toNat, n.toNat) }.result 0).laterOnce .hostSubmission

/-- KEY_BIND (R471). -/
def execKeyBind (arg : BitVec 64) (s : State) : Out :=
  command s (.keyBind arg) false fun t =>
    let ctx := getF arg 0 12
    let ix := getF arg 16 16
    match t.spdm.session with
    | some secret =>
      if ctx = 0 || 16 ≤ ix || !t.spdm.established then t.result 2
      else
        let label : List Byte := [0x69, 0x61, 0x6E, 0x69, 0x73, 0x20, 0x63, 0x6F, 0x70, 0x79, 0x63]
        let k : SessionKey :=
          ⟨ix, ctx, hkdf32 [] secret (label ++ natToBytes 2 ctx ++ natToBytes 1 ix), bytesBE 4 (getF arg 32 32), 0⟩
        { t with keys := k :: t.keys.filter fun q => !(q.ctx = ctx && q.ix = ix) }.result 0
    | none => t.result 2

/-- WINDOW_SET (R469): reserved bits, those of ARGS bytes 16 to 31 among them, and a window past the private range are always refused,
any other binding may be. -/
def execWindowSet (ctx vb : BitVec 64) (s : State) : Out :=
  command s (.windowSet ctx vb) false fun t =>
    if getF ctx 12 52 ≠ 0 || (t.mailbox.args.drop 2).any (· ≠ 0) || getF vb 48 16 ≠ 0 || getF vb 0 12 ≠ 0 || 2 ^ 47 < vb.toNat + (2 ^ 26 - 4096) then t.result 2
    else if t.free % 2 = 1 then t.drawn.result 2
    else { t.drawn with window := some (getF ctx 0 12, vb.toNat) }.result 0

/-! ## The host window (R467, R469) -/

/-- The words of a host access in the bound context: translated, KO pages refused, R or W granted; none when a check fails. -/
def State.hostWords (s : State) (ctx : Nat) (wr : Bool) : List Piece → Option (List (Piece × Loc))
  | [] => some []
  | p :: ps =>
    match s.walkRoot ctx p.va with
    | .ok l =>
      if (if wr then l.w else l.r) && !l.ko && !s.keyless l then
        match s.hostWords ctx wr ps with
        | some r => some ((p, l.loc p.va) :: r)
        | none => none
      else none
    | .error _ => none

/-- The words read at their homes, in order; none when one is POISON. -/
def State.hostLoad (s : State) : List (Piece × Loc) → State × Option (List Byte)
  | [] => (s, some [])
  | (p, l) :: r =>
    let (s1, v, t) := s.readHome l
    let (s2, bs) := s1.hostLoad r
    (s2, if t = tagPoison then none else bs.map fun x => natToBytes p.n (pieceOf p v) ++ x)

/-- The bytes written at their homes, in order (R22). -/
def State.hostStore (s : State) : List (Piece × Loc) → Nat → State
  | [], _ => s
  | (p, l) :: r, x =>
    let (s1, v, t) := s.readHome l
    (s1.writeHome hostNode l (mergePiece p v t x) tagData).hostStore r (x / 2 ^ (8 * p.n))

/-- Whether a host request is completed as an Unsupported Request: the interface is locked and the request lies outside the bound
stream, which is the host's choice (R467). -/
def State.unsupported (s : State) : Bool := s.tdi ≠ .unlocked && s.free % 2 = 1

/-- Whether [o, o + n) lies on one side of the mailbox's end within BAR0. -/
def inBar (o n : Nat) : Bool := o + n ≤ 2 ^ 26 && (o + n ≤ 4096 || 4096 ≤ o)

/-- HOST_READ of `n` bytes at offset `off` of BAR0. -/
def execHostRead (off : BitVec 64) (n : BitVec 7) (s : State) : Out :=
  let o := off.toNat
  let k := n.toNat
  let s1 := s.drawn
  let ones : State := { s1 with hostGot := List.replicate k 0xFF }
  .next (if s.unsupported then { s1 with hostGot := [] }
    else if !inBar o k then ones
    else if o < 4096 then { s1 with hostGot := (s.mailbox.bytes.drop o).take k }
    else
      match s.window with
      | none => ones
      | some (ctx, vb) =>
        match s1.hostWords ctx false (pieces (vb + o - 4096) k k) with
        | none => ones
        | some l =>
          let (s2, r) := s1.hostLoad l
          { s2 with hostGot := r.getD (List.replicate k 0xFF) })

/-- HOST_WRITE of the low `n` bytes of `v`, at most 8. -/
def execHostWrite (off : BitVec 64) (n : BitVec 4) (v : BitVec 64) (s : State) : Out :=
  let o := off.toNat
  let k := min n.toNat 8
  let s1 := s.drawn
  .next (if s.unsupported || !inBar o k then s1
    else if o < 4096 then s1.mailboxWrite o (natToBytes k v.toNat)
    else
      match s.window with
      | none => s1
      | some (ctx, vb) =>
        match s1.hostWords ctx true (pieces (vb + o - 4096) k k) with
        | none => s1
        | some l => if l.any fun p => (s1.readHome p.2).2.2 = tagSync then s1 else s1.hostStore l v.toNat)

/-! ## Host submission (R473) -/

/-- The launch capability of a ring entry: the context's CROOT at `va`, cut to the records, with R and LC at most. -/
def State.rootCap (s : State) (ctx va n : Nat) : Option GReg :=
  let (_, v, t) := s.header ctx 32
  let sh := s.headerVal ctx 40
  let root : GReg := ⟨v, sh, if t = tagCap then .cap else .data⟩
  if root.tag = .cap && capWell sh then
    let a := setAddr root (w64 va)
    if a.tag = .cap then
      match setBounds false a (w64 (32 * n)) with
      | .ok c => some { c with sh := andPerms c.sh (w64 (pR + pLC)) }
      | .error _ => none
    else none
  else none

/-- An entry's island, context, capability and launch word; none for one that is skipped. -/
def State.ringLaunch (s : State) (w : List Word) : Option (Nat × Nat × GReg × Word) :=
  let w0 := w.getD 0 0
  let va := w.getD 1 0
  let n := w.getD 2 0
  let ctx := getF w0 0 12
  if getF w0 12 4 = 0 && getF w0 27 37 = 0 && getF va 48 16 = 0 && getF va 0 5 = 0 && getF n 16 48 = 0 && n ≠ 0 &&
      (w.drop 3).all (· = 0) then
    match s.rootCap ctx va.toNat n.toNat with
    | some c =>
      let isl := getF w0 26 1
      match capChecks false ⟨c, 0, va, 32 * n.toNat, pR, true, false, false, 32⟩ with
      | .ok _ => some (isl, ctx, c, w64 (n.toNat + getF w0 24 2 * 2 ^ 16 + getF w0 16 8 * 2 ^ 18 + isl * 2 ^ 26))
      | .error _ => none
    | none => none
  else none

/-- Submits a root launch; refused, or held by the bridge (R92), it is kept to be retried. -/
def State.submit (s : State) (q : Nat × Nat × GReg × Word) : State :=
  let wait (t : State) : State := { t with hostPending := some q }.laterOnce .hostSubmissionRetry
  if q.1 = 0 && !s.bridge then wait (s.launchTriggers (s.launchQueue 0 q.2.1 q.2.2.2))
  else
    match s.launch q.1 q.2.1 q.2.2.1 q.2.2.2 with
    | (t, true) => { t with hostPending := none }
    | (t, false) => wait t

/-- HOST_SUBMISSION: the MC takes the next entry of the ring, when HEAD has not reached TAIL and no launch waits. -/
def execHostSubmission (s : State) : Out :=
  .next (match s.hostRing with
    | none => s
    | some (o, n) =>
      let at_ (i : Nat) : Loc := physLoc true (o + i) 0 0
      let (s1, head, _) := s.readWord (at_ 0)
      let (s2, tail, _) := s1.readWord (at_ 8)
      if head = tail || s2.hostPending.isSome || s2.boot ≠ 1 then s2.later .hostSubmission
      else
        let e := 64 + 64 * (head.toNat % 2 ^ n)
        let (s3, ws) := (List.range 8).foldl (fun (r : State × List Word) i =>
          let (t, v, _) := r.1.readWord (at_ (e + 8 * i))
          (t, r.2 ++ [v])) (s2, [])
        let s4 := match s3.ringLaunch ws with
          | some q => s3.submit q
          | none => s3
        (s4.writeHome mcNode (at_ 0) (head + 1) tagData).later .hostSubmission)

/-- HOST_SUBMISSION_RETRY. -/
def execHostSubmissionRetry (s : State) : Out :=
  .next (match s.hostPending with
    | some q => s.submit q
    | none => s)

/-! ## SPDM (R470, R471) -/

/-- A request that the responder answers in a stage of the exchange: request and answer are noted, and the answer's contents are kept.
Before that stage it is not answered. -/
def spdm (s : State) (code : Nat) (ok : Spdm → Bool) (f : Spdm → Spdm) (answer : Spdm → List Byte) : Out :=
  .next (if s.boot = 1 && ok s.spdm then
      let p := { s.spdm with transcript := s.spdm.transcript ++ [BitVec.ofNat 8 code] }
      let q := f p
      let a := answer q
      { s with spdm := { q with answer := a, transcript := q.transcript ++ a } }
    else s)

/-- An answer's contents, signed with the identity key over the exchange up to them and with them (R470). -/
def State.signed (s : State) (p : Spdm) (x : List Byte) : List Byte := x ++ s.identitySign (p.transcript ++ x)

/-- The one algorithm set of R470, as SPDM 1.3 writes it (log 68): RSASSA-3072, SHA-256, FFDHE3072, AES-256-GCM. -/
def algorithmSet : List Byte := natToBytes 4 0x4 ++ natToBytes 4 0x1 ++ natToBytes 2 0x2 ++ natToBytes 2 0x2

/-- The responder's capability flags, as SPDM 1.3 numbers them (log 68): certificates, challenge, signed measurements, encryption and
MAC, key exchange, heartbeat. -/
def capabilityFlags : List Byte := natToBytes 4 0x22D6

/-- The bytes that the fields of the configuration record give its image (R475; log 8). -/
def DevConfig.bytes (c : DevConfig) : List Byte :=
  Config.record (natToBytes 8 c.kentry.toNat ++ natToBytes 8 c.dramTop ++
    (c.maps.flatMap fun m => natToBytes 1 m.length ++ m.flatMap (natToBytes 1)) ++ Config.image c.trim ++ Config.image c.chain ++
    Config.image c.helper)

/-- The measurements of R470, in indices 1 to 4. -/
def State.measurements (s : State) : List Byte :=
  sha256 (Config.image 1) ++ sha256 s.cfg.bytes ++ sha256 (Config.image 3) ++ sha256 (Config.image 4)

/-- The exchange has agreed the algorithms. -/
def Spdm.ready (p : Spdm) : Bool := p.stage = 3

/-- GET_VERSION begins an exchange; the version is 1.3. -/
def execGetVersion (s : State) : Out :=
  spdm s 0x84 (fun _ => true) (fun p => { p with stage := 1, transcript := [0x84] }) fun _ => [0x13]

def execGetCapabilities (s : State) : Out :=
  spdm s 0xE1 (fun p => p.stage = 1) (fun p => { p with stage := 2 }) fun _ => capabilityFlags ++ algorithmSet

/-- NEGOTIATE_ALGORITHMS: the one set of R470. -/
def execNegotiateAlgorithms (s : State) : Out := spdm s 0xE3 (fun p => p.stage = 2) (fun p => { p with stage := 3 }) fun _ =>
    algorithmSet

def execGetDigests (s : State) : Out := spdm s 0x81 Spdm.ready id fun _ => sha256 (Config.image s.cfg.chain)

def execGetCertificate (s : State) : Out := spdm s 0x82 Spdm.ready id fun _ => Config.image s.cfg.chain

/-- CHALLENGE: the digest of the chain and of the measurements, signed. -/
def execChallenge (s : State) : Out :=
  spdm s 0x83 Spdm.ready id fun p => s.signed p (sha256 (Config.image s.cfg.chain) ++ sha256 s.measurements)

/-- GET_MEASUREMENTS: the digests of indices 1 to 4, signed. -/
def execGetMeasurements (s : State) : Out :=
  spdm s 0xE0 Spdm.ready id fun p => s.signed p s.measurements

/-- KEY_EXCHANGE opens a session with a secret of its own, when none is established. -/
def execKeyExchange (s : State) : Out :=
  spdm s.drawn 0xE4 (fun p => p.ready && !p.established)
    (fun p => { p with session := some (Config.secret 3 (p.transcript ++ natToBytes 8 s.freeCtr)) })
    fun p => s.signed p (fit 384 (Config.secret 4 (p.transcript ++ natToBytes 8 s.freeCtr)))

/-- FINISH establishes the session. -/
def execFinish (s : State) : Out := spdm s 0xE5 (·.session.isSome) (fun p => { p with established := true }) fun _ => []

def execHeartbeat (s : State) : Out := spdm s 0xE8 (·.established) id fun _ => []

/-- END_SESSION erases the session and every key that it bound. -/
def execEndSession (s : State) : Out :=
  .next (if s.boot = 1 && s.spdm.established then
      { s with spdm := { s.spdm with session := none, established := false, answer := [] }, keys := [] }
    else s)

/-- TDISP_MESSAGE: 0 locks the interface, 1 starts it, 2 stops it; another request moves nothing (R467). After a failed boot nothing
answers it (R476). -/
def execTdispMessage (m : BitVec 2) (s : State) : Out :=
  .next (if s.boot = 2 then s
    else
      match m.toNat, s.tdi with
      | 0, .unlocked => { s with tdi := .locked }
      | 1, .locked => { s with tdi := .run }
      | 2, _ => { s with tdi := .unlocked }
      | _, _ => s)

/-! ## The peer links (R474) -/

/-- A packet that a link that went down had taken: refused when it was still in flight, which is freely chosen. -/
def State.dropPeer (s : State) (p : Packet) : State :=
  let s1 := s.drawn
  match p.sport with
  | some k =>
    if s.free % 2 = 1 then
      let c := s1.core p.src
      s1.setCore p.src (c.setPort k { c.port k with lost := true })
    else s1
  | none => s1

/-- LINK_DOWN. -/
def execLinkDown (l : BitVec 1) (s : State) : Out :=
  let mine := s.peerOut.filter fun p => p.dst = 0x450 + l.toNat
  let s1 : State :=
    { s with
      links := s.links.setIfInBounds l.toNat .down, peerOut := s.peerOut.filter fun p => p.dst ≠ 0x450 + l.toNat
      net := s.net.filter fun p => p.src ≠ 0x450 + l.toNat }
  .next (mine.foldl State.dropPeer s1)

/-- RUTUQUA_PAIRING: a link comes up; once the MCs have agreed its key, packets may cross. After a failed boot the MC agrees none
(R476). -/
def execRutuquaPairing (l : BitVec 1) (s : State) : Out :=
  .next (if s.boot = 2 then s
    else match s.links[l.toNat]? with
    | some .down => ({ s with links := s.links.setIfInBounds l.toNat .up }).later (.rutuquaPairing l)
    | some .up => { s with links := s.links.setIfInBounds l.toNat .paired }
    | _ => s)

/-! ## Reset and boot (R7, R466, R476) -/

/-- COLD_RESET: every field at its reset value; the configuration record stays. -/
def execColdReset (s : State) : Out := .next { State.reset with cfg := s.cfg, freeCtr := s.freeCtr }

/-- A warm reset: fields as after a cold one, memory outside the LMs and the held capsule, its region with it, kept (R7, R466). -/
def State.warmReset (s : State) : State :=
  { State.reset with
    mem := s.mem.filter fun p => p.1 < 2 ^ 49
    tags := s.tags.filter fun p => p.1 < 2 ^ 46
    units := s.units, owners := s.owners
    slots := s.slots.map fun k => { k with loaded := k.slot = 0 }
    silt :=
      if s.silt.valid then { State.reset.silt with valid := true, ftime := s.silt.ftime, base := s.silt.held, held := s.silt.held }
      else State.reset.silt
    cfg := s.cfg, time := s.time, freeCtr := s.freeCtr }

def execWarmReset (s : State) : Out := .next s.warmReset

/-- The next step of boot (R414, R475, R476): the boot ROM verifies the configuration record; it derives the identity key, verifies the
monitor and starts it on the MC; after the monitor's own step, whose end is free, the Rill cores enter RUN at KENTRY. -/
def State.bootUp (s : State) : State :=
  match s.boot with
  | 0 => { s with boot := if s.cfg.valid then 3 else 2 }
  | 3 =>
    let t : State := { s with idKey := Config.secret 5 (Config.image s.cfg.helper) }
    if s.cfg.monitorValid then { t.coreStart mcNode with boot := 4 } else { t with boot := 2 }
  | 4 => { (List.range 8).foldl (fun t i => t.coreStart (0x800 + i)) s with boot := 1 }
  | _ => s

end Sys2Proof.Machine
end

