-- ==== Sys2Proof/Machine/Vector.lean ====
section
/-! DEFINITION. The vector instructions that do not touch memory: integer and floating-point lanes, comparisons, conversions,
reductions, permutations, ternary weights, masks (R321 to R332, R337 to R339). -/

namespace Sys2Proof.Machine

/-! ## Lanes (R321, R323) -/

/-- Width of a lane of type code T. -/
def laneW (t : Nat) : Nat :=
  match t with
  | 0 => 8
  | 1 => 16
  | 2 => 32
  | 3 => 64
  | 4 => 16
  | 5 => 16
  | _ => 32

/-- Lanes of a type code. -/
def laneN (t : Nat) : Nat := 512 / laneW t

/-- Lane `i` of width `w`. -/
def lane (w : Nat) (x : BitVec 512) (i : Nat) : Nat := (x.extractLsb' (w * i) w).toNat

/-- A register of lanes, lane 0 first. -/
def packLanes (w : Nat) : List Nat → Nat
  | [] => 0
  | x :: r => x % 2 ^ w + 2 ^ w * packLanes w r

/-- What a destination's unwritten lanes keep: its contents, 0 when it was EMPTY (R202); a port has no contents, so those
lanes are free (log 22). -/
def State.oldV (s : State) (d : BitVec 5) : BitVec 512 :=
  if isVPort d then Config.portLanes s.freeCtr else if (s.me.getV d).full then (s.me.getV d).val else 0

/-- The active lanes of a mask take a result and give flags; the others, and the bits above the `n` lanes, are kept. -/
def maskedLanes (w n : Nat) (m : Word) (old : BitVec 512) (f : Nat → Nat × Nat) : BitVec 512 × Nat :=
  let r := (List.range n).map fun i => if m.getLsbD i then f i else (lane w old i, 0)
  (BitVec.ofNat 512 (packLanes w (r.map (·.1)) + old.toNat / 2 ^ (w * n) * 2 ^ (w * n)), r.foldl (fun a x => a ||| x.2) 0)

/-- The mask of a value list: its last entry. -/
def maskOf (vs : List Val) : Word := (vs.getLastD Val.none).x

/-- A masked instruction over `n` lanes of width `w`: sources, then the mask as implicit source; the flags of its lanes go to
VSTAT. An illegal TERN5 byte may trap after it (R232). -/
def lanewise (s : State) (d : BitVec 5) (srcs : List Src) (k : BitVec 2) (w n : Nat) (f : List Val → Nat → Nat × Nat) : Out :=
  run s (do
    let all := srcs ++ [.k k]
    let vs ← operands s all [.v d]
    let (r, fl) := maskedLanes w n (maskOf vs) (s.oldV d) (f vs)
    if hasRoom s [.v d] then tilEnd s (((s.addFlags fl).commit all [.v d] [.ofV r]).retire 4) fl
    else .error (.wait s))

/-- A lane of a source. -/
def argLane (w : Nat) (vs : List Val) (j i : Nat) : Nat := lane w (arg vs j).v i

/-! ## Integer lanes (R325) -/

/-- A lane operation on w-bit values, no flag. -/
def intLanes (s : State) (d a b : BitVec 5) (t k : BitVec 2) (f : {n : Nat} → BitVec n → BitVec n → BitVec n) : Out :=
  let w := laneW t.toNat
  lanewise s d [.v a, .v b] k w (laneN t.toNat) fun vs i =>
    ((f (BitVec.ofNat w (argLane w vs 0 i)) (BitVec.ofNat w (argLane w vs 1 i))).toNat, 0)

def execVadd (d a b : BitVec 5) (t k : BitVec 2) (s : State) : Out := intLanes s d a b t k opAdd
def execVsub (d a b : BitVec 5) (t k : BitVec 2) (s : State) : Out := intLanes s d a b t k opSub
def execVmul (d a b : BitVec 5) (t k : BitVec 2) (s : State) : Out := intLanes s d a b t k opMul
def execVmin (d a b : BitVec 5) (t k : BitVec 2) (s : State) : Out := intLanes s d a b t k opMin
def execVmax (d a b : BitVec 5) (t k : BitVec 2) (s : State) : Out := intLanes s d a b t k opMax
def execVand (d a b : BitVec 5) (t k : BitVec 2) (s : State) : Out := intLanes s d a b t k opAnd
def execVor (d a b : BitVec 5) (t k : BitVec 2) (s : State) : Out := intLanes s d a b t k opOr
def execVxor (d a b : BitVec 5) (t k : BitVec 2) (s : State) : Out := intLanes s d a b t k opXor
def execVshl (d a b : BitVec 5) (t k : BitVec 2) (s : State) : Out := intLanes s d a b t k opShl
def execVshr (d a b : BitVec 5) (t k : BitVec 2) (s : State) : Out := intLanes s d a b t k opShr
def execVsar (d a b : BitVec 5) (t k : BitVec 2) (s : State) : Out := intLanes s d a b t k opSar

/-- A clamped lane operation: SAT when it clamps. -/
def satLanes (s : State) (d a b : BitVec 5) (t k : BitVec 2) (f : Int → Int → Int) : Out :=
  let w := laneW t.toNat
  lanewise s d [.v a, .v b] k w (laneN t.toNat) fun vs i =>
    intCvt true w (f (intVal true w (argLane w vs 0 i)) (intVal true w (argLane w vs 1 i)))

def execVsadd (d a b : BitVec 5) (t k : BitVec 2) (s : State) : Out := satLanes s d a b t k fun x y => x + y
def execVssub (d a b : BitVec 5) (t k : BitVec 2) (s : State) : Out := satLanes s d a b t k fun x y => x - y

def execVabs (d a : BitVec 5) (t k : BitVec 2) (s : State) : Out :=
  let w := laneW t.toNat
  lanewise s d [.v a] k w (laneN t.toNat) fun vs i => ((intVal true w (argLane w vs 0 i)).natAbs, 0)

/-! ## Floating-point lanes (R324, R326, R327) -/

/-- The format of float type code 0b1tt. -/
def floatFmt (t : Nat) : Fmt :=
  match t with
  | 0 => bf16
  | 1 => fp16
  | _ => fp32

def floatLanes2 (s : State) (d a b : BitVec 5) (t k : BitVec 2) (f : Fmt → Nat → Nat → Nat → Nat × Nat) : Out :=
  let w := laneW (4 + t.toNat)
  lanewise s d [.v a, .v b] k w (laneN (4 + t.toNat)) fun vs i =>
    f (floatFmt t.toNat) s.me.rm (argLane w vs 0 i) (argLane w vs 1 i)

def floatLanes1 (s : State) (d a : BitVec 5) (t k : BitVec 2) (f : Fmt → Nat → Nat → Nat × Nat) : Out :=
  let w := laneW (4 + t.toNat)
  lanewise s d [.v a] k w (laneN (4 + t.toNat)) fun vs i => f (floatFmt t.toNat) s.me.rm (argLane w vs 0 i)

def execVfadd (d a b : BitVec 5) (t k : BitVec 2) (s : State) : Out := floatLanes2 s d a b t k fpAdd
def execVfsub (d a b : BitVec 5) (t k : BitVec 2) (s : State) : Out := floatLanes2 s d a b t k fpSub
def execVfmul (d a b : BitVec 5) (t k : BitVec 2) (s : State) : Out := floatLanes2 s d a b t k fpMul
def execVfdiv (d a b : BitVec 5) (t k : BitVec 2) (s : State) : Out := floatLanes2 s d a b t k fpDiv
def execVfmin (d a b : BitVec 5) (t k : BitVec 2) (s : State) : Out := floatLanes2 s d a b t k fun f _ x y => fpMin f x y
def execVfmax (d a b : BitVec 5) (t k : BitVec 2) (s : State) : Out := floatLanes2 s d a b t k fun f _ x y => fpMax f x y
def execVfabs (d a : BitVec 5) (t k : BitVec 2) (s : State) : Out := floatLanes1 s d a t k fun f _ x => fpAbs f x
def execVfneg (d a : BitVec 5) (t k : BitVec 2) (s : State) : Out := floatLanes1 s d a t k fun f _ x => fpNeg f x
def execVfsqrt (d a : BitVec 5) (t k : BitVec 2) (s : State) : Out := floatLanes1 s d a t k fpSqrt
def execVfrcp (d a : BitVec 5) (t k : BitVec 2) (s : State) : Out := floatLanes1 s d a t k fpRcp
def execVfrsq (d a : BitVec 5) (t k : BitVec 2) (s : State) : Out := floatLanes1 s d a t k fpRsq
def execVfexp2 (d a : BitVec 5) (t k : BitVec 2) (s : State) : Out := floatLanes1 s d a t k fpExp2
def execVflog2 (d a : BitVec 5) (t k : BitVec 2) (s : State) : Out := floatLanes1 s d a t k fpLog2

/-- An accumulating float instruction: vD is the third source (R327). -/
def fmaLanes (s : State) (d a b : BitVec 5) (t k : BitVec 2) (f : Fmt → Nat → Nat → Nat → Nat → Nat × Nat) : Out :=
  let w := laneW (4 + t.toNat)
  lanewise s d [.v a, .v b, .v d] k w (laneN (4 + t.toNat)) fun vs i =>
    f (floatFmt t.toNat) s.me.rm (argLane w vs 0 i) (argLane w vs 1 i) (argLane w vs 2 i)

def execVfma (d a b : BitVec 5) (t k : BitVec 2) (s : State) : Out := fmaLanes s d a b t k fpFma
def execVfms (d a b : BitVec 5) (t k : BitVec 2) (s : State) : Out := fmaLanes s d a b t k fpFms
def execVfnma (d a b : BitVec 5) (t k : BitVec 2) (s : State) : Out := fmaLanes s d a b t k fpFnma

/-- Elements 4i to 4i + 3 of two registers of bytes. -/
def quads (vs : List Val) (i : Nat) : List (Nat × Nat) :=
  (List.range 4).map fun j => (argLane 8 vs 0 (4 * i + j), argLane 8 vs 1 (4 * i + j))

/-- An INT8 lane of VDOT4. -/
def dot4i (vs : List Val) (i : Nat) : Nat × Nat :=
  (intBits 32 ((argLane 32 vs 2 i : Nat) +
    ((quads vs i).map fun p => intVal true 8 p.1 * intVal true 8 p.2).foldl (· + ·) 0), 0)

/-- The product of two finite E4M3 elements, with its sign. -/
def e4m3Product (p : Nat × Nat) : Bool × Dy :=
  match e4m3.decode p.1, e4m3.decode p.2 with
  | .fin a m e, .fin b n k => (a != b, Dy.of (a != b) (m * n) (e + k))
  | _, _ => (false, Dy.zero)

/-- An E4M3 lane of VDOT4: four products and d summed exactly, one rounding. The sign of an exact zero sum is that of its terms
when they agree, else as R234 has it for a zero sum. -/
def dot4f (rm : Nat) (vs : List Val) (i : Nat) : Nat × Nat :=
  let q := quads vs i
  let nan := q.any fun p => (e4m3.decode p.1).isNan || (e4m3.decode p.2).isNan
  match fp32.decode (argLane 32 vs 2 i) with
  | .nan sg => fp32.nanOut sg
  | .inf a => if nan then fp32.nanOut false else (fp32.infinity a, 0)
  | .fin a m e =>
    if nan then fp32.nanOut false
    else
      let ps := q.map e4m3Product
      let z := if ps.all fun p => p.1 = a then a else rm = rmRDN
      fp32.ofDy rm (ps.foldl (fun x p => x.add p.2) (Dy.of a m e)) z

def execVdot4 (d a b : BitVec 5) (t : BitVec 1) (k : BitVec 2) (s : State) : Out :=
  lanewise s d [.v a, .v b, .v d] k 32 16 (if t = 0 then dot4i else dot4f s.me.rm)

/-! ## Comparisons (R328) -/

/-- A comparison into a mask register: an inactive lane keeps its bit, 0 if kD was EMPTY; bits n to 63 become 0. -/
def maskCmp (s : State) (d : BitVec 2) (a b : BitVec 5) (k : BitVec 2) (w n : Nat) (f : Nat → Nat → Bool × Nat) : Out :=
  run s (op s [.v a, .v b, .k k] [.k d] 4 fun t vs =>
    let old : Word := if (s.me.getK d).full then (s.me.getK d).val else 0
    let r := (List.range n).map fun i =>
      if (maskOf vs).getLsbD i then f (argLane w vs 0 i) (argLane w vs 1 i) else (old.getLsbD i, 0)
    .ok (t.addFlags (r.foldl (fun x p => x ||| p.2) 0), [.ofX (w64 (packLanes 1 (r.map fun p => b2n p.1)))]))

/-- Integer or float comparison by type code. -/
def cmpLanes (s : State) (d : BitVec 2) (a b : BitVec 5) (t : BitVec 3) (k : BitVec 2) (fop : Nat) (f : Int → Int → Bool) : Out :=
  let w := laneW t.toNat
  maskCmp s d a b k w (laneN t.toNat) fun x y =>
    if t.toNat < 4 then (f (intVal true w x) (intVal true w y), 0) else fpCmp (floatFmt (t.toNat - 4)) fop x y

def execVceq (d : BitVec 2) (a b : BitVec 5) (t : BitVec 3) (k : BitVec 2) (s : State) : Out :=
  cmpLanes s d a b t k 0 fun x y => x = y
def execVcne (d : BitVec 2) (a b : BitVec 5) (t : BitVec 3) (k : BitVec 2) (s : State) : Out :=
  cmpLanes s d a b t k 1 fun x y => x ≠ y
def execVclt (d : BitVec 2) (a b : BitVec 5) (t : BitVec 3) (k : BitVec 2) (s : State) : Out :=
  cmpLanes s d a b t k 2 fun x y => x < y
def execVcle (d : BitVec 2) (a b : BitVec 5) (t : BitVec 3) (k : BitVec 2) (s : State) : Out :=
  cmpLanes s d a b t k 3 fun x y => x ≤ y
def execVcltu (d : BitVec 2) (a b : BitVec 5) (t k : BitVec 2) (s : State) : Out :=
  maskCmp s d a b k (laneW t.toNat) (laneN t.toNat) fun x y => (x < y, 0)
def execVcleu (d : BitVec 2) (a b : BitVec 5) (t k : BitVec 2) (s : State) : Out :=
  maskCmp s d a b k (laneW t.toNat) (laneN t.toNat) fun x y => (x ≤ y, 0)

/-! ## Conversions (R329, R330) -/

/-- An element type of a conversion. -/
inductive NumT
  | int (signed : Bool) (w : Nat)
  | fp (f : Fmt)
  deriving DecidableEq, Repr

def NumT.width : NumT → Nat
  | .int _ w => w
  | .fp f => f.bits

/-- The type of a format code F. -/
def numT (f : Nat) : NumT :=
  match f with
  | 0 => .int true 8
  | 1 => .int true 16
  | 2 => .int true 32
  | 3 => .int true 64
  | 4 => .fp bf16
  | 5 => .fp fp16
  | 6 => .fp fp32
  | 8 => .fp e4m3
  | 9 => .fp e5m2
  | 10 => .fp fp4
  | 11 => .int true 4
  | _ => .int false 8

/-- One element converted, with its flags. -/
def convert (src dst : NumT) (rm x : Nat) : Nat × Nat :=
  match src, dst with
  | .fp a, .fp b => fpCvt a b rm x
  | .int sg w, .fp b => fpOfInt b rm (intVal sg w x)
  | .fp a, .int sg w => fpToInt a sg w rm x
  | .int sa wa, .int sb wb => intCvt sb wb (intVal sa wa x)

/-- Elements a conversion handles. -/
def convCount (src dst : NumT) : Nat := 512 / max src.width dst.width

def execVcvt (d a : BitVec 5) (r : BitVec 1) (f : BitVec 4) (t : BitVec 3) (k : BitVec 2) (s : State) : Out :=
  let src := if r = 0 then numT t.toNat else numT f.toNat
  let dst := if r = 0 then numT f.toNat else numT t.toNat
  lanewise s d [.v a] k dst.width (convCount src dst) fun vs i => convert src dst s.me.rm (argLane src.width vs 0 i)

/-- The format of a float conversion code (R330). -/
def numF (f : Nat) : Fmt :=
  match numT f with
  | .fp x => x
  | .int _ _ => fp32

/-- OX0 is an implicit source after the mask. -/
def execVcvts (d a : BitVec 5) (f : BitVec 4) (t k : BitVec 2) (s : State) : Out :=
  let src := floatFmt t.toNat
  let dst := numF f.toNat
  let j := if s.me.repAct then s.me.repJ else 0
  run s (op s [.v a, .k k, .ox 0] [.v d] 4 fun u vs =>
    let (r, fl) := maskedLanes dst.bits (convCount (.fp src) (.fp dst)) (arg vs 1).x (s.oldV d) fun i =>
      fpCvtStochastic src dst s.me.rm (kcg s.me.skey ((arg vs 2).x + w64 (64 * j + i))) (argLane src.bits vs 0 i)
    .ok (u.addFlags fl, [.ofV r]))

/-! ## Reductions (R243, R331) -/

/-- One node of the fixed tree: an absent input passes the other. -/
def treeNode {α : Type} (f : α → α → α) : Option α → Option α → Option α
  | some x, some y => some (f x y)
  | some x, none => some x
  | none, y => y

/-- One level of the tree. -/
def treeLevel {α : Type} (f : α → α → α) : List (Option α) → List (Option α)
  | x :: y :: r => treeNode f x y :: treeLevel f r
  | l => l

/-- The tree's `k` levels. -/
def tree {α : Type} (f : α → α → α) (l : List (Option α)) : Nat → Option α
  | 0 => l.headD none
  | k + 1 => tree f (treeLevel f l) k

/-- The lanes that take part in a reduction. -/
def present (w n : Nat) (m : Word) (x : BitVec 512) : List (Option Nat) :=
  (List.range n).map fun i => if m.getLsbD i then some (lane w x i) else none

/-- A reduction: the result in the low bits of vD, every other bit 0. -/
def reduce (s : State) (d a : BitVec 5) (k : BitVec 2) (w n : Nat) (f : List (Option Nat) → Nat × Nat) : Out :=
  run s (op s [.v a, .k k] [.v d] 4 fun t vs =>
    let (r, fl) := f (present w n (maskOf vs) (arg vs 0).v)
    .ok (t.addFlags fl, [.ofV (BitVec.ofNat 512 r)]))

/-- A float reduction: each node with its flags; a NaN that passed every node alone is made canonical (R226). A signalling NaN that is
the only active lane meets no node: that it sets no IV is the model's choice (log 108). -/
def floatTree (m : Fmt) (f : Nat → Nat → Nat × Nat) (n : Nat) (l : List (Option Nat)) : Nat × Nat :=
  let r := (tree (fun (x y : Nat × Nat) => let r := f x.1 y.1; (r.1, x.2 ||| y.2 ||| r.2))
    (l.map fun o => o.map fun x => (x, 0)) n.log2).getD (0, 0)
  (if (m.decode r.1).isNan then m.nan else r.1, r.2)

/-- An integer reduction, to the low `bits` bits. -/
def intTree (f : Int → Int → Int) (w n bits : Nat) (l : List (Option Nat)) : Nat × Nat :=
  (intBits bits ((tree f (l.map fun o => o.map (intVal true w)) n.log2).getD 0), 0)

/-- A reduction by type code. -/
def reduceLanes (s : State) (d a : BitVec 5) (t : BitVec 3) (k : BitVec 2) (wide : Bool) (f : Int → Int → Int)
    (g : Fmt → Nat → Nat → Nat × Nat) : Out :=
  let w := laneW t.toNat
  let n := laneN t.toNat
  reduce s d a k w n (if t.toNat < 4 then intTree f w n (if wide then 64 else w) else floatTree (floatFmt (t.toNat - 4)) (g (floatFmt (t.toNat - 4))) n)

def execVrsum (d a : BitVec 5) (t : BitVec 3) (k : BitVec 2) (s : State) : Out :=
  reduceLanes s d a t k true (fun x y => x + y) fun f x y => fpAdd f s.me.rm x y
def execVrmin (d a : BitVec 5) (t : BitVec 3) (k : BitVec 2) (s : State) : Out := reduceLanes s d a t k false min fpMin
def execVrmax (d a : BitVec 5) (t : BitVec 3) (k : BitVec 2) (s : State) : Out := reduceLanes s d a t k false max fpMax

/-! ## Permutations (R332) -/

def execVperm (d a b : BitVec 5) (t : BitVec 3) (k : BitVec 2) (s : State) : Out :=
  let w := laneW t.toNat
  let n := laneN t.toNat
  lanewise s d [.v a, .v b] k w n fun vs i => (argLane w vs 0 (argLane w vs 1 i % n), 0)

/-- An unmasked permutation of one register: lane i takes lane `f i`, 0 where there is none. -/
def permute (s : State) (d a : BitVec 5) (t : BitVec 3) (f : Nat → Nat → Option Nat) : Out :=
  let w := laneW t.toNat
  let n := laneN t.toNat
  pureOp s [.v a] [.v d] 4 fun vs =>
    [.ofV (BitVec.ofNat 512 (packLanes w ((List.range n).map fun i =>
      match f n i with
      | some j => argLane w vs 0 j
      | none => 0)))]

def execVslide (d a : BitVec 5) (sl : BitVec 7) (t : BitVec 3) (s : State) : Out :=
  permute s d a t fun n i => if i + sl.toNat < n then some (i + sl.toNat) else none
def execVrot (d a : BitVec 5) (sl : BitVec 7) (t : BitVec 3) (s : State) : Out :=
  permute s d a t fun n i => some ((i + sl.toNat) % n)

def execVbcast (d a : BitVec 5) (t : BitVec 3) (k : BitVec 2) (s : State) : Out :=
  let w := laneW t.toNat
  lanewise s d [.g (g5 a)] k w (laneN t.toNat) fun vs _ => ((argW vs 0).toNat % 2 ^ w, 0)

def execVext (d a : BitVec 5) (idx : BitVec 7) (t : BitVec 3) (s : State) : Out :=
  let w := laneW t.toNat
  pureOp s [.v a] [.g (g5 d)] 4 fun vs =>
    let x := argLane w vs 0 idx.toNat
    [.data (if t.toNat < 4 then (BitVec.ofNat w x).signExtend 64 else w64 x)]

def execVins (d a : BitVec 5) (idx : BitVec 7) (t : BitVec 3) (s : State) : Out :=
  let w := laneW t.toNat
  pureOp s [.g (g5 a)] [.v d] 4 fun vs =>
    [.ofV (maskedLanes w (laneN t.toNat) (w64 (2 ^ idx.toNat)) (s.oldV d) fun _ => ((argW vs 0).toNat % 2 ^ w, 0)).1]

/-! ## Ternary weights (R230 to R232, R337, R338) -/

/-- Trit `m` of a register of TERN5 bytes, modulo 2^w, and TIL when its byte is illegal. -/
def tritOf (w : Nat) (vs : List Val) (j m : Nat) : Nat × Nat :=
  let b := argLane 8 vs j (m / 5)
  (intBits w ((trits b).getD (m % 5) 0), if tritsIllegal b then flTIL else 0)

def execVunpk3 (d a sl : BitVec 5) (t k : BitVec 2) (s : State) : Out :=
  let w := laneW t.toNat
  let n := laneN t.toNat
  lanewise s d [.v a] k w n fun vs i => tritOf w vs 0 (n * sl.toNat + i)

/-- A lane of VTACC: 20 trits of four bytes of vB times 20 activations of vA. -/
def vtaccLane (vs : List Val) (i : Nat) : Nat × Nat :=
  let bs := (List.range 4).map fun j => argLane 8 vs 1 (4 * i + j)
  let ts := bs.flatMap trits
  let sum := (ts.zipIdx.map fun p => p.1 * intVal true 8 (argLane 8 vs 0 p.2)).foldl (· + ·) 0
  (intBits 32 ((argLane 32 vs 2 i : Nat) + sum), if bs.any tritsIllegal then flTIL else 0)

def execVtacc (d a b : BitVec 5) (k : BitVec 2) (s : State) : Out :=
  lanewise s d [.v a, .v b, .v d] k 32 16 vtaccLane

/-! ## Masks (R339) -/

def execVsel (d a b : BitVec 5) (t : BitVec 3) (k : BitVec 2) (s : State) : Out :=
  let w := laneW t.toNat
  pureOp s [.v a, .v b, .k k] [.v d] 4 fun vs =>
    [.ofV (BitVec.ofNat 512 (packLanes w ((List.range (laneN t.toNat)).map fun i =>
      argLane w vs (if (maskOf vs).getLsbD i then 0 else 1) i)))]

def execKand (d a b : BitVec 2) (s : State) : Out :=
  pureOp s [.k a, .k b] [.k d] 4 fun vs => [.ofX ((arg vs 0).x &&& (arg vs 1).x)]
def execKor (d a b : BitVec 2) (s : State) : Out :=
  pureOp s [.k a, .k b] [.k d] 4 fun vs => [.ofX ((arg vs 0).x ||| (arg vs 1).x)]
def execKxor (d a b : BitVec 2) (s : State) : Out :=
  pureOp s [.k a, .k b] [.k d] 4 fun vs => [.ofX ((arg vs 0).x ^^^ (arg vs 1).x)]
def execKnot (d a : BitVec 2) (s : State) : Out := pureOp s [.k a] [.k d] 4 fun vs => [.ofX (~~~(arg vs 0).x)]

def execKpop (d : BitVec 5) (a : BitVec 2) (t : BitVec 3) (s : State) : Out :=
  pureOp s [.k a] [.g (g5 d)] 4 fun vs =>
    [.data (w64 ((List.range (laneN t.toNat)).countP fun i => (arg vs 0).x.getLsbD i))]

end Sys2Proof.Machine
end

