-- ==== Sys2Proof/Machine/VecMem.lean ====
section
/-! DEFINITION. Vector loads and stores (R333 to R336). -/

namespace Sys2Proof.Machine

/-- An active element: its lane, its needs, and where it is served. -/
structure Elem where
  i : Nat
  a : Need
  w : Where
  deriving DecidableEq, Repr

/-- The value of a remote access's response, or its trap. -/
def rspVal (r : RwRsp) (rank : Nat) (ea : Word) : M Word :=
  match r with
  | .ok v _ _ => .ok v
  | .poison off => trap .poison (w64 (windowVa rank off))
  | .syncstore off => trap .syncstore (w64 (windowVa rank off))
  | _ => trap .migfault ea

/-- The remote accesses that an instruction has made: rank, offset, the value loaded. -/
abbrev Remotes := List (Nat × Nat × Word)

/-- Loads the word of another rank's window that an element lies in, once (R110, R335). -/
def loadRemote (s : State) (a : Need) (k off : Nat) (done : Remotes) : M (State × Remotes) :=
  let o := off / 8 * 8
  if done.any fun p => p.1 = k && p.2.1 = o then .ok (s, done)
  else do
    let (s1, q) ← remoteAccess s a k done.length ⟨o, 8, .load, 0, 0, false⟩
    let v ← rspVal q k a.ea
    .ok (s1, done ++ [(k, o, v)])

/-- The checks of a store to another rank's window that the issuer makes: nothing is stored before every element's (R112, R334). -/
def checkRemote (s : State) (a : Need) (k _off : Nat) (done : Remotes) : M (State × Remotes) := do
  let (s1, _) ← windowCheck s a k
  .ok (s1, done)

/-- Checks 2 to 10 of the active elements in ascending order (R334). `go` does what an element in another rank's window calls for: a
load's remote access, a store's checks, its tag being checked at that LM (R110); `moves` when the thread moves for it (R336). -/
def elemChecks (isLoad moves : Bool) (mk : Nat → Need) (go : Nat → State → Need → Nat → Nat → Remotes → M (State × Remotes)) :
    State → Remotes → List Nat → M (State × Remotes × List Elem)
  | s, done, [] => .ok (s, done, [])
  | s, done, i :: is => do
    let a := mk i
    preChecks s.kern a
    let (s1, w) ← locate s a
    let (s2, d2) ← match w with
      | .here l => do
        let t ← if isLoad then loadCheck s1.cur s1 l else storeCheck s1.cur s1 l
        .ok (t, done)
      | .remote r off => if moves && !s1.stays then migrateFor s1 a r else go i s1 a r off done
      | .device _ => deviceTrap s1 a.ea
    let (s3, d3, es) ← elemChecks isLoad moves mk go s2 d2 is
    .ok (s3, d3, ⟨i, a, w⟩ :: es)

/-- Loads the elements: (lane, value). -/
def loadElems (n : Nat) (rem : Remotes) : State → List Elem → State × List (Nat × Nat)
  | s, [] => (s, [])
  | s, e :: es =>
    match e.w with
    | .remote k off =>
      let v := match rem.find? fun p => p.1 = k && p.2.1 = off / 8 * 8 with
        | some p => p.2.2.toNat
        | none => 0
      let (s1, r) := loadElems n rem s es
      (s1, (e.i, v / 2 ^ (8 * (off % 8)) % 2 ^ (8 * e.a.n)) :: r)
    | .here l =>
      let (s1, v) := loadPieces n s l
      let (s2, r) := loadElems n rem s1 es
      (s2, (e.i, v) :: r)
    | .device _ => loadElems n rem s es

/-- What a vector store writes in one local word: its place, the bytes, their values. -/
structure LocalWord where
  loc : Loc
  bytes : Nat
  val : Word
  deriving DecidableEq, Repr

/-- Adds a piece of an element to its word; a higher element's bytes remain (R335). -/
def LocalWord.add (p : Piece) (l : Loc) (x : Nat) : List LocalWord → List LocalWord
  | [] => [⟨l, (2 ^ p.n - 1) * 2 ^ (p.va % 8), mergePiece p 0 tagData x⟩]
  | r :: rs =>
    if r.loc = l then { r with bytes := r.bytes ||| (2 ^ p.n - 1) * 2 ^ (p.va % 8), val := mergePiece p r.val tagData x } :: rs
    else r :: LocalWord.add p l x rs

/-- Adds the pieces of an element, whose value is a little-endian number. -/
def addPieces : List (Piece × Loc) → Nat → List LocalWord → List LocalWord
  | [], _, ws => ws
  | (p, l) :: r, x, ws => addPieces r (x / 2 ^ (8 * p.n)) (LocalWord.add p l x ws)

/-- The local words that the elements touch, in the order of the first element that touches each. -/
def localWords (data : Nat → Nat) (es : List Elem) : List LocalWord :=
  es.foldl (fun ws e =>
    match e.w with
    | .here l => addPieces l (data e.i) ws
    | _ => ws) []

/-- Stores the local words, one store event each; every word becomes DATA (R21, R335). -/
def storeLocalElems (n : Nat) (data : Nat → Nat) (s : State) (es : List Elem) : State :=
  (localWords data es).foldl (fun t r =>
    let (s1, v, g) := t.storeView n r.loc
    s1.storeWord n r.loc (mergeBytes r.bytes v g r.val) tagData) s

/-- What a vector store writes in one word of another rank's window: rank, offset, the first element's access, the bytes, their values. -/
structure RemoteWord where
  rank : Nat
  off : Nat
  a : Need
  bytes : Nat
  val : Word
  deriving DecidableEq, Repr

/-- Adds an element's bytes to its word; a higher element's bytes remain (R335). -/
def RemoteWord.add (a : Need) (k off x : Nat) : List RemoteWord → List RemoteWord
  | [] => [⟨k, off / 8 * 8, a, (2 ^ a.n - 1) * 2 ^ (off % 8), w64 (x * 2 ^ (8 * (off % 8)))⟩]
  | r :: l =>
    if r.rank = k && r.off = off / 8 * 8 then
      { r with bytes := r.bytes ||| (2 ^ a.n - 1) * 2 ^ (off % 8), val := mergePiece ⟨off % 8, a.n⟩ r.val tagData x } :: l
    else r :: RemoteWord.add a k off x l

/-- The words of other ranks' windows that the elements touch, in the order of the first element that touches each. -/
def remoteWords (data : Nat → Nat) (es : List Elem) : List RemoteWord :=
  es.foldl (fun l e =>
    match e.w with
    | .remote k off => RemoteWord.add e.a k off (data e.i) l
    | _ => l) []

/-- Stores the words, one store event each, one after the other (R110, R335). -/
def storeRemote : State → Nat → List RemoteWord → M State
  | s, _, [] => .ok s
  | s, i, r :: rs => do
    let (s1, q) ← remoteAccess s r.a r.rank i ⟨r.off, 8, .bytes, r.val, w64 r.bytes, false⟩
    let _ ← rspVal q r.rank r.a.ea
    storeRemote s1 (i + 1) rs

/-- The base is CAP-tagged and well formed where R32 asks for it, even with no active element (R334). -/
def baseCheck (kern : Bool) (b : GReg) (code : Nat) : M Unit :=
  if kern && b.tag ≠ .cap then .ok ()
  else do
    check (b.tag = .cap) .captag (w64 code)
    check (capWell b.sh) .captag (w64 code)

/-- The active lanes of a mask below `n`, ascending. -/
def activeLanes (m : Word) (n : Nat) : List Nat := (List.range n).filter fun i => m.getLsbD i

/-- The needs of an element. -/
def elemNeed (isLoad : Bool) (b : GReg) (code nb : Nat) (ea : Word) : Need :=
  { (if isLoad then loadNeed b code ea nb else storeNeed b code ea nb) with align := nb }

/-- A vector load: `off` gives the distance of lane i's element from the base. VLD moves an unpinned user thread (R336). -/
def vecLoad (s : State) (d a : BitVec 5) (srcs : List Src) (t : BitVec 3) (k : BitVec 2) (moves : Bool)
    (off : List Val → Nat → Word) : Out :=
  run s (op s (.g (g5 a) :: srcs ++ [.k k]) [.v d] 4 fun u vs => do
    let w := laneW t.toNat
    let n := laneN t.toNat
    let b := (arg vs 0).g
    let m := maskOf vs
    baseCheck u.kern b a.toNat
    let (u1, rem, es) ←
      elemChecks true moves (fun i => elemNeed true b a.toNat (w / 8) (b.val + off vs i)) (fun _ => loadRemote) u []
        (activeLanes m n)
    let (u2, got) := loadElems u1.cur rem u1 es
    .ok (u2, [.ofV (maskedLanes w n m (s.oldV d) fun i => ((alGet got i).getD 0, 0)).1]))

/-- A vector store of vD's lanes: every check, then the words of other ranks' windows, then the local elements (log 23). -/
def vecStore (s : State) (d a : BitVec 5) (srcs : List Src) (t : BitVec 3) (k : BitVec 2) (moves : Bool)
    (off : List Val → Nat → Word) : Out :=
  run s (op s (.g (g5 a) :: srcs ++ [.v d, .k k]) [] 4 fun u vs => do
    let w := laneW t.toNat
    let n := laneN t.toNat
    let b := (arg vs 0).g
    let data (i : Nat) : Nat := argLane w vs (srcs.length + 1) i
    baseCheck u.kern b a.toNat
    let (u1, _, es) ←
      elemChecks false moves (fun i => elemNeed false b a.toNat (w / 8) (b.val + off vs i)) (fun _ => checkRemote) u []
        (activeLanes (maskOf vs) n)
    let u2 ← storeRemote u1 0 (remoteWords data es)
    .ok (storeLocalElems u2.cur data u2 es, []))

/-- Lane i of a contiguous access: 64 sext(VB) + i w/8. -/
def unitOff (i : BitVec 5) (t : BitVec 3) (_ : List Val) (j : Nat) : Word := (sext64 i <<< 6) + w64 (j * (laneW t.toNat / 8))

/-- Lane i of a strided access: i gB. -/
def strideOff (vs : List Val) (j : Nat) : Word := w64 j * argW vs 1

/-- Lane i of an indexed access: sext(vB lane i) w/8. -/
def indexOff (t : BitVec 3) (vs : List Val) (j : Nat) : Word :=
  let w := laneW t.toNat
  BitVec.ofInt 64 (intVal true w (argLane w vs 1 j) * (w / 8 : Nat))

def execVld (d a i : BitVec 5) (t : BitVec 3) (k : BitVec 2) (s : State) : Out := vecLoad s d a [] t k true (unitOff i t)
def execVst (d a i : BitVec 5) (t : BitVec 3) (k : BitVec 2) (s : State) : Out := vecStore s d a [] t k true (unitOff i t)
def execVlds (d a b : BitVec 5) (t : BitVec 3) (k : BitVec 2) (s : State) : Out :=
  vecLoad s d a [.g (g5 b)] t k false strideOff
def execVsts (d a b : BitVec 5) (t : BitVec 3) (k : BitVec 2) (s : State) : Out :=
  vecStore s d a [.g (g5 b)] t k false strideOff
def execVgath (d a b : BitVec 5) (t : BitVec 3) (k : BitVec 2) (s : State) : Out :=
  vecLoad s d a [.v b] t k false (indexOff t)
def execVscat (d a b : BitVec 5) (t : BitVec 3) (k : BitVec 2) (s : State) : Out :=
  vecStore s d a [.v b] t k false (indexOff t)

end Sys2Proof.Machine
end

