-- ==== Sys2Proof/Machine/Dispatch.lean ====
section
/-! DEFINITION. One arm per constructor of Instr: the meaning of each row of spec/opcode_table.json. -/

namespace Sys2Proof.Machine

def exec (i : Instr) (s : State) : Host.Outcome State Fault Refusal :=
  match i with
  | .add d a b w => Sys2Proof.Machine.execAdd d a b w s
  | .sub d a b w => Sys2Proof.Machine.execSub d a b w s
  | .and d a b w => Sys2Proof.Machine.execAnd d a b w s
  | .or d a b w => Sys2Proof.Machine.execOr d a b w s
  | .xor d a b w => Sys2Proof.Machine.execXor d a b w s
  | .andn d a b w => Sys2Proof.Machine.execAndn d a b w s
  | .shl d a b w => Sys2Proof.Machine.execShl d a b w s
  | .shr d a b w => Sys2Proof.Machine.execShr d a b w s
  | .sar d a b w => Sys2Proof.Machine.execSar d a b w s
  | .rol d a b w => Sys2Proof.Machine.execRol d a b w s
  | .min d a b w => Sys2Proof.Machine.execMin d a b w s
  | .max d a b w => Sys2Proof.Machine.execMax d a b w s
  | .minu d a b w => Sys2Proof.Machine.execMinu d a b w s
  | .maxu d a b w => Sys2Proof.Machine.execMaxu d a b w s
  | .slt d a b w => Sys2Proof.Machine.execSlt d a b w s
  | .sltu d a b w => Sys2Proof.Machine.execSltu d a b w s
  | .mul d a b w => Sys2Proof.Machine.execMul d a b w s
  | .mulh d a b w => Sys2Proof.Machine.execMulh d a b w s
  | .mulhu d a b w => Sys2Proof.Machine.execMulhu d a b w s
  | .mulhsu d a b w => Sys2Proof.Machine.execMulhsu d a b w s
  | .div d a b w => Sys2Proof.Machine.execDiv d a b w s
  | .divu d a b w => Sys2Proof.Machine.execDivu d a b w s
  | .rem d a b w => Sys2Proof.Machine.execRem d a b w s
  | .remu d a b w => Sys2Proof.Machine.execRemu d a b w s
  | .clz d a w => Sys2Proof.Machine.execClz d a w s
  | .ctz d a w => Sys2Proof.Machine.execCtz d a w s
  | .popc d a w => Sys2Proof.Machine.execPopc d a w s
  | .brev d a w => Sys2Proof.Machine.execBrev d a w s
  | .bswap d a w => Sys2Proof.Machine.execBswap d a w s
  | .ilv2 d a b => Sys2Proof.Machine.execIlv2 d a b s
  | .ilv3 d a b => Sys2Proof.Machine.execIlv3 d a b s
  | .addi d a imm => Sys2Proof.Machine.execAddi d a imm s
  | .andi d a imm => Sys2Proof.Machine.execAndi d a imm s
  | .ori d a imm => Sys2Proof.Machine.execOri d a imm s
  | .xori d a imm => Sys2Proof.Machine.execXori d a imm s
  | .shli d a x => Sys2Proof.Machine.execShli d a x s
  | .shri d a x => Sys2Proof.Machine.execShri d a x s
  | .sari d a x => Sys2Proof.Machine.execSari d a x s
  | .slti d a imm => Sys2Proof.Machine.execSlti d a imm s
  | .sltui d a imm => Sys2Proof.Machine.execSltui d a imm s
  | .lui d imm => Sys2Proof.Machine.execLui d imm s
  | .auipc d imm => Sys2Proof.Machine.execAuipc d imm s
  | .beq a b off => Sys2Proof.Machine.execBeq a b off s
  | .bne a b off => Sys2Proof.Machine.execBne a b off s
  | .blt a b off => Sys2Proof.Machine.execBlt a b off s
  | .bge a b off => Sys2Proof.Machine.execBge a b off s
  | .bltu a b off => Sys2Proof.Machine.execBltu a b off s
  | .bgeu a b off => Sys2Proof.Machine.execBgeu a b off s
  | .btag a off t => Sys2Proof.Machine.execBtag a off t s
  | .dbnz d off => Sys2Proof.Machine.execDbnz d off s
  | .jal d off => Sys2Proof.Machine.execJal d off s
  | .jalr d a imm => Sys2Proof.Machine.execJalr d a imm s
  | .rep a n x => Sys2Proof.Machine.execRep a n x s
  | .csetb d a b => Sys2Proof.Machine.execCsetb d a b s
  | .csetbx d a b => Sys2Proof.Machine.execCsetbx d a b s
  | .candp d a b => Sys2Proof.Machine.execCandp d a b s
  | .cseta d a b => Sys2Proof.Machine.execCseta d a b s
  | .cgetb d a => Sys2Proof.Machine.execCgetb d a s
  | .cgett d a => Sys2Proof.Machine.execCgett d a s
  | .cgetp d a => Sys2Proof.Machine.execCgetp d a s
  | .ctod d a => Sys2Proof.Machine.execCtod d a s
  | .gtag d a => Sys2Proof.Machine.execGtag d a s
  | .gclr d c => Sys2Proof.Machine.execGclr d c s
  | .gmap d f => Sys2Proof.Machine.execGmap d f s
  | .ldb d a imm => Sys2Proof.Machine.execLdb d a imm s
  | .ldbu d a imm => Sys2Proof.Machine.execLdbu d a imm s
  | .ldh d a imm => Sys2Proof.Machine.execLdh d a imm s
  | .ldhu d a imm => Sys2Proof.Machine.execLdhu d a imm s
  | .ldw d a imm => Sys2Proof.Machine.execLdw d a imm s
  | .ldwu d a imm => Sys2Proof.Machine.execLdwu d a imm s
  | .ldd d a imm => Sys2Proof.Machine.execLdd d a imm s
  | .ldc d a imm => Sys2Proof.Machine.execLdc d a imm s
  | .stb d a imm => Sys2Proof.Machine.execStb d a imm s
  | .sth d a imm => Sys2Proof.Machine.execSth d a imm s
  | .stw d a imm => Sys2Proof.Machine.execStw d a imm s
  | .std d a imm => Sys2Proof.Machine.execStd d a imm s
  | .stc d a imm => Sys2Proof.Machine.execStc d a imm s
  | .rld d a imm => Sys2Proof.Machine.execRld d a imm s
  | .ldx d a b x => Sys2Proof.Machine.execLdx d a b x s
  | .stx d a b x => Sys2Proof.Machine.execStx d a b x s
  | .disc a b => Sys2Proof.Machine.execDisc a b s
  | .aadd d a b q => Sys2Proof.Machine.execAadd d a b q s
  | .aand d a b q => Sys2Proof.Machine.execAand d a b q s
  | .aor d a b q => Sys2Proof.Machine.execAor d a b q s
  | .axor d a b q => Sys2Proof.Machine.execAxor d a b q s
  | .amin d a b q => Sys2Proof.Machine.execAmin d a b q s
  | .amax d a b q => Sys2Proof.Machine.execAmax d a b q s
  | .aminu d a b q => Sys2Proof.Machine.execAminu d a b q s
  | .amaxu d a b q => Sys2Proof.Machine.execAmaxu d a b q s
  | .aswap d a b q => Sys2Proof.Machine.execAswap d a b q s
  | .acas d a b q => Sys2Proof.Machine.execAcas d a b q s
  | .aaddW d a b q => Sys2Proof.Machine.execAaddW d a b q s
  | .aandW d a b q => Sys2Proof.Machine.execAandW d a b q s
  | .aorW d a b q => Sys2Proof.Machine.execAorW d a b q s
  | .axorW d a b q => Sys2Proof.Machine.execAxorW d a b q s
  | .aminW d a b q => Sys2Proof.Machine.execAminW d a b q s
  | .amaxW d a b q => Sys2Proof.Machine.execAmaxW d a b q s
  | .aminuW d a b q => Sys2Proof.Machine.execAminuW d a b q s
  | .amaxuW d a b q => Sys2Proof.Machine.execAmaxuW d a b q s
  | .aswapW d a b q => Sys2Proof.Machine.execAswapW d a b q s
  | .acasW d a b q => Sys2Proof.Machine.execAcasW d a b q s
  | .radd a b w => Sys2Proof.Machine.execRadd a b w s
  | .rand a b w => Sys2Proof.Machine.execRand a b w s
  | .ror a b w => Sys2Proof.Machine.execRor a b w s
  | .rxor a b w => Sys2Proof.Machine.execRxor a b w s
  | .rmin a b w => Sys2Proof.Machine.execRmin a b w s
  | .rmax a b w => Sys2Proof.Machine.execRmax a b w s
  | .rminu a b w => Sys2Proof.Machine.execRminu a b w s
  | .rmaxu a b w => Sys2Proof.Machine.execRmaxu a b w s
  | .rfadd a b => Sys2Proof.Machine.execRfadd a b s
  | .lrw d a b => Sys2Proof.Machine.execLrw d a b s
  | .sch d a b => Sys2Proof.Machine.execSch d a b s
  | .relq d a => Sys2Proof.Machine.execRelq d a s
  | .loga d a b => Sys2Proof.Machine.execLoga d a b s
  | .merge a b => Sys2Proof.Machine.execMerge a b s
  | .fenceAcq x => Sys2Proof.Machine.execFenceAcq x s
  | .fenceRel x => Sys2Proof.Machine.execFenceRel x s
  | .fenceAr x => Sys2Proof.Machine.execFenceAr x s
  | .fenceSc x => Sys2Proof.Machine.execFenceSc x s
  | .waitge a b => Sys2Proof.Machine.execWaitge a b s
  | .waitne a b => Sys2Proof.Machine.execWaitne a b s
  | .binit a b => Sys2Proof.Machine.execBinit a b s
  | .barr d a => Sys2Proof.Machine.execBarr d a s
  | .bwait d a b => Sys2Proof.Machine.execBwait d a b s
  | .baw d a => Sys2Proof.Machine.execBaw d a s
  | .bexp a b => Sys2Proof.Machine.execBexp a b s
  | .bkill a => Sys2Proof.Machine.execBkill a s
  | .bqry d a => Sys2Proof.Machine.execBqry d a s
  | .copy a b => Sys2Proof.Machine.execCopy a b s
  | .copynb d a b => Sys2Proof.Machine.execCopynb d a b s
  | .copyd a b => Sys2Proof.Machine.execCopyd a b s
  | .copyc a b => Sys2Proof.Machine.execCopyc a b s
  | .twany d a q => Sys2Proof.Machine.execTwany d a q s
  | .twall d a q => Sys2Proof.Machine.execTwall d a q s
  | .tff d a q => Sys2Proof.Machine.execTff d a q s
  | .tclr a => Sys2Proof.Machine.execTclr a s
  | .tget d a => Sys2Proof.Machine.execTget d a s
  | .send a b u => Sys2Proof.Machine.execSend a b u s
  | .recv d b => Sys2Proof.Machine.execRecv d b s
  | .recvnb d b => Sys2Proof.Machine.execRecvnb d b s
  | .inq d a => Sys2Proof.Machine.execInq d a s
  | .migrate a => Sys2Proof.Machine.execMigrate a s
  | .home => Sys2Proof.Machine.execHome s
  | .rank d => Sys2Proof.Machine.execRank d s
  | .portb a b => Sys2Proof.Machine.execPortb a b s
  | .portq d a => Sys2Proof.Machine.execPortq d a s
  | .launch d a b => Sys2Proof.Machine.execLaunch d a b s
  | .texit => Sys2Proof.Machine.execTexit s
  | .tyield => Sys2Proof.Machine.execTyield s
  | .lbnd a => Sys2Proof.Machine.execLbnd a s
  | .vadd d a b t k => Sys2Proof.Machine.execVadd d a b t k s
  | .vsub d a b t k => Sys2Proof.Machine.execVsub d a b t k s
  | .vmul d a b t k => Sys2Proof.Machine.execVmul d a b t k s
  | .vmin d a b t k => Sys2Proof.Machine.execVmin d a b t k s
  | .vmax d a b t k => Sys2Proof.Machine.execVmax d a b t k s
  | .vand d a b t k => Sys2Proof.Machine.execVand d a b t k s
  | .vor d a b t k => Sys2Proof.Machine.execVor d a b t k s
  | .vxor d a b t k => Sys2Proof.Machine.execVxor d a b t k s
  | .vshl d a b t k => Sys2Proof.Machine.execVshl d a b t k s
  | .vshr d a b t k => Sys2Proof.Machine.execVshr d a b t k s
  | .vsar d a b t k => Sys2Proof.Machine.execVsar d a b t k s
  | .vsadd d a b t k => Sys2Proof.Machine.execVsadd d a b t k s
  | .vssub d a b t k => Sys2Proof.Machine.execVssub d a b t k s
  | .vabs d a t k => Sys2Proof.Machine.execVabs d a t k s
  | .vfadd d a b t k => Sys2Proof.Machine.execVfadd d a b t k s
  | .vfsub d a b t k => Sys2Proof.Machine.execVfsub d a b t k s
  | .vfmul d a b t k => Sys2Proof.Machine.execVfmul d a b t k s
  | .vfdiv d a b t k => Sys2Proof.Machine.execVfdiv d a b t k s
  | .vfmin d a b t k => Sys2Proof.Machine.execVfmin d a b t k s
  | .vfmax d a b t k => Sys2Proof.Machine.execVfmax d a b t k s
  | .vfabs d a t k => Sys2Proof.Machine.execVfabs d a t k s
  | .vfneg d a t k => Sys2Proof.Machine.execVfneg d a t k s
  | .vfsqrt d a t k => Sys2Proof.Machine.execVfsqrt d a t k s
  | .vfrcp d a t k => Sys2Proof.Machine.execVfrcp d a t k s
  | .vfrsq d a t k => Sys2Proof.Machine.execVfrsq d a t k s
  | .vfexp2 d a t k => Sys2Proof.Machine.execVfexp2 d a t k s
  | .vflog2 d a t k => Sys2Proof.Machine.execVflog2 d a t k s
  | .vfma d a b t k => Sys2Proof.Machine.execVfma d a b t k s
  | .vfms d a b t k => Sys2Proof.Machine.execVfms d a b t k s
  | .vfnma d a b t k => Sys2Proof.Machine.execVfnma d a b t k s
  | .vdot4 d a b t k => Sys2Proof.Machine.execVdot4 d a b t k s
  | .vceq d a b t k => Sys2Proof.Machine.execVceq d a b t k s
  | .vcne d a b t k => Sys2Proof.Machine.execVcne d a b t k s
  | .vclt d a b t k => Sys2Proof.Machine.execVclt d a b t k s
  | .vcle d a b t k => Sys2Proof.Machine.execVcle d a b t k s
  | .vcltu d a b t k => Sys2Proof.Machine.execVcltu d a b t k s
  | .vcleu d a b t k => Sys2Proof.Machine.execVcleu d a b t k s
  | .vcvt d a r f t k => Sys2Proof.Machine.execVcvt d a r f t k s
  | .vcvts d a f t k => Sys2Proof.Machine.execVcvts d a f t k s
  | .vrsum d a t k => Sys2Proof.Machine.execVrsum d a t k s
  | .vrmin d a t k => Sys2Proof.Machine.execVrmin d a t k s
  | .vrmax d a t k => Sys2Proof.Machine.execVrmax d a t k s
  | .vperm d a b t k => Sys2Proof.Machine.execVperm d a b t k s
  | .vslide d a sl t => Sys2Proof.Machine.execVslide d a sl t s
  | .vbcast d a t k => Sys2Proof.Machine.execVbcast d a t k s
  | .vext d a idx t => Sys2Proof.Machine.execVext d a idx t s
  | .vins d a idx t => Sys2Proof.Machine.execVins d a idx t s
  | .vrot d a sl t => Sys2Proof.Machine.execVrot d a sl t s
  | .vld d a j t k => Sys2Proof.Machine.execVld d a j t k s
  | .vst d a j t k => Sys2Proof.Machine.execVst d a j t k s
  | .vlds d a b t k => Sys2Proof.Machine.execVlds d a b t k s
  | .vsts d a b t k => Sys2Proof.Machine.execVsts d a b t k s
  | .vgath d a b t k => Sys2Proof.Machine.execVgath d a b t k s
  | .vscat d a b t k => Sys2Proof.Machine.execVscat d a b t k s
  | .vunpk3 d a x t k => Sys2Proof.Machine.execVunpk3 d a x t k s
  | .vtacc d a b k => Sys2Proof.Machine.execVtacc d a b k s
  | .vsel d a b t k => Sys2Proof.Machine.execVsel d a b t k s
  | .kand d a b => Sys2Proof.Machine.execKand d a b s
  | .kor d a b => Sys2Proof.Machine.execKor d a b s
  | .kxor d a b => Sys2Proof.Machine.execKxor d a b s
  | .knot d a => Sys2Proof.Machine.execKnot d a s
  | .kpop d a t => Sys2Proof.Machine.execKpop d a t s
  | .mma d a b => Sys2Proof.Machine.execMma d a b s
  | .mzero d f => Sys2Proof.Machine.execMzero d f s
  | .mld d a f => Sys2Proof.Machine.execMld d a f s
  | .mst d a e => Sys2Proof.Machine.execMst d a e s
  | .msave d a => Sys2Proof.Machine.execMsave d a s
  | .mrst a b => Sys2Proof.Machine.execMrst a b s
  | .gang d => Sys2Proof.Machine.execGang d s
  | .mpf a => Sys2Proof.Machine.execMpf a s
  | .smax d a b => Sys2Proof.Machine.execSmax d a b s
  | .smass d a b => Sys2Proof.Machine.execSmass d a b s
  | .sdraw d b => Sys2Proof.Machine.execSdraw d b s
  | .sloc d a b => Sys2Proof.Machine.execSloc d a b s
  | .grmask d a b => Sys2Proof.Machine.execGrmask d a b s
  | .grstep d a b => Sys2Proof.Machine.execGrstep d a b s
  | .tap d a b => Sys2Proof.Machine.execTap d a b s
  | .tsteer a b => Sys2Proof.Machine.execTsteer a b s
  | .trap a => Sys2Proof.Machine.execTrap a s
  | .eret a => Sys2Proof.Machine.execEret a s
  | .srr d r => Sys2Proof.Machine.execSrr d r s
  | .srw d r => Sys2Proof.Machine.execSrw d r s
  | .srx d r => Sys2Proof.Machine.execSrx d r s
  | .oxw a n => Sys2Proof.Machine.execOxw a n s
  | .sleep a => Sys2Proof.Machine.execSleep a s
  | .time d => Sys2Proof.Machine.execTime d s
  | .rqpush d a => Sys2Proof.Machine.execRqpush d a s
  | .rqpop d => Sys2Proof.Machine.execRqpop d s
  | .rqpeek d => Sys2Proof.Machine.execRqpeek d s
  | .gsave a b => Sys2Proof.Machine.execGsave a b s
  | .grst a b => Sys2Proof.Machine.execGrst a b s
  | .ifence x => Sys2Proof.Machine.execIfence x s
  | .tlbi a b f => Sys2Proof.Machine.execTlbi a b f s
  | .brk n => Sys2Proof.Machine.execBrk n s
  | .silt a b => Sys2Proof.Machine.execSilt a b s
  | .lease d a => Sys2Proof.Machine.execLease d a s
  | .cMov d a => Sys2Proof.Machine.execCMov d a s
  | .cAdd d a => Sys2Proof.Machine.execCAdd d a s
  | .cSub d a => Sys2Proof.Machine.execCSub d a s
  | .cAnd d a => Sys2Proof.Machine.execCAnd d a s
  | .cOr d a => Sys2Proof.Machine.execCOr d a s
  | .cXor d a => Sys2Proof.Machine.execCXor d a s
  | .cAddi d j => Sys2Proof.Machine.execCAddi d j s
  | .cLi d j => Sys2Proof.Machine.execCLi d j s
  | .cShli d j => Sys2Proof.Machine.execCShli d j s
  | .cShri d j => Sys2Proof.Machine.execCShri d j s
  | .cSari d j => Sys2Proof.Machine.execCSari d j s
  | .cLdd d j => Sys2Proof.Machine.execCLdd d j s
  | .cStd d j => Sys2Proof.Machine.execCStd d j s
  | .cLdw d j => Sys2Proof.Machine.execCLdw d j s
  | .cStw d j => Sys2Proof.Machine.execCStw d j s
  | .cBeqz d off => Sys2Proof.Machine.execCBeqz d off s
  | .cBnez d off => Sys2Proof.Machine.execCBnez d off s
  | .cJ off => Sys2Proof.Machine.execCJ off s
  | .cJr d => Sys2Proof.Machine.execCJr d s
  | .cRet => Sys2Proof.Machine.execCRet s
  | .cRecv d => Sys2Proof.Machine.execCRecv d s
  | .cTff d a => Sys2Proof.Machine.execCTff d a s
  | .cTwany d a => Sys2Proof.Machine.execCTwany d a s
  | .cGclr d c => Sys2Proof.Machine.execCGclr d c s
  | .ctxidWrite node v => Sys2Proof.Machine.execCtxidWrite node v s
  | .rankWrite node v => Sys2Proof.Machine.execRankWrite node v s
  | .inqstatWrite node v => Sys2Proof.Machine.execInqstatWrite node v s
  | .ovfbaseWrite node v => Sys2Proof.Machine.execOvfbaseWrite node v s
  | .tvecWrite node v => Sys2Proof.Machine.execTvecWrite node v s
  | .tapenWrite node v => Sys2Proof.Machine.execTapenWrite node v s
  | .tapinvWrite node v => Sys2Proof.Machine.execTapinvWrite node v s
  | .repeatWrite v => Sys2Proof.Machine.execRepeatWrite v s
  | .mspillWrite node berth v => Sys2Proof.Machine.execMspillWrite node berth v s
  | .prioWrite node berth v => Sys2Proof.Machine.execPrioWrite node berth v s
  | .geomWrite node berth v => Sys2Proof.Machine.execGeomWrite node berth v s
  | .tagsWrite node v => Sys2Proof.Machine.execTagsWrite node v s
  | .rqstatRecall node => Sys2Proof.Machine.execRqstatRecall node s
  | .rqstatEvict node => Sys2Proof.Machine.execRqstatEvict node s
  | .registerWrite node berth r v => Sys2Proof.Machine.execRegisterWrite node berth r v s
  | .kslotLoad slot => Sys2Proof.Machine.execKslotLoad slot s
  | .kslotRetire slot => Sys2Proof.Machine.execKslotRetire slot s
  | .kslotTagclr => Sys2Proof.Machine.execKslotTagclr s
  | .kslotPurge ctx => Sys2Proof.Machine.execKslotPurge ctx s
  | .kslotDone => Sys2Proof.Machine.execKslotDone s
  | .l2colGo target => Sys2Proof.Machine.execL2colGo target s
  | .columnFold c => Sys2Proof.Machine.execColumnFold c s
  | .columnUnfold c => Sys2Proof.Machine.execColumnUnfold c s
  | .homeFill node ctx kslot addr => Sys2Proof.Machine.execHomeFill node ctx kslot addr s
  | .homeRegistration node ctx kslot addr v => Sys2Proof.Machine.execHomeRegistration node ctx kslot addr v s
  | .ownershipRevoke node addr fwd => Sys2Proof.Machine.execOwnershipRevoke node addr fwd s
  | .homeWriteback node addr => Sys2Proof.Machine.execHomeWriteback node addr s
  | .homeAmo node berth ctx kslot addr op w v e => Sys2Proof.Machine.execHomeAmo node berth ctx kslot addr op w v e s
  | .homeRed node berth ctx kslot addr op w v => Sys2Proof.Machine.execHomeRed node berth ctx kslot addr op w v s
  | .homeLoga node berth ctx kern region segrec addr va op v rank seq => Sys2Proof.Machine.execHomeLoga node berth ctx kern region segrec addr va op v rank seq s
  | .homeLrw node berth ctx kslot addr va => Sys2Proof.Machine.execHomeLrw node berth ctx kslot addr va s
  | .homeSch node berth ctx kslot addr st v => Sys2Proof.Machine.execHomeSch node berth ctx kslot addr st v s
  | .homeBarrier node berth ctx kslot addr op v => Sys2Proof.Machine.execHomeBarrier node berth ctx kslot addr op v s
  | .homeWaitRegister node berth ctx kslot addr ne v => Sys2Proof.Machine.execHomeWaitRegister node berth ctx kslot addr ne v s
  | .waitValue node berth v => Sys2Proof.Machine.execWaitValue node berth v s
  | .homeDisc node ctx kslot addr => Sys2Proof.Machine.execHomeDisc node ctx kslot addr s
  | .tlbWalk node va => Sys2Proof.Machine.execTlbWalk node va s
  | .memoryError node place ctx kslot addr unc => Sys2Proof.Machine.execMemoryError node place ctx kslot addr unc s
  | .nmsgArrive src dst => Sys2Proof.Machine.execNmsgArrive src dst s
  | .umsgArrive src dst => Sys2Proof.Machine.execUmsgArrive src dst s
  | .gportArrive src dst => Sys2Proof.Machine.execGportArrive src dst s
  | .vportArrive src dst => Sys2Proof.Machine.execVportArrive src dst s
  | .portOutboundSend node p => Sys2Proof.Machine.execPortOutboundSend node p s
  | .rwreqArrive src dst => Sys2Proof.Machine.execRwreqArrive src dst s
  | .rwrspArrive src dst => Sys2Proof.Machine.execRwrspArrive src dst s
  | .rwreqRetry node berth => Sys2Proof.Machine.execRwreqRetry node berth s
  | .dackArrive node epoch => Sys2Proof.Machine.execDackArrive node epoch s
  | .gangbArrive src dst => Sys2Proof.Machine.execGangbArrive src dst s
  | .migDepart node berth rank => Sys2Proof.Machine.execMigDepart node berth rank s
  | .migArrive src dst => Sys2Proof.Machine.execMigArrive src dst s
  | .migResume node berth => Sys2Proof.Machine.execMigResume node berth s
  | .migRetry node => Sys2Proof.Machine.execMigRetry node s
  | .evictArrive src dst => Sys2Proof.Machine.execEvictArrive src dst s
  | .tlbiArrive id node => Sys2Proof.Machine.execTlbiArrive id node s
  | .tlbiComplete id => Sys2Proof.Machine.execTlbiComplete id s
  | .ifenceComplete node berth => Sys2Proof.Machine.execIfenceComplete node berth s
  | .copyStart node => Sys2Proof.Machine.execCopyStart node s
  | .copyComplete node tag => Sys2Proof.Machine.execCopyComplete node tag s
  | .mergePass node tag => Sys2Proof.Machine.execMergePass node tag s
  | .mergeComplete node tag => Sys2Proof.Machine.execMergeComplete node tag s
  | .engineSpill node => Sys2Proof.Machine.execEngineSpill node s
  | .engineReload node => Sys2Proof.Machine.execEngineReload node s
  | .timerExpire node berth => Sys2Proof.Machine.execTimerExpire node berth s
  | .trapEntry node => Sys2Proof.Machine.execTrapEntry node s
  | .machineEntry node reason => Sys2Proof.Machine.execMachineEntry node reason s
  | .coreStart node => Sys2Proof.Machine.execCoreStart node s
  | .dispatchSlot isl => Sys2Proof.Machine.execDispatchSlot isl s
  | .dependencyDecrement isl => Sys2Proof.Machine.execDependencyDecrement isl s
  | .launchSweep isl => Sys2Proof.Machine.execLaunchSweep isl s
  | .launchEnd isl slot => Sys2Proof.Machine.execLaunchEnd isl slot s
  | .occupancyWindow isl => Sys2Proof.Machine.execOccupancyWindow isl s
  | .poolRebind node => Sys2Proof.Machine.execPoolRebind node s
  | .groupQuiesce g => Sys2Proof.Machine.execGroupQuiesce g s
  | .groupDrain g => Sys2Proof.Machine.execGroupDrain g s
  | .groupResume g => Sys2Proof.Machine.execGroupResume g s
  | .gretSaveRetain g => Sys2Proof.Machine.execGretSaveRetain g s
  | .gretSaveImage g => Sys2Proof.Machine.execGretSaveImage g s
  | .gretSaveRestore g => Sys2Proof.Machine.execGretSaveRestore g s
  | .gretSaveDone => Sys2Proof.Machine.execGretSaveDone s
  | .gclkGateWrite v => Sys2Proof.Machine.execGclkGateWrite v s
  | .grailCtlWrite v => Sys2Proof.Machine.execGrailCtlWrite v s
  | .railOk g => Sys2Proof.Machine.execRailOk g s
  | .wakeGmask mask src => Sys2Proof.Machine.execWakeGmask mask src s
  | .wakeTon src => Sys2Proof.Machine.execWakeTon src s
  | .wakeSrcRead => Sys2Proof.Machine.execWakeSrcRead s
  | .wakeArmWrite v => Sys2Proof.Machine.execWakeArmWrite v s
  | .cascadeFire n => Sys2Proof.Machine.execCascadeFire n s
  | .groupWake g => Sys2Proof.Machine.execGroupWake g s
  | .torrentBringUp => Sys2Proof.Machine.execTorrentBringUp s
  | .torrentLeaveOn => Sys2Proof.Machine.execTorrentLeaveOn s
  | .dramSelfRefreshEnter => Sys2Proof.Machine.execDramSelfRefreshEnter s
  | .dramSelfRefreshExit => Sys2Proof.Machine.execDramSelfRefreshExit s
  | .rillCoreRet node => Sys2Proof.Machine.execRillCoreRet node s
  | .rillCoreWake node => Sys2Proof.Machine.execRillCoreWake node s
  | .leaseExpire node berth => Sys2Proof.Machine.execLeaseExpire node berth s
  | .portageGo v => Sys2Proof.Machine.execPortageGo v s
  | .portageAbort => Sys2Proof.Machine.execPortageAbort s
  | .portageTransit => Sys2Proof.Machine.execPortageTransit s
  | .portageCopy => Sys2Proof.Machine.execPortageCopy s
  | .portageRelease => Sys2Proof.Machine.execPortageRelease s
  | .siltFreeze => Sys2Proof.Machine.execSiltFreeze s
  | .siltResume => Sys2Proof.Machine.execSiltResume s
  | .siltRelease => Sys2Proof.Machine.execSiltRelease s
  | .freezeArrive node => Sys2Proof.Machine.execFreezeArrive node s
  | .siltStop node => Sys2Proof.Machine.execSiltStop node s
  | .capsuleBuild => Sys2Proof.Machine.execCapsuleBuild s
  | .capsuleRead off len => Sys2Proof.Machine.execCapsuleRead off len s
  | .capsuleRelease => Sys2Proof.Machine.execCapsuleRelease s
  | .queueBase off n => Sys2Proof.Machine.execQueueBase off n s
  | .keyBind arg => Sys2Proof.Machine.execKeyBind arg s
  | .windowSet ctx vb => Sys2Proof.Machine.execWindowSet ctx vb s
  | .mailboxBadCommand cmd => Sys2Proof.Machine.execMailboxBadCommand cmd s
  | .hostSubmission => Sys2Proof.Machine.execHostSubmission s
  | .hostSubmissionRetry => Sys2Proof.Machine.execHostSubmissionRetry s
  | .hostRead off n => Sys2Proof.Machine.execHostRead off n s
  | .hostWrite off n v => Sys2Proof.Machine.execHostWrite off n v s
  | .getVersion => Sys2Proof.Machine.execGetVersion s
  | .getCapabilities => Sys2Proof.Machine.execGetCapabilities s
  | .negotiateAlgorithms => Sys2Proof.Machine.execNegotiateAlgorithms s
  | .getDigests => Sys2Proof.Machine.execGetDigests s
  | .getCertificate => Sys2Proof.Machine.execGetCertificate s
  | .challenge => Sys2Proof.Machine.execChallenge s
  | .getMeasurements => Sys2Proof.Machine.execGetMeasurements s
  | .keyExchange => Sys2Proof.Machine.execKeyExchange s
  | .finish => Sys2Proof.Machine.execFinish s
  | .heartbeat => Sys2Proof.Machine.execHeartbeat s
  | .endSession => Sys2Proof.Machine.execEndSession s
  | .linkDown l => Sys2Proof.Machine.execLinkDown l s
  | .coldReset => Sys2Proof.Machine.execColdReset s
  | .warmReset => Sys2Proof.Machine.execWarmReset s
  | .sleepDeadline node berth => Sys2Proof.Machine.execSleepDeadline node berth s
  | .mrspArrive node berth => Sys2Proof.Machine.execMrspArrive node berth s
  | .mmaComplete node => Sys2Proof.Machine.execMmaComplete node s
  | .thermalLimit g on => Sys2Proof.Machine.execThermalLimit g on s
  | .powerOverBudget g on => Sys2Proof.Machine.execPowerOverBudget g on s
  | .rutuquaPairing l => Sys2Proof.Machine.execRutuquaPairing l s
  | .tdispMessage m => Sys2Proof.Machine.execTdispMessage m s

end Sys2Proof.Machine
end

