-- ==== Sys2Proof/Machine/Rep.lean ====
section
/-! DEFINITION. The register advance of a repetition (R271, R273). -/

namespace Sys2Proof.Machine

noncomputable section

/-- An instruction of a REP body with every field that names a v register moved on by `x`, modulo 32. Mask fields, g registers and
matrix instructions stay. -/
def advanceV (x : BitVec 5) (i : Instr) : Instr :=
  match i with
  | .vadd d a b t k => .vadd (d + x) (a + x) (b + x) t k
  | .vsub d a b t k => .vsub (d + x) (a + x) (b + x) t k
  | .vmul d a b t k => .vmul (d + x) (a + x) (b + x) t k
  | .vmin d a b t k => .vmin (d + x) (a + x) (b + x) t k
  | .vmax d a b t k => .vmax (d + x) (a + x) (b + x) t k
  | .vand d a b t k => .vand (d + x) (a + x) (b + x) t k
  | .vor d a b t k => .vor (d + x) (a + x) (b + x) t k
  | .vxor d a b t k => .vxor (d + x) (a + x) (b + x) t k
  | .vshl d a b t k => .vshl (d + x) (a + x) (b + x) t k
  | .vshr d a b t k => .vshr (d + x) (a + x) (b + x) t k
  | .vsar d a b t k => .vsar (d + x) (a + x) (b + x) t k
  | .vsadd d a b t k => .vsadd (d + x) (a + x) (b + x) t k
  | .vssub d a b t k => .vssub (d + x) (a + x) (b + x) t k
  | .vfadd d a b t k => .vfadd (d + x) (a + x) (b + x) t k
  | .vfsub d a b t k => .vfsub (d + x) (a + x) (b + x) t k
  | .vfmul d a b t k => .vfmul (d + x) (a + x) (b + x) t k
  | .vfdiv d a b t k => .vfdiv (d + x) (a + x) (b + x) t k
  | .vfmin d a b t k => .vfmin (d + x) (a + x) (b + x) t k
  | .vfmax d a b t k => .vfmax (d + x) (a + x) (b + x) t k
  | .vfma d a b t k => .vfma (d + x) (a + x) (b + x) t k
  | .vfms d a b t k => .vfms (d + x) (a + x) (b + x) t k
  | .vfnma d a b t k => .vfnma (d + x) (a + x) (b + x) t k
  | .vabs d a t k => .vabs (d + x) (a + x) t k
  | .vfabs d a t k => .vfabs (d + x) (a + x) t k
  | .vfneg d a t k => .vfneg (d + x) (a + x) t k
  | .vfsqrt d a t k => .vfsqrt (d + x) (a + x) t k
  | .vfrcp d a t k => .vfrcp (d + x) (a + x) t k
  | .vfrsq d a t k => .vfrsq (d + x) (a + x) t k
  | .vfexp2 d a t k => .vfexp2 (d + x) (a + x) t k
  | .vflog2 d a t k => .vflog2 (d + x) (a + x) t k
  | .vdot4 d a b t k => .vdot4 (d + x) (a + x) (b + x) t k
  | .vceq d a b t k => .vceq d (a + x) (b + x) t k
  | .vcne d a b t k => .vcne d (a + x) (b + x) t k
  | .vclt d a b t k => .vclt d (a + x) (b + x) t k
  | .vcle d a b t k => .vcle d (a + x) (b + x) t k
  | .vcltu d a b t k => .vcltu d (a + x) (b + x) t k
  | .vcleu d a b t k => .vcleu d (a + x) (b + x) t k
  | .vcvt d a r f t k => .vcvt (d + x) (a + x) r f t k
  | .vcvts d a f t k => .vcvts (d + x) (a + x) f t k
  | .vrsum d a t k => .vrsum (d + x) (a + x) t k
  | .vrmin d a t k => .vrmin (d + x) (a + x) t k
  | .vrmax d a t k => .vrmax (d + x) (a + x) t k
  | .vperm d a b t k => .vperm (d + x) (a + x) (b + x) t k
  | .vslide d a sl t => .vslide (d + x) (a + x) sl t
  | .vbcast d a t k => .vbcast (d + x) a t k
  | .vext d a idx t => .vext d (a + x) idx t
  | .vins d a idx t => .vins (d + x) a idx t
  | .vrot d a sl t => .vrot (d + x) (a + x) sl t
  | .vld d a i t k => .vld (d + x) a i t k
  | .vst d a i t k => .vst (d + x) a i t k
  | .vlds d a b t k => .vlds (d + x) a b t k
  | .vsts d a b t k => .vsts (d + x) a b t k
  | .vgath d a b t k => .vgath (d + x) a (b + x) t k
  | .vscat d a b t k => .vscat (d + x) a (b + x) t k
  | .vunpk3 d a sl t k => .vunpk3 (d + x) (a + x) sl t k
  | .vtacc d a b k => .vtacc (d + x) (a + x) (b + x) k
  | .vsel d a b t k => .vsel (d + x) (a + x) (b + x) t k
  | j => j

end

end Sys2Proof.Machine
end

