-- ==== Sys2Proof/Machine/Run.lean ====
section
/-! DEFINITION. What can move next, and what each mover does (log 1): a berth's instruction (R219), an entry that is pending (R417),
an event, the boot ROM (R476), the return of an away thread (R182), a Rill core's RET (R443), a trigger that sees
a packet wait at an idle core (R451). -/

namespace Sys2Proof.Machine

noncomputable section

/-- Something that can happen next. -/
inductive Mover
  | boot
  | event (i : Nat) (e : Event)
  | entry (n : Nat)
  | berth (n i : Nat)
  | recall (n : Nat)
  | ret (n : Nat)
  | wakeRill (n : Nat)
  | niTrigger (n : Nat)
  deriving DecidableEq, Repr

/-- Whether a core executes (R443). -/
def Core.up (c : Core) : Bool := c.power == .run

/-- Whether berth 1, 2 or 3 of a core moves: it runs, or it is inside an instruction that goes on after a stop (R297). -/
def Core.moves (c : Core) (i : Nat) : Bool :=
  let b := c.berth i
  let held := match b.wait with
    | .lbnd => true
    | .arrive _ _ _ => true
    | .retry => true
    | _ => i = 1 && c.pendSync.isSome
  b.occupied && !held && (b.busy || (!b.stopped && !c.stoppedBy))

/-- The berths of a core that move (R181, R413, R447). -/
def Core.running (c : Core) (n : Nat) : List Mover :=
  if c.up then
    (if !c.idle0 && (!c.stoppedBy || c.b0.busy) then [.berth n 0] else []) ++ ([1, 2, 3].filter c.moves).map (.berth n ·)
  else []

/-- Whether an away thread is to be brought back: a cause for it is pending at its native core (R182, R428). -/
def Core.recalls (c : Core) (now : Word) : Bool :=
  c.away && (c.recalled || c.preempt.isSome || c.dispatchDue || c.b1.timerDue now)

/-- Whether a Rill compute core may be ready for RET: B0 is idle or has not ended its instruction (R443). -/
def Core.mayRet (c : Core) (n : Nat) : Bool :=
  isRill n && n ≠ mcNode && c.power == .run && (c.idle0 || c.b0.wait != .none || c.b0.fetched.isSome)

/-- One of several movers, freely chosen (R98, R181; log 1). -/
def State.choose (s : State) (m : Mover) (l : List Mover) : Mover :=
  if l.isEmpty then m else (m :: l).getD (Config.pick s.freeCtr (l.length + 1) % (l.length + 1)) m

/-- Time goes on after a step (R120; log 3); it never comes back to 0 (R122). -/
def State.tick (s : State) : State :=
  let x := s.time.toNat + Config.ticks s.freeCtr
  { s with time := if x + 2 < 2 ^ 64 then w64 x else s.time, freeCtr := s.freeCtr + 1 }

/-- Time goes on in the next state. -/
def tickOut (o : Out) : Out :=
  match o with
  | .next t => .next t.tick
  | .fault f => .fault f
  | .refused r => .refused r

/-- The state with an event of the agenda taken out. -/
def State.takeEvent (s : State) (i : Nat) : State := { s with agenda := s.agenda.eraseIdx i }

/-- The turn of berth `i` of core `n`, which it has then served last (R181); what fenced it is over (R131). -/
def State.turn (s : State) (n i : Nat) : State :=
  let c := s.core n
  let f : BitVec 4 := if i = 0 then 0 else if c.idle0 then c.entryFence &&& 0xE else c.entryFence
  { s with cur := n, cb := i, cores := alSet s.cores n { c with lastB := i, entryFence := f } }

/-- What decoding gives for a fetched word, executed (R219 step 2); a repetition issues its body advanced (R271, R273). Each body word is
decoded at its own issue: one that is then no body instruction traps there (log 111). -/
def issue (w : Nat) (s : State) : Out :=
  match decodeBits w with
  | .illegal x _ => .next (s.takeSync .illegal (w64 x))
  | .instr k _ =>
    if s.me.repAct then
      if repBody w then exec (advanceV (BitVec.ofNat 5 (s.me.repJ * s.me.repS)) k) s
      else .next (s.takeSync .illegal (w64 w))
    else exec k s

/-- The executing berth's instruction, fetched, decoded and executed; a refusal that its home has answered traps (R219, R111). The words
of a REP's body are fetched at every issue (log 111); one that has not ended is not fetched again. -/
def fetchIssue (s : State) : Out :=
  match s.me.wait with
  | .failed c v => .next (s.takeSync c v)
  | _ =>
    match s.me.fetched.filter (·.1 = s.me.pc) with
    | some (_, w) => issue w s
    | none =>
      match s.fetch s.me.pc with
      | .error c => .next (s.takeSync c s.me.pc)
      | .ok (t, w) => issue w (t.setMe { t.me with fetched := some (s.me.pc, w) })

/-- After an instruction that had gone on in a stopped B1, its EPC is the boundary it has reached (R297, R420). -/
def State.reachStop (s : State) (n : Nat) : State :=
  let c := s.core n
  if c.b1.occupied && c.b1.stopped && !c.b1.busy then
    s.setCore n { c with b1 := { c.b1 with epc := c.b1.pc &&& 0x0000FFFFFFFFFFFF } }
  else s

/-- Berth `i` of core `n` takes its turn. -/
def runBerth (s : State) (n i : Nat) : Out :=
  let o := fetchIssue (s.turn n i)
  if i = 1 && (s.berthAt n 1).stopped then
    match o with
    | .next t => .next (t.reachStop n)
    | .fault f => .fault f
    | .refused r => .refused r
  else o

/-- Whether a berth's turn changes nothing. -/
def State.quiet (s : State) (n i : Nat) : Bool :=
  match runBerth s n i with
  | .next t => decide (t = s.turn n i)
  | _ => true

/-- Whether every berth of a core waits, and none of its engines is busy. -/
def State.allQuiet (s : State) (n : Nat) : Bool :=
  let c := s.core n
  (c.takable (s.timeAt n)).isNone && c.fifo.isEmpty && c.engine.flight.isNone &&
    (c.running n).all fun m => match m with
      | .berth k i => s.quiet k i
      | _ => true

/-- IDLE (R443): a core in RUN of which no berth is ready and no engine is busy. It only pauses a clock, so it is read off the state and
held nowhere (log 72). -/
def State.idle (s : State) (n : Nat) : Bool := (s.core n).up && s.allQuiet n

/-- The migrating threads that wait at the NI of a Torrent core for a guest berth (R117), while a trigger of KIND 2 watches (R451). -/
def State.waitingMigs (s : State) (n : Nat) : List Packet :=
  if n < 0x400 && (List.range 16).any fun i => s.arm.getLsbD i && s.cascades[i]?.any (·.kind = 2) then
    s.net.filter fun p => p.dst = n && p.ranked && match p.body with
      | .mig t => (s.migIn p t).isNone
      | _ => false
  else []

/-- The berth of a core that is served next, out of those that move (R181): B0 while it handles an entry and is ready, else the next
ready one after the berth served last. -/
def State.nextBerth (s : State) (n : Nat) (l : List Nat) : Option Nat :=
  match l with
  | [] => none
  | [i] => some i
  | _ =>
    let r := l.filter fun i => !s.quiet n i
    if r.contains 0 then some 0 else (List.range 4).findSome? fun k => r.find? (· = ((s.core n).lastB + 1 + k) % 4)

/-- Whether a message or port value that a berth of `m` has sent to its own core has not been performed yet, one that the NI holds for
a rank in transit apart (R131, R137; log 90). -/
def State.selfSends (s : State) (n : Nat) (m : BitVec 4) : Bool :=
  let c := s.core n
  m ≠ 0 && (s.net.any (fun p => p.src = n && p.dst = n && m.getLsbD p.sender) ||
    c.ports.toList.any fun q => q.outq.any fun o =>
      m.getLsbD o.sender && !o.bind.peer && o.bind.rank = c.rank && o.ctx = c.ctxid && !c.holds o.ctx o.bind.rank)

/-- Whether a berth has no turn yet: B0 while an entry or its own ERET still fences, and after an ERET that ends an entry the berths that
have resumed, for the messages of B0 (R131); one at a boundary where a write of its registers is to take effect first (R422), or B0
where a MACHINE that waits is to be entered (R417). -/
def State.heldTurn (s : State) (n i : Nat) : Bool :=
  let c := s.core n
  (i = 0 && s.selfSends n c.entryFence) || (i ≠ 0 && c.idle0 && s.selfSends n (c.entryFence &&& 1)) ||
    (!s.inside n i && (s.agenda.any (·.isRegWrite n i) || (i = 0 && c.machine)))

/-- The turn that a core offers. -/
def State.offers (s : State) (n : Nat) : List Mover :=
  let l := ((s.core n).running n).filterMap fun m => match m with
    | .berth _ i => if s.heldTurn n i then none else some i
    | _ => none
  match s.nextBerth n l with
  | some i => [.berth n i]
  | none => []

/-- The home of an operation: a core's LM, a bank or a slice. -/
def State.homeOf (s : State) (addr : BitVec 64) : Nat :=
  if 2 ^ 49 ≤ addr.toNat then lmNode addr.toNat else 2 ^ 12 + s.homeId addr.toNat

/-- Source, destination and virtual network of what an event ends the way of: of two on one channel the earlier comes first (R94,
R98); 7 stands for the writes of a berth's registers, which keep their order (R422). -/
def Event.channel (s : State) (e : Event) : Option (Nat × Nat × Nat) :=
  let at_ (n : BitVec 12) (a : BitVec 64) : Option (Nat × Nat × Nat) := some (n.toNat, s.homeOf a, 5)
  let net (a b : BitVec 12) (vn : Nat) : Option (Nat × Nat × Nat) := some (a.toNat, b.toNat, vn)
  match e with
  | .homeAmo node _ _ _ addr _ _ _ _ => at_ node addr
  | .homeRed node _ _ _ addr _ _ _ => at_ node addr
  | .homeLoga node _ _ _ _ _ addr _ _ _ _ _ => at_ node addr
  | .homeLrw node _ _ _ addr _ => at_ node addr
  | .homeSch node _ _ _ addr _ _ => at_ node addr
  | .homeBarrier node _ _ _ addr _ _ => at_ node addr
  | .homeWaitRegister node _ _ _ addr _ _ => at_ node addr
  | .homeDisc node _ _ addr => at_ node addr
  | .evictArrive a b => net a b 1
  | .migArrive a b => net a b 2
  | .umsgArrive a b => net a b 3
  | .rwrspArrive a b => net a b 4
  | .gangbArrive a b => net a b 4
  | .mrspArrive n b => match (s.berthAt n.toNat b.toNat).wait with
    | .home _ m => some (m, n.toNat, 4)
    | _ => none
  | .rwreqArrive a b => net a b 5
  | .nmsgArrive a b => net a b 6
  | .gportArrive a b => net a b 6
  | .vportArrive a b => net a b 6
  | .registerWrite node berth _ _ => some (node.toNat, berth.toNat, 7)
  | _ => none

/-- The events that can happen next: of each channel the earliest, and a write of a berth's register once the berth is at a
boundary. -/
def State.eventMovers (s : State) : List (Event × Nat) → List (Nat × Nat × Nat) → List Mover
  | [], _ => []
  | (e, i) :: r, seen =>
    match e.channel s with
    | none => .event i e :: s.eventMovers r seen
    | some c =>
      if seen.contains c || (c.2.2 = 7 && s.inside c.1 c.2.1) then s.eventMovers r (c :: seen)
      else .event i e :: s.eventMovers r (c :: seen)

/-- Everything that can move. -/
def State.movers (s : State) : List Mover :=
  (if s.booting then [.boot] else []) ++ s.eventMovers s.agenda.zipIdx [] ++
    (s.cores.filter fun p => (p.2.takable (s.timeAt p.1)).isSome).map (fun p => .entry p.1) ++
    (s.cores.flatMap fun p => s.offers p.1) ++
    (s.cores.filter fun p => p.2.recalls (s.timeAt p.1)).map (fun p => .recall p.1) ++
    (s.cores.filter fun p => p.2.mayRet p.1).map (fun p => .ret p.1) ++
    (s.cores.filter fun p => isRill p.1 && p.2.power == .ret).map (fun p => .wakeRill p.1) ++
    (s.cores.filter fun p => !(s.waitingMigs p.1).isEmpty).map fun p => .niTrigger p.1

/-- What a mover does. -/
def moverStep (s : State) (m : Mover) : Out :=
  match m with
  | .boot => .next s.bootUp
  | .event i e => exec e.toInstr (s.takeEvent i)
  | .entry n => exec (Event.toInstr (.trapEntry (BitVec.ofNat 12 n))) s
  | .berth n i => runBerth s n i
  | .recall n => .next (s.callBack n)
  | .ret n => if s.allQuiet n then exec (Event.toInstr (.rillCoreRet (BitVec.ofNat 12 n))) s else .next s
  | .wakeRill n =>
    if (s.setCore n { s.core n with power := .run }).allQuiet n then .next s
    else exec (Event.toInstr (.rillCoreWake (BitVec.ofNat 12 n))) s
  | .niTrigger n =>
    .next (if s.idle n then (s.waitingMigs n).foldl (fun t p => t.packetTriggers p) s else s)

end

end Sys2Proof.Machine
end

