-- ==== Sys2Proof/Machine/Step.lean ====
section
/-! DEFINITION. One step of the part: something that can move does, and time goes on; and the state in which a given instruction is
the next that a step runs. -/

namespace Sys2Proof.Machine

noncomputable section

/-- One step (log 1): whatever can move does; when nothing can, time goes on. -/
def step (s : State) : Host.Outcome State Fault Refusal :=
  match s.movers with
  | [] => tickOut (.next s)
  | m :: l => tickOut (moverStep s (s.choose m l))

/-- Stores a word of DRAM under key slot 0. -/
def State.placeWord (s : State) (a : Nat) (v : Word) : State := s.putHome (physLoc false a 0 0) v tagData

/-- A loaded program (log 10): boot is over, context 0 has a header at physical 0 and page tables that map the page at KENTRY 0x10000,
Rill core 0 alone has started there (R414, R476), and the instruction stands at that address. -/
def State.withFetchWord (s : State) (nbits w : Nat) : State :=
  let c : Core := { Core.reset with power := .run, idle0 := false, b0 := { Berth.kernel with pc := 0x10000 } }
  let s1 : State := { s with cores := [(0x800, c)], boot := 1, agenda := [], ctxdir := 0 }
  let s2 := s1.placeWord 8 0x1000
  let s3 := ((s2.placeWord 0x1000 0x2001).placeWord 0x2000 0x3001).placeWord 0x3000 0x4001
  (s3.placeWord 0x4080 0x1001F).placeWord 0x10000 (w64 (w % 2 ^ nbits))

end

end Sys2Proof.Machine
end

