-- ==== Sys2Proof/Safety.lean ====
section
/-! DEFINITION. The vocabulary of the claims: sound states, when an instruction's operands are there, the state in which it
is over, and what an instruction leaves alone. -/

namespace Sys2Proof.Machine

noncomputable section

/-! ## Sound states -/

/-- The byte memory and the tag memory are in canonical form. -/
def State.memWf (s : State) : Prop := s.mem.wf = true ∧ s.tags.wf = true

/-! ## Operands -/

/-- An instruction's operands are there: no source register is EMPTY (R203); where it names ports, the thread is in its native
berth (R116), every port is bound (R194), the values it reads have arrived and the values it pushes have room (R208). -/
def State.ready (s : State) (srcs : List Src) (dsts : List Dst) : Bool :=
  srcs.all (fun x => !s.me.isEmpty x) &&
    ((popList srcs ++ pushList dsts).isEmpty || s.cb < 2) &&
    (popList srcs ++ pushList dsts).all (fun p => (s.binding s.cur p).isSome) &&
    (popList srcs).all (fun p => (popList srcs).count p ≤ (s.here.port p).inq.length) &&
    (pushList dsts).all (fun p => (s.here.port p).outq.length + (pushList dsts).count p ≤ portRoom p)

/-- The `i`-th of the values an instruction reads, as a g register. -/
def State.gv (s : State) (srcs : List Src) (i : Nat) : GReg := (arg (s.readSrcs srcs []) i).g

/-- The same, its 64 bits. -/
def State.wv (s : State) (srcs : List Src) (i : Nat) : Word := (s.gv srcs i).val

/-- The same, the 512 bits of a v register. -/
def State.vv (s : State) (srcs : List Src) (i : Nat) : BitVec 512 := (arg (s.readSrcs srcs []) i).v

/-- The same, the 64 bits of a k or OX register. -/
def State.xv (s : State) (srcs : List Src) (i : Nat) : Word := (arg (s.readSrcs srcs []) i).x

/-- The instruction of `len` bytes is over: it has taken its port sources and written `rs` to its destinations, and its berth
goes on after it. -/
def State.finish (s : State) (srcs : List Src) (dsts : List Dst) (rs : List Val) (len : Nat) : State :=
  (s.commit srcs dsts rs).retire len

/-- The same, its berth going on at `t`. -/
def State.finishAt (s : State) (srcs : List Src) (dsts : List Dst) (rs : List Val) (t : Word) : State :=
  (s.commit srcs dsts rs).jump t

/-! ## Accesses -/

/-- An access of the executing thread to memory of its own passes checks 2 to 9 of R32: the state after translation, and each
piece of it with its place. -/
def State.reach (s : State) (a : Need) : Option (State × List (Piece × Loc)) :=
  match preChecks s.kern a with
  | .error _ => none
  | .ok _ =>
    match locate s a with
    | .ok (t, .here l) => some (t, l)
    | _ => none

/-- A load passes check 10 as well: no word of it is POISON. -/
def State.readable (s : State) (a : Need) : Option (State × List (Piece × Loc)) :=
  match s.reach a with
  | none => none
  | some (t, l) =>
    match loadCheck t.cur t l with
    | .ok u => some (u, l)
    | .error _ => none

/-- A store passes check 10 as well: no word of it is SYNC. -/
def State.writable (s : State) (a : Need) : Option (State × List (Piece × Loc)) :=
  match s.reach a with
  | none => none
  | some (t, l) =>
    match storeCheck t.cur t l with
    | .ok u => some (u, l)
    | .error _ => none

/-- The state after a load, and the number it loads. -/
def State.loads (s : State) (a : Need) : Option (State × Nat) :=
  (s.readable a).map fun r => loadPieces r.1.cur r.1 r.2

/-- The state after a store of the number `x`. -/
def State.stores (s : State) (a : Need) (x : Nat) : Option State :=
  (s.writable a).map fun r => storePieces r.1.cur r.1 r.2 x

/-- The pages of DISC's range pass its checks (R288): the state after translation, and the parts in private memory. -/
def State.discRange (s : State) (a : Need) : Option (State × List (Nat × Nat × Loc)) :=
  match capChecks s.kern a, decide (a.ea.toNat < 2 ^ 48), discPages s.kern s a.ea.toNat a.n (a.n / 4096 + 2) with
  | .ok _, true, .ok r => some r
  | _, _, _ => none

/-- An operation at a home goes to memory of the executing core's own: the state after its checks, and the word's place. -/
def State.homeAt (s : State) (a : Need) : Option (State × Loc) :=
  match s.me.wait, s.reach a with
  | .none, some (t, (_, l) :: _) => some (t, l)
  | _, _ => none

/-- The granule at a place is no POISON: the state with it at its home, its two words, and whether it is an object (R152). -/
def State.granuleAt (s : State) (l : Loc) : Option (State × Word × Word × Bool) :=
  match s.granule s.cur l with
  | .ok r => some r
  | .error _ => none

/-- The different lines of the executing core's L1 in the set of a line. -/
def State.waysHere (s : State) (line : Nat) : List Nat :=
  ((s.here.l1.map (·.word / 8)).filter fun k => k % 1024 = line % 1024).eraseDups

/-- The executing core can store a word without another copy in its way: its L1 holds the line under no other context or key slot,
and owns the word, or no core owns it, the L1 and the L2 have room for the line, and a pool line is the access's own (R51, R52). -/
def State.sole (s : State) (l : Loc) : Bool :=
  let u := l.key / 64
  s.here.l1.all (fun w => w.word / 8 ≠ u || (w.ctx = l.ctx && w.slot = l.slot)) &&
    ((s.here.l1At l).any (·.owned) ||
      (s.ownersOf (l.key / 8)).isEmpty && ((s.waysHere u).contains u || (s.waysHere u).length < 7) &&
        (l.kind ≠ .pool || alGet s.owners u = some (l.ctx, l.slot)) &&
        (l.kind ≠ .dram || s.tstate ≠ 2 || (s.l2At u).any (·.is l) || (s.l2At u).isNone && (s.l2Set u).length < 15))

end

end Sys2Proof.Machine
end

