-- ==== Sys2Proof/Certificates/Slice0/Obligations.lean ====
section
/-! DEFINITION. The statements for the provers. -/

/-! ## Integer instructions -/

namespace Sys2Proof.Claims

open Sys2Proof.Machine

noncomputable section

/-- The binary operations of R261, R263 and R264 but ADD and SUB: constructor, result at 64 bits, result at 32 bits. -/
def aluOps : List ((BitVec 6 → BitVec 6 → BitVec 6 → BitVec 1 → Instr) × (Word → Word → Word) ×
    (BitVec 32 → BitVec 32 → BitVec 32)) :=
  [(.and, fun x y => x &&& y, fun x y => x &&& y),
   (.or, fun x y => x ||| y, fun x y => x ||| y),
   (.xor, fun x y => x ^^^ y, fun x y => x ^^^ y),
   (.andn, fun x y => x &&& ~~~y, fun x y => x &&& ~~~y),
   (.shl, fun x y => x <<< (y.toNat % 64), fun x y => x <<< (y.toNat % 32)),
   (.shr, fun x y => x >>> (y.toNat % 64), fun x y => x >>> (y.toNat % 32)),
   (.sar, fun x y => x.sshiftRight (y.toNat % 64), fun x y => x.sshiftRight (y.toNat % 32)),
   (.rol, fun x y => x.rotateLeft (y.toNat % 64), fun x y => x.rotateLeft (y.toNat % 32)),
   (.min, fun x y => if x.toInt ≤ y.toInt then x else y, fun x y => if x.toInt ≤ y.toInt then x else y),
   (.max, fun x y => if x.toInt ≤ y.toInt then y else x, fun x y => if x.toInt ≤ y.toInt then y else x),
   (.minu, fun x y => if x.toNat ≤ y.toNat then x else y, fun x y => if x.toNat ≤ y.toNat then x else y),
   (.maxu, fun x y => if x.toNat ≤ y.toNat then y else x, fun x y => if x.toNat ≤ y.toNat then y else x),
   (.slt, fun x y => if x.toInt < y.toInt then 1 else 0, fun x y => if x.toInt < y.toInt then 1 else 0),
   (.sltu, fun x y => if x.toNat < y.toNat then 1 else 0, fun x y => if x.toNat < y.toNat then 1 else 0),
   (.mul, fun x y => x * y, fun x y => x * y),
   (.mulh, fun x y => ((x.signExtend 128 * y.signExtend 128) >>> 64).setWidth 64,
     fun x y => ((x.signExtend 64 * y.signExtend 64) >>> 32).setWidth 32),
   (.mulhu, fun x y => ((x.setWidth 128 * y.setWidth 128) >>> 64).setWidth 64,
     fun x y => ((x.setWidth 64 * y.setWidth 64) >>> 32).setWidth 32),
   (.mulhsu, fun x y => ((x.signExtend 128 * y.setWidth 128) >>> 64).setWidth 64,
     fun x y => ((x.signExtend 64 * y.setWidth 64) >>> 32).setWidth 32),
   (.div, fun x y => if y = 0 then BitVec.allOnes 64 else BitVec.ofInt 64 (x.toInt.tdiv y.toInt),
     fun x y => if y = 0 then BitVec.allOnes 32 else BitVec.ofInt 32 (x.toInt.tdiv y.toInt)),
   (.divu, fun x y => if y = 0 then BitVec.allOnes 64 else BitVec.ofNat 64 (x.toNat / y.toNat),
     fun x y => if y = 0 then BitVec.allOnes 32 else BitVec.ofNat 32 (x.toNat / y.toNat)),
   (.rem, fun x y => if y = 0 then x else BitVec.ofInt 64 (x.toInt.tmod y.toInt),
     fun x y => if y = 0 then x else BitVec.ofInt 32 (x.toInt.tmod y.toInt)),
   (.remu, fun x y => if y = 0 then x else BitVec.ofNat 64 (x.toNat % y.toNat),
     fun x y => if y = 0 then x else BitVec.ofNat 32 (x.toNat % y.toNat))]

/-- A sum or difference with the capability rule of R262: `moves` says that gA alone is CAP. -/
def moved (a : GReg) (moves : Prop) [Decidable moves] (y : Word) : GReg :=
  if moves then
    ⟨y, a.sh, if capWell a.sh && (y.toNat < 2 ^ 48 && capBase a.val a.sh ≤ y.toNat &&
      (y.toNat : Int) < capBase a.val a.sh + 2 ^ (capE a.sh + 18)) then .cap else .data⟩
  else ⟨y, 0, .data⟩

end

end Sys2Proof.Claims

open Sys2Proof Sys2Proof.Machine Sys2Proof.Claims

/-- R261, R263, R264: AND, OR, XOR, ANDN, SHL, SHR, SAR, ROL, MIN, MAX, MINU, MAXU, SLT, SLTU, MUL, MULH, MULHU, MULHSU, DIV,
DIVU, REM and REMU complete whenever their operands are there, with the table's result as DATA, a .w result sign-extended. -/
def Sys2Proof.Claims.AluCompletes : Prop :=
  ∀ (s : State) (d a b : BitVec 6) (w : BitVec 1), s.ready [.g a, .g b] [.g d] = true →
    ∀ e ∈ aluOps,
      exec (e.1 d a b w) s = .next (s.finish [.g a, .g b] [.g d]
        [Val.data (if w = 0 then e.2.1 (s.wv [.g a, .g b] 0) (s.wv [.g a, .g b] 1)
          else ((e.2.2 ((s.wv [.g a, .g b] 0).setWidth 32) ((s.wv [.g a, .g b] 1).setWidth 32)).signExtend 64))] 4)

/-- R261, R262, R277: ADD, SUB, ADDI, C_ADD, C_SUB, C_ADDI, C_MOV complete with the sum or difference, which moves a
capability when gA alone is CAP and the form is 64 bits wide. -/
def Sys2Proof.Claims.AddSubCompletes : Prop :=
  (∀ (s : State) (d a b : BitVec 6) (w : BitVec 1), s.ready [.g a, .g b] [.g d] = true →
    let x := s.gv [.g a, .g b] 0
    let y := s.gv [.g a, .g b] 1
    let done (r : Word) (r32 : BitVec 32) : Out :=
      .next (s.finish [.g a, .g b] [.g d]
        [.ofG (if w = 0 then moved x (x.tag = .cap ∧ y.tag ≠ .cap) r else ⟨r32.signExtend 64, 0, .data⟩)] 4)
    exec (.add d a b w) s = done (x.val + y.val) (x.val.setWidth 32 + y.val.setWidth 32) ∧
      exec (.sub d a b w) s = done (x.val - y.val) (x.val.setWidth 32 - y.val.setWidth 32)) ∧
  (∀ (s : State) (d a : BitVec 6) (imm : BitVec 12), s.ready [.g a] [.g d] = true →
    let x := s.gv [.g a] 0
    exec (.addi d a imm) s =
      .next (s.finish [.g a] [.g d] [.ofG (moved x (x.tag = .cap) (x.val + imm.signExtend 64))] 4)) ∧
  (∀ (s : State) (d a : BitVec 5), s.ready [.g (d.setWidth 6), .g (a.setWidth 6)] [.g (d.setWidth 6)] = true →
    let l : List Src := [.g (d.setWidth 6), .g (a.setWidth 6)]
    let x := s.gv l 0
    let y := s.gv l 1
    exec (.cAdd d a) s =
        .next (s.finish l [.g (d.setWidth 6)] [.ofG (moved x (x.tag = .cap ∧ y.tag ≠ .cap) (x.val + y.val))] 2) ∧
      exec (.cSub d a) s =
        .next (s.finish l [.g (d.setWidth 6)] [.ofG (moved x (x.tag = .cap ∧ y.tag ≠ .cap) (x.val - y.val))] 2)) ∧
  (∀ (s : State) (d i : BitVec 5), s.ready [.g (d.setWidth 6)] [.g (d.setWidth 6)] = true →
    let x := s.gv [.g (d.setWidth 6)] 0
    exec (.cAddi d i) s =
      .next (s.finish [.g (d.setWidth 6)] [.g (d.setWidth 6)] [.ofG (moved x (x.tag = .cap) (x.val + i.signExtend 64))] 2)) ∧
  (∀ (s : State) (d a : BitVec 5), s.ready [.g (a.setWidth 6)] [.g (d.setWidth 6)] = true →
    let x := s.gv [.g (a.setWidth 6)] 0
    exec (.cMov d a) s =
      .next (s.finish [.g (a.setWidth 6)] [.g (d.setWidth 6)] [.ofG (moved x (x.tag = .cap) x.val)] 2))

/-- R263, R265: CLZ, CTZ, POPC, BREV, BSWAP, ILV2 and ILV3 complete, with a result given bit by bit or by its bounds. -/
def Sys2Proof.Claims.BitCountsComplete : Prop :=
  (∀ (s : State) (d a : BitVec 6), s.ready [.g a] [.g d] = true →
    let x := s.wv [.g a] 0
    (∃ r : Word, exec (.clz d a 0) s = .next (s.finish [.g a] [.g d] [.data r] 4) ∧
      (x = 0 → r = 64) ∧ (x ≠ 0 → r.toNat < 64 ∧ 2 ^ (63 - r.toNat) ≤ x.toNat ∧ x.toNat < 2 ^ (64 - r.toNat))) ∧
    (∃ r : BitVec 32, exec (.clz d a 1) s = .next (s.finish [.g a] [.g d] [.data (r.signExtend 64)] 4) ∧
      (x.setWidth 32 = 0#32 → r = 32) ∧
      (x.setWidth 32 ≠ 0#32 → r.toNat < 32 ∧ 2 ^ (31 - r.toNat) ≤ x.toNat % 2 ^ 32 ∧ x.toNat % 2 ^ 32 < 2 ^ (32 - r.toNat))) ∧
    (∃ r : Word, exec (.ctz d a 0) s = .next (s.finish [.g a] [.g d] [.data r] 4) ∧
      (x = 0 → r = 64) ∧ (x ≠ 0 → x.getLsbD r.toNat = true ∧ ∀ i < r.toNat, x.getLsbD i = false)) ∧
    (∃ r : BitVec 32, exec (.ctz d a 1) s = .next (s.finish [.g a] [.g d] [.data (r.signExtend 64)] 4) ∧
      (x.setWidth 32 = 0#32 → r = 32) ∧
      (x.setWidth 32 ≠ 0#32 → r.toNat < 32 ∧ x.getLsbD r.toNat = true ∧ ∀ i < r.toNat, x.getLsbD i = false)) ∧
    exec (.popc d a 0) s =
      .next (s.finish [.g a] [.g d] [.data (BitVec.ofNat 64 ((List.range 64).countP fun i => x.getLsbD i))] 4) ∧
    exec (.popc d a 1) s =
      .next (s.finish [.g a] [.g d] [.data (BitVec.ofNat 64 ((List.range 32).countP fun i => x.getLsbD i))] 4) ∧
    (∃ r : Word, exec (.brev d a 0) s = .next (s.finish [.g a] [.g d] [.data r] 4) ∧
      ∀ i < 64, r.getLsbD i = x.getLsbD (63 - i)) ∧
    (∃ r : BitVec 32, exec (.brev d a 1) s = .next (s.finish [.g a] [.g d] [.data (r.signExtend 64)] 4) ∧
      ∀ i < 32, r.getLsbD i = x.getLsbD (31 - i)) ∧
    (∃ r : Word, exec (.bswap d a 0) s = .next (s.finish [.g a] [.g d] [.data r] 4) ∧
      ∀ i < 8, r.extractLsb' (8 * i) 8 = x.extractLsb' (8 * (7 - i)) 8) ∧
    (∃ r : BitVec 32, exec (.bswap d a 1) s = .next (s.finish [.g a] [.g d] [.data (r.signExtend 64)] 4) ∧
      ∀ i < 4, r.extractLsb' (8 * i) 8 = x.extractLsb' (8 * (3 - i)) 8)) ∧
  (∀ (s : State) (d a b : BitVec 6), s.ready [.g a, .g b] [.g d] = true →
    let x := s.wv [.g a, .g b] 0
    let y := s.wv [.g a, .g b] 1
    (∃ r : Word, exec (.ilv2 d a b) s = .next (s.finish [.g a, .g b] [.g d] [.data r] 4) ∧
      ∀ i < 32, r.getLsbD (2 * i + 1) = x.getLsbD i ∧ r.getLsbD (2 * i) = y.getLsbD i) ∧
    (∃ r : Word, exec (.ilv3 d a b) s = .next (s.finish [.g a, .g b] [.g d] [.data r] 4) ∧
      (∀ i < 21, r.getLsbD (3 * i + 2) = x.getLsbD i ∧ r.getLsbD (3 * i + 1) = x.getLsbD (21 + i) ∧
        r.getLsbD (3 * i) = y.getLsbD i) ∧ r.getLsbD 63 = false))

/-- R266, R267, R277: ANDI, ORI, XORI, SLTI, SLTUI, SHLI, SHRI, SARI, LUI, AUIPC, C_AND, C_OR, C_XOR, C_LI, C_SHLI, C_SHRI and
C_SARI complete with these results. -/
def Sys2Proof.Claims.ImmediatesComplete : Prop :=
  (∀ (s : State) (d a : BitVec 6), s.ready [.g a] [.g d] = true →
    let x := s.wv [.g a] 0
    let done (r : Word) : Out := .next (s.finish [.g a] [.g d] [.data r] 4)
    (∀ imm : BitVec 12,
      let y : Word := imm.signExtend 64
      exec (.andi d a imm) s = done (x &&& y) ∧ exec (.ori d a imm) s = done (x ||| y) ∧
      exec (.xori d a imm) s = done (x ^^^ y) ∧
      exec (.slti d a imm) s = done (if x.toInt < y.toInt then 1 else 0) ∧
      exec (.sltui d a imm) s = done (if x.toNat < y.toNat then 1 else 0)) ∧
    (∀ n : BitVec 6, exec (.shli d a n) s = done (x <<< n.toNat) ∧ exec (.shri d a n) s = done (x >>> n.toNat) ∧
      exec (.sari d a n) s = done (x.sshiftRight n.toNat))) ∧
  (∀ (s : State) (d : BitVec 6) (imm : BitVec 18), s.ready [] [.g d] = true →
    let u : Word := (imm.signExtend 64) <<< 12
    exec (.lui d imm) s = .next (s.finish [] [.g d] [.data u] 4) ∧
    exec (.auipc d imm) s = .next (s.finish [] [.g d] [.data (s.me.pc + u)] 4)) ∧
  (∀ (s : State) (d a : BitVec 5), s.ready [.g (d.setWidth 6), .g (a.setWidth 6)] [.g (d.setWidth 6)] = true →
    let l : List Src := [.g (d.setWidth 6), .g (a.setWidth 6)]
    let done (r : Word) : Out := .next (s.finish l [.g (d.setWidth 6)] [.data r] 2)
    exec (.cAnd d a) s = done (s.wv l 0 &&& s.wv l 1) ∧ exec (.cOr d a) s = done (s.wv l 0 ||| s.wv l 1) ∧
    exec (.cXor d a) s = done (s.wv l 0 ^^^ s.wv l 1)) ∧
  (∀ (s : State) (d i : BitVec 5), s.ready [] [.g (d.setWidth 6)] = true →
    exec (.cLi d i) s = .next (s.finish [] [.g (d.setWidth 6)] [.data (i.signExtend 64)] 2)) ∧
  (∀ (s : State) (d n : BitVec 5), s.ready [.g (d.setWidth 6)] [.g (d.setWidth 6)] = true →
    let x := s.wv [.g (d.setWidth 6)] 0
    let done (r : Word) : Out := .next (s.finish [.g (d.setWidth 6)] [.g (d.setWidth 6)] [.data r] 2)
    exec (.cShli d n) s = done (x <<< n.toNat) ∧ exec (.cShri d n) s = done (x >>> n.toNat) ∧
    exec (.cSari d n) s = done (x.sshiftRight n.toNat))

/-! ## Branches, jumps, REP -/

/-- R268, R269, R277: BEQ, BNE, BLT, BGE, BLTU, BGEU, BTAG, DBNZ, C_BEQZ and C_BNEZ go to PC + 2 × sext(offset) when their
condition holds, else to the next instruction. BTAG tests the tag of an EMPTY register too. -/
def Sys2Proof.Claims.BranchesComplete : Prop :=
  (∀ (s : State) (a b : BitVec 6) (off : BitVec 12), s.ready [.g a, .g b] [] = true →
    let x := s.wv [.g a, .g b] 0
    let y := s.wv [.g a, .g b] 1
    let goes (p : Bool) : Out :=
      .next (if p then s.finishAt [.g a, .g b] [] [] (s.me.pc + off.signExtend 64 * 2) else s.finish [.g a, .g b] [] [] 4)
    exec (.beq a b off) s = goes (x = y) ∧ exec (.bne a b off) s = goes (x ≠ y) ∧
    exec (.blt a b off) s = goes (x.toInt < y.toInt) ∧ exec (.bge a b off) s = goes (y.toInt ≤ x.toInt) ∧
    exec (.bltu a b off) s = goes (x.toNat < y.toNat) ∧ exec (.bgeu a b off) s = goes (y.toNat ≤ x.toNat)) ∧
  (∀ (s : State) (a : BitVec 6) (off : BitVec 12) (t : BitVec 2),
    let l : List Src := if isGPort a then [.g a] else []
    s.ready l [] = true →
    let tag := if isGPort a then (s.gv l 0).tag else (s.me.getG a).tag
    exec (.btag a off t) s =
      .next (if (t = 0 ∧ tag = .data) ∨ (t = 1 ∧ tag = .cap) ∨ (t = 2 ∧ tag = .empty) then
        s.finishAt l [] [] (s.me.pc + off.signExtend 64 * 2) else s.finish l [] [] 4)) ∧
  (∀ (s : State) (d : BitVec 6) (off : BitVec 12), s.ready [.g d] [.g d] = true →
    let r := s.wv [.g d] 0 - 1
    exec (.dbnz d off) s =
      .next (if r = 0 then s.finish [.g d] [.g d] [.data r] 4
        else s.finishAt [.g d] [.g d] [.data r] (s.me.pc + off.signExtend 64 * 2))) ∧
  (∀ (s : State) (d off : BitVec 5), s.ready [.g (d.setWidth 6), .g 0] [] = true →
    let l : List Src := [.g (d.setWidth 6), .g 0]
    let x := s.wv l 0
    exec (.cBeqz d off) s =
      .next (if x = 0 then s.finishAt l [] [] (s.me.pc + off.signExtend 64 * 2) else s.finish l [] [] 2) ∧
    exec (.cBnez d off) s =
      .next (if x ≠ 0 then s.finishAt l [] [] (s.me.pc + off.signExtend 64 * 2) else s.finish l [] [] 2))

namespace Sys2Proof.Claims

/-- R270: a jump to `t` through `a` meets no check: `a` is DATA, or a well-formed capability with X whose bounds hold the
parcel; `t` is even and below 2^48. -/
def jumpAllowed (a : GReg) (t : Word) : Prop :=
  (a.tag = .cap → capWell a.sh = true ∧ capBase a.val a.sh ≤ t.toNat ∧ (t.toNat : Int) + 2 ≤ capTop a.val a.sh ∧
    hasPerm a.sh pX = true) ∧ t.getLsbD 0 = false ∧ t.toNat < 2 ^ 48

end Sys2Proof.Claims

/-- R270, R277: JAL, JALR, C_J, C_JR and C_RET go to their target; JAL and JALR link the address of the next 32-bit
instruction. -/
def Sys2Proof.Claims.JumpsComplete : Prop :=
  (∀ (s : State) (d : BitVec 6) (off : BitVec 18), s.ready [] [.g d] = true →
    exec (.jal d off) s =
      .next (s.finishAt [] [.g d] [.data (s.me.pc + 4)] (s.me.pc + off.signExtend 64 * 2))) ∧
  (∀ (s : State) (d a : BitVec 6) (imm : BitVec 12), s.ready [.g a] [.g d] = true →
    let t := s.wv [.g a] 0 + imm.signExtend 64
    jumpAllowed (s.gv [.g a] 0) t →
    exec (.jalr d a imm) s = .next (s.finishAt [.g a] [.g d] [.data (s.me.pc + 4)] t)) ∧
  (∀ (s : State) (off : BitVec 10),
    exec (.cJ off) s = .next (s.jump (s.me.pc + off.signExtend 64 * 2))) ∧
  (∀ (s : State) (d : BitVec 5), s.ready [.g (d.setWidth 6)] [.g 0] = true →
    let t := s.wv [.g (d.setWidth 6)] 0
    jumpAllowed (s.gv [.g (d.setWidth 6)] 0) t →
    exec (.cJr d) s = .next (s.finishAt [.g (d.setWidth 6)] [.g 0] [.data (s.me.pc + 4)] t)) ∧
  (∀ (s : State), s.ready [.g 1] [.g 0] = true →
    jumpAllowed (s.gv [.g 1] 0) (s.wv [.g 1] 0) →
    exec .cRet s = .next (s.finishAt [.g 1] [.g 0] [.data (s.me.pc + 4)] (s.wv [.g 1] 0)))

/-- R270: a JALR whose target fails a check takes the first failing check's trap: CAPTAG with the code of A, CAPBOUNDS, CAPPERM,
ALIGN or PAGEFAULT with the target. -/
def Sys2Proof.Claims.JalrTraps : Prop :=
  ∀ (s : State) (d a : BitVec 6) (imm : BitVec 12), s.ready [.g a] [.g d] = true →
    let x := s.gv [.g a] 0
    let t := x.val + imm.signExtend 64
    ¬ jumpAllowed x t →
    exec (.jalr d a imm) s = .next (
      if x.tag = .cap ∧ capWell x.sh = false then s.takeSync .captag (BitVec.ofNat 64 a.toNat)
      else if x.tag = .cap ∧ ((t.toNat : Int) < capBase x.val x.sh ∨ capTop x.val x.sh < (t.toNat : Int) + 2) then
        s.takeSync .capbounds t
      else if x.tag = .cap ∧ hasPerm x.sh pX = false then s.takeSync .capperm t
      else if t.getLsbD 0 then s.takeSync .align t
      else s.takeSync .pagefault t)

/-- R271, R272: a REP of n body instructions that may stand in one, with round count c below 2^24, writes REPST and goes on at
the body's first instruction; with c = 0 it goes past the body. With c of 2^24 or more it traps ILLEGAL. -/
def Sys2Proof.Claims.RepCompletes : Prop :=
  (∀ (s t : State) (a : BitVec 6) (n : BitVec 4) (st : BitVec 5), s.ready [.g a] [] = true →
    let c := s.wv [.g a] 0
    c.toNat < 2 ^ 24 → bodyChecks s (s.me.pc + 4) (n.toNat + 1) = .ok t →
    (c = 0 → exec (.rep a n st) s = .next ((t.commit [.g a] [] []).jump (s.me.pc + 8 + 4 * n.setWidth 64))) ∧
    (c ≠ 0 → ∃ u : State, exec (.rep a n st) s = .next u ∧ u.me.pc = s.me.pc + 4 ∧ u.me.repAct = true ∧ u.me.repS = st.toNat ∧
      u.me.repN = n.toNat ∧ u.me.repK = 0 ∧ u.me.repJ = 0 ∧ u.me.repRem = c.toNat ∧ u.me.g = t.me.g ∧ u.me.v = t.me.v)) ∧
  (∀ (s : State) (a : BitVec 6) (n : BitVec 4) (st : BitVec 5), s.ready [.g a] [] = true →
    2 ^ 24 ≤ (s.wv [.g a] 0).toNat →
    exec (.rep a n st) s = .next (s.takeSync .illegal (BitVec.ofNat 64
      (a.toNat * 2 ^ 26 + st.toNat * 2 ^ 20 + n.toNat * 2 ^ 16 + 2 ^ 15 + 0x1A * 2 ^ 8))))

/-- R271 to R273: while a repetition is active, the end of a body instruction goes to the next one of the round, or to the first
one of the next round with J one more and REM one less, or, after the last round, past the body with REPST 0. -/
def Sys2Proof.Claims.RepSequencer : Prop :=
  ∀ (b : Berth) (len : Nat), b.repAct = true → 0 < b.repRem →
    let r := b.advance len
    r.g = b.g ∧ r.v = b.v ∧
    (b.repK < b.repN → r.pc = b.pc + 4 ∧ r.repAct = true ∧ r.repK = b.repK + 1 ∧ r.repJ = b.repJ ∧ r.repRem = b.repRem ∧
      r.repS = b.repS ∧ r.repN = b.repN) ∧
    (b.repK = b.repN → 1 < b.repRem → r.pc = b.pc - BitVec.ofNat 64 (4 * b.repN) ∧ r.repAct = true ∧ r.repK = 0 ∧
      r.repJ = (b.repJ + 1) % 2 ^ 24 ∧ r.repRem + 1 = b.repRem ∧ r.repS = b.repS ∧ r.repN = b.repN) ∧
    (b.repK = b.repN → b.repRem = 1 → r.pc = b.pc + 4 ∧ r.repst = 0)

/-! ## Capabilities and tags -/

namespace Sys2Proof.Claims

/-- R31: the exponent `e` fits the bounds [x, x + n). -/
def fits (x n e : Nat) : Prop :=
  (x + n + (2 ^ e - 1)) / 2 ^ e * 2 ^ e - x / 2 ^ e * 2 ^ e ≤ (2 ^ 18 - 1) * 2 ^ e

/-- R31: `e` is the smallest exponent in 0 to 30 that fits. -/
def choice (x n e : Nat) : Prop := e ≤ 30 ∧ fits x n e ∧ ∀ k < e, ¬ fits x n k

end Sys2Proof.Claims

/-- R274, R275, R31: CSETB and CSETBX of a well-formed capability complete when the chosen bounds lie in the old ones, for CSETBX
exactly: the shadow holds L, B, E and the old permissions. Both trap CAPBOUNDS, with EVAL the address, when address and length pass 2^48,
when no exponent fits, and when the chosen bounds pass the old ones; CSETBX when they are not exact. -/
def Sys2Proof.Claims.SetBoundsComplete : Prop :=
  ∀ (s : State) (d a b : BitVec 6), s.ready [.g a, .g b] [.g d] = true →
    let l : List Src := [.g a, .g b]
    let r := s.gv l 0
    let x := r.val.toNat
    let n := (s.wv l 1).toNat
    let refused : Prop := ∀ i ∈ [Instr.csetb d a b, Instr.csetbx d a b], exec i s = .next (s.takeSync .capbounds r.val)
    r.tag = .cap → capWell r.sh = true →
    (2 ^ 48 < x + n → refused) ∧
    (x + n ≤ 2 ^ 48 → (∀ e ≤ 30, ¬ fits x n e) → refused) ∧
    (x + n ≤ 2 ^ 48 → ∀ e, choice x n e →
    let lo := x / 2 ^ e * 2 ^ e
    let hi := (x + n + (2 ^ e - 1)) / 2 ^ e * 2 ^ e
    (¬ (capBase r.val r.sh ≤ lo ∧ (hi : Int) ≤ capTop r.val r.sh) → refused) ∧
    (capBase r.val r.sh ≤ lo → (hi : Int) ≤ capTop r.val r.sh →
    let sh := BitVec.ofNat 64 ((hi - lo) / 2 ^ e * 2 ^ 32 + lo / 2 ^ e % 2 ^ 18 * 2 ^ 14 + e * 2 ^ 8 + capP r.sh)
    exec (.csetb d a b) s = .next (s.finish l [.g d] [.ofG ⟨r.val, sh, .cap⟩] 4) ∧
    (lo = x → hi = x + n → exec (.csetbx d a b) s = .next (s.finish l [.g d] [.ofG ⟨r.val, sh, .cap⟩] 4)) ∧
    (¬ (lo = x ∧ hi = x + n) → exec (.csetbx d a b) s = .next (s.takeSync .capbounds r.val))))

/-- R274: CANDP, CSETA, CGETB, CGETT, CGETP and CTOD complete. -/
def Sys2Proof.Claims.CapabilityCompletes : Prop :=
  ∀ (s : State) (d a b : BitVec 6),
    (s.ready [.g a, .g b] [.g d] = true →
      let l : List Src := [.g a, .g b]
      let r := s.gv l 0
      let y := s.wv l 1
      (r.tag = .cap → capWell r.sh = true →
        (∃ sh : Word, exec (.candp d a b) s = .next (s.finish l [.g d] [.ofG ⟨r.val, sh, .cap⟩] 4) ∧
          sh = (r.sh &&& (y ||| ~~~0xFF#64))) ∧
        exec (.cseta d a b) s = .next (s.finish l [.g d] [.ofG ⟨y, r.sh,
          if y.toNat < 2 ^ 48 ∧ capBase r.val r.sh ≤ y.toNat ∧ (y.toNat : Int) < capBase r.val r.sh + 2 ^ (capE r.sh + 18)
          then .cap else .data⟩] 4)) ∧
      (r.tag = .data → exec (.cseta d a b) s = .next (s.finish l [.g d] [.data y] 4))) ∧
    (s.ready [.g a] [.g d] = true →
      let r := s.gv [.g a] 0
      let done (x : GReg) : Out := .next (s.finish [.g a] [.g d] [.ofG x] 4)
      (r.tag = .cap → capWell r.sh = true →
        exec (.cgetb d a) s = done ⟨BitVec.ofInt 64 (capBase r.val r.sh), 0, .data⟩ ∧
        exec (.cgett d a) s = done ⟨BitVec.ofInt 64 (capTop r.val r.sh), 0, .data⟩ ∧
        exec (.cgetp d a) s = done ⟨BitVec.ofNat 64 (capP r.sh), 0, .data⟩ ∧
        exec (.ctod d a) s = done ⟨r.val, r.sh, .data⟩) ∧
      (r.tag = .data →
        exec (.cgetb d a) s = done ⟨0, 0, .data⟩ ∧ exec (.cgett d a) s = done ⟨0, 0, .data⟩ ∧
        exec (.cgetp d a) s = done ⟨0, 0, .data⟩ ∧ exec (.ctod d a) s = done ⟨r.val, r.sh, .data⟩))

/-- R274: a malformed capability traps CAPTAG in every capability instruction, a DATA gA in CSETB, CSETBX and CANDP; EVAL is
the code of A. -/
def Sys2Proof.Claims.CapabilityTraps : Prop :=
  ∀ (s : State) (d a b : BitVec 6),
    let tr : Out := .next (s.takeSync .captag (BitVec.ofNat 64 a.toNat))
    (s.ready [.g a, .g b] [.g d] = true →
      let r := s.gv [.g a, .g b] 0
      ((r.tag ≠ .cap ∨ capWell r.sh = false) →
        exec (.csetb d a b) s = tr ∧ exec (.csetbx d a b) s = tr ∧ exec (.candp d a b) s = tr) ∧
      (r.tag = .cap → capWell r.sh = false → exec (.cseta d a b) s = tr)) ∧
    (s.ready [.g a] [.g d] = true →
      let r := s.gv [.g a] 0
      r.tag = .cap → capWell r.sh = false →
        exec (.cgetb d a) s = tr ∧ exec (.cgett d a) s = tr ∧ exec (.cgetp d a) s = tr ∧ exec (.ctod d a) s = tr)

/-- R276, R277: GTAG writes the tag code of gA, of an EMPTY one too; GCLR and C_GCLR make the registers of their range EMPTY but
for g0 and the ports; GMAP writes the map of the registers that are not EMPTY. -/
def Obligations.TagInstructionsComplete : Prop :=
  (∀ (s : State) (d a : BitVec 6),
    let l : List Src := if isGPort a then [.g a] else []
    s.ready l [.g d] = true →
    let tag := if isGPort a then (s.gv l 0).tag else (s.me.getG a).tag
    exec (.gtag d a) s = .next (s.finish l [.g d]
      [.data (match tag with
        | .data => 0
        | .cap => 1
        | .empty => 2)] 4)) ∧
  (∀ (s : State) (d c : BitVec 6), d.toNat + c.toNat ≤ 63 →
    ∃ t : State, exec (.gclr d c) s = .next t ∧ t.mem = s.mem ∧ t.tags = s.tags ∧ t.me.v = s.me.v ∧ t.me.k = s.me.k ∧
      (s.me.repAct = false → t.me.pc = s.me.pc + 4) ∧
      ∀ r : BitVec 6, t.me.getG r =
        if r ≠ 0 ∧ (r.toNat < 56 ∨ 61 < r.toNat) ∧ d.toNat ≤ r.toNat ∧ r.toNat ≤ d.toNat + c.toNat then GReg.none
        else s.me.getG r) ∧
  (∀ (s : State) (d c : BitVec 5),
    ∃ t : State, exec (.cGclr d c) s = .next t ∧ (s.me.repAct = false → t.me.pc = s.me.pc + 2) ∧
      ∀ r : BitVec 6, t.me.getG r =
        if r ≠ 0 ∧ (r.toNat < 56 ∨ 61 < r.toNat) ∧ d.toNat ≤ r.toNat ∧ r.toNat ≤ d.toNat + c.toNat then GReg.none
        else s.me.getG r) ∧
  (∀ (s : State) (d : BitVec 6), s.ready [] [.g d] = true →
    let done (f : BitVec 6) (p : Nat → Bool) : Prop :=
      ∃ m : Word, exec (.gmap d f) s = .next (s.finish [] [.g d] [.data m] 4) ∧ ∀ i < 64, m.getLsbD i = p i
    done 0 (fun i => i = 0 || (56 ≤ i && i ≤ 61) || (s.me.getG (BitVec.ofNat 6 i)).tag ≠ .empty) ∧
    done 1 (fun i => i < 32 && (28 ≤ i || (s.me.getV (BitVec.ofNat 5 i)).full)) ∧
    done 2 (fun i => i < 4 && (s.me.getK (BitVec.ofNat 2 i)).full) ∧
    done 3 (fun i => i < 4 && s.owns && (s.here.engine.acc.toList.getD i .empty) != .empty) ∧
    done 4 (fun i => if h : i < 4 then s.me.ox[i].full else false))

/-! ## Loads and stores -/

namespace Sys2Proof.Claims

noncomputable section

/-- The loads of R282: constructor, bytes, and how the loaded number fills the register. -/
def loadOps : List ((BitVec 6 → BitVec 6 → BitVec 12 → Instr) × Nat × (Nat → Word)) :=
  [(.ldb, 1, fun x => (BitVec.ofNat 8 x).signExtend 64), (.ldbu, 1, BitVec.ofNat 64),
   (.ldh, 2, fun x => (BitVec.ofNat 16 x).signExtend 64), (.ldhu, 2, BitVec.ofNat 64),
   (.ldw, 4, fun x => (BitVec.ofNat 32 x).signExtend 64), (.ldwu, 4, BitVec.ofNat 64), (.ldd, 8, BitVec.ofNat 64)]

/-- The stores of R282: constructor and bytes. -/
def storeOps : List ((BitVec 6 → BitVec 6 → BitVec 12 → Instr) × Nat) := [(.stb, 1), (.sth, 2), (.stw, 4), (.std, 8)]

/-- A plain load's access: base, code of the base register, effective address, bytes. -/
def loadAt (b : GReg) (code : Nat) (ea : Word) (n : Nat) : Need :=
  { base := b, code := code, ea := ea, n := n, perms := 1, rd := true, wr := false, cs := false, align := 0 }

/-- A plain store's access. -/
def storeAt (b : GReg) (code : Nat) (ea : Word) (n : Nat) : Need :=
  { base := b, code := code, ea := ea, n := n, perms := 2, rd := false, wr := true, cs := false, align := 0 }

end

end Sys2Proof.Claims

/-- R282, R285, R286, R287: LDB, LDBU, LDH, LDHU, LDW, LDWU, LDD, LDX, RLD, C_LDD and C_LDW of memory that the thread reaches
without moving complete with the loaded number, extended as the table says. -/
def Sys2Proof.Claims.LoadsComplete : Prop :=
  (∀ (s t : State) (d a : BitVec 6) (imm : BitVec 12) (x : Nat), s.ready [.g a] [.g d] = true →
    let b := s.gv [.g a] 0
    let ea := b.val + imm.signExtend 64
    (∀ e ∈ loadOps, s.loads (loadAt b a.toNat ea e.2.1) = some (t, x) →
      exec (e.1 d a imm) s = .next (t.finish [.g a] [.g d] [.data (e.2.2 x)] 4)) ∧
    (s.loads { loadAt b a.toNat ea 8 with align := 8 } = some (t, x) →
      exec (.rld d a imm) s = .next (t.finish [.g a] [.g d] [.data (BitVec.ofNat 64 x)] 4))) ∧
  (∀ (s t : State) (d a b : BitVec 6) (q : BitVec 2) (x : Nat), s.ready [.g a, .g b] [.g d] = true →
    let l : List Src := [.g a, .g b]
    s.loads (loadAt (s.gv l 0) a.toNat (s.wv l 0 + s.wv l 1 <<< q.toNat) (2 ^ q.toNat)) = some (t, x) →
    exec (.ldx d a b q) s = .next (t.finish l [.g d] [.data (BitVec.ofNat 64 x)] 4)) ∧
  (∀ (s t : State) (d i : BitVec 5) (x : Nat), s.ready [.g 2] [.g (d.setWidth 6)] = true →
    let b := s.gv [.g 2] 0
    (s.loads (loadAt b 2 (b.val + BitVec.ofNat 64 (8 * i.toNat)) 8) = some (t, x) →
      exec (.cLdd d i) s = .next (t.finish [.g 2] [.g (d.setWidth 6)] [.data (BitVec.ofNat 64 x)] 2)) ∧
    (s.loads (loadAt b 2 (b.val + BitVec.ofNat 64 (4 * i.toNat)) 4) = some (t, x) →
      exec (.cLdw d i) s = .next (t.finish [.g 2] [.g (d.setWidth 6)] [.data ((BitVec.ofNat 32 x).signExtend 64)] 2)))

/-- R282, R285, R287: STB, STH, STW, STD, STX, C_STD and C_STW to memory that the thread reaches without moving complete: the
low bytes of gD are stored. -/
def Sys2Proof.Claims.StoresComplete : Prop :=
  (∀ (s t : State) (d a : BitVec 6) (imm : BitVec 12), s.ready [.g a, .g d] [] = true →
    let l : List Src := [.g a, .g d]
    ∀ e ∈ storeOps,
      s.stores (storeAt (s.gv l 0) a.toNat (s.wv l 0 + imm.signExtend 64) e.2) ((s.wv l 1).toNat % 256 ^ e.2) = some t →
      exec (e.1 d a imm) s = .next (t.finish l [] [] 4)) ∧
  (∀ (s t : State) (d a b : BitVec 6) (q : BitVec 2), s.ready [.g a, .g b, .g d] [] = true →
    let l : List Src := [.g a, .g b, .g d]
    s.stores (storeAt (s.gv l 0) a.toNat (s.wv l 0 + s.wv l 1 <<< q.toNat) (2 ^ q.toNat))
      ((s.wv l 2).toNat % 256 ^ 2 ^ q.toNat) = some t →
    exec (.stx d a b q) s = .next (t.finish l [] [] 4)) ∧
  (∀ (s t : State) (d i : BitVec 5), s.ready [.g 2, .g (d.setWidth 6)] [] = true →
    let l : List Src := [.g 2, .g (d.setWidth 6)]
    (s.stores (storeAt (s.gv l 0) 2 (s.wv l 0 + BitVec.ofNat 64 (8 * i.toNat)) 8) (s.wv l 1).toNat = some t →
      exec (.cStd d i) s = .next (t.finish l [] [] 2)) ∧
    (s.stores (storeAt (s.gv l 0) 2 (s.wv l 0 + BitVec.ofNat 64 (4 * i.toNat)) 4) ((s.wv l 1).toNat % 2 ^ 32) = some t →
      exec (.cStw d i) s = .next (t.finish l [] [] 2)))

/-- R32, R28, R29: LDB to LDD and STB to STD of user code, or through a CAP base, make checks 2 to 5 in their order: a DATA base
and a malformed one trap CAPTAG with the code of A, an access outside the bounds traps CAPBOUNDS, a missing R or W traps CAPPERM,
with the effective address. -/
def Obligations.AccessChecks : Prop :=
  ∀ (s : State) (d a : BitVec 6) (imm : BitVec 12),
    let verdict (b : GReg) (n p : Nat) (o : Out) : Prop :=
      let ea := b.val + imm.signExtend 64
      let inside : Prop := capL b.sh ≠ 0 ∧ capBase b.val b.sh ≤ ea.toNat ∧ (ea.toNat : Int) + n ≤ capTop b.val b.sh
      (s.cb ≠ 0 ∨ b.tag = .cap) →
      ((b.tag ≠ .cap ∨ capWell b.sh = false) → o = .next (s.takeSync .captag (BitVec.ofNat 64 a.toNat))) ∧
      (b.tag = .cap → capWell b.sh = true → ¬ inside → o = .next (s.takeSync .capbounds ea)) ∧
      (b.tag = .cap → capWell b.sh = true → inside → hasPerm b.sh p = false → o = .next (s.takeSync .capperm ea))
    (s.ready [.g a] [.g d] = true →
      ∀ e ∈ loadOps, verdict (s.gv [.g a] 0) e.2.1 1 (exec (e.1 d a imm) s)) ∧
    (s.ready [.g a, .g d] [] = true →
      ∀ e ∈ storeOps, verdict (s.gv [.g a, .g d] 0) e.2 2 (exec (e.1 d a imm) s))

/-- R14, R15, R3, R20: an access in the LM alias reaches the executing core's LM, its bytes in order of address: a load of no
POISON word gives them as a little-endian number, a store to no POISON or SYNC word replaces exactly them. -/
def Sys2Proof.Claims.AliasBytes : Prop :=
  ∀ (s : State) (off n : Nat) (b : GReg) (code : Nat) (x : Nat),
    s.memWf → s.silt.valid = false → s.kern = true → b.tag ≠ .cap → 0 < n → off + n ≤ 0x18000 →
    let ea := BitVec.ofNat 64 (0xF80000000000 + off)
    let k := 2 ^ 49 + s.cur * 2 ^ 17 + off
    ((∀ i < n, (mget s.tags ((k + i) / 8)).toNat ≠ 3) →
      ∃ t : State, s.loads (loadAt b code ea n) = some (t, mgetN s.mem k n) ∧ t = s) ∧
    ((∀ i < n, (mget s.tags ((k + i) / 8)).toNat ≠ 2 ∧ (mget s.tags ((k + i) / 8)).toNat ≠ 3) →
      ∃ t : State, s.stores (storeAt b code ea n) x = some t ∧
        (∀ i < n, mget t.mem (k + i) = BitVec.ofNat 8 (x / 256 ^ i)) ∧
        (∀ c, (c < k ∨ k + n ≤ c) → mget t.mem c = mget s.mem c) ∧
        (∀ i < n, mget t.tags ((k + i) / 8) = 0) ∧
        t.cores = s.cores)

/-- R63, R21: what a store of the executing core leaves alone. When it meets no other copy and needs no other line's place, every
byte of memory at its home but the stored bytes in the core's own LM (and the other bytes of a POISON word there, R22) is as before,
and so are every other word of the core's L1, every other core, and the thread's registers. The places stored to are those that the
access reaches. -/
def Sys2Proof.Claims.StoreFrame : Prop :=
  ∀ (s t u : State) (a : Need) (l : List (Piece × Loc)) (x : Nat),
    s.memWf → s.silt.valid = false → a.n ≤ 8 → s.reach a = some (u, l) → (l.map fun p => p.2.key / 8).Nodup →
    (∀ p ∈ l, ∀ q ∈ l, p.2.key / 64 = q.2.key / 64 → p.2.ctx = q.2.ctx ∧ p.2.slot = q.2.slot) →
    (∀ p ∈ l, p.2.kind ≠ .lm → u.sole p.2 = true) → s.stores a x = some t →
    (∀ c, (∀ p ∈ l, p.2.kind = .lm → (c < p.2.key ∨ p.2.key + p.1.n ≤ c) ∧
      ((mget s.tags (p.2.key / 8)).toNat = 3 → c / 8 ≠ p.2.key / 8)) → mget t.mem c = mget s.mem c) ∧
    (∀ k, (∀ p ∈ l, p.2.key / 8 ≠ k.key / 8) → t.here.l1At k = u.here.l1At k) ∧
    (∀ n, n ≠ s.cur → t.core n = s.core n) ∧
    t.me.g = s.me.g ∧ t.me.v = s.me.v ∧ t.me.k = s.me.k ∧ t.me.status = s.me.status

/-- R60, R63: a word that a core has stored is what it then loads, value and tag; outside LM its L1 owns it as OD. -/
def Sys2Proof.Claims.StoreThenLoad : Prop :=
  ∀ (s : State) (n : Nat) (l : Loc) (v : Word) (t : Nat), s.memWf → s.silt.valid = false → t < 4 →
    (((s.storeWord n l v t).loadRaw n l).2 = (v, t)) ∧
    (l.kind ≠ .lm → (((s.storeWord n l v t).core n).l1At l).map (·.st) = some .od)

/-- R283, R284, R33: LDC of memory that the thread reaches without moving loads the pair at its address: CAP when the pair is CAP and
the base may load one, else DATA. STC stores the value and the shadow, and both words take the register's tag; a CAP one needs SC
of its base and CS of its page. -/
def Sys2Proof.Claims.CapabilityAccessCompletes : Prop :=
  (∀ (s t : State) (d a : BitVec 6) (imm : BitVec 12) (p : Piece) (k : Loc) (r : List (Piece × Loc)),
    s.ready [.g a] [.g d] = true →
    let b := s.gv [.g a] 0
    s.readable { loadAt b a.toNat (b.val + imm.signExtend 64) 16 with align := 16 } = some (t, (p, k) :: r) →
    let w0 := t.loadWord t.cur k
    let w1 := w0.1.loadWord t.cur (k.plus 8)
    exec (.ldc d a imm) s = .next (w1.1.finish [.g a] [.g d] [.ofG ⟨w0.2.1, w1.2.1,
      if w0.2.2 = 1 ∧ (b.tag ≠ .cap ∨ hasPerm b.sh pLC = true) then .cap else .data⟩] 4)) ∧
  (∀ (s t : State) (d a : BitVec 6) (imm : BitVec 12) (p : Piece) (k : Loc) (r : List (Piece × Loc)),
    s.ready [.g a, .g d] [] = true →
    let l : List Src := [.g a, .g d]
    let x := s.gv l 1
    let c : Bool := x.tag = .cap
    let need : Need :=
      { storeAt (s.gv l 0) a.toNat (s.wv l 0 + imm.signExtend 64) 16 with
        perms := if c then 2 ||| 16 else 2, cs := c, align := 16 }
    s.writable need = some (t, (p, k) :: r) →
    let tag := if c then 1 else 0
    exec (.stc d a imm) s =
      .next (((t.storeWord t.cur k x.val tag).storeWord t.cur (k.plus 8) x.sh tag).finish l [] [] 4))

/-- R288, R80, R85: DISC completes: of nothing at once; of a range in the LM alias with no effect on memory; else it discards each
whole word of the private pages of its range. Discarding a word that no object stands in and that no flight has pinned takes the
core's own copy of it away, without a write-back, and changes no memory. -/
def Sys2Proof.Claims.DiscCompletes : Prop :=
  (∀ (s : State) (a b : BitVec 6), s.ready [.g a, .g b] [] = true →
    let l : List Src := [.g a, .g b]
    let va := s.wv l 0
    let n := (s.wv l 1).toNat
    (n = 0 → exec (.disc a b) s = .next ((s.record s.cur 1 0x30 va).finish l [] [] 4)) ∧
    (n ≠ 0 → s.kern = true → (s.gv l 0).tag ≠ .cap → 0xF80000000000 ≤ va.toNat → va.toNat + n ≤ 0xF80000018000 →
      exec (.disc a b) s = .next ((s.record s.cur 1 0x30 va).finish l [] [] 4)) ∧
    (∀ (t : State) (ps : List (Nat × Nat × Loc)), n ≠ 0 → s.discRange (storeAt (s.gv l 0) a.toNat va n) = some (t, ps) →
      exec (.disc a b) s = .next (((discParts t t.cur ps).record t.cur 1 0x30 va).finish l [] [] 4))) ∧
  (∀ (s : State) (n : Nat) (l : Loc), l.kind ≠ .lm → (s.core n).pinned = [] →
    (s.homeWord l).2 ≠ 2 →
    (s.discWord n l).mem = s.mem ∧ (s.discWord n l).tags = s.tags ∧ ((s.discWord n l).core n).l1At l = none ∧
    ∀ k, k.key / 8 ≠ l.key / 8 → ((s.discWord n l).core n).l1At k = (s.core n).l1At k)

/-! ## Atomics, reservations, barriers, logs, fences -/

namespace Sys2Proof.Claims

noncomputable section

/-- The AMOs of R289 but ACAS: the 8-byte constructor, the 4-byte one, the new value from the old one and v at each width. -/
def amoOps : List ((BitVec 6 → BitVec 6 → BitVec 6 → BitVec 2 → Instr) × (BitVec 6 → BitVec 6 → BitVec 6 → BitVec 2 → Instr) ×
    (Word → Word → Word) × (BitVec 32 → BitVec 32 → BitVec 32)) :=
  [(.aadd, .aaddW, fun x v => x + v, fun x v => x + v), (.aand, .aandW, fun x v => x &&& v, fun x v => x &&& v),
   (.aor, .aorW, fun x v => x ||| v, fun x v => x ||| v), (.axor, .axorW, fun x v => x ^^^ v, fun x v => x ^^^ v),
   (.amin, .aminW, fun x v => if v.toInt < x.toInt then v else x, fun x v => if v.toInt < x.toInt then v else x),
   (.amax, .amaxW, fun x v => if x.toInt < v.toInt then v else x, fun x v => if x.toInt < v.toInt then v else x),
   (.aminu, .aminuW, fun x v => if v.toNat < x.toNat then v else x, fun x v => if v.toNat < x.toNat then v else x),
   (.amaxu, .amaxuW, fun x v => if x.toNat < v.toNat then v else x, fun x v => if x.toNat < v.toNat then v else x),
   (.aswap, .aswapW, fun _ v => v, fun _ v => v)]

/-- The REDs of R290 but RFADD: constructor, new value at each width. -/
def redOps : List ((BitVec 6 → BitVec 6 → BitVec 1 → Instr) × (Word → Word → Word) × (BitVec 32 → BitVec 32 → BitVec 32)) :=
  [(.radd, fun x v => x + v, fun x v => x + v), (.rand, fun x v => x &&& v, fun x v => x &&& v),
   (.ror, fun x v => x ||| v, fun x v => x ||| v), (.rxor, fun x v => x ^^^ v, fun x v => x ^^^ v),
   (.rmin, fun x v => if v.toInt < x.toInt then v else x, fun x v => if v.toInt < x.toInt then v else x),
   (.rmax, fun x v => if x.toInt < v.toInt then v else x, fun x v => if x.toInt < v.toInt then v else x),
   (.rminu, fun x v => if v.toNat < x.toNat then v else x, fun x v => if v.toNat < x.toNat then v else x),
   (.rmaxu, fun x v => if x.toNat < v.toNat then v else x, fun x v => if x.toNat < v.toNat then v else x)]

/-- An access that reads and writes `n` aligned bytes. -/
def updateAt (b : GReg) (code n perms : Nat) (rd : Bool) : Need :=
  { base := b, code := code, ea := b.val, n := n, perms := perms, rd := rd, wr := true, cs := false, align := n }

/-- A word updated at its home (R133): its new value stored there as DATA, and what waits for it told. -/
def updated (s : State) (l : Loc) (y : Word) : State := (s.putHome l y 0).changed l y

/-- A 32-bit half of a word: the high one when the address is not a multiple of 8. -/
def halfOf (x : Word) (l : Loc) : BitVec 32 := if l.key % 8 < 4 then x.setWidth 32 else (x >>> 32).setWidth 32

/-- The word with that half replaced. -/
def withHalf (x : Word) (l : Loc) (v : BitVec 32) : Word :=
  if l.key % 8 < 4 then (x >>> 32 <<< 32) ||| v.setWidth 64 else (v.setWidth 64 <<< 32) ||| (x.setWidth 32).setWidth 64

end

end Sys2Proof.Claims

/-- R289, R133: every AMO on a DATA or CAP word of the core's own memory completes: the new value is stored at the word's home in
the same step, and gD takes the old one, sign-extended; with order acq or ar it acquires; with rel or ar the thread's
messages have been performed before (R131). ACAS stores v when the old value is gD's. -/
def Sys2Proof.Claims.AmoCompletes : Prop :=
  ∀ (s u : State) (d a b : BitVec 6) (q : BitVec 2) (k : Loc) (x : Word) (tag : Nat),
    let done (l : List Src) (old : Word) (y : Word) : Out :=
      let t := updated (u.takeHome u.cur k) k y
      .next ((if q.getLsbD 0 then t.acquireHere else t).finish l [.g d] [.data old] 4)
    (u.takeHome u.cur k).homeWord k = (x, tag) → tag ≠ 2 → tag ≠ 3 → (q.getLsbD 1 = true → s.sendsOpen 6 = false) →
    (s.ready [.g a, .g b] [.g d] = true →
      let l : List Src := [.g a, .g b]
      let v := s.wv l 1
      (s.homeAt (updateAt (s.gv l 0) a.toNat 8 3 true) = some (u, k) →
        ∀ e ∈ amoOps, exec (e.1 d a b q) s = done l x (e.2.2.1 x v)) ∧
      (k.key % 4 = 0 → s.homeAt (updateAt (s.gv l 0) a.toNat 4 3 true) = some (u, k) →
        ∀ e ∈ amoOps, exec (e.2.1 d a b q) s =
          done l ((halfOf x k).signExtend 64) (withHalf x k (e.2.2.2 (halfOf x k) (v.setWidth 32))))) ∧
    (s.ready [.g a, .g b, .g d] [.g d] = true →
      let l : List Src := [.g a, .g b, .g d]
      let v := s.wv l 1
      let c := s.wv l 2
      (s.homeAt (updateAt (s.gv l 0) a.toNat 8 3 true) = some (u, k) →
        exec (.acas d a b q) s = done l x (if x = c then v else x)) ∧
      (k.key % 4 = 0 → s.homeAt (updateAt (s.gv l 0) a.toNat 4 3 true) = some (u, k) →
        exec (.acasW d a b q) s = done l ((halfOf x k).signExtend 64)
          (withHalf x k (if halfOf x k = c.setWidth 32 then v.setWidth 32 else halfOf x k))))

/-- R290, R159, R161: every RED on a DATA or CAP word of the core's own memory completes with its new value stored; RFADD adds
FP32 numbers, and with repeatable mode applied it traps NONDET instead. That the home accepts the RED in the step that issues it,
where R160 lets up to 16 wait, is the model's choice (log 2). -/
def Sys2Proof.Claims.RedCompletes : Prop :=
  ∀ (s u : State) (a b : BitVec 6) (k : Loc) (x : Word) (tag : Nat),
    let l : List Src := [.g a, .g b]
    let v := s.wv l 1
    let done (y : Word) : Out := .next ((updated (u.takeHome u.cur k) k y).finish l [] [] 4)
    s.ready l [] = true → (u.takeHome u.cur k).homeWord k = (x, tag) → tag ≠ 2 → tag ≠ 3 →
    (s.homeAt (updateAt (s.gv l 0) a.toNat 8 2 false) = some (u, k) →
      ∀ e ∈ redOps, exec (e.1 a b 0) s = done (e.2.1 x v)) ∧
    (k.key % 4 = 0 → s.homeAt (updateAt (s.gv l 0) a.toNat 4 2 false) = some (u, k) →
      (∀ e ∈ redOps, exec (e.1 a b 1) s = done (withHalf x k (e.2.2 (halfOf x k) (v.setWidth 32)))) ∧
      (s.repApplied = false → exec (.rfadd a b) s =
        done (withHalf x k (BitVec.ofNat 32 (fpAdd fp32 rmRNE (halfOf x k).toNat (v.toNat % 2 ^ 32)).1))) ∧
      (s.repApplied = true → exec (.rfadd a b) s = .next (s.takeSync .nondet (s.wv l 0))))

/-- R57, R154 to R157: reservations are on a granule in one context and under one key slot. LRW of a granule of the core's own memory: makes a DATA granule an object; the first thread holds the
reservation with status 0 and VALUE; a thread that finds it held queues and waits; a repeated LRW of the holder returns VALUE with
status 0 and enters nothing; with 8 reservations of the thread, or 64 at the home, it returns 0 with status 2 and enters nothing. SCH
and RELQ of the holder return 0, and SCH stores; of any other thread they return 1 and change no memory. When the reservations on a
granule are lost none is left, and every queued LRW is over with status 1. -/
def Obligations.ReservationsComplete : Prop :=
  (∀ (s u w : State) (d a b : BitVec 6) (k : Loc) (x0 x1 : Word) (obj : Bool), s.ready [.g a] [.g d, .g b] = true →
    s.homeAt (updateAt (s.gv [.g a] 0) a.toNat 16 35 true) = some (u, k) →
    u.granuleAt k = some (w, x0, x1, obj) → (obj = true → getF x1 60 4 = 0xA) →
    let t := if obj then w else w.putWords k x0 0xA000000000000000 2
    (t.resv.countP fun r => r.node = u.ident.1 && r.berth = u.ident.2) < 8 →
    (t.resv.countP fun r => t.homeId r.gran = t.homeId k.key) < 64 →
    ((∀ r ∈ t.resv, r.on k = true → r.holds = false) →
      ∃ z : State, exec (.lrw d a b) s = .next ((z.acquireHere).finish [.g a] [.g d, .g b] [.data x0, .data 0] 4) ∧
        z.mem = t.mem ∧ z.tags = t.tags ∧
        ∃ r ∈ z.resv, r.gran = k.key ∧ r.holds = true ∧ (r.node, r.berth) = u.ident) ∧
    ((∃ r ∈ t.resv, r.on k = true ∧ r.holds = true) → (∀ r ∈ t.resv, (r.node, r.berth) ≠ u.ident) →
      ∃ z : State, exec (.lrw d a b) s = .next z ∧ z.me.wait = .lrw k.key ∧ z.me.pc = s.me.pc ∧
        ∃ r ∈ z.resv, r.gran = k.key ∧ r.holds = false ∧ (r.node, r.berth) = u.ident)) ∧
  (∀ (s u w : State) (d a b : BitVec 6) (k : Loc) (x0 x1 : Word) (obj : Bool), s.ready [.g a] [.g d, .g b] = true →
    s.homeAt (updateAt (s.gv [.g a] 0) a.toNat 16 35 true) = some (u, k) →
    u.granuleAt k = some (w, x0, x1, obj) → (obj = true → getF x1 60 4 = 0xA) →
    let t := if obj then w else w.putWords k x0 0xA000000000000000 2
    let held : Prop := ∃ r ∈ t.resv, r.on k = true ∧ r.holds = true ∧ (r.node, r.berth) = u.ident
    (held → exec (.lrw d a b) s = .next (t.acquireHere.finish [.g a] [.g d, .g b] [.data x0, .data 0] 4)) ∧
    (¬ held → (8 ≤ (t.resv.countP fun r => r.node = u.ident.1 && r.berth = u.ident.2) ∨
        64 ≤ (t.resv.countP fun r => t.homeId r.gran = t.homeId k.key)) →
      exec (.lrw d a b) s = .next (t.acquireHere.finish [.g a] [.g d, .g b] [.data 0, .data 2] 4))) ∧
  (∀ (s : State) (k : Loc),
    let t := s.loseAll k
    t.mem = s.mem ∧ t.tags = s.tags ∧ (∀ r ∈ t.resv, r.on k = false) ∧ (∀ r ∈ s.resv, r.on k = false → r ∈ t.resv) ∧
    ∀ r ∈ s.resv, r.on k = true → r.holds = false → r.waitBerth < 4 → (t.berthAt r.waitNode r.waitBerth).wait = .done 0 1) ∧
  (∀ (s u w : State) (d a b : BitVec 6) (k : Loc) (x0 x1 : Word) (obj : Bool),
    u.granuleAt k = some (w, x0, x1, obj) → s.sendsOpen 6 = false →
    let mine (r : Resv) : Prop := (r.node, r.berth) = u.ident ∧ r.on k = true ∧ r.holds = true
    (s.ready [.g a, .g b] [.g d] = true →
      s.homeAt (updateAt (s.gv [.g a, .g b] 0) a.toNat 16 35 true) = some (u, k) →
      ((∃ r ∈ w.resv, mine r) → ∃ z : State, exec (.sch d a b) s = .next (z.finish [.g a, .g b] [.g d] [.data 0] 4) ∧
        (∀ r ∈ z.resv, ¬ mine r ∨ ∃ q ∈ w.resv, q.holds = false ∧ { q with holds := true } = r) ∧
        z.mem = (w.putHome k (s.wv [.g a, .g b] 1) 2).mem) ∧
      ((∀ r ∈ w.resv, ¬ mine r) → exec (.sch d a b) s = .next (w.finish [.g a, .g b] [.g d] [.data 1] 4))) ∧
    (s.ready [.g a] [.g d] = true → s.homeAt (updateAt (s.gv [.g a] 0) a.toNat 16 35 true) = some (u, k) →
      ((∃ r ∈ w.resv, mine r) → ∃ z : State, exec (.relq d a) s = .next (z.finish [.g a] [.g d] [.data 0] 4) ∧ z.mem = w.mem) ∧
      ((∀ r ∈ w.resv, ¬ mine r) → exec (.relq d a) s = .next (w.finish [.g a] [.g d] [.data 1] 4))))

/-- R168 to R171, R173, R131: BINIT, BARR, BWAIT, BAW, BEXP, BKILL and BQRY of a granule of the core's own memory, on a DATA granule,
on a live barrier and on another object. BWAIT of another phase returns 0 at once, of this phase it waits; BAW arrives, then waits
for the phase that its arrival met; resumed after a stop, it waits as BWAIT for the phase it has kept. A granule with no object may be a
CAP pair, for which R170's table has no column: the model takes it as a DATA granule, its own choice (log 88). -/
def Sys2Proof.Claims.BarriersComplete : Prop :=
  ∀ (s u w : State) (d a b : BitVec 6) (k : Loc) (x0 x1 : Word) (obj : Bool),
    let l1 : List Src := [.g a]
    let l2 : List Src := [.g a, .g b]
    let v := s.wv l2 1
    let need (r : GReg) : Need := updateAt r a.toNat 16 35 true
    let arrive := x0.toNat % 2 ^ 32
    let live : Prop := obj = true ∧ getF x1 60 4 = 0xB
    let other : Prop := obj = true ∧ getF x1 60 4 ≠ 0xB
    let both (n : Nat) : Word := BitVec.ofNat 64 (n * 2 ^ 32 + n)
    let waits (o : Out) (t : State) (q : Option (Nat × Word)) (warr : Bool) : Prop :=
      ∃ z : State, o = .next z ∧ z.me.wait = .barrier k.key q ∧ z.me.pc = s.me.pc ∧ z.me.warr = warr ∧
        (∃ va : Nat, ⟨k.key, s.cur, s.cb, k.ctx, k.slot, va⟩ ∈ z.barriers) ∧ z.mem = t.mem ∧ z.tags = t.tags
    u.granuleAt k = some (w, x0, x1, obj) → s.cb < 4 →
    (s.ready l2 [] = true → s.homeAt (need (s.gv l2 0)) = some (u, k) →
      (s.sendsOpen 6 = false → 1 ≤ v.toNat → v.toNat < 2 ^ 32 →
        (obj = false → exec (.binit a b) s = .next ((w.putGranule k (both v.toNat) 0xB000000000000000 2).finish l2 [] [] 4)) ∧
        (live → (∀ r ∈ w.barriers, ¬ (r.addr = k.key ∧ r.sees k = true)) → exec (.binit a b) s =
          .next ((w.putGranule k (both v.toNat) (setF (setF x1 0 48 0) 48 8 (getF x1 48 8 + 1)) 2).finish l2 [] [] 4)) ∧
        (live → (∃ r ∈ w.barriers, r.addr = k.key ∧ r.sees k = true) → exec (.binit a b) s = .next (s.takeSync .barstate (s.wv l2 0))) ∧
        (other → exec (.binit a b) s = .next (s.takeSync .barstate (s.wv l2 0)))) ∧
      (v.toNat = 0 ∨ 2 ^ 32 ≤ v.toNat → exec (.binit a b) s = .next (s.takeSync .barstate (s.wv l2 0))) ∧
      (obj = false → exec (.bexp a b) s = .next (w.finish l2 [] [] 4)) ∧
      (live → exec (.bexp a b) s = .next ((w.putBarrier k x0 (setF x1 0 48 (getF x1 0 48 + v.toNat))).finish l2 [] [] 4)) ∧
      (other → exec (.bexp a b) s = .next (s.takeSync .barstate (s.wv l2 0)))) ∧
    (s.ready l2 [.g d] = true → s.homeAt (need (s.gv l2 0)) = some (u, k) →
      (obj = false → exec (.bwait d a b) s = .next (w.acquireHere.finish l2 [.g d] [.data 1] 4)) ∧
      (live → getF x1 48 8 ≠ v.toNat % 256 → exec (.bwait d a b) s = .next (w.acquireHere.finish l2 [.g d] [.data 0] 4)) ∧
      (live → getF x1 48 8 = v.toNat % 256 →
        waits (exec (.bwait d a b) s) (w.putGranule k x0 (setF x1 56 1 1) 2) none s.me.warr) ∧
      (other → exec (.bwait d a b) s = .next (s.takeSync .barstate (s.wv l2 0)))) ∧
    (s.ready l1 [.g d] = true → s.homeAt (need (s.gv l1 0)) = some (u, k) →
      let c := w.putBarrier k (setF x0 0 32 (arrive - 1)) x1
      let clear (t : State) : State := (t.setMe (t.me.setWarr false)).acquireHere
      (s.sendsOpen 6 = false →
        (obj = false → exec (.barr d a) s = .next (w.finish l1 [.g d] [.data (BitVec.allOnes 64)] 4)) ∧
        (live → arrive ≠ 0 → exec (.barr d a) s = .next (c.finish l1 [.g d] [.data (BitVec.ofNat 64 (getF x1 48 8))] 4)) ∧
        (live ∧ arrive = 0 ∨ other → exec (.barr d a) s = .next (s.takeSync .barstate (s.wv l1 0)))) ∧
      (s.me.warr = false → s.sendsOpen 6 = false →
        (obj = false → exec (.baw d a) s = .next ((clear w).finish l1 [.g d] [.data 1] 4)) ∧
        (live ∧ arrive = 0 ∨ other → exec (.baw d a) s = .next (s.takeSync .barstate (s.wv l1 0))) ∧
        (live → arrive ≠ 0 → getF (c.homeWord (k.plus 8)).1 48 8 ≠ getF x1 48 8 →
          exec (.baw d a) s = .next ((clear c).finish l1 [.g d] [.data 0] 4)) ∧
        (live → arrive ≠ 0 → getF (c.homeWord (k.plus 8)).1 48 8 = getF x1 48 8 →
          waits (exec (.baw d a) s)
            (c.putGranule k (c.homeWord k).1 (setF (c.homeWord (k.plus 8)).1 56 1 1) 2)
            (some (d.toNat, BitVec.ofNat 64 (getF x1 48 8))) false)) ∧
      (s.me.warr = true →
        let ph := s.me.g[d.toNat].val
        (obj = false → exec (.baw d a) s = .next ((clear w).finish l1 [.g d] [.data 1] 4)) ∧
        (live → getF x1 48 8 ≠ ph.toNat % 256 → exec (.baw d a) s = .next ((clear w).finish l1 [.g d] [.data 0] 4)) ∧
        (live → getF x1 48 8 = ph.toNat % 256 →
          waits (exec (.baw d a) s) (w.putGranule k x0 (setF x1 56 1 1) 2)
            (some (d.toNat, BitVec.ofNat 64 (ph.toNat % 256))) false) ∧
        (other → exec (.baw d a) s = .next (s.takeSync .barstate (s.wv l1 0))))) ∧
    (s.ready l1 [] = true → s.homeAt (need (s.gv l1 0)) = some (u, k) → s.sendsOpen 6 = false →
      (obj = false → exec (.bkill a) s = .next (w.finish l1 [] [] 4)) ∧
      (obj = true → exec (.bkill a) s =
        .next ((((w.loseAll k).wakeBarrier k 1).putGranule k x0 x1 0).finish l1 [] [] 4))) ∧
    (s.ready l1 [.g d] = true →
      s.homeAt { base := s.gv l1 0, code := a.toNat, ea := (s.gv l1 0).val, n := 16, perms := 1, rd := true, wr := false,
                 cs := false, align := 16 } = some (u, k) →
      exec (.bqry d a) s = .next (w.finish l1 [.g d] [.data x1] 4))

/-- R169, R170, R57: a barrier stored with ARRIVE and BYTES 0 flips: ARRIVE is EXPECT again, PHASE is one more, W is 0, and the wait of
every waiter of the store's context and key slot is over with status 0; stored with another count, it only counts. -/
def Sys2Proof.Claims.BarrierFlips : Prop :=
  ∀ (s : State) (k : Loc) (x0 x1 : Word),
    let t := s.putBarrier k x0 x1
    (x0.toNat % 2 ^ 32 = 0 → x1.toNat % 2 ^ 48 = 0 →
      t.mem = (s.putGranule k (BitVec.ofNat 64 (x0.toNat / 2 ^ 32 * 2 ^ 32 + x0.toNat / 2 ^ 32))
        (setF (setF x1 48 8 (getF x1 48 8 + 1)) 56 1 0) 2).mem ∧
      (∀ w ∈ t.barriers, ¬ (w.addr = k.key ∧ w.sees k = true)) ∧
      (∀ w ∈ s.barriers, ¬ (w.addr = k.key ∧ w.sees k = true) → w ∈ t.barriers) ∧
      (∀ w ∈ s.barriers, w.addr = k.key → w.sees k = true → w.berth < 4 → (t.berthAt w.node w.berth).wait = .done 0 0)) ∧
    (x0.toNat % 2 ^ 32 ≠ 0 ∨ x1.toNat % 2 ^ 48 ≠ 0 → t = s.putGranule k x0 x1 2)

/-- R292, R164, R165: LOGA on a DATA word of the core's own memory, with a sound descriptor, completes: the target is not
changed by it, and LSEQ is one more. Of the target's segment, 64 + 64 SEGREC bytes for each before it, the home reads COUNT0, COUNT1,
ACTIVE and the OVFs. When the active half has room, the record's four words, {OP in [51:48], VA}, the value, the rank and LSEQ, are
stored in its next slot of 32 bytes and its COUNT is one more; when it is full, its OVF alone is one more, up to 2^32 - 1. The record's
rank is the thread's native rank, an inference (log 14), and the log takes it in the step that issues it, the model's choice (log 2). -/
def Sys2Proof.Claims.LogaCompletes : Prop :=
  ∀ (s t u w s0 s1 s2 s3 : State) (d a b : BitVec 6) (g : LogDesc) (k l0 l1 l2 l3 : Loc) (c0 c1 act ovf : Word),
    let l : List Src := [.g a, .g b, .g d]
    let x := s.wv l 1
    s.ready l [] = true → s.me.wait = .none → logDesc s (s.gv l 2) d.toNat = .ok (t, g) → x.toNat / 2 ^ 32 % 4 ≠ 3 →
    t.homeAt (updateAt (s.gv l 0) a.toNat 4 2 false) = some (u, k) →
    u.logaTarget u.cur k = .ok w →
    let n := w.cur
    let word (q : State) (va : Nat) := q.logWord n w.here.ctxid w.kern va
    let base := g.a + logSeg k * (64 + 64 * g.segrec)
    word w base = .ok (s0, l0, c0) → word s0 (base + 8) = .ok (s1, l1, c1) → word s1 (base + 16) = .ok (s2, l2, act) →
    word s2 (base + 24) = .ok (s3, l3, ovf) →
    let half := act.toNat % 2
    let count := (if half = 0 then c0 else c1).toNat
    let done (z : State) : Out :=
      .next ((z.setMe { z.me with status := setF z.me.status 32 16 (z.me.lseq + 1) }).finish l [] [] 4)
    (g.segrec ≤ count → exec (.loga d a b) s =
      done (s3.writeHome n l3 (setF ovf (32 * half) 32 (min (getF ovf (32 * half) 32 + 1) (2 ^ 32 - 1))) 0)) ∧
    (count < g.segrec →
      let slot := base + 64 + 32 * (half * g.segrec + count)
      ∀ (t0 t1 t2 t3 : State) (p0 p1 p2 p3 : Loc) (y0 y1 y2 y3 : Word),
        word s3 slot = .ok (t0, p0, y0) → word t0 (slot + 8) = .ok (t1, p1, y1) → word t1 (slot + 16) = .ok (t2, p2, y2) →
        word t2 (slot + 24) = .ok (t3, p3, y3) →
        let r3 := t3.writeHome n p3 (BitVec.ofNat 64 s.me.lseq) 0
        let r2 := r3.writeHome n p2 (BitVec.ofNat 64 s.nativeRank) 0
        let r1 := r2.writeHome n p1 (BitVec.ofNat 64 (x.toNat % 2 ^ 32)) 0
        let r0 := r1.writeHome n p0 (BitVec.ofNat 64 (x.toNat / 2 ^ 32 % 4 * 2 ^ 48 + s.logVa (s.wv l 0))) 0
        exec (.loga d a b) s =
          done (r0.writeHome n (if half = 0 then l0 else l1) (BitVec.ofNat 64 (count + 1)) 0))

/-- R294, R129, R133, R48: the FENCEs complete; those that acquire, at a scope beyond the thread's own core, drop the V words of the
executing core's L1, but stale ones of pinned lines; those that release wait until the thread's messages in their scope have been
performed; at scope DEVICE or SYSTEM, code 6 or more, all wait while a TLBI of the thread is under way. -/
def Sys2Proof.Claims.FencesComplete : Prop :=
  ∀ (s : State) (sc : BitVec 3),
    ((sc.toNat < 6 ∨ s.tlbiOpen = false) →
      (s.sendsOpen sc.toNat = false → exec (.fenceRel sc) s = .next (s.retire 4)) ∧
      ∀ f ∈ [Instr.fenceAcq sc, Instr.fenceAr sc, Instr.fenceSc sc], (f = .fenceAcq sc ∨ s.sendsOpen sc.toNat = false) →
        ∃ t : State, exec f s = .next (t.retire 4) ∧ t.mem = s.mem ∧ t.tags = s.tags ∧
          (2 ≤ sc.toNat → ∀ w ∈ t.here.l1, w.st = .v → w.stale = true) ∧
          ∀ w ∈ s.here.l1, w.st ≠ .v → w ∈ t.here.l1) ∧
    (s.sendsOpen sc.toNat = true → ∀ f ∈ [Instr.fenceRel sc, Instr.fenceAr sc, Instr.fenceSc sc], exec f s = .next s) ∧
    (6 ≤ sc.toNat → s.tlbiOpen = true →
      ∀ f ∈ [Instr.fenceAcq sc, Instr.fenceRel sc, Instr.fenceAr sc, Instr.fenceSc sc], exec f s = .next s)

/-- R174, R295: WAITGE and WAITNE of a word of the core's own memory that already passes complete and acquire; else the thread
waits, registered with the word's home. WAITGE passes when the word less the operand has bit 31 clear, WAITNE when they differ. -/
def Sys2Proof.Claims.WaitsComplete : Prop :=
  ∀ (s u t : State) (a b : BitVec 6) (k : Loc) (x : Word) (tag : Nat),
    let l : List Src := [.g a, .g b]
    let c : BitVec 32 := (s.wv l 1).setWidth 32
    s.ready l [] = true →
    s.homeAt { base := s.gv l 0, code := a.toNat, ea := (s.gv l 0).val, n := 4, perms := 1, rd := true, wr := false,
               cs := false, align := 4 } = some (u, k) →
    u.loadWord u.cur k = (t, x, tag) → tag ≠ 3 →
    ((halfOf x k - c).msb = false → exec (.waitge a b) s = .next (t.acquireHere.finish l [] [] 4)) ∧
    (halfOf x k ≠ c → exec (.waitne a b) s = .next (t.acquireHere.finish l [] [] 4)) ∧
    ((halfOf x k - c).msb = true → s.cb < 4 → ∃ z : State, exec (.waitge a b) s = .next z ∧ z.me.pc = s.me.pc ∧
      ⟨k.key, s.cur, s.cb, k.ctx, k.slot, (s.wv l 0).toNat⟩ ∈ z.words ∧ z.me.wait = .word k.key false c) ∧
    (halfOf x k = c → s.cb < 4 → ∃ z : State, exec (.waitne a b) s = .next z ∧ z.me.pc = s.me.pc ∧
      ⟨k.key, s.cur, s.cb, k.ctx, k.slot, (s.wv l 0).toNat⟩ ∈ z.words ∧ z.me.wait = .word k.key true c)

/-! ## Copies, tags, messages, ports -/

namespace Sys2Proof.Claims

noncomputable section

/-- The four registers of quad `q` (R299). -/
def quadOf (q : BitVec 4) : List Src := (List.range 4).map fun i => .g (BitVec.ofNat 6 (4 * q.toNat + i))

def quadTo (q : BitVec 4) : List Dst := (List.range 4).map fun i => .g (BitVec.ofNat 6 (4 * q.toNat + i))

/-- The sources of a copy request (R299, R305): the quad, and gB when the quad's third word has NOTIFY; a copy of no bytes does not
read DST, nor AUX without BAR. -/
def requestSrcs (s : State) (q : BitVec 4) (b : BitVec 6) : List Src :=
  let r (i : Nat) : BitVec 6 := BitVec.ofNat 6 (4 * q.toNat + i)
  let x := s.me.getG (r 2)
  let empty : Bool := x.tag ≠ .empty && x.val.toNat % 2 ^ 48 = 0
  [.g (r 0), .g (if empty then 0 else r 1), .g (r 2), .g (if empty && !x.val.getLsbD 57 then 0 else r 3)] ++
    (if x.val.getLsbD 54 then [.g b] else [])

/-- The entry of a copy request that passes its checks (R300), and the state after them. -/
def asks (s : State) (k : CopyKind) (q : BitVec 4) (l : List Src) : Option (State × CopyEntry) :=
  match copyRequest s k q (s.readSrcs l []) with
  | .ok r => some r
  | .error _ => none

end

end Sys2Proof.Claims

/-- R299, R301, R305, R131: COPY, COPYD, COPYC and COPYNB whose request passes its checks, with the thread's messages performed,
complete while the FIFO has room: the entry is accepted with the quad's source, destination, length and tag (one of no bytes carries
the raw register of DST: model's choice, log 100). With the FIFO full COPYNB returns 1 and the others wait. -/
def Sys2Proof.Claims.CopiesComplete : Prop :=
  ∀ (s t : State) (e : CopyEntry) (d : BitVec 6) (a : BitVec 4) (b : BitVec 6), s.cb < 2 →
    let l := requestSrcs s a b
    let asked (k : CopyKind) : Prop := asks s k a l = some (t, e)
    let len := (s.wv l 2).toNat % 2 ^ 48
    let sound (k : CopyKind) : Prop :=
      e.kind = k ∧ e.src = s.gv l 0 ∧ e.len = len ∧
      e.dst = (if len = 0 then s.me.getG (BitVec.ofNat 6 (4 * a.toNat + 1)) else s.gv l 1) ∧
      e.tag = (s.wv l 2).toNat / 2 ^ 48 % 64 ∧ e.berth = s.cb
    (s.ready l [] = true →
      ∀ c ∈ [(Instr.copy a b, CopyKind.copy), (Instr.copyd a b, CopyKind.deal), (Instr.copyc a b, CopyKind.crypt)],
        asked c.2 → sound c.2 ∧
        (s.sendsOpen 6 = false → t.here.fifo.length < 16 → exec c.1 s = .next ((t.accept e).finish l [] [] 4)) ∧
        (16 ≤ t.here.fifo.length → exec c.1 s = .next s)) ∧
    (s.ready l [.g d] = true → asked .copy → sound .copy ∧
      (s.sendsOpen 6 = false → t.here.fifo.length < 16 →
        exec (.copynb d a b) s = .next ((t.accept e).finish l [.g d] [.data 0] 4)) ∧
      (16 ≤ t.here.fifo.length → exec (.copynb d a b) s = .next (s.finish l [.g d] [.data 1] 4)))

/-- R301, R305, R311: acceptance puts an entry that has bytes to move at the end of the FIFO, to start later; with no other
entry of its tag in the FIFO the tag's bit and its status word are cleared. -/
def Sys2Proof.Claims.CopyAccepted : Prop :=
  ∀ (s : State) (e : CopyEntry), e.len ≠ 0 → e.tag < 64 → e.moved = false →
    let t := s.accept e
    t.here.fifo = s.here.fifo ++ [e] ∧ .copyStart (BitVec.ofNat 12 s.cur) ∈ t.agenda ∧ t.mem = s.mem ∧
    ((∀ x ∈ s.here.fifo, x.tag ≠ e.tag) → t.here.tags.getLsbD e.tag = false ∧ t.here.tagStatus e.tag = 0)

/-- R293, R166: MERGE with a sound descriptor completes while the FIFO has room: a merge entry for the log is accepted. -/
def Sys2Proof.Claims.MergeCompletes : Prop :=
  ∀ (s t : State) (g : LogDesc) (a b : BitVec 6), s.cb < 2 →
    let l : List Src := [.g a, .g b]
    s.ready l [] = true → s.sendsOpen 6 = false → logDesc s (s.gv l 0) a.toNat = .ok (t, g) →
    (s.cb = 0 ↔ 48 ≤ (s.wv l 1).toNat % 64) → t.here.fifo.length < 16 →
    ∃ e : CopyEntry, exec (.merge a b) s = .next ((t.accept e).finish l [] [] 4) ∧ e.kind = .merge ∧ e.src = s.gv l 0 ∧
      e.tag = (s.wv l 1).toNat % 64 ∧ e.aux.val = BitVec.ofNat 64 g.a ∧ e.notify = (s.wv l 1).getLsbD 8

/-- R311, R320, R180, R131, R134: TWANY, TWALL, TFF, TCLR, TGET, C_TWANY and C_TFF in a native berth; user code acts on tags 0 to 47
only. TFF returns, and clears, the bit of the mask that was set earliest. With .acq, as in the 16-bit forms, an observation of a tag
acquires. Where the tags of the mask are not set TWANY, TWALL and TFF wait. -/
def Obligations.TagsComplete : Prop :=
  ∀ (s : State), s.cb < 2 →
    let mask (x : Word) : Word := if s.cb = 0 then x else x &&& 0x0000FFFFFFFFFFFF
    let tags := s.here.tags
    let seen (acq : Bool) (t : State) : State := if acq then t.acquireHere else t
    let first (m : Word) : Option Nat := s.here.tagOrder.find? fun j => m.getLsbD j && tags.getLsbD j
    (∀ (d a : BitVec 6) (q : BitVec 1), s.ready [.g a] [.g d] = true →
      let m := mask (s.wv [.g a] 0)
      let done (t : State) (v : Word) : Out := .next (t.finish [.g a] [.g d] [.data v] 4)
      (m = 0 → exec (.twany d a q) s = done s 0 ∧ exec (.twall d a q) s = done s 0 ∧
        exec (.tff d a q) s = done s (BitVec.allOnes 64)) ∧
      (tags &&& m ≠ 0 → exec (.twany d a q) s = done (seen (q = 1) s) (tags &&& m)) ∧
      (m ≠ 0 → tags &&& m = 0 → exec (.twany d a q) s = .next s) ∧
      (m ≠ 0 → tags &&& m = m → exec (.twall d a q) s = done (seen (q = 1) s) (tags &&& m)) ∧
      (tags &&& m ≠ m → exec (.twall d a q) s = .next s) ∧
      (∀ i, first m = some i →
        exec (.tff d a q) s = done (seen (q = 1) (s.setHere (s.here.clearTag i))) (BitVec.ofNat 64 i)) ∧
      (m ≠ 0 → first m = none → exec (.tff d a q) s = .next s) ∧
      (s.cb = 0 ∨ (s.wv [.g a] 0).toNat % 64 < 48 →
        exec (.tget d a) s = done s (s.here.tagStatus ((s.wv [.g a] 0).toNat % 64)))) ∧
    (∀ (a : BitVec 6), s.ready [.g a] [] = true →
      ∃ t : State, exec (.tclr a) s = .next (t.finish [.g a] [] [] 4) ∧ t.here.tags = tags &&& ~~~(mask (s.wv [.g a] 0)) ∧
        t.here.fifo = s.here.fifo ∧ t.mem = s.mem) ∧
    (∀ (d a : BitVec 5), s.ready [.g (a.setWidth 6)] [.g (d.setWidth 6)] = true →
      let m := mask (s.wv [.g (a.setWidth 6)] 0)
      let done (t : State) (v : Word) : Out := .next (t.finish [.g (a.setWidth 6)] [.g (d.setWidth 6)] [.data v] 2)
      (m = 0 → exec (.cTwany d a) s = done s 0 ∧ exec (.cTff d a) s = done s (BitVec.allOnes 64)) ∧
      (tags &&& m ≠ 0 → exec (.cTwany d a) s = done s.acquireHere (tags &&& m)) ∧
      (∀ i, first m = some i →
        exec (.cTff d a) s = done (s.setHere (s.here.clearTag i)).acquireHere (BitVec.ofNat 64 i)))

/-- R312, R184, R409: SEND from a native berth to a rank that its NI finds valid, with nothing held for it, puts a packet with the
quad's four words, the sender's native rank and the destination rank into the network: a normal message, or with U an urgent
one, which only kernel code may send; with bit 63 of its operand an urgent one goes to a node, with context 0. That a kernel's message
carries rank 0, the native rank of B0, is the model's reading (log 14). -/
def Sys2Proof.Claims.SendCompletes : Prop :=
  ∀ (s : State) (a : BitVec 4) (b : BitVec 6) (u : BitVec 1),
    let l := quadOf a ++ [.g b]
    let x := s.wv l 4
    let rank := x.toNat % 2 ^ 10
    let node := x.toNat % 2 ^ 12
    let reached (k : Nat) : Prop := isRill s.cur = false ∨ 0x800 ≤ k ∨ s.bridge = true
    let carries (m : Msg) : Prop :=
      m.srank = s.nativeRank ∧ m.notice = false ∧
      [m.w0, m.w1, m.w2, m.w3] = [s.wv l 0, if (s.gv l 0).tag = .cap then (s.gv l 0).sh else s.wv l 1,
        s.wv l 2, if (s.gv l 2).tag = .cap then (s.gv l 2).sh else s.wv l 3] ∧
      (m.cmap.getLsbD 0 = true ↔ (s.gv l 0).tag = .cap ∧ capWell (s.gv l 0).sh = true ∧ hasPerm (s.gv l 0).sh pG = true) ∧
      (m.cmap.getLsbD 2 = true ↔ (s.gv l 2).tag = .cap ∧ capWell (s.gv l 2).sh = true ∧ hasPerm (s.gv l 2).sh pG = true)
    let sends (p : Packet) : Prop :=
      ∃ t : State, exec (.send a b u) s = .next (t.finish l [] [] 4) ∧ t.net = s.net ++ [p] ∧ p.event ∈ t.agenda ∧ t.mem = s.mem
    s.ready l [] = true → s.cb < 2 → s.me.wait = .none →
    (∀ v k, (u = 0 ∨ s.cb = 0 ∧ x.getLsbD 63 = false) → s.findRank s.cur s.here.ctxid rank = (v, .valid k) → reached k →
      ∃ (p : Packet) (m : Msg), sends p ∧ p.dst = k ∧ p.drank = rank ∧ p.ctx = s.here.ctxid ∧
        p.body = (if u = 1 then .umsg m else .nmsg m) ∧ carries m) ∧
    (u = 1 → s.cb = 0 → x.getLsbD 63 = true → s.usedNode node = true → reached node →
      ∃ (p : Packet) (m : Msg), sends p ∧ p.dst = node ∧ p.ctx = 0 ∧ p.ranked = false ∧ p.body = .umsg m ∧ carries m)

/-- R313, R314, R185: RECV, C_RECV and RECVNB take the oldest message of the berth's inbox, the urgent one for kernel code: its
words go to the quad, a pair of CAP words as a capability, the sender's rank to gB. With the inbox empty RECVNB returns bit 63
and RECV waits. -/
def Sys2Proof.Claims.ReceiveCompletes : Prop :=
  ∀ (s : State), s.cb < 2 →
    let box := if s.cb = 0 then s.here.urgent else s.here.inbox
    let got (m : Msg) : State := if m.notice then s.popInbox.acquireHere else s.popInbox
    let vals (m : Msg) : List Val :=
      [.ofG (if m.cmap.getLsbD 0 && m.cmap.getLsbD 1 then ⟨m.w0, m.w1, .cap⟩ else ⟨m.w0, 0, .data⟩), .data m.w1,
       .ofG (if m.cmap.getLsbD 2 && m.cmap.getLsbD 3 then ⟨m.w2, m.w3, .cap⟩ else ⟨m.w2, 0, .data⟩), .data m.w3,
       .data (BitVec.ofNat 64 ((if m.notice then 2 ^ 16 else 0) + m.srank % 2 ^ 10))]
    (∀ (d : BitVec 4) (b : BitVec 6),
      (∀ m r, box = m :: r → s.ready [] (quadTo d ++ [.g b]) = true →
        exec (.recv d b) s = .next ((got m).finish [] (quadTo d ++ [.g b]) (vals m) 4) ∧
        exec (.recvnb d b) s = .next ((got m).finish [] (quadTo d ++ [.g b]) (vals m) 4)) ∧
      (box = [] → s.ready [] (quadTo d ++ [.g b]) = true → exec (.recv d b) s = .next s) ∧
      (box = [] → s.ready [] [.g b] = true →
        exec (.recvnb d b) s = .next (s.finish [] [.g b] [.data 0x8000000000000000] 4))) ∧
    (∀ (d : BitVec 3) m r, box = m :: r → s.ready [] (quadTo (d.setWidth 4) ++ [.g 0]) = true →
      exec (.cRecv d) s = .next ((got m).finish [] (quadTo (d.setWidth 4) ++ [.g 0]) (vals m) 2))

/-- R315, R316: HOME and MIGRATE to the thread's own core only go on; a guest's HOME sends it home; MIGRATE toward a valid rank
of another core sends the thread there; RANK returns the native rank, the core's rank and the context's size; INQ, of kernel
code, puts a sound entry of the core's own LM into its queue. -/
def Obligations.MovesComplete : Prop :=
  (∀ s : State, s.cb < 2 → exec .home s = .next (s.retire 4)) ∧
  (∀ s : State, 2 ≤ s.cb → exec .home s = .next (s.sendHome s.cur s.cb none false)) ∧
  (∀ (s : State) (a : BitVec 6), s.cb = 1 → s.ready [.g a] [] = true →
    let need : Need := ⟨s.gv [.g a] 0, a.toNat, s.wv [.g a] 0, 1, 0, false, false, false, 0⟩
    capChecks false need = .ok () → s.pinned = false →
    ((∃ o, place (s.wv [.g a] 0).toNat = .alias_ o ∨ place (s.wv [.g a] 0).toNat = .window s.here.rank o) →
      exec (.migrate a) s = .next (s.finish [.g a] [] [] 4)) ∧
    (∀ r o u k, place (s.wv [.g a] 0).toNat = .window r o → r ≠ s.here.rank →
      windowCheck s need r = .ok (u, .valid k) → u.sendsOpen 6 = false →
      exec (.migrate a) s = .next ((u.finish [.g a] [] [] 4).sendAway s.cur 1 r k s.me.pc))) ∧
  (∀ (s : State) (d : BitVec 6), s.cb < 2 → s.ready [] [.g d] = true →
    let h := s.headerVal s.here.ctxid 0
    exec (.rank d) s = .next (s.finish [] [.g d]
      [.data (BitVec.ofNat 64 (getF h 22 10 * 2 ^ 42 + getF h 12 10 * 2 ^ 32 + s.here.rank * 2 ^ 16 + s.nativeRank))] 4)) ∧
  (∀ (s : State) (d a : BitVec 6) (o : Nat) (ws : List Word), s.cb = 0 → s.ready [.g a] [.g d] = true →
    s.lmEntry (s.wv [.g a] 0) = some o →
    capChecks true ⟨s.gv [.g a] 0, a.toNat, s.wv [.g a] 0, 128, pR, true, false, false, 0⟩ = .ok () →
    entryLoad s (s.wv [.g a] 0) o = .ok ws →
    let done (t : State) (v : Word) : Out := .next (t.finish [.g a] [.g d] [.data v] 4)
    exec (.inq d a) s =
      (if s.here.malformed (arrivalOf ws) then done s 2
       else if s.here.roomFor (arrivalOf ws) then done (s.enqueue s.cur (arrivalOf ws)) 0 else done s 1))

/-- R317, R318, R194: PORTB binds a port, PN to PB or VN to VW, whose outbound queue is empty to a port of the same kind of a valid rank
or of a rank of the peer, which is not checked, or unbinds it, and the rank keeps the binding; PORTQ returns the PEER bit, TPORT and
TRANK of a bound port's binding, whether it is bound, LOST, and how many values its queues hold, 0 in every other bit, and clears
LOST. -/
def Obligations.PortsComplete : Prop :=
  let names (x p : Nat) : Prop := x < 6 ∧ p = x ∨ 8 ≤ x ∧ x < 12 ∧ p = x - 2
  (∀ (s u : State) (a b : BitVec 6) (k p q : Nat), s.cb < 2 → s.ready [.g a, .g b] [] = true →
    let l : List Src := [.g a, .g b]
    let x := s.wv l 1
    (∀ i < 64, (10 ≤ i ∧ i < 16 ∨ 20 ≤ i ∧ i < 24 ∨ 26 ≤ i ∧ i < 31 ∨ 32 ≤ i) → x.getLsbD i = false) →
    names (s.wv l 0).toNat p → (s.here.port p).outq = [] →
    (x.getLsbD 31 = true →
      exec (.portb a b) s =
        .next (((s.setHere (s.here.setPort p { s.here.port p with bind := .unbound })).keepBinds s.cur).finish l [] [] 4)) ∧
    (x.getLsbD 31 = false → names (x.toNat / 2 ^ 16 % 16) q → (p < 6 ↔ q < 6) →
      (x.getLsbD 24 = false → s.lookRank s.cur s.here.ctxid (x.toNat % 2 ^ 10) = (u, .valid k) →
        exec (.portb a b) s = .next (((u.setHere (u.here.setPort p { u.here.port p with
          bind := .to ⟨false, 0, x.toNat % 2 ^ 10, q⟩ })).keepBinds u.cur).finish l [] [] 4)) ∧
      (x.getLsbD 24 = true →
        exec (.portb a b) s = .next (((s.setHere (s.here.setPort p { s.here.port p with
          bind := .to ⟨true, x.toNat / 2 ^ 25 % 2, x.toNat % 2 ^ 10, q⟩ })).keepBinds s.cur).finish l [] [] 4)))) ∧
  (∀ (s : State) (d a : BitVec 6) (p : Nat), s.cb < 2 → s.ready [.g a] [.g d] = true →
    names (s.wv [.g a] 0).toNat p →
    ∃ w : Word, exec (.portq d a) s = .next ((s.setHere (s.here.setPort p { s.here.port p with lost := false })).finish
        [.g a] [.g d] [.data w] 4) ∧
      ((s.here.port p).inq.length ≤ 8 → (s.here.port p).outq.length ≤ 8 →
        let low := (if (s.here.port p).lost then 2 ^ 17 else 0) + (s.here.port p).outq.length * 2 ^ 8 + (s.here.port p).inq.length
        (∀ (x : Binding) (c : Nat), s.binding s.cur p = some x → names c x.port → x.rank < 2 ^ 10 →
          w = BitVec.ofNat 64 ((if x.peer then 2 ^ 48 else 0) + c * 2 ^ 44 + x.rank * 2 ^ 32 + 2 ^ 16 + low)) ∧
        (s.binding s.cur p = none → w.toNat % 2 ^ 32 = low ∧
          ∀ i < 64, i = 42 ∨ i = 43 ∨ 49 ≤ i → w.getLsbD i = false)))

/-! ## Tasks and dispatchers -/

/-- R319, R400, R344, R131: LAUNCH of a sound word by code that may use its priority, with its records in memory of the core's own
and its messages performed, hands the launch to its island's dispenser and returns 0 when it accepts, else 1. LBND goes on, and the core of a
thread takes its pending pool tag there; while a move of its context waits for boundaries, the thread stops after it. A TEXIT with no MMA in flight, its messages performed, ends the
thread: B1 holds no thread any more and its registers are EMPTY. -/
def Sys2Proof.Claims.TasksComplete : Prop :=
  (∀ (s t : State) (d a b : BitVec 6) (ls : List (Piece × Loc)), s.cb < 2 → s.ready [.g a, .g b] [.g d] = true →
    let l : List Src := [.g a, .g b]
    let x := s.wv l 1
    let isl := x.toNat / 2 ^ 26 % 2
    x.toNat % 2 ^ 16 ≠ 0 → x.toNat < 2 ^ 27 → (s.cb = 0 ∨ x.toNat / 2 ^ 16 % 4 ≠ 0) →
    (isl = 1 ∨ isRill s.cur = false ∨ s.bridge = true) →
    s.reach { base := s.gv l 0, code := a.toNat, ea := (s.gv l 0).val, n := 32 * (x.toNat % 2 ^ 16), perms := 1, rd := true,
              wr := false, cs := false, align := 32 } = some (t, ls) →
    t.launchWait x = none → t.sendsOpen 6 = false →
    exec (.launch d a b) s = .next (((t.launch isl t.here.ctxid (s.gv l 0) x).1).finish l [.g d]
      [.data (if (t.launch isl t.here.ctxid (s.gv l 0) x).2 then 0 else 1)] 4)) ∧
  (∀ (s : State) (a : BitVec 6), s.cb = 0 → s.ready [.g a] [] = true →
    exec (.lbnd a) s = .next ((s.record s.cur 2 4 (BitVec.ofNat 64 ((s.wv [.g a] 0).toNat % 2 ^ 32))).finish [.g a] [] [] 4)) ∧
  (∀ (s : State) (a : BitVec 6), s.cb = 1 → s.ready [.g a] [] = true → s.portage.phase ≠ 1 →
    let t := (s.record s.cur 2 4 (BitVec.ofNat 64 ((s.wv [.g a] 0).toNat % 2 ^ 32))).finish [.g a] [] [] 4
    exec (.lbnd a) s = .next (t.rebind t.cur)) ∧
  (∀ (s : State) (a : BitVec 6), s.cb = 1 → s.ready [.g a] [] = true → s.portage.phase = 1 →
    getF s.portage.run 0 12 = s.here.ctxid →
    ∃ t : State, exec (.lbnd a) s = .next t ∧ t.me.wait = .lbnd ∧ (s.me.repAct = false → t.me.pc = s.me.pc + 4)) ∧
  (∀ s : State, s.cb = 1 → s.here.engine.mmaBusy 1 = false → s.sendsOpen 6 = false →
    ∃ t : State, exec .texit s = .next t ∧ t.here.b1.occupied = false ∧ t.here.preempt = none ∧ t.mem = s.mem ∧
      (∀ r : BitVec 6, r ≠ 0 → (t.here.b1.getG r).tag = .empty) ∧ (∀ r : BitVec 5, (t.here.b1.getV r).full = false))

/-- R319, R416, R417, R418, R426: TYIELD of a thread outside a gang raises PREEMPT, with reason 1 unless one is pending. With B0 idle and no
cause before it in the order of R418, it is entered at once: B1 stops after the instruction, which EPC names, and B0 starts at TVEC with
SB and TB naming B1. Otherwise B1 stops there with PREEMPT pending; that it stops at once is the model's choice (log 33). A gang member
only goes on. -/
def Sys2Proof.Claims.TyieldCompletes : Prop :=
  ∀ s : State, s.cb = 1 →
    (s.me.gang.isSome = true → exec .tyield s = .next (s.retire 4)) ∧
    (s.me.gang = none → s.here.idle0 = false →
      ∃ t : State, exec .tyield s = .next t ∧ t.here.b1.stopped = true ∧ t.here.preempt = some (s.here.preempt.getD 1) ∧
        (s.me.repAct = false → t.here.b1.pc = s.me.pc + 4) ∧ t.here.b1.g = s.me.g ∧ t.here.b0.pc = s.here.b0.pc) ∧
    (s.me.gang = none → ∃ t : State, exec .tyield s = .next t ∧ t.here.b1.stopped = true ∧ t.here.b1.g = s.me.g) ∧
    (s.me.gang = none → s.here.idle0 = true → s.here.power = .run → s.here.stoppedBy = false → s.here.away = false →
      s.me.occupied = true → s.me.stopped = false → s.here.pendSync = none → s.here.urgent = [] → s.here.wakeSrc = none → s.here.b0.timecmp = 0 →
      s.me.timecmp = 0 →
      ∃ t : State, exec .tyield s = .next t ∧ t.here.b1.stopped = true ∧ t.here.preempt = none ∧
        (s.me.repAct = false → t.here.b1.epc = (s.me.pc + 4) &&& 0x0000FFFFFFFFFFFF) ∧ t.here.b1.cause = Cause.preempt.code ∧
        t.here.b1.eval = BitVec.ofNat 64 (s.here.preempt.getD 1) ∧ t.here.b1.g = s.me.g ∧ t.here.idle0 = false ∧
        t.here.b0.pc = s.here.tvec &&& 0x0000FFFFFFFFFFFE ∧ t.here.b0.sb = 1 ∧ t.here.b0.tb = 1 ∧ t.here.b0.ktrap = false ∧
        t.here.b0.g = s.here.b0.g ∧ t.here.b2.stopped = s.here.b2.stopped ∧ t.here.b3.stopped = s.here.b3.stopped)

/-- R402 to R405, R407, R408, R409, R411, R424: the dispensers' steps. DISPATCH_SLOT of an enabled dispenser offers one slot and comes again.
With one ready task, of one core and no rank, it goes to the lowest-numbered core that waits for work in the task's context and pool and
outside a withheld group (log 101: a core that is OFF or runs another context takes none): its ready queue gets the task's entry (launch slot, rank, entry point, stack, record); with no such core none
changes. A decrement of a COUNT above 1 stores one less at the record's home; one to 0 makes a waiting record ready, or when it is
malformed ends it with status 1; a COUNT of 0 stays and gives the decrementing launch status 2, a failed page check 1. A sweep of a period not yet over comes again, and one that finds
a launch as the sweep before ends it; a core that waits for work takes its pending pool tag; the occupancy monitor looks again
and again while REBIND is 1, and marks no core while it is 0: for a pool in need it marks in each group the lowest-numbered core that waits
for work, or else the lowest-numbered, of the first other pool without work (when a pool is in need: log 32). -/
def Obligations.DispenserSteps : Prop :=
  ∀ (s : State) (isl : BitVec 1),
    let i := isl.toNat
    let d := s.disp i
    (d.en = true → ∃ t : State, exec (.dispatchSlot isl) s = .next t ∧ .dispatchSlot isl ∈ t.agenda ∧
      (d.launches = [] → (t.disp i).slot = (d.slot + 1) % 64 ∧ t.mem = s.mem)) ∧
    (d.en = false → exec (.dispatchSlot isl) s = .next s) ∧
    (∀ (sl k va : Nat) (r : List (Nat × Nat × List Nat)) (l : Launch) (p : Loc) (v : Word) (tag : Nat),
      d.ended = (sl, k, [va]) :: r →
      let s1 := s.setDisp i { d with ended := r }
      d.launch sl = some l → s1.agentWait l.ctx va = none → s1.agentLoc l.ctx (va + 16) true = some p → (s1.takeHome 0x808 p).homeWord p = (v, tag) →
      tag ≠ 2 → tag ≠ 3 → 2 ≤ v.toNat % 2 ^ 16 →
      exec (.dependencyDecrement isl) s = .next ((s1.takeHome 0x808 p).writeHome 0x808 p (v - 1) 0)) ∧
    (∀ (sl k va : Nat) (r : List (Nat × Nat × List Nat)) (l : Launch),
      d.ended = (sl, k, [va]) :: r →
      let s1 := s.setDisp i { d with ended := r }
      d.launch sl = some l → s1.agentWait l.ctx va = none →
      (s1.agentLoc l.ctx (va + 16) true = none → exec (.dependencyDecrement isl) s = .next (s1.setLaunch i (l.bad k 1))) ∧
      (∀ (p : Loc) (v : Word) (tag : Nat), s1.agentLoc l.ctx (va + 16) true = some p →
        (s1.takeHome 0x808 p).homeWord p = (v, tag) → tag ≠ 2 → tag ≠ 3 →
        (v.toNat % 2 ^ 16 = 0 → exec (.dependencyDecrement isl) s = .next ((s1.takeHome 0x808 p).setLaunch i (l.bad k 2))) ∧
        (v.toNat % 2 ^ 16 = 1 → ∀ (j : Nat) (x : Launch), d.launches = [x] → (s.disp (1 - i)).launches = [] →
          x.index l.ctx va = some j → x.fate j = .waiting →
          let u := (s1.takeHome 0x808 p).writeHome 0x808 p (v - 1) 0
          u.taskWait x va = none →
          ∃ (t : State) (m : Launch), exec (.dependencyDecrement isl) s = .next t ∧ (t.disp i).launches = [m] ∧
            ((u.readTask x va).2 = true → m.fate j = .ready d.seqno (u.readTask x va).1 ∧ m.bads = x.bads) ∧
            ((u.readTask x va).2 = false → m.fate j = .ended ∧ m.bads = (x.bad j 1).bads ∧
              (sl, j, (u.readTask x va).1.succs) ∈ (t.disp i).ended)))) ∧
    (∀ (l : Launch) (j n : Nat) (tk : Task), d.en = true → d.launches = [l] → d.reserve = [] → d.prios = [] → d.slot ≠ 0 →
      (∀ f ∈ l.fates, f ≠ .waiting) → l.fates[j]? = some (.ready n tk) →
      (∀ j' m t', l.fates[j']? = some (.ready m t') → j' = j) → tk.ranked = false → tk.shape = 0 →
      let free (c : Nat) : Bool := s.takes l.ctx tk.pool c
      let va := l.base + 32 * j
      ((s.islandCores i).find? free = none →
        ∃ t : State, exec (.dispatchSlot isl) s = .next t ∧ t.cores = s.cores ∧ (t.disp i).launches = [l]) ∧
      (∀ (c : Nat) (stk : GReg), (s.islandCores i).find? free = some c → s.cutStack l.ctx (s.core c).rank = some stk →
        (s.dispatchBlock l.ctx).bind (s.agentWait l.ctx ·) = none →
        l.slot < 1024 → (s.core c).rank < 1024 → l.prio < 4 →
        ∃ (t : State) (e : Ready) (m : Launch), exec (.dispatchSlot isl) s = .next t ∧
          (t.core c).ready = (s.core c).ready ++ [e] ∧ (∀ c', c' ≠ c → (t.core c').ready = (s.core c').ready) ∧
          (t.disp i).launches = [m] ∧ m.fate j = .running 1 tk ∧
          e.q0.val.toNat / 2 ^ 62 = l.prio ∧ e.q0.val.toNat / 2 ^ 58 % 2 ^ 4 = 0 ∧
          e.q0.val.toNat / 2 ^ 43 % 2 ^ 11 = i * 1024 + l.slot ∧ e.q0.val.toNat / 2 ^ 33 % 2 ^ 10 = (s.core c).rank ∧
          e.q1 = ⟨BitVec.ofNat 64 tk.entry, 0, .data⟩ ∧ e.q2 = stk ∧ e.q3.val = BitVec.ofNat 64 va)) ∧
    (d.launches ≠ [] → s.sweepPeriod ≤ d.swept →
      ∃ t : State, exec (.launchSweep isl) s = .next t ∧ .launchSweep isl ∈ t.agenda ∧ t.disp i = d) ∧
    (s.sweepPeriod > d.swept →
      ∃ t : State, exec (.launchSweep isl) s = .next t ∧ ∀ l ∈ d.launches, l.seen = s.sweepOk i l → l.seen ≠ none →
        .launchEnd isl (BitVec.ofNat 10 l.slot) ∈ t.agenda) ∧
    (∀ (n : BitVec 12) (k : Nat), (s.core n.toNat).poolNew = some k → (s.core n.toNat).waits = true →
      ∃ t : State, exec (.poolRebind n) s = .next t ∧ (t.core n.toNat).poolTag = k ∧ (t.core n.toNat).poolNew = none) ∧
    (d.rebind = false → exec (.occupancyWindow isl) s = .next s) ∧
    (d.rebind = true → ∃ t : State, exec (.occupancyWindow isl) s = .next t ∧ .occupancyWindow isl ∈ t.agenda ∧ t.mem = s.mem) ∧
    (∀ (p g f : Nat), d.rebind = true → p < 3 → (∃ c ∈ s.cands i, c.t.ranked = false) →
      (∀ c ∈ s.cands i, c.t.ranked = false → c.t.pool = p) →
      (∀ n ∈ s.islandCores i, (s.core n).tagNow = p → (s.core n).waits = false) →
      (∀ j k, j < 512 → k < 512 → s.coreNode 0 j = s.coreNode 0 k → j = k) → g < 32 →
      let ns := if i = 1 then s.islandCores 1 else (List.range 16).map fun j => s.coreNode 0 (16 * g + j)
      ns.find? (fun n => (s.core n).tagNow ≠ p) = some f →
      let m := (ns.find? fun n => (s.core n).tagNow = (s.core f).tagNow && (s.core n).waits).getD f
      ∃ t : State, exec (.occupancyWindow isl) s = .next t ∧ (t.core m).poolNew = some p ∧
        .poolRebind (BitVec.ofNat 12 m) ∈ t.agenda)

/-! ## Exceptions -/

/-- R415, R417: a synchronous trap of B0's own instruction, KTRAP being 0, saves the instruction's address, the cause and EVAL in
B0's registers, moves TB to PTB, clears TB, sets KTRAP and goes on at TVEC; no other berth, no register file and no other
core changes, nor VSTAT but for an MMA in flight. -/
def Sys2Proof.Claims.TrapOfKernel : Prop :=
  ∀ (s : State) (c : Cause) (v : Word), s.cb = 0 → s.here.b0.ktrap = false →
    let t := s.takeSync c v
    let b := t.here.b0
    b.epc = s.here.b0.pc &&& 0x0000FFFFFFFFFFFF ∧ b.cause = c.code ∧ b.eval = v ∧ b.ktrap = true ∧ b.tb = 0 ∧
    getF b.status 8 2 = s.here.b0.tb ∧ b.sb = s.here.b0.sb ∧ b.warr = s.here.b0.warr ∧ b.lseq = s.here.b0.lseq ∧
    b.pc = s.here.tvec &&& 0x0000FFFFFFFFFFFE ∧ b.g = s.here.b0.g ∧ b.v = s.here.b0.v ∧ b.k = s.here.b0.k ∧
    b.ox = s.here.b0.ox ∧ (s.here.engine.flightOf 0 = none → b.vstat = s.here.b0.vstat) ∧ b.arith = s.here.b0.arith ∧ b.repst = s.here.b0.repst ∧
    t.here.b1 = s.here.b1 ∧ t.here.b2 = s.here.b2 ∧ t.here.b3 = s.here.b3 ∧
    ∀ n, n ≠ s.cur → t.core n = s.core n

/-- R417, R463, R173: the same trap while KTRAP is 1 is a double trap: MACHINE is entered with EVAL 1, EPC the second instruction, every
berth that holds a thread stopped, and the part's recorder freezes, unless this MACHINE had to wait and froze it when it came (log 62). An entry of MACHINE that stops a BAW of B0 after its arrival sets WARR and
ends its wait. -/
def Sys2Proof.Claims.DoubleTrap : Prop :=
  (∀ (s : State) (n : Nat) (v : Word) (k : Nat) (x : Nat × Word), (s.core n).b0.wait = .barrier k (some x) →
    let b := ((s.enterMachine n v).core n).b0
    b.warr = true ∧ b.wait = .none ∧ b.epc = (s.core n).b0.pc &&& 0x0000FFFFFFFFFFFF ∧ b.eval = v ∧
    (∀ h : x.1 < 64, b.g[x.1] = ⟨x.2, 0, .data⟩)) ∧
  ∀ (s : State) (c : Cause) (v : Word), s.cb = 0 → s.here.b0.ktrap = true →
    let t := s.takeSync c v
    let b := t.here.b0
    b.epc = s.here.b0.pc &&& 0x0000FFFFFFFFFFFF ∧ b.cause = 0x84 ∧ b.eval = 1 ∧ b.ktrap = true ∧ b.tb = 0 ∧
    b.pc = s.here.tvec &&& 0x0000FFFFFFFFFFFE ∧ b.g = s.here.b0.g ∧ (s.here.machine = false → t.silt.frozen = true) ∧
    (s.here.b1.occupied = true → t.here.b1.stopped = true ∧ b.sb % 2 = 1) ∧
    (s.here.b2.occupied = true → t.here.b2.stopped = true ∧ b.sb / 2 % 2 = 1) ∧
    (s.here.b3.occupied = true → t.here.b3.stopped = true ∧ b.sb / 4 % 2 = 1)

/-- R417, R418: a synchronous trap of B1 while B0 is idle stops B1 before its instruction, saves its address, the cause and EVAL in
B1's registers, and starts B0 at TVEC with SB naming B1, TB 1 and KTRAP 0. While B0 handles an entry the trap stays pending with B1
stopped. -/
def Sys2Proof.Claims.TrapOfUser : Prop :=
  ∀ (s : State) (c : Cause) (v : Word), s.cb = 1 →
    let t := s.takeSync c v
    t.here.b1.stopped = true ∧ t.here.b1.pc = s.here.b1.pc ∧ t.here.b1.g = s.here.b1.g ∧ t.here.b1.v = s.here.b1.v ∧
    t.here.b1.k = s.here.b1.k ∧ t.here.b1.repst = s.here.b1.repst ∧
    (s.here.b1.occupied = true → s.here.b1.stopped = false → t.here.b1.epc = s.here.b1.pc &&& 0x0000FFFFFFFFFFFF) ∧
    (s.here.idle0 = true →
      t.here.b1.cause = c.code ∧ t.here.b1.eval = v ∧
      t.here.idle0 = false ∧ t.here.b0.pc = s.here.tvec &&& 0x0000FFFFFFFFFFFE ∧ t.here.b0.sb = 1 ∧ t.here.b0.tb = 1 ∧
      t.here.b0.ktrap = false ∧ t.here.b0.g = s.here.b0.g) ∧
    (s.here.idle0 = false → t.here.pendSync = some (c, v) ∧ t.here.b0.pc = s.here.b0.pc ∧ t.here.b0.status = s.here.b0.status)

/-- R116: a guest that traps returns to its native core with the trap; its berth holds no thread any more. -/
def Sys2Proof.Claims.TrapOfGuest : Prop :=
  ∀ (s : State) (c : Cause) (v : Word), (s.cb = 2 ∨ s.cb = 3) →
    ∃ (p : Packet) (th : Thread), (s.takeSync c v).net = s.net ++ [p] ∧ p.body = .mig th ∧ th.trap = some (c, v) ∧
      p.dst = s.me.nnode ∧ p.ranked = false ∧ th.pc = s.me.pc ∧ th.g = s.me.g ∧ th.v = s.me.v ∧ th.k = s.me.k ∧
      (s.takeSync c v).me = Berth.vacant

/-- R430, R415: TRAP raises SYSCALL with its operand, BRK its own cause with the immediate, and SYS instructions of user code
that only the kernel may run raise PRIV with the instruction's word: ERET, RQPUSH, RQPOP, RQPEEK, GSAVE, GRST and TLBI. -/
def Sys2Proof.Claims.TrapsRaised : Prop :=
  (∀ (s : State) (a : BitVec 6), s.ready [.g a] [] = true →
    exec (.trap a) s = .next (s.takeSync .syscall (s.wv [.g a] 0))) ∧
  (∀ (s : State) (n : BitVec 12), exec (.brk n) s = .next (s.takeSync .brk (n.setWidth 64))) ∧
  (∀ (s : State) (q : BitVec 4) (d a b : BitVec 6) (f : BitVec 2), s.cb ≠ 0 →
    let w (fn d a b : Nat) : Word := BitVec.ofNat 64 (a * 2 ^ 26 + b * 2 ^ 20 + fn * 2 ^ 16 + 2 ^ 15 + 0x70 * 2 ^ 8 + d * 4)
    exec (.eret q) s = .next (s.takeSync .priv (w 1 0 (4 * q.toNat) 0)) ∧
    exec (.rqpush d q) s = .next (s.takeSync .priv (w 8 d.toNat (4 * q.toNat) 0)) ∧
    exec (.rqpop q) s = .next (s.takeSync .priv (w 9 (4 * q.toNat) 0 0)) ∧
    exec (.rqpeek d) s = .next (s.takeSync .priv (w 10 d.toNat 0 0)) ∧
    exec (.gsave a b) s = .next (s.takeSync .priv (w 11 0 a.toNat b.toNat)) ∧
    exec (.grst a b) s = .next (s.takeSync .priv (w 12 0 a.toNat b.toNat)) ∧
    exec (.tlbi a b f) s = .next (s.takeSync .priv (w 14 f.toNat a.toNat b.toNat)))

/-- R419: ERET with g0 ends an entry: with KTRAP, B0 goes on at EPC with TB from PTB and KTRAP 0; else every berth in SB that
holds a thread resumes, B1 at its EPC, SB becomes 0 and B0 idle. -/
def Sys2Proof.Claims.EretCompletes : Prop :=
  ∀ s : State, s.cb = 0 →
    (s.here.b0.ktrap = true → s.here.b0.epc.getLsbD 0 = false →
      ∃ t : State, exec (.eret 0) s = .next t ∧ t.here.b0.pc = s.here.b0.epc ∧ t.here.b0.ktrap = false ∧
        t.here.b0.tb = getF s.here.b0.status 8 2 ∧ t.here.idle0 = s.here.idle0 ∧ t.here.b1 = s.here.b1 ∧ t.mem = s.mem) ∧
    (s.here.b0.ktrap = false → (s.here.b0.sb % 2 = 1 → s.here.b1.occupied = true → s.here.b1.epc.getLsbD 0 = false) →
      ∃ t : State, exec (.eret 0) s = .next t ∧ t.here.idle0 = true ∧ t.here.b0.sb = 0 ∧ t.here.b0.g = s.here.b0.g ∧
        t.mem = s.mem ∧
        (if s.here.b0.sb % 2 = 1 ∧ s.here.b1.occupied = true then t.here.b1.stopped = false ∧ t.here.b1.pc = s.here.b1.epc
         else t.here.b1 = s.here.b1) ∧
        (if s.here.b0.sb / 2 % 2 = 1 ∧ s.here.b2.occupied = true then t.here.b2.stopped = false ∧ t.here.b2.pc = s.here.b2.pc
         else t.here.b2 = s.here.b2) ∧
        (if s.here.b0.sb / 4 % 2 = 1 ∧ s.here.b3.occupied = true then t.here.b3.stopped = false ∧ t.here.b3.pc = s.here.b3.pc
         else t.here.b3 = s.here.b3))

/-- R430, R207, R194: ERET with a quad starts a task in the empty B1: its PC is the quad's entry, g2 and g3 come from the quad, every other
register is EMPTY, its STATUS, VSTAT, ARITH and REPST are 0, and B0 becomes idle. PA and PB are unbound, the grid ports' bindings stay: R194
against R207 (model's choice, log 93). -/
def Sys2Proof.Claims.TaskStarts : Prop :=
  ∀ (s : State) (q : BitVec 4), s.cb = 0 → q ≠ 0 → s.here.b0.ktrap = false → s.here.b0.tb = 1 → s.here.b1.occupied = false →
    s.here.away = false → s.cur ≠ 0x808 → s.ready (quadOf q) [] = true →
    let w := s.wv (quadOf q) 0
    w.getLsbD 0 = true → w.getLsbD 1 = false → w.getLsbD 61 = false → w.toNat / 4 % 2 ^ 23 = 0 →
    w.toNat / 2 ^ 33 % 2 ^ 10 = s.here.rank → (s.wv (quadOf q) 1).getLsbD 0 = false →
    ∃ t : State, exec (.eret q) s = .next t ∧ t.here.idle0 = true ∧ t.here.b1.occupied = true ∧ t.here.b1.stopped = false ∧
      t.here.b1.pc = s.wv (quadOf q) 1 &&& 0x0000FFFFFFFFFFFF ∧ t.here.b1.g[2] = s.gv (quadOf q) 2 ∧
      t.here.b1.g[3] = s.gv (quadOf q) 3 ∧
      (∀ r : BitVec 6, r ≠ 0 → r ≠ 2 → r ≠ 3 → (t.here.b1.getG r).tag = .empty) ∧
      t.here.b1.status = 0 ∧ t.here.b1.vstat = 0 ∧ t.here.b1.arith = 0 ∧ t.here.b1.repst = 0 ∧
      t.here.b1.nrank = s.here.rank ∧ t.here.b1.nnode = s.cur ∧
      (∀ p : Nat, (t.here.port p).bind = if p = 4 ∨ p = 5 then .unbound else (s.here.port p).bind) ∧
      ((∀ x ∈ s.here.icache, x.locked = false) → t.mem = s.mem)

/-! ## System instructions -/

/-- R424, R427, R432 to R435, R441: OXW, TIME, SLEEP, SILT, RQPUSH, RQPOP and RQPEEK complete; an entry pushed that makes a PREEMPT pending
ends B1's SLEEP. -/
def Sys2Proof.Claims.SystemCompletes : Prop :=
  (∀ (s : State) (a : BitVec 6) (n : BitVec 2), s.ready [.g a] [] = true →
    exec (.oxw a n) s = .next ((s.setMe { s.me with ox := s.me.ox.set n.toNat ⟨s.wv [.g a] 0, true⟩ }).finish [.g a] [] [] 4)) ∧
  (∀ (s : State) (d : BitVec 6), s.ready [] [.g d] = true →
    exec (.time d) s = .next (s.finish [] [.g d] [.data (s.timeAt s.cur)] 4)) ∧
  (∀ (s : State) (a b : BitVec 6), s.ready [.g a, .g b] [] = true →
    exec (.silt a b) s = .next ((s.record s.cur 4 ((s.wv [.g a, .g b] 1).toNat % 256)
      (BitVec.ofNat 64 ((s.wv [.g a, .g b] 0).toNat % 2 ^ 48))).finish [.g a, .g b] [] [] 4)) ∧
  (∀ (s : State) (a : BitVec 6), s.cb < 2 → s.ready [.g a] [] = true →
    let d := s.wv [.g a] 0
    let now := (s.timeAt s.cur).toNat
    ((d ≠ 0 ∧ d.toNat ≤ now ∨ s.me.wait = .woken) → exec (.sleep a) s = .next (s.finish [.g a] [] [] 4)) ∧
    (s.me.wait = .none → (d = 0 ∨ now < d.toNat) →
      ∃ t : State, exec (.sleep a) s = .next t ∧ t.me.pc = s.me.pc ∧ (∃ m, t.me.wait = .sleep d m) ∧ t.me.g = s.me.g)) ∧
  (∀ (s : State) (d : BitVec 6) (q : BitVec 4), s.cb = 0 → s.ready (quadOf q) [.g d] = true →
    let l := quadOf q
    let w := s.wv l 0
    let sound : Prop := w.getLsbD 0 = true ∧ w.getLsbD 61 = false ∧ w.toNat / 4 % 2 ^ 23 = 0
    (sound → s.here.ready.length < 16 →
      exec (.rqpush d q) s = .next (((s.rebindIdle s.cur).setSched s.cur { (s.rebindIdle s.cur).here with
        ready := s.here.ready ++ [⟨s.gv l 0, s.gv l 1, s.gv l 2, s.gv l 3⟩] }).finish l [.g d] [.data 0] 4)) ∧
    (∀ c : Core, ((s.setSched s.cur c).core s.cur).ready = c.ready ∧
      (c.dispatchDue = true → s.here.dispatchDue = false → (∃ x m, c.b1.wait = .sleep x m) →
        ((s.setSched s.cur c).core s.cur).b1.wait = .woken)) ∧
    (sound → 16 ≤ s.here.ready.length → exec (.rqpush d q) s = .next (s.finish l [.g d] [.data 1] 4)) ∧
    (¬ sound → exec (.rqpush d q) s = .next (s.finish l [.g d] [.data 2] 4))) ∧
  (∀ (s : State) (d : BitVec 6), s.cb = 0 → s.ready [] [.g d] = true →
    (s.here.ready = [] → exec (.rqpeek d) s = .next (s.finish [] [.g d] [.data 0] 4)) ∧
    (∀ r, readyHead s.here.ready = some r → exec (.rqpeek d) s = .next (s.finish [] [.g d] [.data r.q0.val] 4))) ∧
  (∀ (s : State) (q : BitVec 4), s.cb = 0 → s.ready [] (quadTo q) = true →
    (s.here.ready = [] → exec (.rqpop q) s = .next (s.finish [] (quadTo q) [.data 0, .data 0, .data 0, .data 0] 4)) ∧
    (∀ r, readyHead s.here.ready = some r → exec (.rqpop q) s = .next ((s.setHere { s.here with
        ready := s.here.ready.erase r }).finish [] (quadTo q)
      [.ofG r.q0, .ofG r.q1, .ofG r.q2, .ofG r.q3] 4)))

/-- R424: the ready queue's head is the oldest entry of the smallest priority code. -/
def Sys2Proof.Claims.ReadyHead : Prop :=
  ∀ (l : List Ready) (r : Ready), readyHead l = some r →
    r ∈ l ∧ (∀ x ∈ l, r.q0.val.toNat / 2 ^ 62 ≤ x.q0.val.toNat / 2 ^ 62) ∧
    ∀ (i j : Nat) (hi : i < l.length) (hj : j < l.length), l[i] = r → (∀ k, (hk : k < i) → l[k] ≠ r) → j < i →
      l[j].q0.val.toNat / 2 ^ 62 ≠ r.q0.val.toNat / 2 ^ 62

/-- R439, R440, R142, R129, R48, R420: IFENCE, its release made, drops the context's lines from the core's instruction cache, but refills
locked ones (log 53): at THREAD or CORE it is over, at a wider scope it waits for the other cores. TLBI puts its request to every powered
core under way and goes on, unless 8 are open. -/
def Sys2Proof.Claims.FetchAndTlbComplete : Prop :=
  (∀ (s : State) (sc : BitVec 3), s.me.wait = .none → s.sendsOpen sc.toNat = false →
    let dropped (t : State) : Prop :=
      (∀ x ∈ t.here.icache, x.locked = false → x.ctx ≠ s.here.ctxid) ∧
      (∀ x ∈ s.here.icache, x.ctx ≠ s.here.ctxid → ∃ y ∈ t.here.icache, y.line = x.line ∧ y.ctx = x.ctx ∧ y.slot = x.slot) ∧
      ((∀ x ∈ s.here.icache, x.locked = false) → t.mem = s.mem)
    (sc.toNat ≤ 1 → ∃ t : State, exec (.ifence sc) s = .next (t.retire 4) ∧ dropped t) ∧
    (2 ≤ sc.toNat → (sc.toNat < 6 ∨ s.tlbiOpen = false) →
      ∃ t : State, exec (.ifence sc) s = .next t ∧ t.me.wait = .ifence sc.toNat ∧ t.me.pc = s.me.pc ∧ dropped t ∧
        .ifenceComplete (BitVec.ofNat 12 s.cur) (BitVec.ofNat 2 s.cb) ∈ t.agenda)) ∧
  (∀ (s : State) (sc : BitVec 3) (x y : Word), s.me.wait = .done x y → exec (.ifence sc) s = .next (s.retire 4)) ∧
  (∀ (s : State) (a b : BitVec 6) (f : BitVec 2), s.cb = 0 → f ≠ 3 →
    let l : List Src := if f = 0 then [.g a] else if f = 1 then [.g a, .g b] else []
    s.ready l [] = true → (f = 1 → (s.wv l 1).toNat < 2 ^ 48) →
    (s.tlbis.filter fun r => r.node = s.cur && r.berth = 0).length < 8 →
    ∃ (t : State) (q : TlbiReq), exec (.tlbi a b f) s = .next (t.finish l [] [] 4) ∧ t.tlbis = s.tlbis ++ [q] ∧
      q.node = s.cur ∧ q.form = f.toNat ∧ (f ≠ 2 → q.ctx = (s.wv l 0).toNat % 2 ^ 12) ∧ (f = 1 → q.va = (s.wv l 1).toNat) ∧
      (∀ n, n ∈ q.left ↔ ∃ c, (n, c) ∈ s.cores ∧ c.power ≠ .off) ∧ t.mem = s.mem)

/-- R431, R211: SRR, SRW and SRX of a register that the code may access complete: a plain register's value is read, and a write
replaces its writable bits. -/
def Sys2Proof.Claims.RegistersComplete : Prop :=
  ∀ (s : State) (d : BitVec 6), s.cb = 0 → s.here.b0.tb = 0 →
    (∀ num ∈ [(0x003 : BitVec 12), 0x005, 0x006, 0x030, 0x031, 0x014, 0x015, 0x016],
      s.ready [.g d] [.g d] = true → s.ready [.g d] [] = true → s.ready [] [.g d] = true →
      let old := s.regVal s.cur 0 num.toNat
      exec (.srr d num) s = .next (s.finish [] [.g d] [.data old] 4) ∧
      ∃ t : State, exec (.srw d num) s = .next (t.finish [.g d] [] [] 4) ∧ exec (.srx d num) s =
          .next (t.finish [.g d] [.g d] [.data old] 4) ∧
        t.regVal s.cur 0 num.toNat = (s.wv [.g d] 0 &&&
          (if num = 0x014 then 0xFF else if num = 0x015 then 0xFFFFFFFFFFFF0083 else if num = 0x016 then 0xFFFCFFFFFFFFFFFF
           else BitVec.allOnes 64)) ∧
        t.mem = s.mem ∧ t.me.g = s.me.g ∧ ∀ n, n ≠ s.cur → t.core n = s.core n)

/-- R210, R211, R421, R422, R431, R420: every register that the code may read reads as it stands for the berth it reaches: B0's accesses to a
berth's own registers reach the berth of STATUS.TB, user accesses the thread's own. A write of a plain one replaces its writable bits there
and in no other berth, and SRX returns the old value; one of a berth inside an instruction, or behind such a write, waits for its next
boundary; EPC of a stopped berth is reached only at its boundary. -/
def Sys2Proof.Claims.RegistersOfBerths : Prop :=
  ∀ (s : State) (d : BitVec 6) (num : BitVec 12), s.cb < 2 →
    let own : List Nat := [0x001, 0x002, 0x003, 0x007, 0x012, 0x013, 0x014, 0x015, 0x016, 0x030, 0x031, 0x050]
    let j := if s.cb = 0 ∧ num.toNat ∈ own then s.me.tb else s.cb
    let old := s.regVal s.cur j num.toNat
    let epcWaits : Prop := s.cb = 0 ∧ num = 0x002 ∧ (s.berthAt s.cur j).stopped = true ∧ s.inside s.cur j = true
    let late : Bool := j ≠ s.cb && (s.inside s.cur j || s.agenda.any (·.isRegWrite s.cur j))
    (∀ w, regAccess s.priv num.toNat = some (true, w) → s.ready [] [.g d] = true →
      (epcWaits → exec (.srr d num) s = .next s) ∧
      (¬ epcWaits → exec (.srr d num) s = .next (s.finish [] [.g d] [.data old] 4))) ∧
    (∀ (r : Bool) (mask : Word), regAccess s.priv num.toNat = some (r, true) →
      (num.toNat, mask) ∈ [(0x001, (0xFF : Word)), (0x002, 0x0000FFFFFFFFFFFF), (0x003, BitVec.allOnes 64), (0x007, BitVec.allOnes 64),
        (0x014, 0xFF), (0x015, 0xFFFFFFFFFFFF0083), (0x016, 0xFFFCFFFFFFFFFFFF), (0x030, BitVec.allOnes 64),
        (0x031, BitVec.allOnes 64)] → ¬ epcWaits → s.ready [.g d] [] = true →
      (late = true → exec (.srw d num) s = .next ((s.later (.registerWrite (BitVec.ofNat 12 s.cur) (BitVec.ofNat 2 j) (num.setWidth 64)
        (s.wv [.g d] 0))).finish [.g d] [] [] 4)) ∧
      (late = false → ∃ t : State, exec (.srw d num) s = .next (t.finish [.g d] [] [] 4) ∧
        (s.ready [.g d] [.g d] = true → r = true → exec (.srx d num) s = .next (t.finish [.g d] [.g d] [.data old] 4)) ∧
        t.regVal s.cur j num.toNat = s.wv [.g d] 0 &&& mask ∧ (∀ i, i < 4 → i ≠ j → t.berthAt s.cur i = s.berthAt s.cur i) ∧
        (t.berthAt s.cur j).g = (s.berthAt s.cur j).g ∧ t.mem = s.mem ∧ ∀ n, n ≠ s.cur → t.core n = s.core n))

/-- R211, R431: user code that names a register of the kernel traps PRIV with the register's number, and an unassigned number traps
ILLEGAL, with nothing read or written. -/
def Sys2Proof.Claims.RegisterPrivilege : Prop :=
  ∀ (s : State) (d : BitVec 6), s.cb = 1 →
    (s.ready [] [.g d] = true → ∀ num ∈ [(0x001 : BitVec 12), 0x002, 0x003, 0x004, 0x005, 0x006, 0x040, 0x042],
      exec (.srr d num) s = .next (s.takeSync .priv (num.setWidth 64))) ∧
    (s.ready [.g d] [] = true → ∀ num ∈ [(0x000 : BitVec 12), 0x001, 0x002, 0x003, 0x004, 0x010, 0x020, 0x021, 0x022, 0x024, 0x032,
        0x050],
      exec (.srw d num) s = .next (s.takeSync .priv (num.setWidth 64))) ∧
    (s.ready [] [.g d] = true → ∀ num ∈ [(0x008 : BitVec 12), 0x017, 0x025, 0x033, 0x043, 0x051, 0xFFF],
      exec (.srr d num) s = .next (s.takeSync .illegal (num.setWidth 64)))

/-- R442, R453, R454: (the order of the denials and how REM counts are the model's reading, log 41) LEASE of more than 10000 µs returns 3, of 0 gives the thread's lease up and returns 0, in repeatable mode returns 1,
on a Rill core 2, else, where the group may be boosted, it is granted and returns 0. LEASE_EXPIRE ends a lease whose time is over. -/
def Obligations.LeasesComplete : Prop :=
  (∀ (s : State) (d a : BitVec 6), s.cb < 2 → s.cur < 0x1000 → s.ready [.g a] [.g d] = true →
    let us := (s.wv [.g a] 0).toNat
    let done (t : State) (v : Word) : Out := .next (t.finish [.g a] [.g d] [.data v] 4)
    (10000 < us → exec (.lease d a) s = done s 3) ∧
    (us = 0 → ∃ b : Berth, exec (.lease d a) s = done (s.setMe b) 0 ∧ b.g = s.me.g ∧ getF b.lease 61 3 ≠ 1) ∧
    (1 ≤ us → us ≤ 10000 → s.rep = true → exec (.lease d a) s = done s 1) ∧
    (1 ≤ us → us ≤ 10000 → s.rep = false → isRill s.cur = true → exec (.lease d a) s = done s 2) ∧
    (1 ≤ us → us ≤ 10000 → s.rep = false → isRill s.cur = false → s.leaseGrants s.cur s.cb (groupOf s.cur) = true →
      ∃ t : State, exec (.lease d a) s = done t 0 ∧ getF t.me.lease 61 3 = 1 ∧ getF t.me.lease 0 14 = us ∧
        t.me.leaseAt = s.time ∧ t.mem = s.mem)) ∧
  (∀ (s : State) (n : BitVec 12) (i : BitVec 2),
    getF (s.berthAt n.toNat i.toNat).lease 61 3 = 1 →
    (getF (s.berthAt n.toNat i.toNat).lease 0 14) ≤ (s.time - (s.berthAt n.toNat i.toNat).leaseAt).toNat / 1000 →
    ∃ t : State, exec (.leaseExpire n i) s = .next t ∧ getF (t.berthAt n.toNat i.toNat).lease 61 3 = 3 ∧
      getF (t.berthAt n.toNat i.toNat).lease 0 14 = 0)

/-! ## Vectors -/

namespace Sys2Proof.Claims

noncomputable section

/-- Lane `i` of `w` bits (R321). -/
def laneOf (w : Nat) (x : BitVec 512) (i : Nat) : BitVec w := x.extractLsb' (w * i) w

/-- R202, R232, R238, R323: with its sources, the mask register kK the last of them, there, the instruction `i` completes with
`n` lanes of `w` bits: an active lane of vD holds its result, every other bit what vD held, 0 if it was EMPTY; VSTAT gains the
active lanes' flags; with TIL among them and TILTRAP set TERNILL is taken after it, its results standing. -/
def lanesDone (s : State) (i : Instr) (d : BitVec 5) (srcs : List Src) (k : BitVec 2) (w n : Nat)
    (f : Nat → BitVec w × Nat) : Prop :=
  let all := srcs ++ [.k k]
  s.ready all [.v d] = true →
  let on (j : Nat) : Bool := (s.me.getK k).val.getLsbD j
  let fl := (List.range n).foldl (fun a j => if on j then a ||| (f j).2 else a) 0
  ∃ r : BitVec 512,
    (∀ j < n, laneOf w r j = if on j then (f j).1 else laneOf w (s.oldV d) j) ∧
    (∀ j, w * n ≤ j → r.getLsbD j = (s.oldV d).getLsbD j) ∧
    let t := (s.addFlags fl).finish all [.v d] [.ofV r] 4
    exec i s = .next (if fl.testBit 6 ∧ s.me.tilTrap = true then t.takeSync .ternill s.me.pc else t)

/-- The integer lane operations of R325 that set no flag: constructor and lane result. -/
def vecOps : List ((BitVec 5 → BitVec 5 → BitVec 5 → BitVec 2 → BitVec 2 → Instr) × (∀ n, BitVec n → BitVec n → BitVec n)) :=
  [(.vadd, fun _ x y => x + y), (.vsub, fun _ x y => x - y), (.vmul, fun _ x y => x * y),
   (.vmin, fun _ x y => if x.toInt ≤ y.toInt then x else y), (.vmax, fun _ x y => if x.toInt ≤ y.toInt then y else x),
   (.vand, fun _ x y => x &&& y), (.vor, fun _ x y => x ||| y), (.vxor, fun _ x y => x ^^^ y),
   (.vshl, fun n x y => x <<< (y.toNat % n)), (.vshr, fun n x y => x >>> (y.toNat % n)),
   (.vsar, fun n x y => x.sshiftRight (y.toNat % n))]

/-- A signed number clamped to `w` bits, with SAT when that changes it. -/
def clamped (w : Nat) (v : Int) : BitVec w × Nat :=
  if 2 ^ (w - 1) ≤ v then (BitVec.intMax w, 32) else if v < -2 ^ (w - 1) then (BitVec.intMin w, 32) else (BitVec.ofInt w v, 0)

/-- The two-operand float lanes of R326, with the operation in a format and a rounding mode. -/
def floatOps2 : List ((BitVec 5 → BitVec 5 → BitVec 5 → BitVec 2 → BitVec 2 → Instr) × (Fmt → Nat → Nat → Nat → Nat × Nat)) :=
  [(.vfadd, fpAdd), (.vfsub, fpSub), (.vfmul, fpMul), (.vfdiv, fpDiv), (.vfmin, fun f _ => fpMin f), (.vfmax, fun f _ => fpMax f)]

/-- The one-operand float lanes of R326. -/
def floatOps1 : List ((BitVec 5 → BitVec 5 → BitVec 2 → BitVec 2 → Instr) × (Fmt → Nat → Nat → Nat × Nat)) :=
  [(.vfabs, fun f _ => fpAbs f), (.vfneg, fun f _ => fpNeg f), (.vfsqrt, fpSqrt), (.vfrcp, fpRcp), (.vfrsq, fpRsq),
   (.vfexp2, fpExp2), (.vflog2, fpLog2)]

/-- The float multiply-adds of R327. -/
def fmaOps : List ((BitVec 5 → BitVec 5 → BitVec 5 → BitVec 2 → BitVec 2 → Instr) × (Fmt → Nat → Nat → Nat → Nat → Nat × Nat)) :=
  [(.vfma, fpFma), (.vfms, fpFms), (.vfnma, fpFnma)]

/-- A numeric result and its flags as a lane. -/
def asLane (w : Nat) (p : Nat × Nat) : BitVec w × Nat := (BitVec.ofNat w p.1, p.2)

end

end Sys2Proof.Claims

/-- R325: VADD, VSUB, VMUL, VMIN, VMAX, VAND, VOR, VXOR, VSHL, VSHR, VSAR, VSADD, VSSUB and VABS complete with the table's lanes. -/
def Sys2Proof.Claims.IntegerLanesComplete : Prop :=
  ∀ (s : State) (d a b : BitVec 5) (t k : BitVec 2),
    let w := laneW t.toNat
    let n := laneN t.toNat
    let l : List Src := [.v a, .v b]
    let x (j : Nat) : BitVec w := laneOf w (s.vv (l ++ [.k k]) 0) j
    let y (j : Nat) : BitVec w := laneOf w (s.vv (l ++ [.k k]) 1) j
    (∀ e ∈ vecOps, lanesDone s (e.1 d a b t k) d l k w n fun j => (e.2 w (x j) (y j), 0)) ∧
    lanesDone s (.vsadd d a b t k) d l k w n (fun j => clamped w ((x j).toInt + (y j).toInt)) ∧
    lanesDone s (.vssub d a b t k) d l k w n (fun j => clamped w ((x j).toInt - (y j).toInt)) ∧
    lanesDone s (.vabs d a t k) d [.v a] k w n fun j =>
      (BitVec.ofNat w (laneOf w (s.vv [.v a, .k k] 0) j).toInt.natAbs, 0)

/-- R326, R327: the VFP and VFMA instructions complete, each lane rounded once in its own type and ARITH.RM; VDOT4 of INT8 adds four
products to the lane modulo 2^32, VDOT4 of E4M3 rounds once. -/
def Sys2Proof.Claims.FloatLanesComplete : Prop :=
  ∀ (s : State) (d a b : BitVec 5) (t k : BitVec 2),
    let w := laneW (4 + t.toNat)
    let n := laneN (4 + t.toNat)
    let f := floatFmt t.toNat
    let x (l : List Src) (i j : Nat) : Nat := (laneOf w (s.vv (l ++ [.k k]) i) j).toNat
    let l2 : List Src := [.v a, .v b]
    let l3 : List Src := [.v a, .v b, .v d]
    (∀ e ∈ floatOps2, lanesDone s (e.1 d a b t k) d l2 k w n fun j => asLane w (e.2 f s.me.rm (x l2 0 j) (x l2 1 j))) ∧
    (∀ e ∈ floatOps1, lanesDone s (e.1 d a t k) d [.v a] k w n fun j => asLane w (e.2 f s.me.rm (x [.v a] 0 j))) ∧
    (∀ e ∈ fmaOps, lanesDone s (e.1 d a b t k) d l3 k w n fun j =>
      asLane w (e.2 f s.me.rm (x l3 0 j) (x l3 1 j) (x l3 2 j))) ∧
    lanesDone s (.vdot4 d a b 0 k) d l3 k 32 16 (fun j =>
      let p (i : Nat) : Int := (laneOf 8 (s.vv (l3 ++ [.k k]) 0) (4 * j + i)).toInt * (laneOf 8 (s.vv (l3 ++ [.k k]) 1) (4 * j + i)).toInt
      (laneOf 32 (s.vv (l3 ++ [.k k]) 2) j + BitVec.ofInt 32 (p 0 + p 1 + p 2 + p 3), 0)) ∧
    lanesDone s (.vdot4 d a b 1 k) d l3 k 32 16 fun j => asLane 32 (dot4f s.me.rm (s.readSrcs (l3 ++ [.k k]) []) j)

namespace Sys2Proof.Claims

noncomputable section

/-- The number that a finite value is; 0 for an infinity or a NaN. -/
def ratOf : FpV → ℚ
  | .fin a m e => (if a then -1 else 1) * m * 2 ^ e
  | _ => 0

/-- The real number that an encoding of a format stands for. -/
def numOf (f : Fmt) (x : Nat) : ℝ := (ratOf (f.decode x) : ℝ)

/-- R234: `p` is `r`, of a magnitude up to the largest finite one, rounded once to the format `f` in the mode `rm`: it is finite, NX tells
whether it differs from `r`, and no finite number of the format is nearer in the mode: to the nearest, a tie to the even significand;
toward zero; down; up. -/
def nearest (f : Fmt) (rm : Nat) (r : ℝ) (p : Nat × Nat) : Prop :=
  let isNum (x : Nat) : Prop := x < 2 ^ f.bits ∧ ∃ a m e, f.decode x = .fin a m e
  let z := numOf f p.1
  isNum p.1 ∧ p.2 / 4 = 0 ∧ (p.2 % 2 = 1 ↔ z ≠ r) ∧
    (rm = 0 → ∀ x, isNum x → |z - r| ≤ |numOf f x - r| ∧ (|z - r| = |numOf f x - r| → numOf f x ≠ z → p.1 % 2 = 0)) ∧
    (rm = 1 → |z| ≤ |r| ∧ 0 ≤ z * r ∧ ∀ x, isNum x → |numOf f x| ≤ |r| → |numOf f x| ≤ |z|) ∧
    (rm = 2 → z ≤ r ∧ ∀ x, isNum x → numOf f x ≤ r → numOf f x ≤ z) ∧
    (rm = 3 → r ≤ z ∧ ∀ x, isNum x → r ≤ numOf f x → z ≤ numOf f x)

/-- R234, R238: `p`, an encoding with its flags, is the exact number `r` rounded once to the format `f` in the mode `rm`. Past the largest
finite magnitude the result is an infinity or that magnitude as the mode says, with NX, and OF when rounding leaves the range. Otherwise
it is the nearest in the mode. -/
def roundedTo (f : Fmt) (rm : Nat) (r : ℝ) (p : Nat × Nat) : Prop :=
  let top := numOf f f.top
  let big : ℝ := 2 ^ (f.bias + 1)
  (top < |r| →
    let away : Prop := (rm = 0 ∧ top + big ≤ 2 * |r|) ∨ (rm = 2 ∧ r < 0) ∨ (rm = 3 ∧ 0 < r)
    (away → p = (f.sign (decide (r < 0)) + f.top + 1, 5)) ∧
    (¬ away → p = (f.sign (decide (r < 0)) + f.top, if big ≤ |r| then 5 else 1))) ∧
  (|r| ≤ top → nearest f rm r p)

/-- R236: the same for E4M3 and FP4, which have no infinity: past the largest finite magnitude the result is that magnitude, with NX, and
OF when the rounded magnitude passes it; `next` is what would follow it. -/
def saturatedTo (f : Fmt) (next : ℝ) (rm : Nat) (r : ℝ) (p : Nat × Nat) : Prop :=
  let top := numOf f f.top
  (top < |r| →
    let passes : Prop := next ≤ |r| ∨ (rm = 0 ∧ top + next ≤ 2 * |r|) ∨ (rm = 2 ∧ r < 0) ∨ (rm = 3 ∧ 0 < r)
    p = (f.sign (decide (r < 0)) + f.top, if passes then 5 else 1)) ∧
  (|r| ≤ top → nearest f rm r p)

/-- R234, R236: `p` is `r` converted to the format `f`. -/
def convertedTo (f : Fmt) (rm : Nat) (r : ℝ) (p : Nat × Nat) : Prop :=
  if f = e4m3 then saturatedTo f 480 rm r p else if f = fp4 then saturatedTo f 8 rm r p else roundedTo f rm r p

/-- R234: `k` is `r` rounded to an integer in the mode `rm`. -/
def integerOf (rm : Nat) (r : ℝ) (k : ℤ) : Prop :=
  (rm = 0 → |(k : ℝ) - r| ≤ 1 / 2 ∧ (|(k : ℝ) - r| = 1 / 2 → k % 2 = 0)) ∧ (rm = 1 → k = if r < 0 then ⌈r⌉ else ⌊r⌋) ∧
    (rm = 2 → k = ⌊r⌋) ∧ (rm = 3 → k = ⌈r⌉)

/-- The integers of a type (R227). -/
def intLow (sg : Bool) (n : Nat) : ℤ := if sg then -2 ^ (n - 1) else 0

def intHigh (sg : Bool) (n : Nat) : ℤ := if sg then 2 ^ (n - 1) - 1 else 2 ^ n - 1

/-- An integer of a type as its bits. -/
def asBits (n : Nat) (k : ℤ) : Nat := (k % 2 ^ n).toNat

/-- The integer that the bits of a type are. -/
def asInt (sg : Bool) (n x : Nat) : ℤ := if sg = true ∧ 2 ^ (n - 1) ≤ x then x - 2 ^ n else x

/-- The types of R329. -/
def convTypes : List NumT :=
  [.int true 8, .int true 16, .int true 32, .int true 64, .fp bf16, .fp fp16, .fp fp32, .fp e4m3, .fp e5m2, .fp fp4, .int true 4,
   .int false 8]

end

end Sys2Proof.Claims

/-- R226, R234, R238, R239, R240: sums, differences, products, quotients, reciprocals, square roots and multiply-adds of finite numbers in
FP32, FP16 and BF16 are the exact results rounded once, in each mode, with overflow as the mode says; exp2 of an integer and log2 of a
power of two too. Other results of exp2 and log2 are the rounding of a number that the model computes to within 2^-200 of the exact one's
size, for log2 within 2^-190: the model's reading of R240 (log 21). Special values. In FP32, FP16 and BF16 a NaN operand gives the canonical NaN, with IV when one is
signalling; ∞ − ∞, 0 × ∞, 0 / 0, ∞ / ∞ and the roots and logarithm of a negative number give it with IV; a nonzero number over zero gives an
infinity with DZ, 1 / √0 too, and log2 of zero −∞ with DZ; an exact sum of x and −x is +0, in RDN −0. The rows of R240 on infinities hold. -/
def Obligations.FloatSpecials : Prop :=
  (∀ f ∈ [fp32, fp16, bf16], ∀ rm < 4, ∀ x y z : Nat, ∀ a m e b n k c l j,
    f.decode x = .fin a m e → f.decode y = .fin b n k → f.decode z = .fin c l j →
    let r (u : Nat) : ℝ := numOf f u
    roundedTo f rm (r x + r y) (fpAdd f rm x y) ∧ roundedTo f rm (r x - r y) (fpSub f rm x y) ∧
    roundedTo f rm (r x * r y) (fpMul f rm x y) ∧ roundedTo f rm (r x * r y + r z) (fpFma f rm x y z) ∧
    (n ≠ 0 → roundedTo f rm (r x / r y) (fpDiv f rm x y) ∧ roundedTo f rm (1 / r y) (fpRcp f rm y)) ∧
    (a = false → m ≠ 0 → roundedTo f rm (√(r x)) (fpSqrt f rm x) ∧ roundedTo f rm (1 / √(r x)) (fpRsq f rm x) ∧
      (∃ q : ℝ, |q - Real.logb 2 (r x)| ≤ 1 / 2 ^ 190 ∧ roundedTo f rm q (fpLog2 f rm x)) ∧
      (∀ k : ℤ, r x = 2 ^ k → roundedTo f rm k (fpLog2 f rm x))) ∧
    (∃ q : ℝ, |q - (2 : ℝ) ^ r x| ≤ (2 : ℝ) ^ r x / 2 ^ 200 ∧ roundedTo f rm q (fpExp2 f rm x)) ∧
    (∀ k : ℤ, r x = k → roundedTo f rm (2 ^ k) (fpExp2 f rm x))) ∧
  ∀ f ∈ [fp32, fp16, bf16], ∀ rm < 4, ∀ x < 2 ^ f.bits, ∀ y < 2 ^ f.bits,
    let u := f.decode x
    let v := f.decode y
    let flags (b : Bool) : Nat := if b then 16 else 0
    ((u.isNan || v.isNan) = true → ∀ o ∈ [fpAdd, fpSub, fpMul, fpDiv], o f rm x y = (f.nan, flags (u.sNan || v.sNan))) ∧
    (u.isNan = true → ∀ o ∈ [fpSqrt, fpRcp, fpRsq, fpExp2, fpLog2], o f rm x = (f.nan, flags u.sNan)) ∧
    (∀ a b, u = .inf a → v = .inf b →
      fpAdd f rm x y = (if a = b then (f.infinity a, 0) else (f.nan, 16)) ∧ fpDiv f rm x y = (f.nan, 16)) ∧
    (∀ a, u = .inf a →
      fpSqrt f rm x = (if a then (f.nan, 16) else (f.infinity false, 0)) ∧ fpRsq f rm x = (if a then (f.nan, 16) else (0, 0)) ∧
      fpLog2 f rm x = (if a then (f.nan, 16) else (f.infinity false, 0)) ∧ fpRcp f rm x = (f.sign a, 0) ∧
      fpExp2 f rm x = (if a then 0 else f.infinity false, 0)) ∧
    (∀ a b m e, u = .inf a → v = .fin b m e →
      fpMul f rm x y = (if m = 0 then (f.nan, 16) else (f.infinity (a != b), 0)) ∧ fpAdd f rm x y = (f.infinity a, 0)) ∧
    (∀ a m e, u = .fin a m e →
      (m ≠ 0 → a = true → ∀ o ∈ [fpSqrt, fpRsq, fpLog2], o f rm x = (f.nan, 16)) ∧
      (m = 0 → fpSqrt f rm x = (f.sign a, 0) ∧ fpRsq f rm x = (f.infinity a, 8) ∧ fpLog2 f rm x = (f.infinity true, 8) ∧
        fpRcp f rm x = (f.infinity a, 8)) ∧
      (∀ b k, v = .fin b 0 k → fpDiv f rm x y = (if m = 0 then (f.nan, 16) else (f.infinity (a != b), 8))) ∧
      (m ≠ 0 → v = .fin (!a) m e → fpAdd f rm x y = (f.sign (rm = 2), 0)))

/-- R328, R339: the VCMP instructions put the comparison of each active lane into kD, an inactive lane's bit as it was, 0 if kD was
EMPTY, bits from n on 0; KAND, KOR, KXOR and KNOT act on all 64 bits; KPOP counts the bits below n; VSEL takes each lane from vA or vB. -/
def Sys2Proof.Claims.MasksComplete : Prop :=
  (∀ (s : State) (d : BitVec 2) (a b : BitVec 5) (t : BitVec 3) (k : BitVec 2),
    let w := laneW t.toNat
    let l : List Src := [.v a, .v b, .k k]
    s.ready l [.k d] = true →
    let x (j : Nat) : BitVec w := laneOf w (s.vv l 0) j
    let y (j : Nat) : BitVec w := laneOf w (s.vv l 1) j
    let on (j : Nat) : Bool := (s.me.getK k).val.getLsbD j
    let done (i : Instr) (p : Nat → Bool × Nat) : Prop :=
      let fl := (List.range (laneN t.toNat)).foldl (fun a j => if on j then a ||| (p j).2 else a) 0
      ∃ r : Word, exec i s = .next ((s.addFlags fl).finish l [.k d] [.ofX r] 4) ∧
        ∀ j < 64, r.getLsbD j = (j < laneN t.toNat &&
          if on j then (p j).1 else (s.me.getK d).full && (s.me.getK d).val.getLsbD j)
    (t.toNat < 4 →
      done (.vceq d a b t k) (fun j => (x j = y j, 0)) ∧ done (.vcne d a b t k) (fun j => (x j ≠ y j, 0)) ∧
      done (.vclt d a b t k) (fun j => ((x j).toInt < (y j).toInt, 0)) ∧
      done (.vcle d a b t k) (fun j => ((x j).toInt ≤ (y j).toInt, 0)) ∧
      done (.vcltu d a b (t.setWidth 2) k) (fun j => ((x j).toNat < (y j).toNat, 0)) ∧
      done (.vcleu d a b (t.setWidth 2) k) (fun j => ((x j).toNat ≤ (y j).toNat, 0))) ∧
    (4 ≤ t.toNat →
      let c (o j : Nat) : Bool × Nat := fpCmp (floatFmt (t.toNat - 4)) o (x j).toNat (y j).toNat
      done (.vceq d a b t k) (c 0) ∧ done (.vcne d a b t k) (c 1) ∧ done (.vclt d a b t k) (c 2) ∧
      done (.vcle d a b t k) (c 3))) ∧
  (∀ (s : State) (d a b : BitVec 2), s.ready [.k a, .k b] [.k d] = true → s.ready [.k a] [.k d] = true →
    let x := (s.me.getK a).val
    let y := (s.me.getK b).val
    let done (r : Word) : Out := .next (s.finish [.k a, .k b] [.k d] [.ofX r] 4)
    exec (.kand d a b) s = done (x &&& y) ∧ exec (.kor d a b) s = done (x ||| y) ∧ exec (.kxor d a b) s = done (x ^^^ y) ∧
    exec (.knot d a) s = .next (s.finish [.k a] [.k d] [.ofX (~~~x)] 4)) ∧
  (∀ (s : State) (d : BitVec 5) (a : BitVec 2) (t : BitVec 3), s.ready [.k a] [.g (d.setWidth 6)] = true →
    exec (.kpop d a t) s = .next (s.finish [.k a] [.g (d.setWidth 6)]
      [.data (BitVec.ofNat 64 ((List.range (laneN t.toNat)).countP fun j => (s.me.getK a).val.getLsbD j))] 4)) ∧
  (∀ (s : State) (d a b : BitVec 5) (t : BitVec 3) (k : BitVec 2),
    let w := laneW t.toNat
    let l : List Src := [.v a, .v b, .k k]
    s.ready l [.v d] = true →
    ∃ r : BitVec 512, exec (.vsel d a b t k) s = .next (s.finish l [.v d] [.ofV r] 4) ∧
      ∀ j < laneN t.toNat, laneOf w r j =
        if (s.me.getK k).val.getLsbD j then laneOf w (s.vv l 0) j else laneOf w (s.vv l 1) j)

/-- R226, R234, R236, R237, R329, R330: VCVT converts each active element, of T and F by DIR, in ARITH.RM; VCVTS rounds by the random word
that KCG makes of SKEY, OX0, the round number of a REP and the element's number. A finite number becomes itself rounded, in E4M3 and FP4
clamped to the largest; of an integer type it is rounded and clamped, with IV when it is out of range; a narrowed integer is clamped
with SAT; NaNs and infinities give R236's values. Stochastically, a number that is not representable becomes the farther neighbour
from zero when the word's high half is below the fraction D, else the nearer one; beyond the largest finite value, and for a NaN, it
is converted as VCVT does. -/
def Sys2Proof.Claims.ConversionsComplete : Prop :=
  (∀ (s : State) (d a : BitVec 5) (f : BitVec 4) (t : BitVec 3) (k : BitVec 2) (r : BitVec 1),
    let src := if r = 0 then numT t.toNat else numT f.toNat
    let dst := if r = 0 then numT f.toNat else numT t.toNat
    lanesDone s (.vcvt d a r f t k) d [.v a] k dst.width (512 / max src.width dst.width) fun j =>
      asLane dst.width (convert src dst s.me.rm (laneOf src.width (s.vv [.v a, .k k] 0) j).toNat)) ∧
  (∀ (s : State) (d a : BitVec 5) (f : BitVec 4) (t k : BitVec 2),
    let l : List Src := [.v a, .k k, .ox 0]
    s.ready l [.v d] = true →
    let src := floatFmt t.toNat
    let dst := numF f.toNat
    let n := 512 / max src.bits dst.bits
    let on (j : Nat) : Bool := (s.me.getK k).val.getLsbD j
    let round := if s.me.repAct then s.me.repJ else 0
    let c (j : Nat) : Nat × Nat := fpCvtStochastic src dst s.me.rm
      (kcg s.me.skey (s.me.ox[0].val + BitVec.ofNat 64 (64 * round + j))) (laneOf src.bits (s.vv l 0) j).toNat
    let fl := (List.range n).foldl (fun a j => if on j then a ||| (c j).2 else a) 0
    ∃ r : BitVec 512, exec (.vcvts d a f t k) s = .next ((s.addFlags fl).finish l [.v d] [.ofV r] 4) ∧
      (∀ j < n, laneOf dst.bits r j = if on j then BitVec.ofNat dst.bits (c j).1 else laneOf dst.bits (s.oldV d) j) ∧
      ∀ j, dst.bits * n ≤ j → r.getLsbD j = (s.oldV d).getLsbD j) ∧
  (∀ rm < 4, ∀ x : Nat,
    (∀ g f : Fmt, .fp g ∈ convTypes → .fp f ∈ convTypes → x < 2 ^ g.bits →
      let p := convert (.fp g) (.fp f) rm x
      (∀ a m e, g.decode x = .fin a m e → convertedTo f rm (numOf g x) p) ∧
      (∀ a, g.decode x = .inf a → p = if f = e4m3 ∨ f = fp4 then (f.sign a + f.top, 4) else (f.sign a + f.top + 1, 0)) ∧
      (∀ sig, g.decode x = .nan sig → p = if f = fp4 then (0, 16) else (f.nan, if sig then 16 else 0))) ∧
    (∀ (f : Fmt) (sg : Bool) (n : Nat), .fp f ∈ convTypes → .int sg n ∈ convTypes → x < 2 ^ n →
      convertedTo f rm (asInt sg n x) (convert (.int sg n) (.fp f) rm x)) ∧
    (∀ (f : Fmt) (sg : Bool) (n : Nat), .fp f ∈ convTypes → .int sg n ∈ convTypes → x < 2 ^ f.bits →
      let p := convert (.fp f) (.int sg n) rm x
      (∀ a m e, f.decode x = .fin a m e → ∀ k : ℤ, integerOf rm (numOf f x) k →
        p = if k < intLow sg n then (asBits n (intLow sg n), 16) else if intHigh sg n < k then (asBits n (intHigh sg n), 16)
          else (asBits n k, if (k : ℝ) = numOf f x then 0 else 1)) ∧
      (∀ a, f.decode x = .inf a → p = (asBits n (if a then intLow sg n else intHigh sg n), 16)) ∧
      (∀ sig, f.decode x = .nan sig → p = (0, 16))) ∧
    (∀ (sg tg : Bool) (m n : Nat), .int sg m ∈ convTypes → .int tg n ∈ convTypes → x < 2 ^ m →
      let k := asInt sg m x
      convert (.int sg m) (.int tg n) rm x = if k < intLow tg n then (asBits n (intLow tg n), 32)
        else if intHigh tg n < k then (asBits n (intHigh tg n), 32) else (asBits n k, 0))) ∧
  (∀ g ∈ [bf16, fp16, fp32], ∀ f ∈ [bf16, fp16, e4m3, e5m2, fp4], f.bits < g.bits → ∀ rm < 4, ∀ (z : Word), ∀ x < 2 ^ g.bits,
    let p := fpCvtStochastic g f rm z x
    let r := numOf g x
    ((∀ a m e, g.decode x = .fin a m e → numOf f f.top < |r|) → p = fpCvt g f rm x) ∧
    (∀ a m e, g.decode x = .fin a m e → |r| ≤ numOf f f.top →
      ((∃ y ≤ f.top, numOf f y = |r|) → numOf f p.1 = r ∧ p.2 = 0) ∧
      (∀ lo < f.top, numOf f lo < |r| → |r| < numOf f (lo + 1) →
        let frac := ⌊(|r| - numOf f lo) / (numOf f (lo + 1) - numOf f lo) * 2 ^ 32⌋₊
        p.1 = f.sign a + (if z.toNat / 2 ^ 32 < frac then lo + 1 else lo) ∧ p.2 % 2 = 1 ∧ p.2 / 4 = 0)))

/-- R243, R331: of integer lanes VRSUM completes with the sum of the active ones modulo 2^64, VRMIN and VRMAX with the smallest and
the largest, 0 where none is active, and every other bit of vD is 0; of float lanes they follow the fixed tree, nodes in
ARITH.RM. -/
def Sys2Proof.Claims.ReductionsComplete : Prop :=
  ∀ (s : State) (d a : BitVec 5) (t : BitVec 3) (k : BitVec 2), s.ready [.v a, .k k] [.v d] = true →
    let l : List Src := [.v a, .k k]
    let w := laneW t.toNat
    let n := laneN t.toNat
    let on : List Nat := (List.range n).filter fun j => (s.me.getK k).val.getLsbD j
    let xs : List Int := on.map fun j => (laneOf w (s.vv l 0) j).toInt
    let done (r : BitVec 512) (fl : Nat) : Out := .next ((s.addFlags fl).finish l [.v d] [.ofV r] 4)
    (t.toNat < 4 →
      exec (.vrsum d a t k) s = done ((BitVec.ofInt 64 xs.sum).setWidth 512) 0 ∧
      exec (.vrmin d a t k) s = done ((BitVec.ofInt w (xs.min?.getD 0)).setWidth 512) 0 ∧
      exec (.vrmax d a t k) s = done ((BitVec.ofInt w (xs.max?.getD 0)).setWidth 512) 0) ∧
    (4 ≤ t.toNat →
      let ins : List (Option Nat) := (List.range n).map fun j =>
        if (s.me.getK k).val.getLsbD j then some (laneOf w (s.vv l 0) j).toNat else none
      let f := floatFmt (t.toNat - 4)
      let res (o : Nat → Nat → Nat × Nat) : Out := done (BitVec.ofNat 512 (floatTree f o n ins).1) (floatTree f o n ins).2
      exec (.vrsum d a t k) s = res (fpAdd f s.me.rm) ∧ exec (.vrmin d a t k) s = res (fpMin f) ∧
      exec (.vrmax d a t k) s = res (fpMax f))

/-- R332, R337, R338: VPERM, VSLIDE, VROT, VBCAST, VEXT, VINS, VUNPK3 and VTACC complete; the last two set TIL on an illegal byte of an
active lane, which counts as five zero trits. -/
def Sys2Proof.Claims.PermutationsComplete : Prop :=
  (∀ (s : State) (d a b : BitVec 5) (t : BitVec 3) (k : BitVec 2) (sl : BitVec 7),
    let w := laneW t.toNat
    let n := laneN t.toNat
    lanesDone s (.vperm d a b t k) d [.v a, .v b] k w n (fun j =>
      (laneOf w (s.vv [.v a, .v b, .k k] 0) ((laneOf w (s.vv [.v a, .v b, .k k] 1) j).toNat % n), 0)) ∧
    lanesDone s (.vbcast d a t k) d [.g (a.setWidth 6)] k w n
      (fun _ => ((s.wv [.g (a.setWidth 6), .k k] 0).setWidth w, 0)) ∧
    (s.ready [.v a] [.v d] = true →
      let x := s.vv [.v a] 0
      let done (i : Instr) (f : Nat → BitVec w) : Prop :=
        ∃ r : BitVec 512, exec i s = .next (s.finish [.v a] [.v d] [.ofV r] 4) ∧ ∀ j < n, laneOf w r j = f j
      done (.vslide d a sl t) (fun j => if j + sl.toNat < n then laneOf w x (j + sl.toNat) else 0) ∧
      done (.vrot d a sl t) (fun j => laneOf w x ((j + sl.toNat) % n))) ∧
    (s.ready [.v a] [.g (d.setWidth 6)] = true → sl.toNat < n →
      let x := laneOf w (s.vv [.v a] 0) sl.toNat
      exec (.vext d a sl t) s =
        .next (s.finish [.v a] [.g (d.setWidth 6)] [.data (if t.toNat < 4 then x.signExtend 64 else x.setWidth 64)] 4)) ∧
    (s.ready [.g (a.setWidth 6)] [.v d] = true → sl.toNat < n →
      ∃ r : BitVec 512, exec (.vins d a sl t) s = .next (s.finish [.g (a.setWidth 6)] [.v d] [.ofV r] 4) ∧
        ∀ j < n, laneOf w r j =
          if j = sl.toNat then (s.wv [.g (a.setWidth 6)] 0).setWidth w else laneOf w (s.oldV d) j)) ∧
  (∀ (s : State) (d a b sl : BitVec 5) (t k : BitVec 2),
    let trit (x : BitVec 512) (m : Nat) : Int :=
      let c := (laneOf 8 x (m / 5)).toNat
      if 243 ≤ c then 0 else (c / 3 ^ (m % 5) % 3 : Nat) - 1
    let til (x : BitVec 512) (m : Nat) : Nat := if 243 ≤ (laneOf 8 x (m / 5)).toNat then 64 else 0
    let l : List Src := [.v a, .v b, .v d]
    (t.toNat < 3 → laneN t.toNat * sl.toNat + laneN t.toNat ≤ 320 →
      lanesDone s (.vunpk3 d a sl t k) d [.v a] k (laneW t.toNat) (laneN t.toNat) fun j =>
        let x := s.vv [.v a, .k k] 0
        (BitVec.ofInt _ (trit x (laneN t.toNat * sl.toNat + j)), til x (laneN t.toNat * sl.toNat + j))) ∧
    lanesDone s (.vtacc d a b k) d l k 32 16 fun j =>
      let x := s.vv (l ++ [.k k]) 1
      (laneOf 32 (s.vv (l ++ [.k k]) 2) j + BitVec.ofInt 32
          ((List.range 20).map fun p => trit x (20 * j + p) * (laneOf 8 (s.vv (l ++ [.k k]) 0) p).toInt).sum,
        (List.range 4).foldl (fun f i => f ||| til x (5 * (4 * j + i))) 0))

namespace Sys2Proof.Claims

noncomputable section

/-- The base of a vector access may be used: DATA in kernel code, or a well-formed capability (R334). -/
def baseSound (s : State) (b : GReg) : Prop := (s.kern = true ∧ b.tag ≠ .cap) ∨ (b.tag = .cap ∧ capWell b.sh = true)

/-- The active elements of a vector access of the executing thread, lane j at address `ea j`, pass their checks in ascending order of lanes,
and none lies in another rank's window (R334). -/
def elementsReached (s u : State) (es : List Elem) (load : Bool) (b : GReg) (code nb n : Nat) (m : Word) (ea : Nat → Word) : Prop :=
  let need (j : Nat) : Need :=
    if load then { loadAt b code (ea j) nb with align := nb } else { storeAt b code (ea j) nb with align := nb }
  elemChecks load false need (fun _ t _ _ _ r => .ok (t, r)) s [] ((List.range n).filter fun j => m.getLsbD j) = .ok (u, [], es) ∧
    ∀ e ∈ es, ∃ p, e.w = .here p

end

end Sys2Proof.Claims

/-- R333 to R335: VLD, VLDS and VGATH complete when their active elements are reached: lane j from base + 64 × sext(VB) + j × w/8, base +
j × gB, or base + sext(vB lane j) × w/8; an inactive lane is kept. VST, VSTS and VSCAT store the active lanes there in ascending order. -/
def Obligations.VectorAccessCompletes : Prop :=
  ∀ (s u : State) (es : List Elem) (d a b : BitVec 5) (t : BitVec 3) (k : BitVec 2),
    let w := laneW t.toNat
    let n := laneN t.toNat
    let m := (s.me.getK k).val
    let ga : Src := .g (a.setWidth 6)
    let loads (i : Instr) (l : List Src) (off : Nat → Word) : Prop :=
      s.ready l [.v d] = true → baseSound s (s.gv l 0) →
      elementsReached s u es true (s.gv l 0) a.toNat (w / 8) n m (fun j => s.wv l 0 + off j) →
      let z := loadElems u.cur [] u es
      ∃ r : BitVec 512, exec i s = .next (z.1.finish l [.v d] [.ofV r] 4) ∧
        (∀ p ∈ z.2, p.1 < n → (laneOf w r p.1).toNat = p.2 % 2 ^ w) ∧
        (∀ j < n, m.getLsbD j = false → laneOf w r j = laneOf w (s.oldV d) j)
    let stores (i : Instr) (l : List Src) (off : Nat → Word) : Prop :=
      s.ready l [] = true → baseSound s (s.gv l 0) →
      elementsReached s u es false (s.gv l 0) a.toNat (w / 8) n m (fun j => s.wv l 0 + off j) →
      exec i s = .next ((storeLocalElems u.cur (fun j => (laneOf w (s.vv l (l.length - 2)) j).toNat) u es).finish l [] [] 4)
    let unit (j : Nat) : Word := (b.signExtend 64) * 64 + BitVec.ofNat 64 (j * (w / 8))
    let stride (l : List Src) (j : Nat) : Word := BitVec.ofNat 64 j * s.wv l 1
    let index (l : List Src) (j : Nat) : Word := BitVec.ofInt 64 ((laneOf w (s.vv l 1) j).toInt * (w / 8 : Nat))
    let gb : Src := .g (b.setWidth 6)
    loads (.vld d a b t k) [ga, .k k] unit ∧
    loads (.vlds d a b t k) [ga, gb, .k k] (stride [ga, gb, .k k]) ∧
    loads (.vgath d a b t k) [ga, .v b, .k k] (index [ga, .v b, .k k]) ∧
    stores (.vst d a b t k) [ga, .v d, .k k] unit ∧
    stores (.vsts d a b t k) [ga, gb, .v d, .k k] (stride [ga, gb, .v d, .k k]) ∧
    stores (.vscat d a b t k) [ga, .v b, .v d, .k k] (index [ga, .v b, .v d, .k k])

/-! ## The matrix engine -/

namespace Sys2Proof.Claims

noncomputable section

/-- R340, R355: the executing thread owns its core's engine and has no MMA in flight, which its other MAT instructions wait for. -/
def owns (s : State) : Prop := s.here.engine.owner s.cb s.me = true ∧ s.here.engine.mmaBusy s.cb = false

/-- R343: the executing thread, which owns nothing, may claim the engine, FREE after a spill made for its claim or with no other thread
before it. -/
def mayClaim (s : State) : Prop :=
  bitOf s.me.mspill 63 = false ∧ s.here.engine.held = false ∧ s.here.engine.mmaBusy s.cb = false ∧
    (s.here.engine.grant = some s.cb ∨ s.here.engine.grant = none ∧ s.here.slotWaits = false ∧
      ∀ i, s.here.engine.waiting.head? = some i → i = s.cb)

/-- The header of an FP32 or INT32 matrix is sound (R352, R358). -/
def header32 (x : Tile) : Prop :=
  x.reserved true = false ∧ x.w32 = true ∧ x.smode = 0 ∧ x.scaleSlotBad = false ∧ x.sizeBad true = false ∧ x.korg % 48 = 0

/-- The header of a matrix in another format is sound for an accumulator of a form (R352, R359). -/
def headerNarrow (x : Tile) (acc : Acc) : Prop :=
  x.reserved false = false ∧ x.w32 = false ∧ x.smode = 0 ∧ x.scaleSlotBad = false ∧ x.sizeBad false = false ∧ x.korg % 48 = 0 ∧
    ((x.fmt ≤ 3 ∧ acc.form = 1) ∨ (x.fmt = 5 ∧ acc.form = 2))

/-- An element as R359 stores it, with its flags: a 32-bit word as it is, else converted. -/
def storedAs (x : Tile) (rm : Nat) (w : BitVec 32) : Nat × Nat :=
  let float (f : Fmt) : Nat × Nat := convert (.fp fp32) (.fp f) rm w.toNat
  if x.w32 = true then (w.toNat, 0)
  else if x.fmt = 0 then float bf16
  else if x.fmt = 1 then float fp16
  else if x.fmt = 2 then float e4m3
  else if x.fmt = 3 then float e5m2
  else convert (.int true 32) (.int (!x.u) 8) rm w.toNat

/-- Where element column 0 of an accumulator lies among the output columns, and how many columns are below `n` (R354). -/
def firstCol (c : Core) : Nat := c.col0 + 32 * c.ccol

def firstRow (c : Core) : Nat := c.row0 + 32 * c.crow

end

end Sys2Proof.Claims

/-- R340, R343, R357: MZERO by the owner, or by a thread that may claim the FREE engine, completes: aD is 1024 zeros in the form
that Q names, the thread owns the engine, the owner's other accumulators are as before, after a claim EMPTY. -/
def Sys2Proof.Claims.MzeroCompletes : Prop :=
  ∀ (s : State) (d : BitVec 2) (f : BitVec 1), s.cb < 2 → owns s ∨ mayClaim s →
    ∃ t : State, exec (.mzero d f) s = .next t ∧ (s.me.repAct = false → t.me.pc = s.me.pc + 4) ∧
      t.here.engine.getAcc d.toNat = (if f = 0 then .fp32 (List.replicate 1024 0) else .int32 (List.replicate 1024 0)) ∧
      t.here.engine.owner t.cb t.me = true ∧ t.here.engine.progress = none ∧
      (mayClaim s → ∀ i < 4, i ≠ d.toNat → t.here.engine.getAcc i = .empty) ∧
      (owns s → s.here.engine.progress = none → ∀ i < 4, i ≠ d.toNat → t.here.engine.getAcc i = s.here.engine.getAcc i) ∧
      t.me.g = s.me.g ∧ t.me.v = s.me.v ∧ t.mem = s.mem

/-- R353, R354, R358: MLD with a sound header whose rows are reached completes: element (i, c) of aD is the 32-bit word of output row
ROW0 + 32 CROW + i and column COL0 + 32 CCOL + c where the extents hold it, else 0. -/
def Sys2Proof.Claims.MldCompletes : Prop :=
  ∀ (s t1 t1' t2 t3 : State) (d : BitVec 2) (a : BitVec 6) (f : BitVec 1) (x : Tile) (l0 l : List (Range × List (Piece × Loc)))
    (v : List (Range × Nat)), s.cb < 2 → owns s ∨ mayClaim s → s.ready [.g a] [] = true →
    tileHeader s a (s.gv [.g a] 0) = .ok (t1, x) → header32 x → tileSlots t1.kern x true = .ok () →
    rangeChecks false t1 (sortRanges (x.outRows t1.here true)) = .ok (t1', l0) →
    rangeChecks false t1' (sortRanges ((x.parts t1.here true).map (·.2))) = .ok (t2, l) → rangeLoads t2 l = .ok (t3, v) →
    ∃ (z : State) (e : List (BitVec 32)), exec (.mld d a f) s = .next (z.finish [.g a] [] [] 4) ∧ z.mem = t3.mem ∧
      z.here.engine.getAcc d.toNat = (if f = 0 then .fp32 e else .int32 e) ∧ e.length = 1024 ∧
      (t3.here.geom = t1.here.geom → ∀ i < 32, ∀ c < 32,
        let m := firstRow t1.here + i
        let n := firstCol t1.here
        e[32 * i + c]? = some (if m < x.rows ∧ n + c < x.cols then
          BitVec.ofNat 32 (rangeVal v ⟨x.addr, x.data, x.row m + BitVec.ofNat 64 (4 * n), 4 * min 32 (x.cols - n)⟩ / 2 ^ (32 * c))
          else 0))

/-- R234, R236, R359: MST of an accumulator that is not EMPTY, with a sound header whose rows may be stored to, completes: row i of its
elements, from the least significant up, is stored at the row's place, the 32-bit words unchanged with W32 = 1, else FP32 elements
converted to the header's format in ARITH.RM, or INT32 ones clamped to INT8 or UINT8, with their flags; with E the accumulator becomes
EMPTY, and the engine FREE with OWN 0 when all are; without E the engine is as before. -/
def Sys2Proof.Claims.MstCompletes : Prop :=
  ∀ (s t1 t1' t2 t3 : State) (d : BitVec 2) (a : BitVec 6) (e : BitVec 1) (x : Tile) (l0 l : List (Range × List (Piece × Loc)))
    (val : Range → Nat), s.cb < 2 → owns s → s.ready [.g a] [] = true → s.here.engine.progress = none →
    let acc := s.here.engine.getAcc d.toNat
    acc ≠ .empty →
    tileHeader s a (s.gv [.g a] 0) = .ok (t1, x) → header32 x ∨ headerNarrow x acc → tileSlots t1.kern x x.w32 = .ok () →
    rangeChecks true t1 (sortRanges (x.outRows t1.here x.w32)) = .ok (t1', l0) →
    let ps := x.parts t1.here x.w32
    rangeChecks true t1' (sortRanges (ps.map (·.2))) = .ok (t2, l) → storeRangeChecks t2 l = .ok t3 →
    t3.here.geom = t1.here.geom →
    let row (i : Nat) : List (Nat × Nat) := (List.range (t1.here.colsBelow x.cols).length).map fun c =>
      storedAs x t3.me.rm (acc.elems.getD (32 * i + c) 0)
    (∀ p ∈ ps, val p.2 = Nat.ofDigits (2 ^ (8 * x.elem x.w32)) ((row p.1).map (·.1))) →
    ∃ z : State, exec (.mst d a e) s = .next (z.finish [.g a] [] [] 4) ∧ z.mem = (storeRanges val t3 l).mem ∧
      z.tags = (storeRanges val t3 l).tags ∧
      ((storeRanges val t3 l).here.engine.progress = none → z.me.vstat = (storeRanges val t3 l).me.vstat |||
        BitVec.ofNat 64 ((ps.flatMap fun p => (row p.1).map (·.2)).foldl (· ||| ·) 0)) ∧
      let u := (storeRanges val t3 l).dropPending
      (e = 0 → z.here.engine = u.here.engine) ∧
      ((storeRanges val t3 l).here.engine.progress = none → u = storeRanges val t3 l) ∧
      (e = 1 → z.here.engine.getAcc d.toNat = .empty ∧
        ((∀ i < 4, i ≠ d.toNat → u.here.engine.getAcc i = .empty) →
          z.here.engine.held = false ∧ bitOf z.me.mspill 63 = false))

/-- R360, R361: MSAVE where there is no state to save stores nothing and returns 0; of the issuer's own state it stores the
accumulators, a0 first, returns the state word and leaves the engine FREE. MRST of a state word with V = 0 has no effect but the end
of the issuer's stopped MMA (R347); of another one it fills the FREE engine with the accumulators at gA and the forms of the word, owned by the issuer in B1. -/
def Sys2Proof.Claims.MatrixSavesComplete : Prop :=
  (∀ (s t : State) (d a : BitVec 6), s.cb < 2 → s.ready [.g a] [.g d] = true →
    let need : Need := ⟨s.gv [.g a] 0, a.toNat, s.wv [.g a] 0, 0x4000, 2, false, true, false, 64⟩
    regionChecks s need = .ok t →
    (bitOf s.me.mspill 63 = false → s.here.engine.mmaBusy s.cb = false → t.savedState .without = .nothing →
      exec (.msave d a) s = .next (t.finish [.g a] [.g d] [.data 0] 4)) ∧
    (∀ z : State, owns s → t.here.engine.progress = none →
      saveRegion t need (t.here.engine.acc.toList.flatMap accWords) = .ok z →
      let e := t.here.engine
      ∃ y : State, exec (.msave d a) s = .next (y.finish [.g a] [.g d]
          [.data (stateWord none e.ob e.oclass e.obase (e.acc.toList.map Acc.form))] 4) ∧
        y.mem = z.mem ∧ y.here.engine.held = false ∧ (∀ i < 4, y.here.engine.getAcc i = .empty) ∧
        bitOf y.me.mspill 63 = false)) ∧
  (∀ (s : State) (a b : BitVec 6), s.cb < 2 → s.ready [.g a, .g b] [] = true →
    let k := s.wv [.g a, .g b] 1
    s.here.engine.mmaBusy s.cb = false → getF k 32 32 = 0 → getF k 28 3 = 0 → (∀ i < 4, getF k (2 * i) 2 ≠ 3) →
    (bitOf k 31 = false → exec (.mrst a b) s = .next (s.endPending.finish [.g a, .g b] [] [] 4) ∧
      (s.here.engine.progress = none → s.here.engine.slot = none → s.endPending = s)) ∧
    (∀ (t1 t2 : State) (ws : List Word), bitOf k 31 = true →
      let need : Need := ⟨s.gv [.g a, .g b] 0, a.toNat, s.wv [.g a, .g b] 0, 0x4000, 1, true, false, false, 64⟩
      regionChecks s need = .ok t1 → t1.here.engine.held = false → t1.here.engine.slot = none →
      t1.here.engine.waiting = [] → loadRegion t1 need = .ok (t2, ws) → t2.here.engine.held = false →
      t2.here.engine.slot = none → t2.cb = 1 → (∃ i < 4, getF k (2 * i) 2 ≠ 0) →
      ∃ y : State, exec (.mrst a b) s = .next (y.finish [.g a, .g b] [] [] 4) ∧ y.mem = t2.mem ∧
        y.here.engine.owner 1 y.me = true ∧
        ∀ i < 4, y.here.engine.getAcc i = Acc.ofForm (getF k (2 * i) 2) (wordsAcc ((ws.drop (512 * i)).take 512))))

/-- R232, R343, R347, R352, R355, R356: (when the thread may go past its MMA, what a stop does with one it has gone past, and that TERNILL
comes at the MMA's end, are the model's choices, logs 36 and 38) an MMA of a thread outside a gang that owns the engine, with sound headers and operands that are reached, goes
in flight with the blocks of its operands, those not left in flight already added to aD in order; MMA_COMPLETE adds the blocks left; the
MMA is then over, with TIL when a block met an illegal byte. While it is in flight the thread stands at it or, outside a gang and with
TILTRAP 0, goes past it at a free moment, with its TIL. A stop ends the flight: of an MMA that the thread stands at PEND, PACC and BLK
are recorded with the operands of BLK; one that it has gone past is completed. -/
def Sys2Proof.Claims.MmaCompletes : Prop :=
  (∀ (s s1 s2 : State) (d : BitVec 2) (a b : BitVec 6) (x y : Tile) (pa pb : Panel) (pins : List Nat),
    s.cb < 2 → s.ready [.g a, .g b] [] = true → s.me.wait = .none → s.me.gang = none → owns s →
    s.here.engine.getAcc d.toNat ≠ .empty → s.here.engine.progress = none →
    let u := s.setEngine (s.here.engine.unwait s.cb)
    mmaHeaders u d a b (s.gv [.g a, .g b] 0) (s.gv [.g a, .g b] 1) = .ok (s1, x, y) →
    s1.here.engine.progress = none → mmaFetch s1 x y true true = .ok (s2, pa, pb, pins) → s2.here.engine.progress = none →
    let bs := blocksFrom x.fmt y.fmt x.u y.u x.cols pa pb 0 x.blocks
    ∃ (t : State) (f : Flight) (k : Nat), exec (.mma d a b) s = .next t ∧ t.me.wait = .mma ∧
      t.here.engine.flight = some f ∧ f.acc = d.toNat ∧ f.berth = s2.cb ∧ f.next = k ∧ f.blocks = bs.drop k ∧
      (k < bs.length ∨ k = 0) ∧ t.here.engine.getAcc d.toNat = (bs.take k).foldl Acc.addBlock (s2.here.engine.getAcc d.toNat) ∧
      .mmaComplete (BitVec.ofNat 12 s2.cur) ∈ t.agenda ∧ t.mem = s2.mem) ∧
  (∀ (s : State) (node : BitVec 12) (f : Flight),
    let n := node.toNat
    (s.core n).engine.flight = some f → f.gang = none → f.berth < 4 → f.acc < 4 → (s.free % 2 = 0 ∨ f.blocks.length ≤ 1) →
    ∃ t : State, exec (.mmaComplete node) s = .next t ∧ (t.core n).engine.flight = none ∧
      (t.core n).engine.getAcc f.acc = f.blocks.foldl Acc.addBlock ((s.core n).engine.getAcc f.acc) ∧
      (∀ i < 4, i ≠ f.acc → (t.core n).engine.getAcc i = (s.core n).engine.getAcc i) ∧
      (f.past = false → (t.berthAt n f.berth).wait = .done (if f.til || f.blocks.any (·.til) then 1 else 0) 0) ∧
      (f.past = true → (t.berthAt n f.berth).wait = (s.berthAt n f.berth).wait) ∧ t.mem = s.mem) ∧
  (∀ (s : State) (d : BitVec 2) (a b : BitVec 6) (f : Flight), s.cb < 2 → s.ready [.g a, .g b] [] = true → s.me.wait = .mma →
    s.here.engine.flight = some f → f.berth = s.cb →
    (f.gang = none → s.me.tilTrap = false → s.free % 2 = 1 →
      ∃ t : State, exec (.mma d a b) s = .next (t.finish [.g a, .g b] [] [] 4) ∧
        t.here.engine.flight = some { f with past := true } ∧ t.here.engine.acc = s.here.engine.acc ∧ t.mem = s.mem ∧
        t.me.vstat = s.me.vstat ||| (if f.til || f.blocks.any (·.til) then 64 else 0)) ∧
    (f.gang.isSome = true ∨ s.me.tilTrap = true ∨ s.free % 2 = 0 →
      ∃ t : State, exec (.mma d a b) s = .next t ∧ t.cores = s.cores ∧ t.mem = s.mem)) ∧
  (∀ (c : Core) (f : Flight), c.engine.flight = some f → f.acc < 4 →
    let e := (c.stopMma f.berth).engine
    e.flight = none ∧
    (f.past = false → e.acc = c.engine.acc ∧ ∃ p : Progress, e.progress = some p ∧ p.acc = f.acc ∧ p.blk = f.next ∧
      p.kept = f.blocks.head?) ∧
    (f.past = true → e.progress = none ∧ e.getAcc f.acc = f.blocks.foldl Acc.addBlock (c.engine.getAcc f.acc))) ∧
  (∀ (s : State) (d : BitVec 2) (a b : BitVec 6) (til w : Word), s.cb < 2 → s.ready [.g a, .g b] [] = true →
    s.me.wait = .done til w →
    let t := (s.addFlags (if til = 0 then 0 else 64)).finish [.g a, .g b] [] [] 4
    exec (.mma d a b) s = .next (if til ≠ 0 ∧ s.me.tilTrap = true then t.takeSync .ternill s.me.pc else t))

/-- R244, R245, R350: an MMA of INT8 matrices: after the blocks of its operands an element of an INT32 accumulator is what it was plus the
sum over all columns of the products of its A row's and its B row's elements, modulo 2^32; elements outside the panels are
as before. -/
def Sys2Proof.Claims.IntegerProducts : Prop :=
  ∀ (ua ub : Bool) (cols : Nat) (pa pb : Panel) (e : List (BitVec 32)), e.length = 1024 → pa.length ≤ 32 → pb.length ≤ 32 →
    let bs := blocksFrom 5 5 ua ub cols pa pb 0 ((cols + 47) / 48)
    let el (u : Bool) (x k : Nat) : Int := if u then ((x / 2 ^ (8 * k) % 256 : Nat) : Int) else (BitVec.ofNat 8 (x / 2 ^ (8 * k))).toInt
    ∃ r : List (BitVec 32), bs.foldl Acc.addBlock (.int32 e) = .int32 r ∧ r.length = 1024 ∧
      ∀ (i c : Nat) (hi : i < 32) (hc : c < 32), r.getD (32 * i + c) 0 = e.getD (32 * i + c) 0 +
        (if h : i < pa.length ∧ c < pb.length then
          BitVec.ofInt 32 ((List.range cols).map fun k => el ua pa[i].1 k * el ub pb[c].1 k).sum
         else 0)

/-- R343, R345, R346: a spill for a claim that still waits frees the engine and writes the owner's accumulators to its region and its forms to
the slot; an owner whose MMA was in flight waits behind that claim; a reload fills the engine from the region. What was written to a valid region is what is read from it. -/
def Sys2Proof.Claims.SpillsComplete : Prop :=
  (∀ (s : State) (node : BitVec 12),
    let n := node.toNat
    let c := s.core n
    (∃ i, c.engine.grant = some i ∧ c.maySpill (c.berth i).mclass = true) →
    (∀ f, c.engine.flight = some f → ∃ (t : State) (p : Spill) (g : Flight), exec (.engineSpill node) s = .next t ∧
      (t.core n).engine.held = false ∧ (t.core n).engine.slot = some p ∧ p.ob = c.engine.ob ∧ p.flight = some g ∧
      g.berth = f.berth ∧ g.acc = f.acc ∧ g.blocks = f.blocks.drop 1 ∧ f.berth ∈ (t.core n).engine.waiting ∧
      (t.core n).engine.grant = c.engine.grant ∧ (t.core n).slotWaits = false) ∧
    (c.engine.flight = none → c.engine.progress = none →
    ∃ (t : State) (p : Spill), exec (.engineSpill node) s = .next t ∧ (t.core n).engine.held = false ∧
      (t.core n).engine.slot = some p ∧ p.ob = c.engine.ob ∧ p.obase = c.engine.obase ∧ p.oclass = c.engine.oclass ∧
      p.forms = c.engine.acc.toList.map Acc.form ∧
      (p.lost = false → t.mem = (s.writeRegion n c.engine.obase c.engine).mem) ∧ (p.lost = true → t.mem = s.mem))) ∧
  (∀ (s : State) (node : BitVec 12) (p : Spill),
    let n := node.toNat
    let c := s.core n
    c.engine.slot = some p → c.engine.held = false → c.slotWaits = true →
    ∃ t : State, exec (.engineReload node) s = .next t ∧ (t.core n).engine.held = true ∧ (t.core n).engine.slot = none ∧
      (t.core n).engine.ob = p.ob ∧ (t.core n).engine.obase = p.obase ∧ (t.core n).engine.progress = p.progress ∧
      (p.owed = none → (t.core n).engine.acc = s.readRegion n p.obase p.forms) ∧
      (∀ f, p.owed = some f → (t.core n).engine.acc = ({ Engine.free with acc := s.readRegion n p.obase p.forms }.addBlocks f.acc f.blocks).acc) ∧
      t.mem = s.mem) ∧
  (∀ (s : State) (n base : Nat) (e : Engine), n < 2 ^ 12 → base ≤ 5 → s.memWf → s.silt.valid = false →
    (∀ a ∈ e.acc.toList, a ≠ .empty → a.elems.length = 1024) →
    (s.writeRegion n base e).readRegion n base (e.acc.toList.map Acc.form) = e.acc)

/-- R362, R364, R347: GANG outside a gang with shape 1×1 returns 1 at once; a member's first arrival waits until every member of its gang has
arrived at the same GANG; when its round is over it returns what the round left. MPF with a readable header completes and changes no
register and no accumulator. Both end the issuer's stopped MMA. A broadcast panel that arrives is kept. -/
def Sys2Proof.Claims.GangsComplete : Prop :=
  (∀ (s : State) (d : BitVec 6), s.cb < 2 → s.ready [] [.g d] = true → s.here.engine.mmaBusy s.cb = false →
    (s.me.gang = none → getF s.here.geom 8 3 = 0 → exec (.gang d) s = .next (s.endPending.finish [] [.g d] [.data 1] 4)) ∧
    (∀ x y, s.me.gang.isSome = true → s.me.wait = .done x y →
      exec (.gang d) s = .next (s.endPending.finish [] [.g d] [.data x] 4)) ∧
    (∀ g m, s.cb = 1 → s.me.gang = some g → s.me.wait = .none → m ∈ g.members → m ≠ s.cur → (s.berthAt m 1).wait = .none →
      ∃ t : State, exec (.gang d) s = .next t ∧ t.me.wait = .gang ∧ t.me.pc = s.me.pc) ∧
    (∀ g, s.cb = 1 → s.me.gang = some g → s.me.wait = .none → g.members.Nodup → s.cur ∈ g.members →
      (∀ m ∈ g.members, m ≠ s.cur → (s.berthAt m 1).wait = .gang ∧ s.me.sameGang (s.berthAt m 1) = true ∧ ∃ h, (s.berthAt m 1).gang = some h ∧ h.round = g.round) →
      ∃ t : State, exec (.gang d) s = .next t ∧
        ∀ m ∈ g.members, (t.berthAt m 1).wait = .done (BitVec.ofNat 64 g.members.length) 0)) ∧
  (∀ (s t : State) (a : BitVec 6) (x : Tile), s.cb < 2 → s.ready [.g a] [] = true → s.here.engine.mmaBusy s.cb = false →
    tileHeader s a (s.gv [.g a] 0) = .ok (t, x) →
    let u := t.endPending
    ∃ z : State, exec (.mpf a) s = .next (z.finish [.g a] [] [] 4) ∧ z.me.g = t.me.g ∧ z.me.v = t.me.v ∧
      z.here.engine.acc = u.here.engine.acc ∧ z.here.engine.held = u.here.engine.held ∧ z.here.engine.ob = u.here.engine.ob) ∧
  (∀ (s : State) (src dst : BitVec 12) (p : Packet) (m k : Nat),
    s.firstPacket src.toNat dst.toNat 4 = some p → p.event = .gangbArrive src dst → p.body = .gangb m k →
    ∃ t : State, exec (.gangbArrive src dst) s = .next t ∧ t.net = s.net.erase p ∧ (m, k) ∈ (t.core dst.toNat).gangPanels ∧
      t.mem = s.mem)

/-! ## Sampling, grammars, taps -/

namespace Sys2Proof.Claims

noncomputable section

/-- R367: the thread samples by itself: in its native berth, in no gang, with no batch map in use. -/
def samplesAlone (s : State) : Prop := s.cb < 2 ∧ s.me.wait = .none ∧ s.me.gang = none ∧ s.here.bmOn = false

/-- The state that reads the slice: the executing thread, arrived with its part of the step. -/
def arrived (s : State) (q : SampleIssue) : State := s.setMe { s.me with wait := .sample q }

/-- The instruction `i` completes after the slice is read in `t`: gD, which has room, takes `v`, VSTAT gains NANL when an unmasked logit is a NaN. -/
def sampled (s t : State) (i : Instr) (l : List Src) (d : BitVec 6) (v : Word) (toks : List (Option Nat)) : Prop :=
  hasRoom { t with cur := s.cur, cb := s.cb } [.g d] = true →
  ∃ z : State, exec i s = .next (z.finish l [.g d] [.data v] 4) ∧ z.mem = t.mem ∧ z.tags = t.tags ∧ z.cur = s.cur ∧ z.cb = s.cb ∧
    z.me.vstat = (t.berthAt s.cur s.cb).vstat ||| BitVec.ofNat 64 (nanFlag toks)

/-- An FP32 logit that is a NaN counts as −∞ (R365, R369). -/
def noNan (z : Nat) : Nat := if (fp32.decode z).isNan = true then 0xFF800000 else z

/-- The place of an FP32 value that is no NaN among all of them, −0 just below +0 (R241). -/
def orderOf (z : Nat) : ℤ := if z < 2 ^ 31 then z else 2 ^ 31 - 1 - z

/-- R369: the weight `k` of an unmasked token with logit `z` under temperature T and maximum M. -/
def weighs (T M z k : Nat) : Prop :=
  let x := noNan z
  let y := noNan M
  let same : Prop := x = y ∨ (x % 2 ^ 31 = 0 ∧ y % 2 ^ 31 = 0)
  (T / 2 ^ 23 % 2 ^ 8 = 0 → k = if same then 1 else 0) ∧
    (T = 0x7F800000 → k = 1) ∧
    (2 ^ 23 ≤ T → T < 0x7F800000 → (same → k = 2 ^ 40) ∧
      (¬ same →
        let w := (fpExp2 fp32 rmRNE (fpDiv fp32 rmRNE (fpMul fp32 rmRNE (fpSub fp32 rmRNE x y).1 0x3FB8AA3B).1 T).1).1
        (fp32.decode w = .inf false → k = 2 ^ 40) ∧
        ∀ m e, fp32.decode w = .fin false m e → k = min ⌊numOf fp32 w * 2 ^ 40⌋₊ (2 ^ 40)))

end

end Sys2Proof.Claims

/-- R248, R369, R370, R373 to R376: SMAX, SMASS, SDRAW and SLOC of a thread that samples alone. SMAX returns the largest unmasked logit, and traps
GRAMDEAD where none is unmasked; SMASS the sum of the weights; SDRAW (KCG(SEQKEY, OX1) × total) >> 64, 0 when T is greedy; SLOC the
first token whose prefix interval holds u, and traps SAMPLEDOM where none does. A masked token weighs 0, another one what the table says
of T, M and its logit; the largest logit has −0 below +0, and a NaN counts as −∞; KCG mixes key and counter as its six steps say. -/
def Obligations.SamplingCompletes : Prop :=
  (∀ (T M : Nat) (toks : List (Option Nat)), T < 2 ^ 32 → M < 2 ^ 32 → (∀ z, some z ∈ toks → z < 2 ^ 32) →
    ((tempOf T).isSome = true ↔ T / 2 ^ 23 % 2 ^ 8 = 0 ∨ T ≤ 0x7F800000) ∧ (tempOf T = some .greedy ↔ T / 2 ^ 23 % 2 ^ 8 = 0) ∧
    (weights T M toks).length = toks.length ∧
    (∀ i < toks.length, (toks[i]? = some none → (weights T M toks)[i]? = some 0) ∧
      ∀ z, toks[i]? = some (some z) → ∃ k, (weights T M toks)[i]? = some k ∧ weighs T M z k) ∧
    (sliceMax toks = none ↔ ∀ x ∈ toks, x = none) ∧
    (∀ m, sliceMax toks = some m → (∃ z, some z ∈ toks ∧ m = noNan z) ∧ ∀ z, some z ∈ toks → Claims.orderOf (noNan z) ≤ Claims.orderOf m)) ∧
  (∀ key ctr : Word,
    let z0 := key + ctr * 0x9F1D3B4CE267A5C1
    let z1 := (z0 ^^^ z0 >>> 31) * 0xE7A35C910B6DF24B
    let z2 := (z1 ^^^ z1 >>> 29) * 0xB4F19E056A2CD3E7
    kcg key ctr = z2 ^^^ z2 >>> 32) ∧
  ∀ (s t : State) (d a b : BitVec 6) (toks : List (Option Nat)), samplesAlone s →
    let temp (x : Word) : Nat := x.toNat % 2 ^ 32
    (let l : List Src := [.g a, .g b, .ox 2]
      let q : SampleIssue := ⟨0, a.toNat, s.gv l 0, s.wv l 1, 0, 0, 0, (s.xv l 2).toNat % 64, 0⟩
      s.ready l [.g d] = true → readSlice (arrived s q) q = .ok (t, toks) →
      (∀ m, sliceMax toks = some m → sampled s t (.smax d a b) l d (BitVec.ofNat 64 m) toks) ∧
      (sliceMax toks = none → ∃ z : State, exec (.smax d a b) s = .next (z.takeSync .gramdead (BitVec.ofNat 64 q.row)))) ∧
    (let l : List Src := [.g a, .g b, .ox 0, .ox 2, .ox 3]
      let q : SampleIssue := ⟨1, a.toNat, s.gv l 0, s.wv l 1, 0, temp (s.xv l 2), 0, (s.xv l 3).toNat % 64, temp (s.xv l 4)⟩
      s.ready l [.g d] = true → (tempOf q.temp).isSome = true → readSlice (arrived s q) q = .ok (t, toks) →
      sampled s t (.smass d a b) l d (BitVec.ofNat 64 (weights q.temp q.max toks).sum) toks) ∧
    (let l : List Src := [.g b, .ox 0, .ox 1, .ox 2]
      let x := temp (s.xv l 1)
      s.ready l [.g d] = true → (tempOf x).isSome = true →
      ∃ z : State, exec (.sdraw d b) s = .next (z.finish l [.g d]
          [.data (if tempOf x = some .greedy then 0
            else BitVec.ofNat 64 ((kcg s.me.seqkey (s.xv l 2)).toNat * (s.wv l 0).toNat / 2 ^ 64))] 4) ∧
        z.mem = s.mem ∧ z.me.g = s.me.g ∧ z.me.vstat = s.me.vstat) ∧
    (let l : List Src := [.g a, .g b, .g d, .ox 0, .ox 2, .ox 3]
      let q : SampleIssue :=
        ⟨3, a.toNat, s.gv l 0, s.wv l 1, s.wv l 2, temp (s.xv l 3), 0, (s.xv l 4).toNat % 64, temp (s.xv l 5)⟩
      s.ready l [.g d] = true → (tempOf q.temp).isSome = true → readSlice (arrived s q) q = .ok (t, toks) →
      let ws := weights q.temp q.max toks
      (∀ i, i < ws.length → (ws.take i).sum ≤ q.gd.toNat → q.gd.toNat < (ws.take (i + 1)).sum →
        sampled s t (.sloc d a b) l d (BitVec.ofNat 64 ((s.wv l 1).toNat / 2 ^ 16 % 2 ^ 24 + i)) toks) ∧
      (ws.sum ≤ q.gd.toNat →
        ∃ z : State, exec (.sloc d a b) s = .next (z.takeSync .sampledom (BitVec.ofNat 64 (4 * 2 ^ 56 + q.gd.toNat % 2 ^ 48)))))

/-- R380, R382, R383: GRSTEP of a sound block and sound tables: a rejected token returns 1 and stores nothing; an accepted one stores DEPTH and
the changed entries below it and returns 0, 2 when DEPTH becomes 0. GRMASK stores the bitmap of the slice's allowed tokens and
writes no register; of an empty slice it stores nothing. -/
def Sys2Proof.Claims.GrammarCompletes : Prop :=
  (∀ (s t1 t2 t3 : State) (d a b : BitVec 6) (blk : GramBlock) (g : Gram) (w : Walk), s.cb < 2 →
    let l : List Src := [.g a, .g b]
    s.ready l [.g d] = true → gramBlock s a (s.gv l 0) = .ok (t1, blk) → gramHeader t1 blk = .ok (t2, g) →
    g.walk t2 blk.stack blk.depth ((s.wv l 1).toNat % 2 ^ 24) = .ok (t3, w) →
    (w = none → exec (.grstep d a b) s = .next (t3.finish l [.g d] [.data 1] 4)) ∧
    (∀ st n t4 t5 ps, w = some (st, n) →
      localPlaces t3 ⟨s.gv l 0, a.toNat, s.wv l 0, 160, 2, false, true, false, 16⟩ = .ok (t4, ps) →
      let sts := (gramStores blk st n).map fun x => (x.2, fieldPlace ps x.1)
      syncChecks t4 sts = .ok t5 →
      exec (.grstep d a b) s = .next ((sts.foldl (fun u x => storePieces u.cur u x.2 x.1) t5).finish l [.g d]
        [.data (if n = 0 then 2 else 0)] 4))) ∧
  (∀ (s t1 t2 t3 : State) (d a b : BitVec 6) (blk : GramBlock) (g : Gram) (toks : List Nat), s.cb < 2 →
    let l : List Src := [.g a, .g b, .g d]
    let count := (s.wv l 1).toNat % 2 ^ 16
    let base := (s.wv l 1).toNat / 2 ^ 16 % 2 ^ 24
    s.ready l [] = true → gramBlock s a (s.gv l 0) = .ok (t1, blk) → gramHeader t1 blk = .ok (t2, g) →
    allowedTokens t2 blk g base count = .ok (t3, toks) →
    (count = 0 → exec (.grmask d a b) s = .next (t3.finish l [] [] 4)) ∧
    (∀ t4 t5 ps, count ≠ 0 →
      localPlaces t3 ⟨s.gv l 2, d.toNat, s.wv l 2, sliceLen count, 2, false, true, false, 8⟩ = .ok (t4, ps) →
      let out := ps.filter fun p => (s.wv l 2).toNat + maskOff count ≤ p.1.va
      storeCheck t4.cur t4 out = .ok t5 →
      exec (.grmask d a b) s = .next ((storePieces t5.cur t5 out (maskBits base toks)).finish l [] [] 4)))

/-- R380: the walk of one byte: in a state with a GOTO entry it replaces the current state, with PUSH it leaves AUX beneath NEXT, with POP it
drops the state, with REJECT, or PUSH at depth 64, it rejects; after completion further bytes reject; EOS is accepted exactly at
depth 0. -/
def Sys2Proof.Claims.GrammarWalk : Prop :=
  ∀ (g : Gram) (s s1 s2 : State) (st : List (Nat × Nat)) (d o b e : Nat),
    (∀ t, t = g.eos → g.walk s st d t = .ok (s, if d = 0 then some (st, d) else none)) ∧
    (∀ k, d = 0 → g.walkBytes s st d o (k + 1) = .ok (s, none)) ∧
    (let top := st.getD (d - 1) (0, 0)
      let at_ := g.trans + 8 * (256 * top.1 + b)
      let ea := (g.addr at_).toNat
      let next := (e % 2 ^ 16, ea)
      let aux := (e / 2 ^ 16 % 2 ^ 16, ea)
      d ≠ 0 → top.1 < g.nstates → g.read s o 1 = .ok (s1, b) → g.read s1 at_ 8 = .ok (s2, e) → e / 2 ^ 34 = 0 →
      (e / 2 ^ 32 = 0 → g.walkBytes s st d o 1 = .ok (s2, none)) ∧
      (e / 2 ^ 32 = 1 → next.1 < g.nstates → g.walkBytes s st d o 1 = .ok (s2, some (st.set (d - 1) next, d))) ∧
      (e / 2 ^ 32 = 2 → d = 64 → g.walkBytes s st d o 1 = .ok (s2, none)) ∧
      (e / 2 ^ 32 = 2 → d ≠ 64 → next.1 < g.nstates → aux.1 < g.nstates →
        g.walkBytes s st d o 1 = .ok (s2, some ((st.set (d - 1) aux).set d next, d + 1))) ∧
      (e / 2 ^ 32 = 3 → g.walkBytes s st d o 1 = .ok (s2, some (st, d - 1))))

/-- R390 to R395: with TAPEN.EN 0 TAP returns 0 and TSTEER has no effect. With EN 1 and its checks passed TAP returns the map of the live rows on
which a probe fired, adds the rows of the trap probes to SEQTRAP and, when there are any, takes TAPHIT after it, its results standing.
TSTEER changes the live, steerable rows on which a steer probe fired, and writes no register. -/
def Sys2Proof.Claims.TapsComplete : Prop :=
  (∀ (s : State) (d a b : BitVec 6), s.cb < 2 → s.here.tapOn = false →
    (s.ready [.g a, .g b] [.g d] = true →
      exec (.tap d a b) s = .next ((s.setMe { s.me with seqtrap := s.me.seqtrap ||| 0 }).finish [.g a, .g b] [.g d] [.data 0] 4)) ∧
    (s.ready [.g a, .g b] [] = true → exec (.tsteer a b) s = .next (s.finish [.g a, .g b] [] [] 4))) ∧
  (∀ (s s1 s2 : State) (d a b : BitVec 6) (r : TapRead) (xs : List (Range × Nat)), s.cb < 2 → s.here.tapOn = true →
    let l : List Src := [.g a, .g b]
    let i := (s.wv l 1).toNat % 64
    s.ready l [.g d] = true → tapChecks s a (s.gv l 0) i false = .ok (s1, r) →
    rangeLoads s1 (r.rows.map fun q => q.2.2) = .ok (s2, xs) →
    let o := tapResult r.tile.w32 r.tile.cols r.probes ((r.rows.map (·.1)).zip (xs.map (·.2)))
    let z := (s2.setMe { s2.me with seqtrap := s2.me.seqtrap ||| BitVec.ofNat 64 o.2.1 }).finish l [.g d] [.data (BitVec.ofNat 64 o.1)] 4
    exec (.tap d a b) s = .next (if o.2.1 = 0 then z else z.takeSync .taphit (BitVec.ofNat 64 (i * 256 + o.2.2)))) ∧
  (∀ (w32 : Bool) (cols : Nat) (qs : List Probe) (rows : List (Nat × Nat)), (rows.map (·.1)).Nodup →
    let o := tapResult w32 cols qs rows
    (∀ r, o.1.testBit r = true ↔ ∃ x, (r, x) ∈ rows ∧ ∃ q ∈ qs, q.fires w32 cols x = true) ∧
    (∀ r, o.2.1.testBit r = true ↔ ∃ x, (r, x) ∈ rows ∧ ∃ q ∈ qs, q.fires w32 cols x = true ∧ q.act = 3) ∧
    (o.2.1 ≠ 0 → (∀ q ∈ qs, q.p < 8) → (∃ q ∈ qs, q.act = 3 ∧ q.p = o.2.2) ∧
      ∀ q ∈ qs, q.act = 3 → (∃ p ∈ rows, q.fires w32 cols p.2 = true) → o.2.2 ≤ q.p)) ∧
  (∀ (s s1 s2 s3 : State) (a b : BitVec 6) (r : TapRead) (xs : List (Range × Nat)), s.cb < 2 → s.here.tapOn = true →
    let l : List Src := [.g a, .g b]
    s.ready l [] = true → tapChecks s a (s.gv l 0) ((s.wv l 1).toNat % 64) true = .ok (s1, r) →
    let use := r.rows.filter fun q => q.2.1
    rangeLoads s1 (use.map fun q => q.2.2) = .ok (s2, xs) →
    let outs := (use.zip xs).filterMap fun p =>
      let hit := r.probes.filter fun q => q.fires r.tile.w32 r.tile.cols p.2.2
      if hit.isEmpty then none else some (steerRow r.tile.w32 r.tile.cols p.2.2 hit, p.1.2.2.2)
    syncChecks s2 outs = .ok s3 →
    exec (.tsteer a b) s = .next ((outs.foldl (fun u q => storePieces u.cur u q.2 q.1) s3).finish l [] [] 4))

/-! ## Saving and restoring a thread -/

/-- R436 to R438: GSAVE of a stopped thread stores the selected ranges of its registers; without FREE the thread stays. GRST of the selected
ranges fills B1's registers from the area; with nothing selected for the system range its EPC and STATUS stay, and a thread that runs is at
no other pc. With the system range GRST places a thread in an empty B1, stopped, at the area's EPC. -/
def Sys2Proof.Claims.ThreadSavesComplete : Prop :=
  (∀ (s t : State) (a b : BitVec 6), s.cb = 0 → s.kern = true → s.here.b0.tb = 1 → s.here.b1.occupied = true →
    s.here.b1.stopped = true → s.inside s.cur 1 = false →
    let l : List Src := [.g a, .g b]
    let sel := (s.wv l 1).toNat % 32
    s.ready l [] = true →
    let need : Need := ⟨s.gv l 0, a.toNat, s.wv l 0, 4096, 2, false, true, false, 64⟩
    (sel < 16 → storeArea s need (saveWords s.here.b1 (s.here.b1.leaseNow s.time) s.here.geom sel) = .ok t →
      exec (.gsave a b) s = .next (t.finish l [] [] 4)) ∧
    (16 ≤ sel → storeArea s need (saveWords s.here.b1 (s.here.b1.frozenLease s.time) s.here.geom sel) = .ok t →
      ∃ z : State, exec (.gsave a b) s = .next (z.finish l [] [] 4) ∧ z.here.b1.occupied = false ∧ z.mem = t.mem ∧
        (∀ r : BitVec 6, r ≠ 0 → (z.here.b1.getG r).tag = .empty))) ∧
  (∀ (s t : State) (a b : BitVec 6) (ws : List (Nat × Word)), s.cb = 0 → s.kern = true → s.here.b0.tb = 1 →
    s.here.b1.occupied = true → s.inside s.cur 1 = false → s.here.away = false →
    let l : List Src := [.g a, .g b]
    let sel := (s.wv l 1).toNat % 16
    s.ready l [] = true →
    loadArea s ⟨s.gv l 0, a.toNat, s.wv l 0, 4096, 1, true, false, false, 64⟩ (loadOffs sel) = .ok (t, ws) →
    (∀ i < 4, sel.testBit i = true → (areaWord ws 0xC58).getLsbD i = true) → (∀ n < 64, sel.testBit 0 = true → areaTag ws n ≠ 3) →
    t.here.b1.occupied = true →
    ∃ z : State, exec (.grst a b) s = .next (z.finish l [] [] 4) ∧ z.mem = t.mem ∧
      (∀ n : BitVec 6, n ≠ 0 → (n.toNat < 56 ∨ 61 < n.toNat) →
        z.here.b1.getG n = if sel.testBit 0 then restoredG ws n.toNat else t.here.b1.getG n) ∧
      (∀ n : BitVec 5, n.toNat < 28 →
        z.here.b1.getV n = if sel.testBit 1 then restoredV ws n.toNat else t.here.b1.getV n) ∧
      (sel.testBit 3 = false → z.here.b1.epc = t.here.b1.epc ∧ z.here.b1.status = t.here.b1.status) ∧
      (sel.testBit 3 = true → z.here.b1.epc = (areaWord ws 0xC60 &&& 0x0000FFFFFFFFFFFF) ∧ z.here.b1.pc = t.here.b1.pc ∧
        z.here.b1.arith = (areaWord ws 0xC70 &&& 0xFFFFFFFFFFFF0083))) ∧
  (∀ (s t : State) (a b : BitVec 6) (ws : List (Nat × Word)), s.cb = 0 → s.kern = true → s.here.b0.tb = 1 → s.cur ≠ 0x808 →
    s.here.b1.occupied = false → s.here.away = false →
    let l : List Src := [.g a, .g b]
    let sel := (s.wv l 1).toNat % 16
    s.ready l [] = true → 8 ≤ sel →
    loadArea s ⟨s.gv l 0, a.toNat, s.wv l 0, 4096, 1, true, false, false, 64⟩ (loadOffs sel) = .ok (t, ws) →
    (∀ i < 4, sel.testBit i = true → (areaWord ws 0xC58).getLsbD i = true) → (∀ n < 64, sel.testBit 0 = true → areaTag ws n ≠ 3) →
    t.here.b1.occupied = false →
    ∃ z : State, exec (.grst a b) s = .next (z.finish l [] [] 4) ∧ z.mem = t.mem ∧ z.here.b1.occupied = true ∧
      z.here.b1.stopped = true ∧ z.here.b1.nrank = t.here.rank ∧ z.here.b1.nnode = t.cur ∧ z.here.b0.sb % 2 = 1 ∧
      z.here.b1.epc = (areaWord ws 0xC60 &&& 0x0000FFFFFFFFFFFF))

/-- R436 to R438: what the ranges of a save hold of a thread, a restore of them gives back: every tag, and every value and shadow of a
register that is not EMPTY. -/
def Sys2Proof.Claims.SaveRestoreAgree : Prop :=
  ∀ (b c : Berth) (lease geom : Word),
    let r := c.restoreFiles (saveWords b lease geom 15) 15
    (∀ n : BitVec 6, n ≠ 0 → (n.toNat < 56 ∨ 61 < n.toNat) →
      (r.getG n).tag = (b.getG n).tag ∧ ((b.getG n).tag ≠ .empty → r.getG n = b.getG n)) ∧
    (∀ n : BitVec 5, n.toNat < 28 → (r.getV n).full = (b.getV n).full ∧ ((b.getV n).full = true → r.getV n = b.getV n)) ∧
    (∀ n : BitVec 2, n ≠ 0 → (r.getK n).full = (b.getK n).full ∧ ((b.getK n).full = true → r.getK n = b.getK n)) ∧
    (∀ (n : Nat) (h : n < 4), r.ox[n].full = b.ox[n].full ∧ (b.ox[n].full = true → r.ox[n] = b.ox[n]))

/-! ## Register writes as steps of the part -/

/-- R12, R56, R186 to R190, R250, R310, R341, R342, R353, R385, R389, R421 to R428: what the register-write steps do: CTXID (of a core with no
thread but B0's: the new context, its LM zeros, HOLD and OVFBASE.EN 0), RANK, INQSTAT, OVFBASE, TAPEN, TAPINV, REPEAT, MSPILL, PRIO, GEOM,
TAGS, and KSAVEA through REGISTER_WRITE, which waits while the berth it names is inside an instruction; RECALL without a thread away and an eviction without guests do nothing; RECALL with a thread away
returns it from the guest berth where it runs, at its next boundary. -/
def Sys2Proof.Claims.RegisterWritesComplete : Prop :=
  ∀ (s : State) (node : BitVec 12) (v : Word),
    let n := node.toNat
    let c := s.core n
    let next (i : Instr) (p : State → Prop) : Prop := ∃ t : State, exec i s = .next t ∧ p t
    (v.toNat % 2 ^ 12 = c.ctxid → exec (.ctxidWrite node v) s = .next s) ∧
    (v.toNat % 2 ^ 12 ≠ c.ctxid → c.b1.occupied = false → c.b2.occupied = false → c.b3.occupied = false → c.away = false →
      s.memWf →
      next (.ctxidWrite node v) fun t => (t.core n).ctxid = v.toNat % 2 ^ 12 ∧ (t.core n).hold = false ∧ (t.core n).ovfEn = false ∧
        (t.core n).probes = [] ∧ ∀ o < 0x18000, mget t.mem (2 ^ 49 + n * 2 ^ 17 + o) = 0 ∧
          mget t.tags ((2 ^ 49 + n * 2 ^ 17 + o) / 8) = 0) ∧
    (v.toNat % 2 ^ 10 = c.rank → exec (.rankWrite node v) s = .next s) ∧
    (v.toNat % 2 ^ 10 ≠ c.rank →
      next (.rankWrite node v) fun t => (t.core n).rank = v.toNat % 2 ^ 10 ∧ (t.core n).hold = true) ∧
    (next (.inqstatWrite node v) fun t => t.mem = s.mem ∧
      (t.core n).hold = (if v.getLsbD 16 then true else c.hold && c.ovfHead != c.ovfTail)) ∧
    (v.getLsbD 0 = false ∨ (v.toNat / 2 ^ 16 % 2 ^ 4 ≤ 9 ∧
        128 * (v.toNat / 2 ^ 6 % 2 ^ 10 + 2 ^ (v.toNat / 2 ^ 16 % 2 ^ 4)) ≤ 0x18000) →
      next (.ovfbaseWrite node v) fun t => (t.core n).ovfEn = v.getLsbD 0 ∧ (t.core n).ovfBase = v.toNat / 2 ^ 6 % 2 ^ 10 ∧
        (t.core n).ovfSize = v.toNat / 2 ^ 16 % 2 ^ 4 ∧ (t.core n).ovfHead = v.toNat / 2 ^ 20 % 2 ^ 9 ∧
        (t.core n).ovfTail = c.ovfTail) ∧
    (next (.tvecWrite node v) fun t => (t.core n).tvec = (v &&& 0x0000FFFFFFFFFFFE)) ∧
    (next (.tapenWrite node v) fun t => (t.core n).tapen = (v &&& 0x0000FFFFFFFFF003) ∧
      (v.toNat / 2 ^ 12 % 2 ^ 36 ≠ c.tapen.toNat / 2 ^ 12 % 2 ^ 36 → (t.core n).probes = [])) ∧
    (next (.tapinvWrite node v) fun t => (t.core n).probes = if v.getLsbD 0 then [] else c.probes) ∧
    (next (.repeatWrite v) fun t => t.rep = v.getLsbD 0 ∧ t.repApplied = v.getLsbD 0 ∧ t.cores = s.cores ∧ t.mem = s.mem) ∧
    (∀ b : BitVec 2, bitOf (s.berthAt n b.toNat).mspill 63 = false →
      next (.mspillWrite node b v) fun t => ∀ i < 64, (t.berthAt n b.toNat).mspill.getLsbD i =
        if i = 0 ∨ i = 14 ∨ i = 15 ∨ i = 16 then v.getLsbD i else (s.berthAt n b.toNat).mspill.getLsbD i) ∧
    (∀ b : BitVec 2, v.toNat % 4 ≠ 3 →
      next (.prioWrite node b v) fun t => (t.berthAt n b.toNat).prio = BitVec.ofNat 64 (v.toNat % 4)) ∧
    (∀ b : BitVec 2, (b = 0 ∨ (s.berthAt n b.toNat).gang = none) → v.toNat / 2 ^ 8 % 8 ≤ 4 →
      (v.toNat / 4 % 4 < (shapeDims (v.toNat / 2 ^ 8 % 8)).1) → v.toNat % 4 < (shapeDims (v.toNat / 2 ^ 8 % 8)).2 →
      next (.geomWrite node b v) fun t => (t.core n).geom = (v &&& 0xFFFFFFFF0000070F)) ∧
    (next (.tagsWrite node v) fun t => (t.core n).tags = v ∧ t.mem = s.mem ∧ (t.core n).fifo = c.fifo) ∧
    (c.away = false → exec (.rqstatRecall node) s = .next s) ∧
    (c.away = true →
      let u := s.setCore n { c with recalled := true }
      (s.awayAt n = none → exec (.rqstatRecall node) s = .next u) ∧
      (∀ m i, s.awayAt n = some (m, i) →
        (u.inside m i = true → exec (.rqstatRecall node) s = .next u) ∧
        (u.inside m i = false → ∃ (t : State) (p : Packet) (th : Thread), exec (.rqstatRecall node) s = .next t ∧
          (t.core n).recalled = true ∧ t.berthAt m i = Berth.vacant ∧ t.net = s.net ++ [p] ∧ p.src = m ∧ p.dst = n ∧
          p.ranked = false ∧ p.body = .mig th ∧ th.pc = (s.berthAt m i).pc ∧ th.v = (s.berthAt m i).v ∧
          ((s.berthAt m i).wait = .none → th.g = (s.berthAt m i).g)))) ∧
    (c.b2.occupied = false → c.b3.occupied = false → exec (.rqstatEvict node) s = .next s) ∧
    (c.b2.occupied = true → c.b2.busy = false → s.inside n 2 = false → c.b3.occupied = false →
      next (.rqstatEvict node) fun t => (t.core n).b2.occupied = false ∧ t.net.length = s.net.length + 1) ∧
    (∀ b : BitVec 2, (s.inside n b.toNat = false →
        next (.registerWrite node b 0x005 v) fun t => (t.core n).ksavea = v ∧ t.mem = s.mem ∧ (t.core n).b0 = c.b0) ∧
      (s.inside n b.toNat = true → exec (.registerWrite node b 0x005 v) s = .next (s.again (.registerWrite node b 0x005 v))))

/-- R142, R420, R434, R439: IFENCE_COMPLETE drops the context's lines from the cores in scope, but the locked ones, which it refills (log 53),
and ends the wait; SLEEP_DEADLINE wakes a SLEEP whose
deadline has come. -/
def Sys2Proof.Claims.WaitsEnd : Prop :=
  ∀ (s : State) (node : BitVec 12) (b : BitVec 2),
    let n := node.toNat
    (∀ sc, (s.berthAt n b.toNat).wait = .ifence sc →
      ∃ t : State, exec (.ifenceComplete node b) s = .next t ∧ (t.berthAt n b.toNat).wait = .done 0 0 ∧
        (∀ m ∈ s.scopeNodes n sc, ∀ l ∈ (t.core m).icache, l.locked = false → l.ctx ≠ (s.core n).ctxid) ∧
        (∀ m, ∀ l ∈ (s.core m).icache, l.locked = true → ∃ y ∈ (t.core m).icache, y.locked = true ∧ y.line = l.line ∧ y.ctx = l.ctx ∧
          y.slot = l.slot) ∧
        ((∀ m ∈ s.scopeNodes n sc, ∀ l ∈ (s.core m).icache, l.locked = false) → t.mem = s.mem)) ∧
    (∀ (d : Word) (m : Nat), (s.berthAt n b.toNat).wait = .sleep d m → d ≠ 0 → d.toNat ≤ (s.timeAt n).toNat →
      ∃ t : State, exec (.sleepDeadline node b) s = .next t ∧ (t.berthAt n b.toNat).wait = .woken ∧ t.mem = s.mem)

/-! ## Homes -/

namespace Sys2Proof.Claims

noncomputable section

/-- An operation of a core's thread in a context reaches the home of `l` (R56, R92, R448): always in DRAM and the pool; at a core's LM when the core
is up, reached, and the named rank's. -/
def reachesHome (s : State) (n ctx rank : Nat) (l : Loc) : Prop :=
  l.kind ≠ .lm ∨ ((isRill n = false ∨ isRill (lmNode l.key) = true ∨ s.bridge = true) ∧ s.reachable (lmNode l.key) = true ∧
    (s.core (lmNode l.key)).resident ctx rank = true)

end

end Sys2Proof.Claims

/-- R61, R111, R133, R151 to R175, R281: an operation that reaches its home acts there, and its answer goes to the berth that waits for it: AMOs and REDs
update a DATA or CAP word, LRW and SCH reserve and store, barriers answer or keep the thread, WAIT registers or answers, LOGA appends; a
refused one carries its cause. The answer stands with the berth until its response arrives. A discard of a SYNC word at its home ends
its object. -/
def Obligations.HomeOperationsComplete : Prop :=
  (∀ (s : State) (node : BitVec 12) (b : BitVec 2) (ctx ks : BitVec 12) (addr v e : Word) (x : Word) (tag : Nat),
    let n := node.toNat
    let i := b.toNat
    let l := keyLoc addr.toNat ctx.toNat ks.toNat
    reachesHome s n ctx.toNat ks.toNat l →
    (∀ u : State, u = s.takeHome n l → u.homeWord l = (x, tag) → tag < 2 →
      (∀ (k : Nat) (h : k < amoOps.length), exec (.homeAmo node b ctx ks addr (BitVec.ofNat 4 k) 0 v e) s =
        .next ((updated u l (amoOps[k].2.2.1 x v)).homeAnswer n i (.ok x 0 false))) ∧
      exec (.homeAmo node b ctx ks addr 9 0 v e) s =
        .next ((updated u l (if x = e then v else x)).homeAnswer n i (.ok x 0 false)) ∧
      (∀ (k : Nat) (h : k < redOps.length), exec (.homeRed node b ctx ks addr (BitVec.ofNat 4 k) 0 v) s =
        .next ((updated u l (redOps[k].2.1 x v)).homeAnswer n i (.ok 0 0 false))) ∧
      (l.key % 4 = 0 →
        (∀ (k : Nat) (h : k < amoOps.length), exec (.homeAmo node b ctx ks addr (BitVec.ofNat 4 k) 1 v e) s =
          .next ((updated u l (withHalf x l (amoOps[k].2.2.2 (halfOf x l) (v.setWidth 32)))).homeAnswer n i
            (.ok ((halfOf x l).signExtend 64) 0 false))) ∧
        exec (.homeAmo node b ctx ks addr 9 1 v e) s = .next ((updated u l
          (withHalf x l (if halfOf x l = e.setWidth 32 then v.setWidth 32 else halfOf x l))).homeAnswer n i
            (.ok ((halfOf x l).signExtend 64) 0 false)) ∧
        (∀ (k : Nat) (h : k < redOps.length), exec (.homeRed node b ctx ks addr (BitVec.ofNat 4 k) 1 v) s =
          .next ((updated u l (withHalf x l (redOps[k].2.2 (halfOf x l) (v.setWidth 32)))).homeAnswer n i (.ok 0 0 false))) ∧
        exec (.homeRed node b ctx ks addr 8 1 v) s = .next ((updated u l (withHalf x l (BitVec.ofNat 32
          (fpAdd fp32 rmRNE (halfOf x l).toNat (v.toNat % 2 ^ 32)).1))).homeAnswer n i (.ok 0 0 false)))) ∧
    (∀ (u : State) (k : BitVec 4) (w : BitVec 1), u = s.takeHome n l → u.homeWord l = (x, tag) → tag = 2 ∨ tag = 3 →
      let no : Out := .next (s.homeAnswer n i (.refused (if tag = 2 then .syncstore else .poison) (l.key / 8 * 8)))
      exec (.homeAmo node b ctx ks addr k w v e) s = no ∧ exec (.homeRed node b ctx ks addr k w v) s = no) ∧
    (∀ t r, s.lrw n l (s.identAt n i).1 (s.identAt n i).2 n i ctx.toNat v.toNat 0 = .ok (t, some r) →
      exec (.homeLrw node b ctx ks addr v) s = .next (t.homeAnswer n i (.ok r.1 r.2 false))) ∧
    (∀ t, s.lrw n l (s.identAt n i).1 (s.identAt n i).2 n i ctx.toNat v.toNat 0 = .ok (t, none) →
      ∃ z : State, exec (.homeLrw node b ctx ks addr v) s = .next z ∧ (z.berthAt n i).wait = .lrw l.key ∧ z.resv = t.resv) ∧
    (∀ t r st, s.sch n l (s.identAt n i).1 (s.identAt n i).2 (st = 1) v = .ok (t, r) →
      exec (.homeSch node b ctx ks addr st v) s = .next (t.homeAnswer n i (.ok r 0 false))) ∧
    (∀ t r o, s.barrier n i (l.nameBy ks.toNat) l (BitVec.toNat o) v = .ok (t, .val r) →
      exec (.homeBarrier node b ctx ks addr o v) s = .next (t.homeAnswer n i (.ok r 0 false))) ∧
    (∀ t p o, s.barrier n i (l.nameBy ks.toNat) l (BitVec.toNat o) v = .ok (t, .waits p) →
      ∃ z : State, exec (.homeBarrier node b ctx ks addr o v) s = .next z ∧ z.mem = t.mem ∧
        (∀ y m, (t.berthAt n i).wait = .home (some y) m →
          (z.berthAt n i).wait = .barrier l.key (some y) ∧ (z.berthAt n i).warr = false) ∧
        ((∀ y m, (t.berthAt n i).wait ≠ .home (some y) m) →
          (z.berthAt n i).wait = .barrier l.key (if BitVec.toNat o = 3 then some (v.toNat, p) else none))) ∧
    (∀ c k o, s.barrier n i (l.nameBy ks.toNat) l (BitVec.toNat o) v = .error (c, k) →
      exec (.homeBarrier node b ctx ks addr o v) s = .next (s.homeAnswer n i (.refused c k))) ∧
    (∀ c k st, s.sch n l (s.identAt n i).1 (s.identAt n i).2 (st = 1) v = .error (c, k) →
      exec (.homeSch node b ctx ks addr st v) s = .next (s.homeAnswer n i (.refused c k))) ∧
    (∀ t y ne c, s.readHome l = (t, y, 3) →
      exec (.homeWaitRegister node b ctx ks addr ne c) s = .next (s.homeAnswer n i (.refused .poison (l.key / 8 * 8)))) ∧
    (∀ t y g ne c, s.readHome l = (t, y, g) → g ≠ 3 →
      (waitPasses (ne = 1) (halfOf y l) c = true →
        exec (.homeWaitRegister node b ctx ks addr ne c) s = .next (t.homeAnswer n i (.ok 0 0 false))) ∧
      (waitPasses (ne = 1) (halfOf y l) c = false → ∃ z : State, exec (.homeWaitRegister node b ctx ks addr ne c) s = .next z ∧
        (z.berthAt n i).wait = .word l.key (ne = 1) c ∧ ⟨l.key, n, i, l.ctx, l.slot, l.nameBy ks.toNat⟩ ∈ z.words)) ∧
    (∀ c k, s.lrw n l (s.identAt n i).1 (s.identAt n i).2 n i ctx.toNat v.toNat 0 = .error (c, k) →
      exec (.homeLrw node b ctx ks addr v) s = .next (s.homeAnswer n i (.refused c k)))) ∧
  (∀ (s t1 : State) (node : BitVec 12) (b : BitVec 2) (ctx : BitVec 12) (kern : BitVec 1) (region addr va : Word) (seg : BitVec 32)
    (o : BitVec 2) (v : BitVec 32) (rk : BitVec 10) (seq : BitVec 16) (r k : Nat),
    let n := node.toNat
    let l := keyLoc addr.toNat ctx.toNat 0
    let i : Instr := .homeLoga node b ctx kern region seg addr va o v rk seq
    let log := t1.appendLog n ctx.toNat (kern = 1) region.toNat seg.toNat (logSeg l)
      ⟨o.toNat, va.toNat, v.toNat, rk.toNat, seq.toNat⟩
    place va.toNat = .window r k → reachesHome s n ctx.toNat r l →
    (∀ c a, s.logaTarget n l = .error (c, a) → exec i s = .next (s.homeAnswer n b.toNat (.refused c a))) ∧
    (s.logaTarget n l = .ok t1 →
      (∀ t2, log = .ok t2 → exec i s = .next (t2.homeAnswer n b.toNat (.ok 0 0 false))) ∧
      (∀ c a, log = .error (.bad c, a) → exec i s = .next (s.homeAnswer n b.toNat (.failed c (BitVec.ofNat 64 a)))) ∧
      (∀ m a, log = .error (.wait m, a) → exec i s = .next ((s.repeatLater ctx.toNat m).again
        (.homeLoga node b ctx kern region seg addr va o v rk seq))))) ∧
  (∀ (s : State) (n i : Nat) (r : RwRsp), (s.berthAt n i).wait.isHome = true →
    let t := s.homeAnswer n i r
    (t.berthAt n i).rsp = [r] ∧ (t.berthAt n i).wait = (s.berthAt n i).wait ∧ t.mem = s.mem ∧
      .mrspArrive (BitVec.ofNat 12 n) (BitVec.ofNat 2 i) ∈ t.agenda) ∧
  (∀ (s : State) (node : BitVec 12) (b : BitVec 2) (k : Nat) (ne : Bool) (c x : BitVec 32),
    (s.berthAt node.toNat b.toNat).wait = .word k ne c →
    (waitPasses ne x c = true → ∃ t : State, exec (.waitValue node b x) s = .next t ∧
      (t.berthAt node.toNat b.toNat).wait = .done 0 0 ∧ t.mem = s.mem) ∧
    (waitPasses ne x c = false → exec (.waitValue node b x) s = .next s)) ∧
  (∀ (s : State) (node ctx ks : BitVec 12) (addr : Word),
    let l := keyLoc addr.toNat ctx.toNat ks.toNat
    ((s.homeWord l).2 ≠ 2 → s.words = [] → exec (.homeDisc node ctx ks addr) s = .next s) ∧
    ((s.homeWord l).2 = 2 → ∃ t : State, exec (.homeDisc node ctx ks addr) s = .next t ∧
      (∀ w ∈ t.barriers, ¬ (w.addr = l.key / 16 * 16 ∧ w.sees l = true)) ∧ ∀ r ∈ t.resv, r.on { l with key := l.key / 16 * 16 } = false))

namespace Sys2Proof.Claims

noncomputable section

/-- A fill of a line by core `n` moves no other line: its L1 has room in the set, and so has the L2 when the line goes there. -/
def roomToFill (s : State) (n : Nat) (l : Loc) : Bool :=
  let u := l.key / 64
  let ways := (((s.core n).l1.map (·.word / 8)).filter fun k => k % 1024 = u % 1024).eraseDups
  (ways.contains u || decide (ways.length < 8)) &&
    (l.kind != .dram || s.tstate != 2 || (s.l2At u).any (·.is l) || (s.l2At u).isNone && decide ((s.l2Set u).length < 16))

end

end Sys2Proof.Claims

/-- R42, R60, R63, R64, R77, R86, R88: fills, registrations, revocations, evictions, walks and memory errors: a line filled when nothing owns or holds its words and there is room for it
is in the L1 as its home has it; a registered word is owned; a revoked one no longer, its dirty value at home; an evicted line is gone from
the L1; a walk that fails changes nothing; a corrected error changes nothing, an uncorrectable one in LM makes the word POISON, one of a V word or
a clean L2 line leaves only memory's copy; a locked line of an instruction cache is refilled in its place. A revocation acts at once,
also on a pinned word (model's choice, log 92). -/
def Sys2Proof.Claims.CacheStepsComplete : Prop :=
  (∀ (s : State) (node ctx ks : BitVec 12) (addr : Word),
    let n := node.toNat
    let l := (keyLoc addr.toNat ctx.toNat ks.toNat).lineBase
    (keyLoc addr.toNat ctx.toNat ks.toNat).kind ≠ .lm →
    (∀ j < 8, s.ownersOf (l.key / 8 + j) = [] ∧ ∀ w ∈ (s.core n).l1, w.word ≠ l.key / 8 + j) → roomToFill s n l = true →
    ∃ t : State, exec (.homeFill node ctx ks addr) s = .next t ∧ t.mem = s.mem ∧
      ∀ j < 8, (((t.core n).l1At (l.plus (8 * j))).map fun w => (w.val, w.tag)) = some (s.homeWord (l.plus (8 * j)))) ∧
  (∀ (s : State) (node ctx ks : BitVec 12) (addr v : Word),
    let l := keyLoc (addr.toNat / 8 * 8) ctx.toNat ks.toNat
    l.kind ≠ .lm →
    ∃ t : State, exec (.homeRegistration node ctx ks addr v) s = .next t ∧
      (((t.core node.toNat).l1At l).map fun w => (w.st, w.val, w.tag)) = some (.od, v, 0)) ∧
  (∀ (s : State) (node : BitVec 12) (addr : Word),
    let n := node.toNat
    let k := addr.toNat / 8
    (n ∉ s.ownersOf k → ∀ f, exec (.ownershipRevoke node addr f) s = .next s) ∧
    (n ∈ s.ownersOf k → ∃ t : State, exec (.ownershipRevoke node addr 0) s = .next t ∧
      ((s.core n).pinned.contains (k / 8) = false → t.mem = (s.writeBack n k).mem) ∧
      ∀ w ∈ (t.core n).l1, w.word = k → w.owned = false) ∧
    ((s.core n).pinned.contains (addr.toNat / 64) = true → exec (.homeWriteback node addr) s = .next s) ∧
    ((s.core n).pinned.contains (addr.toNat / 64) = false →
      ∃ t : State, exec (.homeWriteback node addr) s = .next t ∧ ∀ w ∈ (t.core n).l1, w.word / 8 ≠ addr.toNat / 64) ∧
    (∀ f, s.translate n (s.core n).ctxid addr.toNat = .error f → exec (.tlbWalk node addr) s = .next s) ∧
    (∀ t x, s.translate n (s.core n).ctxid addr.toNat = .ok (t, x) → exec (.tlbWalk node addr) s = .next t)) ∧
  (∀ (s : State) (node ctx ks : BitVec 12) (p : BitVec 3) (addr : Word), s.memWf → s.silt.valid = false → s.silt.en = false →
    s.words = [] →
    let l := keyLoc addr.toNat ctx.toNat ks.toNat
    (p ≠ 0 → exec (.memoryError node p ctx ks addr 0) s = .next s) ∧
    (∃ t : State, exec (.memoryError node 0 ctx ks addr 0) s = .next t ∧
      (∀ x ∈ (t.core node.toNat).icache, x.locked = false → x.line ≠ l.key / 64) ∧
      ((∀ x ∈ (s.core node.toNat).icache, x.line = l.key / 64 → x.locked = false) → t.mem = s.mem)) ∧
    (∃ t : State, exec (.memoryError node 1 ctx ks addr 1) s = .next t ∧ t.mem = s.mem ∧
      (if ∃ w ∈ (s.core node.toNat).l1, w.word = l.key / 8 ∧ w.owned = false then
        t.l2 = s.l2 ∧ ∀ w ∈ (t.core node.toNat).l1, w.word = l.key / 8 → w.owned = true
       else t.cores = s.cores ∧ ∀ x ∈ t.l2, x.unit = l.key / 64 → x.dirty = true)) ∧
    (l.kind = .lm → ∃ t : State, exec (.memoryError node 3 ctx ks addr 1) s = .next t ∧ (mget t.tags (l.key / 8)).toNat = 3 ∧
      ∀ c, c / 8 ≠ l.key / 8 → mget t.mem c = mget s.mem c))

/-- R49, R51 to R54, R420: a key slot loaded holds a fresh key, one retired holds none, deciphers nothing any more, and no line under it stays
on the chip, a locked place of TVEC without its bytes (log 53); PURGE leaves no line and no pool line of the context, but TVEC's, which are refilled. TAGCLR makes every tag of its range, which is ARG as it stands
at the command's run (log 85), DATA; KSLOT_DONE ends BUSY, which each of the others leaves. A command
that names slot or context 0 sets ERR and does nothing. -/
def Sys2Proof.Claims.KeySlotsComplete : Prop :=
  ∀ (s : State) (x : BitVec 12),
    let n := x.toNat
    let leaves (i : Instr) (p : State → Prop) : Prop :=
      ∃ t : State, exec i s = .next t ∧ .kslotDone ∈ t.agenda ∧ t.kslotBusy = s.kslotBusy ∧ p t
    let zero (i : Instr) : Prop := n = 0 → exec i s = .next { s with kslotErr := true }
    zero (.kslotLoad x) ∧ zero (.kslotRetire x) ∧ zero (.kslotPurge x) ∧
    (n ≠ 0 → leaves (.kslotLoad x) (fun t => t.slotLoaded n = true ∧ t.slotGen n = s.slotGen n + 1 ∧ t.mem = s.mem ∧
      ∀ m, m ≠ n → t.slotOf m = s.slotOf m)) ∧
    (n ≠ 0 → leaves (.kslotRetire x) (fun t => t.slotLoaded n = false ∧ t.slotGen n = s.slotGen n + 1 ∧
      (∀ m, m ≠ n → t.slotOf m = s.slotOf m) ∧ t.mem = s.mem ∧
      (∀ p ∈ t.cores, (∀ w ∈ p.2.icache, w.slot = n → w.locked = true ∧ w.bytes = []) ∧ ∀ w ∈ p.2.l1, w.slot ≠ n) ∧
      (∀ x ∈ t.l2, x.slot ≠ n) ∧ ∀ p ∈ t.owners, p.2.2 ≠ n)) ∧
    (n ≠ 0 → leaves (.kslotPurge x) (fun t =>
      (∀ p ∈ t.cores, (∀ w ∈ p.2.icache, w.locked = false → w.ctx ≠ n) ∧ ∀ w ∈ p.2.tlb, w.ctx ≠ n) ∧
      (∀ p ∈ t.gtlb, ∀ w ∈ p.2, w.ctx ≠ n) ∧
      ((∀ p ∈ s.cores, ∀ w ∈ p.2.icache, w.ctx = n → w.locked = false) →
        (∀ p ∈ t.cores, ∀ w ∈ p.2.l1, w.ctx ≠ n) ∧ (∀ x ∈ t.l2, x.ctx ≠ n) ∧ ∀ p ∈ t.owners, p.2.1 ≠ n))) ∧
    leaves .kslotTagclr (fun t => ((∀ x ∈ s.l2, s.tagRange (64 * x.unit) = true → x.dirty = false) → t.mem = s.mem) ∧
      (∀ k, s.tagRange (8 * k) = true → mget t.tags k = 0) ∧
      (∀ x ∈ t.l2, s.tagRange (64 * x.unit) = true → x.tags = List.replicate 8 0) ∧
      ∀ p ∈ t.cores, ∀ w ∈ p.2.l1, s.tagRange (8 * w.word) = true → w.tag = 0) ∧
    exec .kslotDone s = .next { s with kslotBusy := false }

/-- R71, R72: a GO while BUSY, or one that would leave a column and its partner off, or with Torrent not ON, sets ERR and starts nothing; one that asks for
what is there ends at once; a transition of the column in hand switches it on or off, and no other, and one that goes off keeps no
line in the L2. -/
def Sys2Proof.Claims.ColumnsComplete : Prop :=
  ∀ (s : State) (c : BitVec 3) (m : BitVec 8),
    ((s.l2Busy = true ∨ s.tstate ≠ 2 ∨ ∃ i < 4, m.getLsbD i = false ∧ m.getLsbD (i + 4) = false) →
      exec (.l2colGo m) s = .next { s with l2Err := true }) ∧
    (s.l2Busy = false → s.tstate = 2 → (∀ i < 4, m.getLsbD i = true ∨ m.getLsbD (i + 4) = true) →
      ∃ t : State, exec (.l2colGo m) s = .next t ∧ t.l2Target = m ∧ t.l2Goal = m ∧ t.l2On = s.l2On ∧ t.l2Err = s.l2Err ∧
        (t.l2Busy = true ↔ s.l2On ≠ m)) ∧
    (s.l2Busy = true → s.l2Cur = c.toNat →
      (∃ t : State, exec (.columnFold c) s = .next t ∧ (∀ i < 8, t.l2On.getLsbD i = (s.l2On.getLsbD i && i != c.toNat)) ∧
        ∀ x ∈ t.l2, columnOf (64 * x.unit) ≠ c.toNat) ∧
      (∃ t : State, exec (.columnUnfold c) s = .next t ∧ ∀ i < 8, t.l2On.getLsbD i = (s.l2On.getLsbD i || i == c.toNat))) ∧
    ((s.l2Busy = false ∨ s.l2Cur ≠ c.toNat) → exec (.columnFold c) s = .next s ∧ exec (.columnUnfold c) s = .next s)

/-! ## Copies, merges, causes -/

/-- R301 to R309: COPY_START works on one of the entries that the engine can work on: a copy's bytes move and it can complete, or it
runs on while a rank that it names cannot be reached; a MERGE starts. COPY_COMPLETE takes an entry that needs no notice and no barrier out
of the FIFO, writes its status word and, when it is the last of its tag, sets the tag's bit. A copy inside the core's LM alias between
disjoint, aligned ranges with no POISON and no SYNC word moves every byte, and touches no other. -/
def Sys2Proof.Claims.CopiesMove : Prop :=
  (∀ (s : State) (node : BitVec 12),
    let n := node.toNat
    (s.workable n = [] →
      ((∀ x ∈ (s.core n).fifo, x.moved = true) → exec (.copyStart node) s = .next s) ∧
      ((∃ x ∈ (s.core n).fifo, x.moved = false) →
        ∃ t : State, exec (.copyStart node) s = .next t ∧ t.mem = s.mem ∧ t.cores = s.cores ∧ .copyStart node ∈ t.agenda)) ∧
    (s.workable n ≠ [] → ∃ e ∈ s.workable n, ∃ u : State, (u = s ∨ u = s.drawn) ∧
      (e.kind ≠ .merge → exec (.copyStart node) s = .next (u.moveBytes n e)) ∧
      (e.kind = .merge → ∃ t : State, exec (.copyStart node) s = .next t ∧ t.mem = s.mem ∧
        .mergePass node (BitVec.ofNat 6 e.tag) ∈ t.agenda ∧
        (e ∈ (s.core n).fifo → { e with started := true } ∈ (t.core n).fifo)))) ∧
  (∀ (s : State) (node : BitVec 12) (e : CopyEntry),
    let n := node.toNat
    let t := s.moveBytes n e
    e.kind = .copy ∨ e.kind = .deal → e.len ≠ 0 →
    ((s.transfer n e).again = none → ∃ e1 : CopyEntry, t.mem = (s.transfer n e).s.mem ∧ t.tags = (s.transfer n e).s.tags ∧
      e1.id = e.id ∧ e1.moved = true ∧ e1.code = (s.transfer n e).code ∧
      (e ∈ ((s.transfer n e).s.core n).fifo → e1 ∈ (t.core n).fifo) ∧ .copyComplete node (BitVec.ofNat 6 e.tag) ∈ t.agenda) ∧
    ((s.transfer n e).again ≠ none → e.moved = false → t.mem = s.mem ∧ t.tags = s.tags ∧ .copyStart node ∈ t.agenda ∧
      (e ∈ (s.core n).fifo → { e with started := true } ∈ (t.core n).fifo))) ∧
  (∀ (s : State) (node : BitVec 12) (tag : BitVec 6) (e : CopyEntry),
    let n := node.toNat
    let done (i : Instr) : Prop :=
      ∃ t : State, exec i s = .next t ∧ t.mem = (s.reveal n e).mem ∧ (e.plain = [] → t.mem = s.mem) ∧
        (∀ x ∈ (t.core n).fifo, x.id ≠ e.id) ∧
        ((s.core n).tagStatus e.tag = 0 → (t.core n).tagStatus e.tag =
          BitVec.ofNat 64 ((if e.code = 1 then 0 else e.first) * 2 ^ 16 + e.kind.code * 2 ^ 12 + e.code)) ∧
        ((∀ x ∈ (s.core n).fifo, x.id = e.id ∨ x.tag ≠ e.tag) → (t.core n).tags.getLsbD e.tag = true)
    e.notify = false → e.bar = none → e.tag = tag.toNat →
    ((s.core n).fifo.find? (fun x => x.tag = tag.toNat && x.moved && decide (x.kind = .merge) = false) = some e →
      done (.copyComplete node tag)) ∧
    ((s.core n).fifo.find? (fun x => x.tag = tag.toNat && x.moved && decide (x.kind = .merge) = true) = some e →
      done (.mergeComplete node tag))) ∧
  (∀ (s : State) (n : Nat) (e : CopyEntry) (a b : Nat), s.memWf → s.silt.valid = false → n < 2 ^ 12 → e.kind = .copy →
    e.ctx = (s.core n).ctxid →
    e.src.val = BitVec.ofNat 64 (0xF80000000000 + 8 * a) → e.dst.val = BitVec.ofNat 64 (0xF80000000000 + 8 * b) →
    ∀ k, e.len = 8 * k → 0 < k → a + k ≤ 0x3000 → b + k ≤ 0x3000 → (a + k ≤ b ∨ b + k ≤ a) →
    let at_ (w : Nat) : Nat := 2 ^ 49 + n * 2 ^ 17 + 8 * w
    (∀ j < k, (mget s.tags (at_ (a + j) / 8)).toNat = 0 ∧
      (mget s.tags (at_ (b + j) / 8)).toNat = 0 ∧ s.latent (lmLoc n (8 * (a + j))) = false) →
    let x := s.transfer n e
    x.again = none ∧ x.code = codeOk ∧ (∀ j < 8 * k, mget x.s.mem (at_ b + j) = mget s.mem (at_ a + j)) ∧
      (∀ c, (c < at_ b ∨ at_ (b + k) ≤ c) → mget x.s.mem c = mget s.mem c))

namespace Sys2Proof.Claims

noncomputable section

/-- The pass of a merge over its whole log (R166). -/
def passOf (s : State) (n : Nat) (e : CopyEntry) : Pass :=
  let r := Pass.switchAll ⟨s, none, false, none⟩ n e (List.range 65)
  let full := r.2.any fun c => c.ovf ≠ 0
  r.2.foldl (fun p c => p.close n e full c) r.1

end

end Sys2Proof.Claims

/-- R164, R166, R167: MERGE_PASS of an entry that has started goes over its log and lets the merge complete; while a rank that the log or a target names
cannot be reached it changes no memory and comes again (R108, R192); without such an entry it does nothing. The records of
a closed half are applied in the order of their keys, and one of op 0 adds its FP32 value to its target. -/
def Sys2Proof.Claims.MergePasses : Prop :=
  (∀ (s : State) (node : BitVec 12) (tag : BitVec 6),
    ((∀ x ∈ (s.core node.toNat).fifo, ¬ (x.tag = tag.toNat ∧ x.kind = .merge ∧ x.started = true ∧ x.moved = false)) →
      exec (.mergePass node tag) s = .next s) ∧
    (∀ e, (s.core node.toNat).fifo.find? (fun x => x.tag = tag.toNat && x.kind = .merge && x.started && !x.moved) = some e →
      ((passOf s node.toNat e).again = none → ∃ (t : State) (e1 : CopyEntry), exec (.mergePass node tag) s = .next t ∧
        .mergeComplete node tag ∈ t.agenda ∧ t.mem = (passOf s node.toNat e).s.mem ∧ e1.id = e.id ∧ e1.moved = true ∧
        (e ∈ ((passOf s node.toNat e).s.core node.toNat).fifo → e1 ∈ (t.core node.toNat).fifo)) ∧
      ((passOf s node.toNat e).again ≠ none → ∃ t : State, exec (.mergePass node tag) s = .next t ∧ t.mem = s.mem ∧
        .mergePass node tag ∈ t.agenda))) ∧
  (∀ l : List LogRec, (sortRecs l).Perm l ∧ (sortRecs l).Pairwise fun x y => x.key ≤ y.key) ∧
  (∀ (x : Pass) (n : Nat) (e : CopyEntry) (r : LogRec) (l : Loc) (w : Word) (t : Nat),
    x.s.logPlace n e.ctx e.kern r.va = .ok l → l.kind = .lm → l.key % 4 = 0 → x.s.homeWord l = (w, t) →
    ((t = 2 ∨ t = 3) → (x.apply n e r).skipped = true ∧ (x.apply n e r).s = x.s) ∧
    (t < 2 → r.op = 0 → (x.apply n e r).s = updated x.s l
      (withHalf w l (BitVec.ofNat 32 (fpAdd fp32 rmRNE (halfOf w l).toNat r.val).1))))

/-- R410, R416 to R418, R434: TIMER_EXPIRE of a TIMECMP not reached comes again, one reached ends a SLEEP issued before TIMER was pending; TRAP_ENTRY of a core with nothing to take does nothing; else B0 starts at TVEC with the first
pending cause in the order of R418, which stops the berths it names; MACHINE_ENTRY stops every thread and names its reason; while B0 is inside an
operation that has reached its home the recorder freezes and the entry comes again (R297; that it waits so is the model's reading, log 62). LAUNCH_END frees
the launch's slot. -/
def Sys2Proof.Claims.CausesTaken : Prop :=
  (∀ (s : State) (node : BitVec 12) (b : BitVec 2),
    let x := s.berthAt node.toNat b.toNat
    (x.timecmp = 0 → exec (.timerExpire node b) s = .next s) ∧
    (x.timecmp ≠ 0 → (s.timeAt node.toNat).toNat < x.timecmp.toNat →
      ∃ t : State, exec (.timerExpire node b) s = .next t ∧ t.cores = s.cores ∧ .timerExpire node b ∈ t.agenda) ∧
    (x.timecmp ≠ 0 → x.timecmp.toNat ≤ (s.timeAt node.toNat).toNat → x.sleptDue b.toNat = true → exec (.timerExpire node b) s = .next s) ∧
    (x.timecmp ≠ 0 → x.timecmp.toNat ≤ (s.timeAt node.toNat).toNat → x.sleptDue b.toNat = false → ∃ t : State, exec (.timerExpire node b) s = .next t ∧
      (t.berthAt node.toNat b.toNat).timerDue (t.timeAt node.toNat) = true ∧ ∀ d m, (t.berthAt node.toNat b.toNat).wait ≠ .sleep d m)) ∧
  (∀ (s : State) (node : BitVec 12),
    let c := s.core node.toNat
    let now := s.timeAt node.toNat
    (c.takable now = none → exec (.trapEntry node) s = .next s) ∧
    (∀ e, c.takable now = some e → e ∈ c.pending now ∧ ∃ t : State, exec (.trapEntry node) s = .next t ∧
      (t.core node.toNat).idle0 = false ∧ (t.core node.toNat).b0.pc = (c.tvec &&& 0x0000FFFFFFFFFFFE) ∧
      (t.core node.toNat).b0.sb = e.stops ∧ (t.core node.toNat).b0.tb = e.tb ∧ (t.core node.toNat).b0.ktrap = false ∧
      (t.berthAt node.toNat e.tb).cause = e.cause.code ∧ (t.berthAt node.toNat e.tb).eval = e.eval ∧
      (e.stops % 2 = 1 → (t.core node.toNat).b1.stopped = true ∧ (c.b1.occupied = true → c.b1.stopped = false →
        (t.core node.toNat).b1.epc = (c.b1.pc &&& 0x0000FFFFFFFFFFFF)))) ∧
    (c.pendSync = none → c.urgent ≠ [] → (c.pending now).head?.map (·.cause) = some .urgent) ∧
    (c.pendSync = none → c.urgent = [] → c.wakeSrc.isSome = true → (c.pending now).head?.map (·.cause) = some .wake)) ∧
  (∀ (s : State) (node : BitVec 12) (r : BitVec 2),
    let c := s.core node.toNat
    (s.inside node.toNat 0 = false →
      ∃ t : State, exec (.machineEntry node r) s = .next t ∧ (t.core node.toNat).b0.cause = 0x84 ∧
        (t.core node.toNat).b0.eval = r.setWidth 64 ∧ (t.core node.toNat).b0.ktrap = true ∧
        (c.machine = false → t.silt.frozen = true) ∧ (t.core node.toNat).b0.pc = (c.tvec &&& 0x0000FFFFFFFFFFFE) ∧
        (c.b1.occupied = true → (t.core node.toNat).b1.stopped = true)) ∧
    (s.inside node.toNat 0 = true →
      ∃ t : State, exec (.machineEntry node r) s = .next t ∧ (t.core node.toNat).b0 = c.b0 ∧ (t.core node.toNat).b1 = c.b1 ∧
        (c.machine = false → t.silt.frozen = true) ∧ .machineEntry node r ∈ t.agenda ∧ t.mem = s.mem)) ∧
  (∀ (s : State) (i : BitVec 1) (sl : BitVec 10) (l : Launch), (s.disp i.toNat).launch sl.toNat = some l →
    s.agentWait l.ctx l.entry = none → ∃ t : State, exec (.launchEnd i sl) s = .next t ∧ ∀ x ∈ (t.disp i.toNat).launches, x.slot ≠ l.slot)

/-! ## The network -/

namespace Sys2Proof.Claims

noncomputable section

/-- `p` is the oldest packet of its kind from `src` to `dst` (R98), and comes over no peer link that carries none (R474). -/
def arrives (s : State) (p : Packet) (src dst : BitVec 12) : Prop :=
  s.firstPacket src.toNat dst.toNat p.body.vn = some p ∧ (isLink p.src = true → s.links[p.src - 0x450]? = some .paired)

/-- The state with a packet taken off the network. -/
def without (s : State) (p : Packet) : State := { s with net := s.net.erase p }

end

end Sys2Proof.Claims

/-- R92, R98, R106, R185, R188, R189, R193, R448, R474: a message or port value that arrives for the resident rank of a usable context, whose core is
up, holds nothing back and has room, goes to the end of its queue with its time of arrival, where nothing of its source and network waits at
the NI before it; a rank-addressed one is acknowledged, once. One for an unusable context enters no queue. At a core that is not up, or
behind a waiting one, it waits at the NI, with its time of arrival. A packet from the peer over a link that is not paired goes nowhere. -/
def Sys2Proof.Claims.MessagesArrive : Prop :=
  (∀ (s : State) (src dst : BitVec 12) (p : Packet) (m : Msg) (q : Nat) (v : PVal),
    s.firstPacket src.toNat dst.toNat p.body.vn = some p → isLink p.src = true → s.links[p.src - 0x450]? ≠ some .paired →
    (p.body = .nmsg m → exec (.nmsgArrive src dst) s = .next (without s p)) ∧
    (p.body = .umsg m → exec (.umsgArrive src dst) s = .next (without s p)) ∧
    (p.body = .gport q v → exec (.gportArrive src dst) s = .next (without s p)) ∧
    (p.body = .vport q v → exec (.vportArrive src dst) s = .next (without s p))) ∧
  ∀ (s : State) (src dst : BitVec 12) (p : Packet), arrives s p src dst →
    let n := dst.toNat
    let c := s.core n
    let now := s.timeAt n
    let resident : Prop := s.headerOk p.ctx = true ∧ s.niTakes p = true ∧ p.ctx = c.ctxid ∧ p.drank = c.rank ∧ c.hold = false
    (∀ m, p.body = .nmsg m →
      (resident → c.inbox.length < 32 →
        ∃ t : State, exec (.nmsgArrive src dst) s = .next t ∧ t.mem = s.mem ∧
          (t.core n).inbox = c.inbox ++ [{ m with ctx := p.ctx, drank := p.drank, time := now }]) ∧
      (resident → c.inbox.length < 32 → p.ranked = true → p.acked = false → isRill n = false → isLink p.src = false →
        ∃ t : State, exec (.nmsgArrive src dst) s = .next t ∧ ∃ k ∈ t.net, k.dst = p.src ∧ k.body = .dack p.epoch) ∧
      (s.headerOk p.ctx = false → s.niTakes p = true →
        ∃ t : State, exec (.nmsgArrive src dst) s = .next t ∧ (t.core n).inbox = c.inbox) ∧
      (s.niTakes p = false → exec (.nmsgArrive src dst) s =
        .next (((without s p).ack (p.stamp now)).waitAtNi n (p.stamp now)))) ∧
    (∀ m, p.body = .umsg m → s.headerOk p.ctx = true → s.niTakes p = true → p.ctx = c.ctxid ∨ p.ctx = 0 → c.urgent.length < 8 →
      ∃ t : State, exec (.umsgArrive src dst) s = .next t ∧ t.mem = s.mem ∧
        (t.core n).urgent = c.urgent ++ [{ m with ctx := p.ctx, drank := p.drank, time := now }]) ∧
    (∀ q v, p.body = .gport q v → q < 6 → resident → (c.port q).inq.length < 8 →
      ∃ (t : State) (y : PVal), exec (.gportArrive src dst) s = .next t ∧ ((t.core n).port q).inq = (c.port q).inq ++ [y] ∧
        (y.val.setWidth 64 : Word) = v.val.setWidth 64 ∧ y.sh = v.sh ∧ y.cap = v.cap ∧ y.time = now ∧ t.mem = s.mem) ∧
    (∀ q v, p.body = .vport q v → 6 ≤ q → q < 10 → resident → (c.port q).inq.length < 4 →
      ∃ (t : State) (y : PVal), exec (.vportArrive src dst) s = .next t ∧ ((t.core n).port q).inq = (c.port q).inq ++ [y] ∧
        y.val = v.val ∧ y.time = now ∧ t.mem = s.mem)

/-- R92, R193, R194, R318, R409, R474: the oldest value of an outbound queue leaves: to a valid rank as a packet, to the peer over a paired
link, from a Rill core once the bridge is open; one for an invalid rank, or over a link that is not paired, is discarded, and LOST is
set. -/
def Sys2Proof.Claims.PortValuesLeave : Prop :=
  ∀ (s : State) (node : BitVec 12) (p : BitVec 4) (o : OutVal) (r : List OutVal), p.toNat < 10 →
    let n := node.toNat
    ((s.core n).port p.toNat).outq = o :: r →
    (o.bind.peer = true → isRill n = true → s.bridge = false →
      ∃ (t : State) (k : Packet), exec (.portOutboundSend node p) s = .next t ∧ k.dst = 0x450 + o.bind.link ∧ k.drank = o.bind.rank ∧
        (t.core n).bridgeHeld = (s.core n).bridgeHeld ++ [k] ∧ ((t.core n).port p.toNat).outq = r ∧ t.peerOut = s.peerOut) ∧
    (o.bind.peer = true → (isRill n = false ∨ s.bridge = true) → s.links[o.bind.link]? ≠ some .paired →
      ∃ t : State, exec (.portOutboundSend node p) s = .next t ∧ ((t.core n).port p.toNat).outq = r ∧
        ((t.core n).port p.toNat).lost = true ∧ t.peerOut = s.peerOut ∧ t.mem = s.mem) ∧
    (o.bind.peer = true → (isRill n = false ∨ s.bridge = true) → s.links[o.bind.link]? = some .paired →
      ∃ (t : State) (k : Packet), exec (.portOutboundSend node p) s = .next t ∧ t.peerOut = s.peerOut ++ [k] ∧
        k.drank = o.bind.rank ∧ ((t.core n).port p.toNat).outq = r ∧ t.mem = s.mem) ∧
    (∀ v, o.bind.peer = false → s.findRank n o.ctx o.bind.rank = (v, .invalid) →
      ∃ t : State, exec (.portOutboundSend node p) s = .next t ∧ ((t.core n).port p.toNat).outq = r ∧
        ((t.core n).port p.toNat).lost = true ∧ t.net = s.net ∧ t.mem = s.mem) ∧
    (∀ v d, o.bind.peer = false → s.findRank n o.ctx o.bind.rank = (v, .valid d) →
      (isRill n = false ∨ s.bridge = true ∨ 0x800 ≤ d) →
      ∃ (t : State) (k : Packet), exec (.portOutboundSend node p) s = .next t ∧ t.net = v.net ++ [k] ∧ k.dst = d ∧
        k.drank = o.bind.rank ∧ k.event ∈ t.agenda ∧
        k.body = (if o.bind.port < 6 then .gport o.bind.port o.val else .vport o.bind.port o.val))

/-- R60, R106, R107, R110, R111, R192: a remote access at the LM of the named rank is served there and answered; its answer ends the wait, an absent
rank has it sent again; the answer of an LM's home ends the wait, and an acknowledgement lowers the count of its epoch, each behind the
earlier packets of its source. -/
def Sys2Proof.Claims.RemoteAccessesServed : Prop :=
  (∀ (s : State) (src dst : BitVec 12) (p : Packet) (b : Nat) (q : RwReq), arrives s p src dst → p.body = .rwreq b q →
    let n := dst.toNat
    let u := without s p
    let l := lmLoc n (q.off / 8 * 8)
    let x := (u.loadWord n l).2.1
    let tag := (u.loadWord n l).2.2
    s.niTakes p = true →
    ((s.core n).resident p.ctx p.drank = true →
      exec (.rwreqArrive src dst) s = .next ((u.serve n q).1.respond p b (u.serve n q).2) ∧
      (q.op = .load → tag ≠ 3 → u.serve n q = (u, .ok (w64 (pieceOf ⟨q.off % 8, q.size⟩ x)) 0 false)) ∧
      (q.op = .load → tag = 3 → u.serve n q = (u, .poison (q.off / 8 * 8))) ∧
      (q.op = .store → tag ≠ 2 →
        u.serve n q = (u.storeWord n l (mergePiece ⟨q.off % 8, q.size⟩ x tag q.data.toNat) 0, .ok 0 0 false)) ∧
      (q.op = .bytes → tag ≠ 2 →
        u.serve n q = (u.storeWord n l (mergeBytes q.sh.toNat x tag q.data) 0, .ok 0 0 false)) ∧
      (q.op = .store ∨ q.op = .bytes → tag = 2 → u.serve n q = (u, .syncstore (q.off / 8 * 8)))) ∧
    ((s.core n).resident p.ctx p.drank = false →
      ∃ t : State, exec (.rwreqArrive src dst) s = .next t ∧ (t.core n).absent.isSome = true ∧ t.mem = s.mem)) ∧
  (∀ (s : State) (src dst : BitVec 12) (p : Packet) (i : Nat) (r : RwRsp), arrives s p src dst → p.body = .rwrsp i r →
    let n := dst.toNat
    (s.berthAt n i).wait = .remote → i < 4 →
    (r ≠ .absent → ∃ t : State, exec (.rwrspArrive src dst) s = .next t ∧
      t.berthAt n i = { s.berthAt n i with wait := .none, rsp := (s.berthAt n i).rsp ++ [r] } ∧ t.mem = s.mem) ∧
    (r = .absent → ∃ t : State, exec (.rwrspArrive src dst) s = .next t ∧ (t.berthAt n i).wait = .absent ∧
      .rwreqRetry dst (BitVec.ofNat 2 i) ∈ t.agenda)) ∧
  (∀ (s : State) (node : BitVec 12) (b : BitVec 2),
    let n := node.toNat
    let x := s.berthAt n b.toNat
    (x.wait = .absent → exec (.rwreqRetry node b) s = .next (s.setBerthAt n b.toNat { x with wait := .none })) ∧
    (∀ p, (s.net.find? fun k => k.dst = n && k.body = .mrsp b.toNat) = some p →
      (s.firstPacket p.src n 4 ≠ some p → exec (.mrspArrive node b) s = .next (s.later (.mrspArrive node b))) ∧
      (s.firstPacket p.src n 4 = some p → x.wait.isHome = true → x.rsp ≠ [] →
        exec (.mrspArrive node b) s = .next ((without s p).answer n b.toNat 0 0)))) ∧
  (∀ (s : State) (node : BitVec 12) (e : BitVec 1) (p : Packet),
    (s.net.find? fun k => k.dst = node.toNat && k.body = .dack (e = 1) && s.firstPacket k.src node.toNat 4 = some k) = some p →
    ∃ t : State, exec (.dackArrive node e) s = .next t ∧ t.net = s.net.erase p ∧ t.mem = s.mem ∧
      (t.core node.toNat).unacked = (if e = 1 then ((s.core node.toNat).unacked.1, (s.core node.toNat).unacked.2 - 1)
        else ((s.core node.toNat).unacked.1 - 1, (s.core node.toNat).unacked.2)))

namespace Sys2Proof.Claims

noncomputable section

/-- A berth holds what a thread brought (R115, R182). -/
def holdsThread (b : Berth) (t : Thread) : Prop :=
  b.occupied = true ∧ b.pc = t.pc ∧ b.g = t.g ∧ b.v = t.v ∧ b.k = t.k ∧ b.status = t.status ∧ b.arith = t.arith ∧ b.vstat = t.vstat ∧
    b.repst = t.repst ∧ b.nnode = t.nnode ∧ b.nrank = t.nrank ∧ b.wait = .arrive t.tdep t.trap t.bounced

end

end Sys2Proof.Claims

/-- R113 to R119, R122, R182, R192: a thread leaves for a valid rank; it enters a free guest berth, B2 before B3; an evicted one enters B1 of its native
core; it goes on when the time base allows, with no V word in the L1 that is not pinned and stale; one that returned for a trap takes it; a
refused one repeats its access. -/
def Sys2Proof.Claims.ThreadsArrive : Prop :=
  (∀ (s u : State) (node : BitVec 12) (i : BitVec 2) (rank : BitVec 10) (k : Nat),
    let n := node.toNat
    let b := s.berthAt n i.toNat
    s.findRank n (s.core n).ctxid rank.toNat = (u, .valid k) → { s with cur := n, cb := i.toNat }.sendsOpen 6 = false → i ≠ 0 → b.occupied = true → b.stopped = false → b.wait = .none →
    b.rsp = [] → b.gang = none → b.mspill.getLsbD 63 = false →
    exec (.migDepart node i rank) s = .next (u.sendAway n i.toNat rank.toNat k b.pc)) ∧
  (∀ (s : State) (src dst : BitVec 12) (p : Packet) (th : Thread), arrives s p src dst →
    let n := dst.toNat
    let c := s.core n
    s.niTakes p = true →
    (p.body = .mig th → p.ranked = true → c.resident p.ctx p.drank = true → th.nnode ≠ n → c.noguest = false →
      (c.b2.occupied = false → ∃ t : State, exec (.migArrive src dst) s = .next t ∧ holdsThread (t.core n).b2 th ∧
        .migResume dst 2 ∈ t.agenda ∧ (t.core n).b3 = c.b3 ∧ (t.core n).b1 = c.b1) ∧
      (c.b2.occupied = true → c.b3.occupied = false → ∃ t : State, exec (.migArrive src dst) s = .next t ∧
        holdsThread (t.core n).b3 th ∧ .migResume dst 3 ∈ t.agenda ∧ (t.core n).b2 = c.b2)) ∧
    (p.body = .evict th → c.away = true → c.resident p.ctx th.nrank = true → c.recalled = false →
      ∃ t : State, exec (.evictArrive src dst) s = .next t ∧ holdsThread (t.core n).b1 th ∧ (t.core n).away = false ∧
        .migResume dst 1 ∈ t.agenda)) ∧
  (∀ (s : State) (node : BitVec 12) (i : BitVec 2) (tdep : Word) (tr : Option (Cause × Word)) (bounced : Bool),
    let n := node.toNat
    (s.berthAt n i.toNat).wait = .arrive tdep tr bounced →
    (timePassed (s.timeAt n) tdep = false → exec (.migResume node i) s = .next (s.later (.migResume node i))) ∧
    (∀ c v, timePassed (s.timeAt n) tdep = true → tr = some (c, v) → i = 1 →
      exec (.migResume node i) s = .next (((s.setCore n (s.core n).acquire).setBerthAt n 1
        { s.berthAt n 1 with wait := .none }).enterUser n c v)) ∧
    (timePassed (s.timeAt n) tdep = true → tr = none → bounced = true →
      ∃ t : State, exec (.migResume node i) s = .next t ∧ (t.berthAt n i.toNat).wait = .retry ∧ .migRetry node ∈ t.agenda) ∧
    (timePassed (s.timeAt n) tdep = true → tr = none → bounced = false →
      ∃ t : State, exec (.migResume node i) s = .next t ∧ t.berthAt n i.toNat = { s.berthAt n i.toNat with wait := .none } ∧
        t.mem = s.mem ∧ ∀ w ∈ (t.core n).l1, w.st ≠ .v ∨ w.stale = true)) ∧
  (∀ (s : State) (node : BitVec 12), (s.berthAt node.toNat 1).wait = .retry →
    exec (.migRetry node) s = .next (s.setBerthAt node.toNat 1 { s.berthAt node.toNat 1 with wait := .none }))

/-- R42, R45, R46, R47, R98, R105, R107: a TLBI that arrives at a core drops the leaves it names from its TLB and its group's, and the rank entries
where no packet is held; when the core has nothing outstanding of the old epoch it acknowledges, and waits till then, and no thread of
it waits at a word under a translation that is gone; a core without power does so at once. One that an earlier TLBI of its issuer precedes waits for it. The last acknowledgement completes it. -/
def Sys2Proof.Claims.TlbiSteps : Prop :=
  (∀ (s : State) (id : BitVec 16) (node : BitVec 12) (q : TlbiReq),
    let n := node.toNat
    let c := s.core n
    (s.tlbis.find? fun r => r.id = id.toNat) = some q →
    let acks (t : State) : Prop := exec (.tlbiArrive id node) s = .next t ∧
      ∀ r ∈ t.tlbis, r.id = id.toNat → n ∉ r.left
    let behind := s.tlbiBefore n q
    (behind = true → exec (.tlbiArrive id node) s = .next (s.again (.tlbiArrive id node))) ∧
    (behind = false → s.niUp n = false → ∃ t : State, acks t) ∧
    (behind = false → s.niUp n = true → c.tlbiAck = none →
      ∃ t : State, exec (.tlbiArrive id node) s = .next t ∧ (t.core n).tlbiAck = some id.toNat ∧ (t.core n).epoch = !c.epoch ∧
        (∀ e ∈ (t.core n).tlb, q.hitsLeaf e = false) ∧ (∀ e ∈ t.groupTlb n, q.hitsLeaf e = false) ∧
        (c.heldPkts = [] → ∀ e ∈ (t.core n).rankCache, q.hitsRank e.ctx e.rank = false) ∧ .tlbiArrive id node ∈ t.agenda) ∧
    (behind = false → s.niUp n = true → c.tlbiAck = some id.toNat → c.drained = false →
      exec (.tlbiArrive id node) s = .next (s.again (.tlbiArrive id node))) ∧
    (behind = false → s.niUp n = true → c.tlbiAck = some id.toNat → c.drained = true →
      ∃ t : State, acks t ∧ (t.core n).tlbiAck = none ∧ ((∀ w ∈ s.barriers, w.node ≠ n) → t.mem = s.mem) ∧ (t.core n).tlb = c.tlb ∧
        (∀ w ∈ t.words, w.node = n → w ∈ s.words ∧ s.waitStands w false = true))) ∧
  (∀ (s : State) (id : BitVec 16),
    ∃ t : State, exec (.tlbiComplete id) s = .next t ∧ (∀ r ∈ t.tlbis, r ∈ s.tlbis) ∧
      (∀ r ∈ s.tlbis, r ∉ t.tlbis → r.id = id.toNat ∧ r.left = []) ∧ ∀ r ∈ t.tlbis, r.id = id.toNat → r.left ≠ [])

/-! ## Power -/

namespace Sys2Proof.Claims

noncomputable section

/-- The cores of a group hold no packet that waits at their NIs. -/
def noneWaits (s : State) (g : Nat) : Prop := ∀ n ∈ groupNodes g, (s.core n).atNi = []

end

end Sys2Proof.Claims

/-- R5, R414, R443, R450: CORE_START begins B0 of a core that is OFF at KENTRY in context 0, its LM as it was; a Rill core enters RET with its L1
written back and dropped, and an event of its own brings it back; the sensors set their bits. -/
def Sys2Proof.Claims.CoresStart : Prop :=
  (∀ (s : State) (node : BitVec 12), (s.core node.toNat).power = .off →
    let n := node.toNat
    exec (.coreStart node) s = .next ((s.coreStart n).deliverAll n) ∧
    let c := (s.coreStart n).core n
    c.power = .run ∧ c.b0 = { Berth.kernel with pc := s.cfg.kentry } ∧ c.ctxid = 0 ∧ c.b1.occupied = false ∧ c.b2.occupied = false ∧
      c.b3.occupied = false ∧ c.l1 = [] ∧ c.inbox = (s.core n).inbox ∧ (s.coreStart n).mem = s.mem) ∧
  (∀ (s : State) (node : BitVec 12), (s.core node.toNat).power = .run →
    0x800 ≤ node.toNat → node.toNat < 0x808 →
    ∃ t : State, exec (.rillCoreRet node) s = .next t ∧ (t.core node.toNat).power = .ret ∧ (t.core node.toNat).l1 = [] ∧
      (∃ w, (t.core node.toNat).b0 = { (s.core node.toNat).b0 with wait := w }) ∧
      (∃ w, (t.core node.toNat).b1 = { (s.core node.toNat).b1 with wait := w }) ∧
      ((s.core node.toNat).pinned = [] →
        (t.core node.toNat).b0 = (s.core node.toNat).b0 ∧ (t.core node.toNat).b1 = (s.core node.toNat).b1)) ∧
  (∀ (s : State) (node : BitVec 12), (s.core node.toNat).power = .ret → 0x800 ≤ node.toNat → node.toNat ≤ 0x808 →
    ∃ t : State, exec (.rillCoreWake node) s = .next t ∧ (t.core node.toNat).power = .run ∧ t.wakeSrc.getLsbD 20 = true ∧
      (t.core node.toNat).wakeSrc.isSome = true ∧ (t.core node.toNat).b1 = (s.core node.toNat).b1 ∧ t.mem = s.mem) ∧
  (∀ (s : State) (g : BitVec 5) (on : BitVec 1),
    ∃ t : State, exec (.thermalLimit g on) s = .next t ∧ t.group g.toNat = { s.group g.toNat with hot := on = 1 } ∧ t.mem = s.mem) ∧
  (∀ (s : State) (g : BitVec 5) (on : BitVec 1),
    ∃ t : State, exec (.powerOverBudget g on) s = .next t ∧ t.mem = s.mem ∧
      t.group g.toNat = { s.group g.toNat with overBudget := on = 1 ∧ (s.group g.toNat).budget ≠ 0 })

/-- R447: a group quiesces once every core is quiet, drains once its copies and MMAs are over, and keeps its state with GRET_SAVE; a write that
breaks the order changes nothing but SEQERR, which a field of RAIL that is 3 sets too. A drain that a wake has met shows no ACK (R449). -/
def Sys2Proof.Claims.HandshakeSteps : Prop :=
  (∀ (s : State) (g : BitVec 5), (s.group g.toNat).quiesce = true → (s.group g.toNat).quiesced = false →
    let u := (groupNodes g.toNat).foldl State.quiesceCore s
    ((∀ n ∈ groupNodes g.toNat, (u.core n).quiet = true) →
      ∃ t : State, exec (.groupQuiesce g) s = .next t ∧ (t.group g.toNat).quiesced = true ∧ t.cores = u.cores ∧
        ((s.group g.toNat).wakeBy = 0 → .groupDrain g ∈ t.agenda)) ∧
    (∀ n ∈ groupNodes g.toNat, (u.core n).quiet = false → exec (.groupQuiesce g) s = .next (u.later (.groupQuiesce g)))) ∧
  (∀ (s : State) (g : BitVec 5), (s.group g.toNat).quiesced = true → (s.group g.toNat).drained = false →
    ((∀ n ∈ groupNodes g.toNat, (s.core n).fifo = [] ∧ (s.core n).engine.flight = none) →
      ∃ t : State, exec (.groupDrain g) s = .next t ∧ ((t.group g.toNat).drained = true ↔ (s.group g.toNat).wakeBy = 0) ∧
        ∀ n ∈ groupNodes g.toNat, (t.core n).l1 = [] ∧ (t.core n).icache = []) ∧
    (∀ n ∈ groupNodes g.toNat, (s.core n).fifo ≠ [] → exec (.groupDrain g) s = .next (s.later (.groupDrain g)))) ∧
  (∀ (s : State) (g : BitVec 5), ∃ t : State, exec (.gretSaveRetain g) s = .next t ∧ t.cores = s.cores ∧ t.mem = s.mem ∧
    t.group g.toNat = { s.group g.toNat with saved := true, img := false }) ∧
  (∀ (s : State) (g : BitVec 5), ∃ t : State, exec (.gretSaveRestore g) s = .next t ∧ t.mem = s.mem ∧ t.groups = s.groups ∧
    ∀ n, t.core n = if n ∈ groupNodes g.toNat ∧ (s.core n).power = .ret then { s.core n with power := .run } else s.core n) ∧
  (∀ s : State, ((∀ e ∈ s.agenda, e.isRetSave = false) → exec .gretSaveDone s = .next { s with retSave := false }) ∧
    (∀ e ∈ s.agenda, e.isRetSave = true → exec .gretSaveDone s = .next (s.later .gretSaveDone))) ∧
  (∀ (s : State) (v : BitVec 64),
    let sound (g : Nat) : Prop := (s.group g).wakeBy = 0 ∧
      if v.getLsbD g then (s.group g).saved = true ∧ (s.group g).quiesce = true else (s.group g).rail = 2 ∧ (s.group g).railok = true
    ∃ t : State, exec (.gclkGateWrite v) s = .next t ∧ t.mem = s.mem ∧ t.cores = s.cores ∧
      ((∀ g < 32, v.getLsbD g ≠ (s.group g).gate → sound g) → ∀ g < 32, (t.group g).gate = v.getLsbD g) ∧
      (∀ g < 32, v.getLsbD g ≠ (s.group g).gate → ¬ sound g →
        (∀ h < 32, (t.group h).gate = (s.group h).gate) ∧ (t.group g).seqerr = true)) ∧
  (∀ (s : State) (v : BitVec 64),
    let r (g : Nat) : Nat := v.toNat / 2 ^ (2 * g) % 4
    let sound (g : Nat) : Prop := (s.group g).wakeBy = 0 ∧ (s.group g).gate = true ∧
      (r g = 1 → (s.group g).saved = true ∧ (s.group g).img = false)
    ∃ t : State, exec (.grailCtlWrite v) s = .next t ∧
      (∀ g < 32, r g = 3 → (t.group g).seqerr = true) ∧
      ((∀ g < 32, r g ≠ 3 → r g ≠ (s.group g).rail → sound g) →
        ∀ g < 32, (t.group g).rail = if r g = 3 then (s.group g).rail else r g) ∧
      (∀ g < 32, r g ≠ 3 → r g ≠ (s.group g).rail → ¬ sound g →
        t.cores = s.cores ∧ t.mem = s.mem ∧ (∀ h < 32, (t.group h).rail = (s.group h).rail) ∧ (t.group g).seqerr = true)) ∧
  (∀ (s : State) (g : BitVec 5), (s.group g.toNat).rail = 2 →
    (s.tstate = 2 → ∃ t : State, exec (.railOk g) s = .next t ∧ t.mem = s.mem ∧ t.group g.toNat =
      { s.group g.toNat with railok := true, state := if (s.group g.toNat).state = 0 then 0 else 3 }) ∧
    (s.tstate ≠ 2 → ∃ t : State, exec (.railOk g) s = .next t ∧ t.mem = s.mem ∧ t.groups = s.groups ∧ t.tbusy = true ∧
      .torrentBringUp ∈ t.agenda ∧ .railOk g ∈ t.agenda))

/-- R92, R115, R444, R448, R449, R450, R451: a WAKE write sets its source and schedules the groups it names; a fired trigger is disarmed; a group that comes up is ON
with its cores in RUN and the island ON, unless its MASK bit has risen again; the island leaves ON when every group is down, with no line
in the L2; when it comes back the bridge's packets leave, a thread with the time of that moment. -/
def Obligations.WakingSteps : Prop :=
  (∀ (s : State) (mask : BitVec 32) (src : BitVec 2),
    let bit : Word := if src = 0 then 0x40000 else if src = 1 then 0x20000 else 0x10000
    (src = 0 → s.arm.getLsbD 16 = false → exec (.wakeGmask mask src) s = .next s ∧ exec (.wakeTon src) s = .next s) ∧
    (src ≠ 0 ∨ s.arm.getLsbD 16 = true →
      (∃ t : State, exec (.wakeGmask mask src) s = .next t ∧ t.wakeSrc = (s.wakeSrc ||| bit) ∧ t.mem = s.mem ∧
        ∀ g < 32, mask.getLsbD g = true → ((s.group g).quiesce = true ∨ (s.group g).state ≠ 0) → .groupWake (BitVec.ofNat 5 g) ∈ t.agenda) ∧
      ∃ t : State, exec (.wakeTon src) s = .next t ∧ t.wakeSrc = (s.wakeSrc ||| bit) ∧ t.mem = s.mem ∧
        ∀ g < 32, ((s.group g).quiesce = true ∨ (s.group g).state ≠ 0) → .groupWake (BitVec.ofNat 5 g) ∈ t.agenda)) ∧
  (∀ s : State, exec .wakeSrcRead s = .next { s with wakeSrc := 0 }) ∧
  (∀ (s : State) (v : BitVec 64), ∃ t : State, exec (.wakeArmWrite v) s = .next t ∧ t.arm = v.setWidth 17 ∧ t.mem = s.mem ∧
    t.cascades = s.cascades) ∧
  (∀ (s : State) (n : BitVec 4),
    (s.arm.getLsbD n.toNat = false → exec (.cascadeFire n) s = .next s) ∧
    (s.arm.getLsbD n.toNat = true → ∃ t : State, exec (.cascadeFire n) s = .next t ∧ t.arm.getLsbD n.toNat = false ∧
      (∀ x, t.cascades[n.toNat]? = some x → x.fired = true) ∧ t.wakeSrc = (s.wakeSrc ||| BitVec.ofNat 64 (2 ^ n.toNat)))) ∧
  (∀ (s : State) (g : BitVec 5), noneWaits s g.toNat →
    let up (t : State) : Prop := (t.group g.toNat).state = 0 ∧ (t.group g.toNat).quiesce = false ∧ (t.group g.toNat).gate = false ∧
      (t.group g.toNat).rail = 2 ∧ t.tstate = 2 ∧ ∀ n ∈ groupNodes g.toNat, (t.core n).power = .run
    ((s.group g.toNat).quiesce = true → exec (.groupResume g) s = .next s) ∧
    ((s.group g.toNat).quiesce = false → s.tstate = 2 → ∃ t : State, exec (.groupResume g) s = .next t ∧ up t) ∧
    ((s.group g.toNat).quiesce = false → s.tstate ≠ 2 → ∃ t : State, exec (.groupResume g) s = .next t ∧ t.tbusy = true ∧
      t.cores = s.cores ∧ t.mem = s.mem ∧ .torrentBringUp ∈ t.agenda ∧ .groupResume g ∈ t.agenda) ∧
    ((s.group g.toNat).wakeBy ≠ 0 → s.tstate = 2 → s.inStep g.toNat = false → ∃ t : State, exec (.groupWake g) s = .next t ∧ up t) ∧
    ((s.group g.toNat).wakeBy ≠ 0 → s.tstate = 2 → s.inStep g.toNat = true →
      exec (.groupWake g) s = .next (s.later (.groupWake g))) ∧
    ((s.group g.toNat).wakeBy ≠ 0 → s.tstate ≠ 2 →
      ∃ t : State, exec (.groupWake g) s = .next t ∧ .torrentBringUp ∈ t.agenda ∧ .groupWake g ∈ t.agenda)) ∧
  (∀ s : State,
    (s.tstate = 2 → exec .torrentBringUp s = .next s) ∧
    (s.tstate ≠ 2 → ∃ t : State, exec .torrentBringUp s = .next t ∧ t.tstate = 2 ∧ t.bridge = true ∧ t.dramsr = false ∧
      ∀ n, 0x800 ≤ n → n ≤ 0x808 → (t.core n).bridgeHeld = [] ∧ ∀ p ∈ (s.core n).bridgeHeld,
        if isLink p.dst then (s.linkUp (p.dst - 0x450) = true → p ∈ t.peerOut)
        else isRill p.src = true → p.leaving (s.timeAt p.src) ∈ t.net) ∧
    (s.tstate ≠ 2 → exec .torrentLeaveOn s = .next s) ∧
    (s.tstate = 2 → s.allDown = true → (∀ g < 32, (s.group g).wakeBy = 0) → (∀ p ∈ s.net, p.torrent = false) →
      ∃ t : State, exec .torrentLeaveOn s = .next t ∧ t.bridge = false ∧ t.tbusy = false ∧ t.l2 = [] ∧ (s.l2 = [] → t.mem = s.mem) ∧
        ((∃ g < 32, (s.group g).state = 1) → t.tstate = 1 ∧ t.cores = s.cores) ∧
        ((∀ g < 32, (s.group g).state = 2) → t.tstate = 0)) ∧
    (s.srallow = true → s.tstate ≠ 2 →
      ∃ t : State, exec .dramSelfRefreshEnter s = .next t ∧ t.dramsr = true ∧ t.mem = s.mem) ∧
    ∃ t : State, exec .dramSelfRefreshExit s = .next t ∧ t.dramsr = false ∧ t.mem = s.mem)

/-! ## Portage and the recorder -/

/-- R455, R456, R447: the phases of a move: GO, as the write of PORTAGE_CMD or as its event, begins one at once, or sets ERR 1 while one is under way; an ABORT
written in PHASE 1 abandons it with ERR 4, one in another phase does nothing; at the boundary the ranks' entries get TRANSIT; after the fence the
resident ranks are saved; then the target entries are written, and after the second fence, with no message of a moved thread on its way
(R140), the move ends with ERR 0. GRET_SAVE OP 2 puts each resident rank of the group into its record. -/
def Sys2Proof.Claims.PortageSteps : Prop :=
  (∀ (s : State) (v : BitVec 64),
    (s.portage.phase = 0 → ∃ t : State, exec (.portageGo v) s = .next t ∧ t.portage.phase = 1 ∧ t.portage.err = 0 ∧
      t.portage.cmd = (v &&& 0x0000030000000FFF) ∧ t.portage.run = t.portage.cmd ∧ .portageTransit ∈ t.agenda ∧ t.mem = s.mem) ∧
    (s.portage.phase ≠ 0 → ∃ t : State, exec (.portageGo v) s = .next t ∧ t.portage = { s.portage with err := 1 }) ∧
    (v.getLsbD 63 = true → s.devSet .pcmd v = s.portageGo v) ∧
    (v.getLsbD 63 = false → v.getLsbD 62 = true →
      let t := s.devSet .pcmd v
      (s.portage.phase = 1 → t.portage.abort = true ∧ .portageAbort ∈ t.agenda) ∧
      (s.portage.phase ≠ 1 → t.portage = { s.portage with cmd := t.portage.cmd } ∧ t.agenda = s.agenda))) ∧
  (∀ s : State,
    let ended (i : Instr) (e : Nat) : Prop := ∃ t : State, exec i s = .next t ∧ t.portage.phase = 0 ∧ t.portage.err = e
    let ctx := s.portage.run.toNat % 2 ^ 12
    let target (r : Nat) : RankState := s.rankEntry (s.targetEntry r)
    let good : Prop := ∀ r ∈ s.ranks ctx, ∃ k, target r = .valid k
    (s.portage.phase = 1 → ended .portageAbort 4) ∧
    (s.portage.phase ≠ 1 → exec .portageAbort s = .next s) ∧
    (s.portage.phase = 1 → s.portage.abort = true → exec .portageTransit s = .next s) ∧
    (s.portage.phase = 1 → s.portage.abort = false → s.atBoundary = false → exec .portageTransit s = .next (s.later .portageTransit)) ∧
    (s.portage.phase = 1 → s.portage.abort = false → s.atBoundary = true →
      ∃ t : State, exec .portageTransit s = .next t ∧ t.portage.phase = 2 ∧ .portageCopy ∈ t.agenda ∧
        (∃ q ∈ t.tlbis, q.form = 0 ∧ q.ctx = ctx) ∧
        t.mem = ((s.ranks ctx).foldl (fun u r => u.writeHome 0x840 (u.rankLoc ctx r)
          ((u.readWord (u.rankLoc ctx r)).2.1 ||| 0x4000000000000000) 0) s).mem) ∧
    (s.portage.phase = 2 → s.fenced = false → exec .portageCopy s = .next (s.later .portageCopy)) ∧
    (s.portage.phase = 2 → s.fenced = true → (∀ n ∈ s.ctxCores ctx, ∀ e ∈ (s.core n).fifo, e.ctx ≠ ctx) → s.portage.run.getLsbD 41 = false →
      exec .portageCopy s = .next (((s.ctxCores ctx).foldl State.moveOut
        (s.setPortage { s.portage with phase := 3, time := s.time })).later .portageRelease)) ∧
    (s.portage.phase = 3 → ¬ good → ended .portageRelease 2) ∧
    (s.portage.phase = 3 → good → ∃ t : State, exec .portageRelease s = .next t ∧ t.portage.phase = 4 ∧ .portageRelease ∈ t.agenda ∧
      t.mem = ((s.ranks ctx).foldl (fun u r => u.writeHome 0x840 (u.rankLoc ctx r) (s.targetEntry r) 0) s).mem) ∧
    (s.portage.phase = 4 → s.fenced = false → exec .portageRelease s = .next (s.later .portageRelease)) ∧
    (s.portage.phase = 4 → s.moveSends = true → exec .portageRelease s = .next (s.later .portageRelease)) ∧
    (s.portage.phase = 4 → s.fenced = true → s.moveSends = false → ended .portageRelease 0)) ∧
  (∀ (s : State) (g : BitVec 5),
    ∃ t : State, exec (.gretSaveImage g) s = .next t ∧ (t.group g.toNat).saved = true ∧ (t.group g.toNat).img = true ∧
      t.mem = ((s.logicalNodes g.toNat).foldl State.saveImage s).mem)

/-- R460 to R463, R465: a freeze names F, its cause and context, and is sent to every powered core; a core stops recording once its copy of the time passes the F
that reached it first, by 2; the capsule is built when every ring has stopped and the 32 router cycles of merging, 160/6 ticks of the time base, are over;
with a capsule held the freeze adds 1 to DROPS, stops the rings and builds none; a later freeze that reaches the management core within those cycles of
the first replaces F, cause and context by its own when its F, or at the same F its node, is smaller, and one after them adds 1 to
DROPS; a resume lets the cores record again. That a resume counts a freeze still on its way in DROPS is the model's choice (log 127). -/
def Sys2Proof.Claims.RecorderSteps : Prop :=
  (∀ s : State,
    (s.silt.frozen = false → s.silt.valid = false →
      ∃ t : State, exec .siltFreeze s = .next t ∧ t.silt.frozen = true ∧ t.silt.build = true ∧ t.silt.reached = true ∧ t.silt.f = s.timeAt 0x808 ∧
        t.silt.node = 0x808 ∧ t.silt.cause = 0 ∧ t.silt.fctx = s.silt.mctx ∧ .capsuleBuild ∈ t.agenda ∧ t.mem = s.mem ∧
        ∀ p ∈ s.cores, p.2.power ≠ .off → p.1 ≠ 0x808 → .freezeArrive (BitVec.ofNat 12 p.1) ∈ t.agenda) ∧
    (s.silt.frozen = false → s.silt.valid = true →
      ∃ t : State, exec .siltFreeze s = .next t ∧ t.mem = s.mem ∧
        t.silt = { s.silt with
          frozen := true, reached := true, build := false, flying := t.silt.flying, drops := s.silt.drops + 1, first := s.timeAt 0x808, f := s.timeAt 0x808, node := 0x808, cause := 0
          fctx := s.silt.mctx } ∧
        ∀ p ∈ s.cores, p.2.power ≠ .off → p.1 ≠ 0x808 → .freezeArrive (BitVec.ofNat 12 p.1) ∈ t.agenda) ∧
    (s.silt.frozen = true → s.silt.reached = true →
      ∃ (t : State) (x : Freeze), exec .siltFreeze s = .next t ∧ t.mem = s.mem ∧ x.f = s.timeAt 0x808 ∧ x.node = 0x808 ∧ x.ctx = s.silt.mctx ∧
        t.silt = { if s.mergeOver = true then { s.silt with drops := s.silt.drops + 1 }
          else if s.timeAt 0x808 < s.silt.f ∨ (s.timeAt 0x808 = s.silt.f ∧ 0x808 < s.silt.node) then
            { s.silt with f := s.timeAt 0x808, node := 0x808, cause := 0, fctx := s.silt.mctx }
          else s.silt with flying := s.silt.flying ++ [x] }) ∧
    (s.silt.build = false →
      ∃ t : State, exec .siltResume s = .next t ∧ t.mem = s.mem ∧ t.silt.flying = [] ∧ t.silt.frozen = false ∧ t.silt.reached = false ∧
        (s.silt.flying = [] → t.silt = { s.silt with frozen := false, reached := false }) ∧
        ∀ p ∈ t.cores, p.2.ringStopped = false ∧ p.2.freezeF = none) ∧
    (s.silt.build = true → exec .siltResume s = .next s) ∧
    exec .siltRelease s = .next { s with silt := { s.silt with valid := false } }) ∧
  (∀ (s : State) (node : BitVec 12),
    let n := node.toNat
    ((∀ x ∈ s.silt.flying, n ∉ x.left) → exec (.freezeArrive node) s = .next s) ∧
    (s.silt.flying.filter (·.left.contains n) ≠ [] → ∃ x ∈ s.silt.flying, n ∈ x.left ∧
      ∃ t : State, exec (.freezeArrive node) s = .next t ∧ t.mem = s.mem ∧ (t.core n).freezeF = some ((s.core n).freezeF.getD x.f)) ∧
    (∀ x, s.silt.flying.filter (·.left.contains n) = [x] →
      ∃ t : State, exec (.freezeArrive node) s = .next t ∧ t.mem = s.mem ∧ .siltStop node ∈ t.agenda ∧
        (t.core n).freezeF = some ((s.core n).freezeF.getD x.f) ∧
        (n ≠ 0x808 → t.silt = { s.silt with flying := t.silt.flying }) ∧
        (n = 0x808 → s.silt.reached = false →
          t.silt.f = x.f ∧ t.silt.node = x.node ∧ t.silt.cause = x.cause ∧ t.silt.fctx = x.ctx ∧ t.silt.reached = true ∧
            t.silt.drops = s.silt.drops + (if s.silt.valid = true then 1 else 0)) ∧
        (n = 0x808 → s.silt.reached = true → s.mergeOver = true →
          t.silt = { s.silt with flying := t.silt.flying, drops := s.silt.drops + 1 }) ∧
        (n = 0x808 → s.silt.reached = true → s.mergeOver = false →
          t.silt = { if x.f < s.silt.f ∨ (x.f = s.silt.f ∧ x.node < s.silt.node) then
              { s.silt with f := x.f, node := x.node, cause := x.cause, fctx := x.ctx }
            else s.silt with flying := t.silt.flying })) ∧
    (∀ f, (s.core n).freezeF = some f →
      (f.toNat + 2 < (s.timeAt n).toNat → ∃ t : State, exec (.siltStop node) s = .next t ∧
        t.core n = { s.core n with ringStopped := true } ∧ t.mem = s.mem) ∧
      ((s.timeAt n).toNat ≤ f.toNat + 2 → f.toNat + 2 < 2 ^ 64 →
        exec (.siltStop node) s = .next (s.later (.siltStop node))))) ∧
  (∀ s : State, s.silt.build = true →
    (s.mergeOver = false → exec .capsuleBuild s = .next (s.later .capsuleBuild)) ∧
    (s.mergeOver = true → (∀ p ∈ s.cores, p.2.power ≠ .off → (s.core p.1).ringStopped = true) →
      ∃ t : State, exec .capsuleBuild s = .next t ∧ t.silt.valid = true ∧ t.silt.build = false ∧ t.silt.ftime = s.silt.f ∧
        t.silt.held = s.silt.base ∧
        t.mem = (s.drawn.putPool (s.silt.base * 2 ^ 20) s.capsule (s.capsule.length / 8)).mem) ∧
    (∀ p ∈ s.cores, p.2.power ≠ .off → (s.core p.1).ringStopped = false →
      exec .capsuleBuild s = .next (s.later .capsuleBuild)))

/-! ## The host -/

/-- R468, R473, R476: the mailbox commands: before boot is over they wait; after it each ends with RESULT and DOORBELL 0: CAPSULE_READ copies the
capsule's bytes, CAPSULE_RELEASE frees it, QUEUE_BASE sets the ring when it fits, KEY_BIND binds a key under an established session, WINDOW_SET
binds the window or is refused, a nonzero reserved word of ARGS being refused always, and an unknown command has RESULT 1. The model's choices:
a command that waits for boot (log 64), KEY_BIND's index in bits 31:16 (log 67). -/
def Sys2Proof.Claims.MailboxCommands : Prop :=
  ∀ (s : State) (a b : BitVec 64),
    let ends (i : Instr) (r : Nat) (p : State → Prop) : Prop :=
      ∃ t : State, exec i s = .next t ∧ t.mailbox.result = BitVec.ofNat 64 r ∧ t.mailbox.doorbell = 0 ∧ t.mem = s.mem ∧
        t.cores = s.cores ∧ p t
    let ctx := a.toNat % 2 ^ 12
    let ix := a.toNat / 2 ^ 16 % 2 ^ 16
    (s.booting = true →
      exec (.capsuleRead a b) s = .next (s.later (.capsuleRead a b)) ∧ exec .capsuleRelease s = .next (s.later .capsuleRelease) ∧
      exec (.queueBase a b) s = .next (s.later (.queueBase a b)) ∧ exec (.keyBind a) s = .next (s.later (.keyBind a)) ∧
      exec (.windowSet a b) s = .next (s.later (.windowSet a b)) ∧
      ∀ c, exec (.mailboxBadCommand c) s = .next (s.later (.mailboxBadCommand c))) ∧
    (s.booting = false → s.silt.valid = false → ends (.capsuleRead a b) 3 fun _ => True) ∧
    (s.booting = false → s.silt.valid = true → ends (.capsuleRead a b) 0 fun t =>
      ∀ i < min b.toNat 4032, t.mailbox.data[i]? = some (s.capsuleByte (a.toNat + i))) ∧
    (s.boot = 1 →
      (∀ c, ends (.mailboxBadCommand c) 1 fun t => t.silt = s.silt) ∧
      (ends .capsuleRelease 0 fun t => t.silt = { s.silt with valid := false }) ∧
      (b.toNat ≤ 12 → a.toNat % 8 = 0 → a.toNat + 64 + 64 * 2 ^ b.toNat ≤ 24 * 2 ^ 20 →
        ends (.queueBase a b) 0 fun t => t.hostRing = some (a.toNat, b.toNat) ∧ .hostSubmission ∈ t.agenda) ∧
      (12 < b.toNat → ends (.queueBase a b) 2 fun t => t.hostRing = s.hostRing) ∧
      (∀ x, s.spdm.session = some x → s.spdm.established = true → ctx ≠ 0 → ix < 16 →
        ends (.keyBind a) 0 fun t => ∃ k, k ∈ t.keys ∧ k.ctx = ctx ∧ k.ix = ix ∧ ∀ q ∈ t.keys, q.ctx = ctx → q.ix = ix → q = k) ∧
      (s.spdm.session = none → ends (.keyBind a) 2 fun t => t.keys = s.keys) ∧
      ((∃ w ∈ s.mailbox.args.drop 2, w ≠ 0) → ends (.windowSet a b) 2 fun t => t.window = s.window) ∧
      ((∀ w ∈ s.mailbox.args.drop 2, w = 0) → a.toNat < 2 ^ 12 → b.toNat % 2 ^ 12 = 0 → b.toNat + (2 ^ 26 - 4096) ≤ 2 ^ 47 →
        ends (.windowSet a b) 0 (fun t => t.window = some (a.toNat, b.toNat)) ∨
          ends (.windowSet a b) 2 fun t => t.window = s.window) ∧
      (2 ^ 12 ≤ a.toNat → ends (.windowSet a b) 2 fun t => t.window = s.window))

/-- R467, R469, R473: a host read of the mailbox gets its bytes, past the window or without a translation ones; a host write through the window
stores at the words' homes; the MC submits the ring's next entry and adds 1 to HEAD; a launch that waits is submitted again. That HEAD and TAIL
run freely, an entry's place being the count modulo 2^n, is log 65. -/
def Sys2Proof.Claims.HostAccesses : Prop :=
  (∀ (s : State) (off : BitVec 64) (n : BitVec 7), s.tdi = .unlocked →
    let o := off.toNat
    let k := n.toNat
    let got (bs : List Byte) : Prop := ∃ t : State, exec (.hostRead off n) s = .next t ∧ t.hostGot = bs
    (o < 4096 → o + k ≤ 4096 → got ((s.mailbox.bytes.drop o).take k)) ∧
    (2 ^ 26 < o + k ∨ (4096 ≤ o ∧ s.window = none) → got (List.replicate k 0xFF)) ∧
    (∀ ctx vb, 4096 ≤ o → o + k ≤ 2 ^ 26 → s.window = some (ctx, vb) →
      (s.drawn.hostWords ctx false (pieces (vb + o - 4096) k k) = none → got (List.replicate k 0xFF)) ∧
      ∀ l bs, s.drawn.hostWords ctx false (pieces (vb + o - 4096) k k) = some l → (s.drawn.hostLoad l).2 = some bs → got bs)) ∧
  (∀ (s : State) (off : BitVec 64) (n : BitVec 4) (v : BitVec 64), s.tdi = .unlocked →
    let o := off.toNat
    let k := n.toNat
    k ≤ 8 →
    (o + k ≤ 4096 → o < 4096 → exec (.hostWrite off n v) s = .next (s.drawn.mailboxWrite o (natToBytes k v.toNat))) ∧
    (2 ^ 26 < o + k → exec (.hostWrite off n v) s = .next s.drawn) ∧
    (∀ ctx vb l, 4096 ≤ o → o + k ≤ 2 ^ 26 → s.window = some (ctx, vb) →
      s.drawn.hostWords ctx true (pieces (vb + o - 4096) k k) = some l →
      (∀ p ∈ l, (s.drawn.readHome p.2).2.2 ≠ 2) → exec (.hostWrite off n v) s = .next (s.drawn.hostStore l v.toNat))) ∧
  (∀ s : State,
    (s.hostRing = none → exec .hostSubmission s = .next s) ∧
    (∀ o n, s.hostRing = some (o, n) →
      let l (i : Nat) : Loc := physLoc true (o + i) 0 0
      let h := s.readWord (l 0)
      let k := h.1.readWord (l 8)
      (h.2.1 = k.2.1 ∨ k.1.hostPending.isSome = true ∨ k.1.boot ≠ 1 → exec .hostSubmission s = .next (k.1.later .hostSubmission)) ∧
      (h.2.1 ≠ k.2.1 → k.1.hostPending = none → k.1.boot = 1 →
        let e := o + 64 + 64 * (h.2.1.toNat % 2 ^ n)
        let r := (List.range 8).foldl (fun (x : State × List Word) i =>
          ((x.1.readWord (physLoc true (e + 8 * i) 0 0)).1, x.2 ++ [(x.1.readWord (physLoc true (e + 8 * i) 0 0)).2.1])) (k.1, [])
        let over_ (u : State) : Out := .next ((u.writeHome 0x808 (l 0) (h.2.1 + 1) 0).later .hostSubmission)
        (∀ q, r.1.ringLaunch r.2 = some q → exec .hostSubmission s = over_ (r.1.submit q)) ∧
        (r.1.ringLaunch r.2 = none → exec .hostSubmission s = over_ r.1))) ∧
    (s.hostPending = none → exec .hostSubmissionRetry s = .next s) ∧
    (∀ q t, s.hostPending = some q → q.1 ≠ 0 ∨ s.bridge = true → s.launch q.1 q.2.1 q.2.2.1 q.2.2.2 = (t, true) →
      exec .hostSubmissionRetry s = .next { t with hostPending := none }))

/-- R467, R470, R471: the SPDM exchange: each request in its stage is answered and joins the transcript; a session is opened, established, and ended with its
keys. TDISP locks, starts and stops the interface. The stages, the response contents and their encodings are log 68's, the TDISP codes log 69's,
both PRESUMED from outside this spec. -/
def Sys2Proof.Claims.SpdmExchange : Prop :=
  ∀ s : State, s.boot = 1 →
    let p := s.spdm
    let answers (i : Instr) (code : BitVec 8) (f : Spdm → Prop) : Prop :=
      ∃ t : State, exec i s = .next t ∧ t.mem = s.mem ∧ t.keys = s.keys ∧ t.spdm.transcript = p.transcript ++ [code] ++ t.spdm.answer ∧ f t.spdm
    let same (q : Spdm) : Prop := q.stage = p.stage ∧ q.session = p.session ∧ q.established = p.established
    (∃ t : State, exec .getVersion s = .next t ∧ t.spdm.stage = 1 ∧ t.spdm.transcript = [0x84, 0x13] ∧ t.spdm.session = p.session) ∧
    (p.stage = 1 → answers .getCapabilities 0xE1 fun q => q.stage = 2 ∧ q.answer = capabilityFlags ++ algorithmSet) ∧
    (p.stage = 2 → answers .negotiateAlgorithms 0xE3 fun q => q.stage = 3 ∧ q.answer = algorithmSet) ∧
    (p.stage ≠ 1 → exec .getCapabilities s = .next s) ∧
    (p.stage ≠ 2 → exec .negotiateAlgorithms s = .next s) ∧
    (p.stage = 3 →
      (answers .getDigests 0x81 fun q => same q ∧ q.answer = sha256 (Config.image s.cfg.chain)) ∧
      (answers .getCertificate 0x82 fun q => same q ∧ q.answer = Config.image s.cfg.chain) ∧
      (answers .challenge 0x83 fun q => same q ∧ ∃ x, q.answer = x ++ s.identitySign (p.transcript ++ [0x83] ++ x)) ∧
      (answers .getMeasurements 0xE0 fun q =>
        let x := sha256 (Config.image 1) ++ sha256 s.cfg.bytes ++ sha256 (Config.image 3) ++ sha256 (Config.image 4)
        same q ∧ q.answer = x ++ s.identitySign (p.transcript ++ [0xE0] ++ x)) ∧
      (p.established = false → answers .keyExchange 0xE4 fun q => q.session.isSome = true ∧ q.established = false)) ∧
    (p.session.isSome = true → answers .finish 0xE5 fun q => q.established = true ∧ q.session = p.session) ∧
    (p.session = none → exec .finish s = .next s) ∧
    (p.established = true → answers .heartbeat 0xE8 same) ∧
    (p.established = true → ∃ t : State, exec .endSession s = .next t ∧ t.spdm.session = none ∧ t.spdm.established = false ∧
      t.keys = [] ∧ t.mem = s.mem) ∧
    (s.tdi = .unlocked → exec (.tdispMessage 0) s = .next { s with tdi := .locked }) ∧
    (s.tdi = .locked → exec (.tdispMessage 1) s = .next { s with tdi := .run }) ∧
    exec (.tdispMessage 2) s = .next { s with tdi := .unlocked } ∧
    exec (.tdispMessage 3) s = .next s

/-- R7, R466, R474, R476: a link that goes down loses its packets, those of the peer on their way included, comes up, and is paired; a cold reset returns every field to its reset value, a warm one
keeps DRAM and the pool with their tags, and a held capsule with its region, and clears the LMs. After a failed boot the MC pairs no link. When a link
comes up is log 70's, what the resets keep of this model's own fields log 71's. -/
def Sys2Proof.Claims.LinksAndResets : Prop :=
  (∀ (s : State) (l : BitVec 1),
    (∃ t : State, exec (.linkDown l) s = .next t ∧ t.links[l.toNat]? = some .down ∧ t.mem = s.mem ∧
      (t.peerOut = s.peerOut.filter fun p => p.dst ≠ 0x450 + l.toNat) ∧
      ∀ p ∈ t.net, p.src ≠ 0x450 + l.toNat) ∧
    (s.boot = 2 → exec (.rutuquaPairing l) s = .next s) ∧
    (s.boot ≠ 2 → s.links[l.toNat]? = some .down → ∃ t : State, exec (.rutuquaPairing l) s = .next t ∧ t.links[l.toNat]? = some .up ∧
      .rutuquaPairing l ∈ t.agenda ∧ t.mem = s.mem) ∧
    (s.boot ≠ 2 → s.links[l.toNat]? = some .up → ∃ t : State, exec (.rutuquaPairing l) s = .next t ∧ t.links[l.toNat]? = some .paired ∧
      t.mem = s.mem)) ∧
  (∀ s : State, exec .coldReset s = .next { State.reset with cfg := s.cfg, freeCtr := s.freeCtr }) ∧
  (∀ s : State, s.memWf → ∃ t : State, exec .warmReset s = .next t ∧ t.cores = State.reset.cores ∧ t.time = s.time ∧ t.cfg = s.cfg ∧
    (∀ a < 2 ^ 49, mget t.mem a = mget s.mem a) ∧ (∀ a, 2 ^ 49 ≤ a → mget t.mem a = 0) ∧
    (∀ w < 2 ^ 46, mget t.tags w = mget s.tags w) ∧ t.silt.valid = s.silt.valid ∧ t.silt.base = (if s.silt.valid then s.silt.held else 0) ∧
    t.silt.frozen = false ∧ t.spdm.established = false)

/-! ## The machine -/

/-- R204: g0 reads as 0, DATA, with a zero shadow, and k0 as all ones; writes to them are discarded; they are never EMPTY, and no port register is. An
instruction whose destination is g0 or k0 changes no register. -/
def Obligations.FixedRegisters : Prop :=
  (∀ (b : Berth) (r : GReg) (x : Word),
    b.getG 0 = ⟨0, 0, .data⟩ ∧ b.setG 0 r = b ∧ b.isEmpty (.g 0) = false ∧
    b.getK 0 = ⟨BitVec.allOnes 64, true⟩ ∧ b.setK 0 x = b ∧ b.isEmpty (.k 0) = false ∧
    (∀ n, isGPort n = true → b.isEmpty (.g n) = false) ∧ ∀ n, isVPort n = true → b.isEmpty (.v n) = false) ∧
  (∀ (s : State) (u : List Nat), s.readSrc (.g 0) u = .ofG ⟨0, 0, .data⟩ ∧ s.readSrc (.k 0) u = .ofX (BitVec.allOnes 64)) ∧
  (∀ (s : State) (srcs : List Src) (r : Val) (len : Nat),
    let t := s.finish srcs [.g 0] [r] len
    let u := s.finish srcs [.k 0] [r] len
    t.me.g = s.me.g ∧ t.me.v = s.me.v ∧ t.me.k = s.me.k ∧ u.me.g = s.me.g ∧ u.me.v = s.me.v ∧ u.me.k = s.me.k)

/-- R200, R202, R208, R219: the frame of every instruction that ends with its destinations written: memory, tags, the network, the other cores, and all of the
executing core but the executing berth and its ports are as before; of the berth, every register that is no destination, the OX registers,
the flags and the special registers; of the ports, those that the instruction does not name. -/
def Obligations.OperandFrame : Prop :=
  ∀ (s : State) (srcs : List Src) (dsts : List Dst) (rs : List Val) (len : Nat),
    let t := s.finish srcs dsts rs len
    t.mem = s.mem ∧ t.tags = s.tags ∧ t.net = s.net ∧ t.resv = s.resv ∧ t.barriers = s.barriers ∧ t.words = s.words ∧
    t.units = s.units ∧ t.owners = s.owners ∧ t.l2 = s.l2 ∧ t.gtlb = s.gtlb ∧ t.wcache = s.wcache ∧ t.tlbis = s.tlbis ∧ t.time = s.time ∧ t.cur = s.cur ∧ t.cb = s.cb ∧
    (∀ n, n ≠ s.cur → t.core n = s.core n) ∧
    (∃ (b : Berth) (ps : Vector Port 10),
      t.here = { s.here.setBerth s.cb b with ports := ps } ∧
      b = { s.me with g := b.g, v := b.v, k := b.k, pc := b.pc, repst := b.repst, seqOn := b.seqOn, wait := .none, rsp := [], fetched := none }) ∧
    (∀ r : BitVec 6, Dst.g r ∉ dsts → t.me.getG r = s.me.getG r) ∧
    (∀ r : BitVec 5, Dst.v r ∉ dsts → t.me.getV r = s.me.getV r) ∧
    (∀ r : BitVec 2, Dst.k r ∉ dsts → t.me.getK r = s.me.getK r) ∧
    (∀ p, p ∉ popList srcs → p ∉ pushList dsts → t.here.port p = s.here.port p) ∧
    (s.me.repAct = false → t.me.pc = s.me.pc + BitVec.ofNat 64 len)

/-- R7, R70, R399, R444, R446, R451, R460, R476: what a cold reset leaves, and the steps of boot: the configuration record is verified; the monitor is verified and
starts on the management core at KENTRY; then the eight Rill compute cores enter RUN at KENTRY, while every Torrent core stays OFF; a check that
fails ends boot. The model's choices: memory that lists nothing reads 0 (log 4), the queues and host fields are empty (log 5), KENTRY and the
other contents of the flash (log 6), when a step of boot happens and that MC and Rill cores start in this order (logs 10, 73). -/
def Obligations.ResetState : Prop :=
  let r := State.reset
  r.mem = [] ∧ r.tags = [] ∧ r.memWf ∧ (∀ n, (r.core n).power = .off) ∧ r.l2On = 0xFF ∧ r.l2Busy = false ∧ r.ctxdir = 0 ∧ r.rep = false ∧
  r.tstate = 0 ∧ r.bridge = false ∧ r.arm = 0 ∧ r.wakeSrc = 0 ∧ (∀ g < 32, (r.group g).state = 2 ∧ (r.group g).autowake = true) ∧
  r.disp0.en = false ∧ r.disp1.en = false ∧ r.disp0.rebind = true ∧ r.portage.phase = 0 ∧ r.silt.en = true ∧ r.silt.frozen = false ∧
  r.silt.valid = false ∧ r.window = none ∧ r.hostRing = none ∧ r.spdm.established = false ∧ r.net = [] ∧
  (∃ t u : State, Sys2Proof.Machine.step r = .next t ∧ t.boot = 3 ∧ t.mem = [] ∧ t.cores = [] ∧
    Sys2Proof.Machine.step t = .next u ∧ u.boot = 4 ∧ u.mem = [] ∧ (u.core 0x808).power = .run ∧ (u.core 0x808).b0.pc = r.cfg.kentry ∧
    (u.core 0x808).ctxid = 0 ∧ (u.core 0x808).idle0 = false ∧ ∀ n, n ≠ 0x808 → (u.core n).power = .off) ∧
  ∀ (s : State) (m : Mover) (l : List Mover), s.movers = m :: l → s.choose m l = .boot →
    ∃ t : State, Sys2Proof.Machine.step s = .next t.tick ∧ t.mem = s.mem ∧
      (s.boot = 0 → s.cfg.valid = false → t.boot = 2 ∧ t.cores = s.cores) ∧
      (s.boot = 3 → s.cfg.monitorValid = false → t.boot = 2 ∧ t.cores = s.cores) ∧
      (s.boot = 4 → t.boot = 1 ∧ (∀ n, n < 0x800 ∨ 0x808 ≤ n → t.core n = s.core n) ∧
        ∀ n, 0x800 ≤ n → n < 0x808 → (s.core n).power = .off →
          (t.core n).power = .run ∧ (t.core n).b0.pc = s.cfg.kentry ∧ (t.core n).ctxid = 0 ∧ (t.core n).idle0 = false)

/-- Every instruction and every step of the part has its effect: none faults and none is refused, whatever the state. -/
def Obligations.StepNeverStops : Prop :=
  (∀ (i : Instr) (s : State), ∃ t : State, exec i s = .next t) ∧ ∀ s : State, ∃ t : State, Sys2Proof.Machine.step s = .next t

/-- Every step keeps the canonical form of the byte memory and of the tag memory. -/
def Obligations.StepKeepsMemory : Prop := ∀ s t : State, s.memWf → Sys2Proof.Machine.step s = .next t → t.memWf

/-- R219, R181, R271, R122 (log 1, which mover a step takes; log 3, that a step adds Config.ticks to the time, which stands at the end of its range): when a berth moves, what stands at its program counter is fetched, or has been at
an earlier turn of the same instruction (R142), and decodes to an instruction, the step is that instruction's execution, and time goes on, never back. Under a repetition it is the instruction with its registers advanced. -/
def Obligations.StepRunsDecoded : Prop :=
  ∀ (s u : State) (m : Mover) (l : List Mover) (n i w len : Nat) (k : Instr),
    s.movers = m :: l → s.choose m l = .berth n i → (i ≠ 1 ∨ (s.core n).b1.stopped = false) →
    (∀ c v, (s.turn n i).me.wait ≠ .failed c v) →
    let v := s.turn n i
    let before := v.me.fetched.filter (·.1 = v.me.pc)
    (before = none ∧ (∃ x : State, v.fetch v.me.pc = .ok (x, w) ∧ u = x.setMe { x.me with fetched := some (v.me.pc, w) }) ∨
      (∃ a, before = some (a, w)) ∧ u = v) →
    decodeBits w = .instr k len →
    (u.me.repAct = false → ∀ t, exec k u = .next t → Sys2Proof.Machine.step s = .next t.tick) ∧
    (u.me.repAct = true → repBody w = true →
      ∀ t, exec (advanceV (BitVec.ofNat 5 (u.me.repJ * u.me.repS)) k) u = .next t → Sys2Proof.Machine.step s = .next t.tick) ∧
    ∀ t : State, t.tick.cores = t.cores ∧ t.tick.mem = t.mem ∧
      (t.time.toNat + Config.ticks t.freeCtr + 2 < 2 ^ 64 → t.tick.time.toNat = t.time.toNat + Config.ticks t.freeCtr) ∧
      t.time.toNat ≤ t.tick.time.toNat

/-- R213 to R218: decoding the encoding of a well-formed instruction gives it back, with every operand. -/
def Obligations.DecodeEncode : Prop :=
  ∀ (i : Instr) (nbits w : Nat), i.wellFormed = true → encode i = some (nbits, w) → decodeTableWord nbits w = some i

/-- R213, R218, R252, R253, R257: words written out from the encodings decode to what they stand for; erased memory is illegal. -/
def Obligations.DecodeWords : Prop :=
  decodeTableWord 32 0xA6AE81A0 = some (.ilv3 40 41 42) ∧ decodeTableWord 32 0x8040AE84 = some (.ldd 33 32 0x40) ∧
  decodeTableWord 32 0x0BFCACA3 = some (.ldw 40 2 0xFFC) ∧ decodeTableWord 32 0x0808B3A4 = some (.std 41 2 8) ∧
  decodeTableWord 32 0x2980D226 = some (.vfma 4 5 6 2 0) ∧ decodeTableWord 32 0x1A05D610 = some (.vslide 2 3 40 0) ∧
  decodeTableWord 32 0x2093E8A8 = some (.sloc 42 8 9) ∧ decodeTableWord 16 0x3183 = some (.cLdd 12 3) ∧
  decodeTableWord 16 0x44FA = some (.cBnez 7 26) ∧ decodeTableWord 16 0 = none ∧ decodeTableWord 32 0xFFFFFFFF = none

/-! ## Two rules as they stand -/

/-- R264: the division operations. A quotient is truncated toward zero, a remainder takes the sign of the dividend, so that x = q × y + r; division never traps;
by zero the quotient is all ones and the remainder x; the most negative number over −1 gives itself and 0. The .w forms do so on the low
words, sign-extended. -/
def Obligations.DivisionRule : Prop :=
  ∀ (s : State) (d a b : BitVec 6),
    let l : List Src := [.g a, .g b]
    s.ready l [.g d] = true →
    let done (i : Instr) (v : Word) : Prop := exec i s = .next (s.finish l [.g d] [.data v] 4)
    let signed (n : Nat) (x y q r : BitVec n) : Prop :=
      (y ≠ 0 → ¬ (x = BitVec.intMin n ∧ y = BitVec.allOnes n) →
        q.toInt = x.toInt.tdiv y.toInt ∧ x.toInt = q.toInt * y.toInt + r.toInt ∧
        (0 ≤ x.toInt → 0 ≤ r.toInt) ∧ (x.toInt ≤ 0 → r.toInt ≤ 0)) ∧
      (y = 0 → q = BitVec.allOnes n ∧ r = x) ∧
      (x = BitVec.intMin n → y = BitVec.allOnes n → q = BitVec.intMin n ∧ r = 0)
    let unsigned (n : Nat) (x y q r : BitVec n) : Prop :=
      (y ≠ 0 → q.toNat = x.toNat / y.toNat ∧ x.toNat = q.toNat * y.toNat + r.toNat) ∧ (y = 0 → q = BitVec.allOnes n ∧ r = x)
    let x := s.wv l 0
    let y := s.wv l 1
    (∃ q r, done (.div d a b 0) q ∧ done (.rem d a b 0) r ∧ signed 64 x y q r) ∧
    (∃ q r, done (.divu d a b 0) q ∧ done (.remu d a b 0) r ∧ unsigned 64 x y q r) ∧
    (∃ q r : BitVec 32, done (.div d a b 1) (q.signExtend 64) ∧ done (.rem d a b 1) (r.signExtend 64) ∧
      signed 32 (x.setWidth 32) (y.setWidth 32) q r) ∧
    (∃ q r : BitVec 32, done (.divu d a b 1) (q.signExtend 64) ∧ done (.remu d a b 1) (r.signExtend 64) ∧
      unsigned 32 (x.setWidth 32) (y.setWidth 32) q r)

/-- R241: VFMIN and VFMAX order −0 below +0; with one NaN the result is the other input, with two the canonical NaN; a signalling NaN sets IV. -/
def Obligations.MinMaxRule : Prop :=
  (∀ (s : State) (d a b : BitVec 5) (t k : BitVec 2),
    let w := laneW (4 + t.toNat)
    let f := floatFmt t.toNat
    let l : List Src := [.v a, .v b]
    let x (i j : Nat) : Nat := (laneOf w (s.vv (l ++ [.k k]) i) j).toNat
    lanesDone s (.vfmin d a b t k) d l k w (laneN (4 + t.toNat)) (fun j => asLane w (fpMin f (x 0 j) (x 1 j))) ∧
    lanesDone s (.vfmax d a b t k) d l k w (laneN (4 + t.toNat)) (fun j => asLane w (fpMax f (x 0 j) (x 1 j)))) ∧
  ∀ f ∈ [fp32, fp16, bf16], ∀ x < 2 ^ f.bits, ∀ y < 2 ^ f.bits,
    let u := f.decode x
    let v := f.decode y
    let iv : Nat := if u.sNan || v.sNan then 16 else 0
    (∀ o ∈ [fpMin, fpMax],
      (u.isNan = true → v.isNan = false → o f x y = (y, iv)) ∧
      (u.isNan = false → v.isNan = true → o f x y = (x, iv)) ∧
      (u.isNan = true → v.isNan = true → o f x y = (f.nan, iv))) ∧
    (x % 2 ^ f.signBit = 0 → y % 2 ^ f.signBit = 0 → x ≠ y → fpMin f x y = (f.sign true, 0) ∧ fpMax f x y = (0, 0))

/-! ## Statements of several parts -/

/-- AluCompletes and AddSubCompletes together (R261, R263, R264, R262, R277). -/
def Obligations.IntegerOperations : Prop :=
  Sys2Proof.Claims.AluCompletes ∧ Sys2Proof.Claims.AddSubCompletes

/-- BitCountsComplete and ImmediatesComplete together (R263, R265, R266, R267, R277). -/
def Obligations.BitsAndImmediates : Prop :=
  Sys2Proof.Claims.BitCountsComplete ∧ Sys2Proof.Claims.ImmediatesComplete

/-- BranchesComplete, JumpsComplete and JalrTraps together (R268, R269, R277, R270). -/
def Obligations.ControlFlow : Prop :=
  Sys2Proof.Claims.BranchesComplete ∧ Sys2Proof.Claims.JumpsComplete ∧ Sys2Proof.Claims.JalrTraps

/-- RepCompletes and RepSequencer together (R271, R272, R273). -/
def Obligations.Repetition : Prop :=
  Sys2Proof.Claims.RepCompletes ∧ Sys2Proof.Claims.RepSequencer

/-- SetBoundsComplete, CapabilityCompletes and CapabilityTraps together (R274, R275, R31). -/
def Obligations.Capabilities : Prop :=
  Sys2Proof.Claims.SetBoundsComplete ∧ Sys2Proof.Claims.CapabilityCompletes ∧ Sys2Proof.Claims.CapabilityTraps

/-- LoadsComplete and StoresComplete together (R282, R285, R286, R287). -/
def Obligations.LoadsAndStores : Prop :=
  Sys2Proof.Claims.LoadsComplete ∧ Sys2Proof.Claims.StoresComplete

/-- AliasBytes, StoreFrame and StoreThenLoad together (R14, R15, R3, R20, R63, R21, R60). -/
def Obligations.LocalMemory : Prop :=
  Sys2Proof.Claims.AliasBytes ∧ Sys2Proof.Claims.StoreFrame ∧ Sys2Proof.Claims.StoreThenLoad

/-- CapabilityAccessCompletes and DiscCompletes together (R283, R284, R33, R288, R80, R85). -/
def Obligations.CapabilityMemory : Prop :=
  Sys2Proof.Claims.CapabilityAccessCompletes ∧ Sys2Proof.Claims.DiscCompletes

/-- AmoCompletes and RedCompletes together (R289, R133, R290, R159, R161). -/
def Obligations.Atomics : Prop :=
  Sys2Proof.Claims.AmoCompletes ∧ Sys2Proof.Claims.RedCompletes

/-- BarriersComplete and BarrierFlips together (R168, R171, R173, R131, R169, R170, R57). -/
def Obligations.Barriers : Prop :=
  Sys2Proof.Claims.BarriersComplete ∧ Sys2Proof.Claims.BarrierFlips

/-- LogaCompletes, FencesComplete and WaitsComplete together (R292, R164, R165, R294, R129, R133, R48, R174, R295). -/
def Obligations.LogsFencesAndWaits : Prop :=
  Sys2Proof.Claims.LogaCompletes ∧ Sys2Proof.Claims.FencesComplete ∧ Sys2Proof.Claims.WaitsComplete

/-- CopiesComplete, CopyAccepted and MergeCompletes together (R299, R301, R305, R131, R311, R293, R166). -/
def Obligations.Copies : Prop :=
  Sys2Proof.Claims.CopiesComplete ∧ Sys2Proof.Claims.CopyAccepted ∧ Sys2Proof.Claims.MergeCompletes

/-- SendCompletes and ReceiveCompletes together (R312, R184, R409, R313, R314, R185). -/
def Obligations.Messages : Prop :=
  Sys2Proof.Claims.SendCompletes ∧ Sys2Proof.Claims.ReceiveCompletes

/-- TasksComplete and TyieldCompletes together (R319, R400, R344, R131, R416, R417, R418, R426). -/
def Obligations.Tasks : Prop :=
  Sys2Proof.Claims.TasksComplete ∧ Sys2Proof.Claims.TyieldCompletes

/-- TrapOfKernel and DoubleTrap together (R415, R417, R463, R173). -/
def Obligations.KernelTraps : Prop :=
  Sys2Proof.Claims.TrapOfKernel ∧ Sys2Proof.Claims.DoubleTrap

/-- TrapOfUser and TrapOfGuest together (R417, R418, R116). -/
def Obligations.ThreadTraps : Prop :=
  Sys2Proof.Claims.TrapOfUser ∧ Sys2Proof.Claims.TrapOfGuest

/-- TrapsRaised and CausesTaken together (R430, R415, R410, R416, R418, R434). -/
def Obligations.Causes : Prop :=
  Sys2Proof.Claims.TrapsRaised ∧ Sys2Proof.Claims.CausesTaken

/-- EretCompletes and TaskStarts together (R419, R430, R207, R194). -/
def Obligations.Returns : Prop :=
  Sys2Proof.Claims.EretCompletes ∧ Sys2Proof.Claims.TaskStarts

/-- SystemCompletes and ReadyHead together (R424, R427, R432, R435, R441). -/
def Obligations.SystemInstructions : Prop :=
  Sys2Proof.Claims.SystemCompletes ∧ Sys2Proof.Claims.ReadyHead

/-- FetchAndTlbComplete and WaitsEnd together (R439, R440, R142, R129, R48, R420, R434). -/
def Obligations.FetchFencesAndTlb : Prop :=
  Sys2Proof.Claims.FetchAndTlbComplete ∧ Sys2Proof.Claims.WaitsEnd

/-- RegistersComplete, RegistersOfBerths, RegisterPrivilege and RegisterWritesComplete together (R431, R211, R210, R421, R422, R420,
R12, R56, R186, R190, R250, R310, R341, R342, R353, R385, R389, R428). -/
def Obligations.SpecialRegisters : Prop :=
  Sys2Proof.Claims.RegistersComplete ∧ Sys2Proof.Claims.RegistersOfBerths ∧ Sys2Proof.Claims.RegisterPrivilege ∧ Sys2Proof.Claims.RegisterWritesComplete

/-- IntegerLanesComplete and MasksComplete together (R325, R328, R339). -/
def Obligations.IntegerVectors : Prop :=
  Sys2Proof.Claims.IntegerLanesComplete ∧ Sys2Proof.Claims.MasksComplete

/-- FloatLanesComplete and ConversionsComplete together (R326, R327, R226, R234, R236, R237, R329, R330). -/
def Obligations.FloatVectors : Prop :=
  Sys2Proof.Claims.FloatLanesComplete ∧ Sys2Proof.Claims.ConversionsComplete

/-- ReductionsComplete and PermutationsComplete together (R243, R331, R332, R337, R338). -/
def Obligations.ReductionsAndPermutations : Prop :=
  Sys2Proof.Claims.ReductionsComplete ∧ Sys2Proof.Claims.PermutationsComplete

/-- MzeroCompletes, MldCompletes and MstCompletes together (R340, R343, R357, R353, R354, R358, R234, R236, R359). -/
def Obligations.Accumulators : Prop :=
  Sys2Proof.Claims.MzeroCompletes ∧ Sys2Proof.Claims.MldCompletes ∧ Sys2Proof.Claims.MstCompletes

/-- MatrixSavesComplete and SpillsComplete together (R360, R361, R343, R345, R346). -/
def Obligations.MatrixSavesAndSpills : Prop :=
  Sys2Proof.Claims.MatrixSavesComplete ∧ Sys2Proof.Claims.SpillsComplete

/-- MmaCompletes, GangsComplete and IntegerProducts together (R232, R343, R347, R352, R355, R356, R362, R364, R244, R245, R350). -/
def Obligations.MatrixProducts : Prop :=
  Sys2Proof.Claims.MmaCompletes ∧ Sys2Proof.Claims.GangsComplete ∧ Sys2Proof.Claims.IntegerProducts

/-- GrammarCompletes, GrammarWalk and TapsComplete together (R380, R382, R383, R390, R395). -/
def Obligations.GrammarAndTaps : Prop :=
  Sys2Proof.Claims.GrammarCompletes ∧ Sys2Proof.Claims.GrammarWalk ∧ Sys2Proof.Claims.TapsComplete

/-- ThreadSavesComplete and SaveRestoreAgree together (R436, R438). -/
def Obligations.ThreadSaves : Prop :=
  Sys2Proof.Claims.ThreadSavesComplete ∧ Sys2Proof.Claims.SaveRestoreAgree

/-- CacheStepsComplete, KeySlotsComplete and ColumnsComplete together (R42, R60, R63, R64, R77, R86, R88, R49, R51, R54, R420, R71,
R72). -/
def Obligations.CachesKeysAndColumns : Prop :=
  Sys2Proof.Claims.CacheStepsComplete ∧ Sys2Proof.Claims.KeySlotsComplete ∧ Sys2Proof.Claims.ColumnsComplete

/-- CopiesMove and MergePasses together (R301, R309, R164, R166, R167). -/
def Obligations.CopyEngine : Prop :=
  Sys2Proof.Claims.CopiesMove ∧ Sys2Proof.Claims.MergePasses

/-- MessagesArrive, PortValuesLeave and RemoteAccessesServed together (R92, R98, R106, R185, R188, R189, R193, R448, R474, R194, R318,
R409, R60, R107, R110, R111, R192). -/
def Obligations.Arrivals : Prop :=
  Sys2Proof.Claims.MessagesArrive ∧ Sys2Proof.Claims.PortValuesLeave ∧ Sys2Proof.Claims.RemoteAccessesServed

/-- ThreadsArrive and TlbiSteps together (R113, R119, R122, R182, R192, R42, R45, R46, R47, R98, R105, R107). -/
def Obligations.ThreadsAndTlbi : Prop :=
  Sys2Proof.Claims.ThreadsArrive ∧ Sys2Proof.Claims.TlbiSteps

/-- CoresStart and HandshakeSteps together (R5, R414, R443, R450, R447). -/
def Obligations.PowerSteps : Prop :=
  Sys2Proof.Claims.CoresStart ∧ Sys2Proof.Claims.HandshakeSteps

/-- PortageSteps and RecorderSteps together (R455, R456, R447, R460, R463, R465). -/
def Obligations.PortageAndRecorder : Prop :=
  Sys2Proof.Claims.PortageSteps ∧ Sys2Proof.Claims.RecorderSteps

/-- MailboxCommands and HostAccesses together (R468, R473, R476, R467, R469). -/
def Obligations.HostSteps : Prop :=
  Sys2Proof.Claims.MailboxCommands ∧ Sys2Proof.Claims.HostAccesses

/-- SpdmExchange and LinksAndResets together (R467, R470, R471, R7, R466, R474, R476). -/
def Obligations.SecuritySteps : Prop :=
  Sys2Proof.Claims.SpdmExchange ∧ Sys2Proof.Claims.LinksAndResets
end

