-- ==== Sys2Proof/Laws/Memory.lean ====
section
/-! SUPPORT. The byte memory: every operation keeps its canonical form, and reads what was written. -/

namespace Sys2Proof.Machine

theorem wfFrom_le {lo lo' : Nat} {m : Memory} (h : Memory.wfFrom lo m = true) (hl : lo' ≤ lo) :
    Memory.wfFrom lo' m = true := by
  cases m with
  | nil => rfl
  | cons p r =>
    simp only [Memory.wfFrom, Bool.and_eq_true, decide_eq_true_eq] at h ⊢
    exact ⟨⟨by omega, h.1.2⟩, h.2⟩

theorem wfFrom_mput {m : Memory} : ∀ {lo a : Nat} {b : Byte}, Memory.wfFrom lo m = true → lo ≤ a →
    Memory.wfFrom lo (mput m a b) = true := by
  induction m with
  | nil =>
    intro lo a b _ hl
    by_cases hb : b = 0#8 <;> simp [mput, hb, Memory.wfFrom, hl]
  | cons p r ih =>
    intro lo a b h hl
    simp only [Memory.wfFrom, Bool.and_eq_true, decide_eq_true_eq, bne_iff_ne] at h
    obtain ⟨⟨h1, h2⟩, h3⟩ := h
    have h2' : p.2 ≠ 0#8 := h2
    unfold mput
    split
    · split
      · exact wfFrom_le h3 (by omega)
      · have hb : b ≠ 0#8 := ‹¬b = 0›
        subst a; simp [Memory.wfFrom, *]
    · split
      · split
        · simp [Memory.wfFrom, *]
        · have hb : b ≠ 0#8 := ‹¬b = 0›
          have hle : a + 1 ≤ p.1 := by omega
          simp [Memory.wfFrom, *]
      · simp only [Memory.wfFrom, Bool.and_eq_true, decide_eq_true_eq, bne_iff_ne]
        exact ⟨⟨h1, h2⟩, ih h3 (by omega)⟩

/-- A write keeps the canonical form. -/
theorem wf_mput {m : Memory} (a : Nat) (b : Byte) (h : m.wf = true) : (mput m a b).wf = true :=
  wfFrom_mput h (Nat.zero_le a)

/-- A write of several bytes keeps the canonical form. -/
theorem wf_mputN : ∀ (n : Nat) {m : Memory} (a x : Nat), m.wf = true → (mputN m a n x).wf = true
  | 0, _, _, _, h => h
  | n + 1, _, a, _, h => wf_mputN n (a + 1) _ (wf_mput a _ h)

/-- Taking entries out keeps the canonical form. -/
theorem wfFrom_filter (p : Host.Cell → Bool) {m : Memory} : ∀ {lo : Nat}, Memory.wfFrom lo m = true →
    Memory.wfFrom lo (m.filter p) = true := by
  induction m with
  | nil => intro lo h; exact h
  | cons q r ih =>
    intro lo h
    simp only [Memory.wfFrom, Bool.and_eq_true, decide_eq_true_eq] at h
    rw [List.filter_cons]
    split
    · simp only [Memory.wfFrom, Bool.and_eq_true, decide_eq_true_eq]
      exact ⟨h.1, ih h.2⟩
    · exact wfFrom_le (ih h.2) (by omega)

theorem wf_filter (p : Host.Cell → Bool) {m : Memory} (h : m.wf = true) : Memory.wf (m.filter p) = true :=
  wfFrom_filter p h

/-- R168: clearing a barrier's W keeps the canonical form. -/
theorem wf_clearW {m : Memory} (g : Nat) (h : m.wf = true) : (clearW m g).wf = true := wf_mput _ _ h

theorem mget_below {lo a : Nat} {m : Memory} (h : Memory.wfFrom lo m = true) (hl : a < lo) : mget m a = 0 := by
  cases m with
  | nil => rfl
  | cons p r =>
    simp only [Memory.wfFrom, Bool.and_eq_true, decide_eq_true_eq] at h
    have h1 : a ≠ p.1 := by omega
    have h2 : a < p.1 := by omega
    simp [mget, h1, h2]

theorem mget_mputFrom {m : Memory} : ∀ {lo : Nat} (a c : Nat) (b : Byte), Memory.wfFrom lo m = true →
    mget (mput m a b) c = if c = a then b else mget m c := by
  induction m with
  | nil =>
    intro lo a c b _
    by_cases hb : b = 0#8
    · simp [mput, hb, mget]
    · by_cases hc : c = a <;> simp [mput, hb, mget, hc]
  | cons p r ih =>
    intro lo a c b h
    simp only [Memory.wfFrom, Bool.and_eq_true, decide_eq_true_eq, bne_iff_ne] at h
    obtain ⟨⟨h1, h2⟩, h3⟩ := h
    unfold mput
    split
    · subst a
      split
      · subst b
        by_cases hc : c = p.1
        · rw [hc, if_pos rfl]; exact mget_below h3 (by omega)
        · rw [if_neg hc]
          by_cases hl : c < p.1
          · rw [mget_below h3 (by omega)]; simp [mget, hc, hl]
          · simp [mget, hc, hl]
      · by_cases hc : c = p.1 <;> simp [mget, hc]
    · rename_i hne
      split
      · rename_i hlt
        split
        · subst b
          by_cases hc : c = a
          · subst c; simp [mget, hne, hlt]
          · rw [if_neg hc]
        · by_cases hc : c = a
          · simp [mget, hc]
          · by_cases hl : c < a
            · have h4 : c ≠ p.1 := by omega
              have h5 : c < p.1 := by omega
              simp [mget, hc, hl, h4, h5]
            · simp [mget, hc, hl]
      · by_cases hc : c = p.1
        · have h4 : c ≠ a := by omega
          rw [if_neg h4, hc]
          simp [mget]
        · by_cases hl : c < p.1
          · have h4 : c ≠ a := by omega
            simp [mget, hc, hl, h4]
          · simp only [mget, hc, hl, if_false, ih a c b h3]

/-- A byte read after a write: the byte written at its address, every other byte as before. -/
theorem mget_mput {m : Memory} (h : m.wf = true) (a c : Nat) (b : Byte) :
    mget (mput m a b) c = if c = a then b else mget m c := mget_mputFrom a c b h

/-- Bytes outside a written range read as before. -/
theorem mget_mputN_outside : ∀ (n : Nat) {m : Memory} (a c x : Nat), m.wf = true → (c < a ∨ a + n ≤ c) →
    mget (mputN m a n x) c = mget m c
  | 0, _, _, _, _, _, _ => rfl
  | n + 1, m, a, c, x, h, ho => by
    have h1 : c ≠ a := by omega
    have := mget_mputN_outside n (a + 1) c (x / 256) (wf_mput a (BitVec.ofNat 8 x) h) (by omega)
    rw [mputN, this, mget_mput h, if_neg h1]

/-- A number read where it was written is its low bytes (R3). -/
theorem mgetN_mputN : ∀ (n : Nat) {m : Memory} (a x : Nat), m.wf = true → mgetN (mputN m a n x) a n = x % 256 ^ n
  | 0, _, _, x, _ => by simp [mgetN, Nat.mod_one]
  | n + 1, m, a, x, h => by
    have hw := wf_mput a (BitVec.ofNat 8 x) h
    have h1 : mget (mputN (mput m a (BitVec.ofNat 8 x)) (a + 1) n (x / 256)) a = BitVec.ofNat 8 x := by
      rw [mget_mputN_outside n (a + 1) a _ hw (by omega), mget_mput h, if_pos rfl]
    rw [mputN, mgetN, h1, mgetN_mputN n (a + 1) (x / 256) hw, BitVec.toNat_ofNat]
    have hp : 256 ^ (n + 1) = 256 * 256 ^ n := by rw [Nat.pow_succ, Nat.mul_comm]
    rw [hp, Nat.mod_mul]

/-- A number read outside a written range is as before. -/
theorem mgetN_mputN_outside : ∀ (k : Nat) {m : Memory} (n a c x : Nat), m.wf = true → (c + k ≤ a ∨ a + n ≤ c) →
    mgetN (mputN m a n x) c k = mgetN m c k
  | 0, _, _, _, _, _, _, _ => rfl
  | k + 1, m, n, a, c, x, h, ho => by
    rw [mgetN, mgetN, mget_mputN_outside n a c x h (by omega), mgetN_mputN_outside k n a (c + 1) x h (by omega)]

end Sys2Proof.Machine
end

