-- ==== Sys2Proof/Laws/State.lean ====
section
/-! SUPPORT. Reading a core, a berth or a register after a write: one lemma per field and update. -/

namespace Sys2Proof.Machine

/-! ## Association lists -/

@[simp] theorem alGet_alSet_same {α : Type} (l : List (Nat × α)) (n : Nat) (x : α) : alGet (alSet l n x) n = some x := by
  induction l with
  | nil => simp [alSet, alGet]
  | cons p r ih =>
    unfold alSet
    split
    · simp [alGet]
    · split
      · simp [alGet]
      · simp only [alGet, ih]
        split
        · exact absurd ‹_› ‹¬n = _›
        · rfl

theorem alGet_alSet_other {α : Type} (l : List (Nat × α)) {n k : Nat} (x : α) (h : k ≠ n) :
    alGet (alSet l n x) k = alGet l k := by
  induction l with
  | nil => simp [alSet, alGet, h]
  | cons p r ih =>
    unfold alSet
    split
    · have : k ≠ p.1 := fun e => h (e.trans (Eq.symm ‹n = p.1›))
      simp [alGet, h, this]
    · split
      · simp [alGet, h]
      · simp only [alGet, ih]

/-! ## Cores and berths -/

@[simp] theorem core_setCore (s : State) (n : Nat) (c : Core) : (s.setCore n c).core n = c := by
  simp [State.core, State.setCore]

theorem core_setCore_other (s : State) {n k : Nat} (c : Core) (h : k ≠ n) : (s.setCore n c).core k = s.core k := by
  simp [State.core, State.setCore, alGet_alSet_other _ _ h]

@[simp] theorem here_setHere (s : State) (c : Core) : (s.setHere c).here = c := core_setCore s s.cur c

theorem core_setHere_other (s : State) {k : Nat} (c : Core) (h : k ≠ s.cur) : (s.setHere c).core k = s.core k :=
  core_setCore_other s c h

@[simp] theorem berth_setBerth (c : Core) (i : Nat) (b : Berth) : (c.setBerth i b).berth i = b := by
  match i with
  | 0 => rfl
  | 1 => rfl
  | 2 => rfl
  | _ + 3 => rfl

theorem berth_setBerth_other (c : Core) {i j : Nat} (b : Berth) (hi : i < 4) (hj : j < 4) (h : j ≠ i) :
    (c.setBerth i b).berth j = c.berth j := by
  have h4 : i = 0 ∨ i = 1 ∨ i = 2 ∨ i = 3 := by omega
  have h5 : j = 0 ∨ j = 1 ∨ j = 2 ∨ j = 3 := by omega
  rcases h4 with rfl | rfl | rfl | rfl <;> rcases h5 with rfl | rfl | rfl | rfl <;> first | rfl | exact absurd rfl h

@[simp] theorem here_setMe (s : State) (b : Berth) : (s.setMe b).here = s.here.setBerth s.cb b := here_setHere s _

@[simp] theorem me_setMe (s : State) (b : Berth) : (s.setMe b).me = b := by
  show ((s.setMe b).here).berth s.cb = b
  simp

theorem core_setMe_other (s : State) {k : Nat} (b : Berth) (h : k ≠ s.cur) : (s.setMe b).core k = s.core k :=
  core_setCore_other s _ h

/-! ## Fields of the part after `setCore` -/

@[simp] theorem cur_setCore (s : State) (n : Nat) (c : Core) : (s.setCore n c).cur = s.cur := rfl
@[simp] theorem cb_setCore (s : State) (n : Nat) (c : Core) : (s.setCore n c).cb = s.cb := rfl
@[simp] theorem mem_setCore (s : State) (n : Nat) (c : Core) : (s.setCore n c).mem = s.mem := rfl
@[simp] theorem tags_setCore (s : State) (n : Nat) (c : Core) : (s.setCore n c).tags = s.tags := rfl
@[simp] theorem units_setCore (s : State) (n : Nat) (c : Core) : (s.setCore n c).units = s.units := rfl
@[simp] theorem owners_setCore (s : State) (n : Nat) (c : Core) : (s.setCore n c).owners = s.owners := rfl
@[simp] theorem l2_setCore (s : State) (n : Nat) (c : Core) : (s.setCore n c).l2 = s.l2 := rfl
@[simp] theorem gtlb_setCore (s : State) (n : Nat) (c : Core) : (s.setCore n c).gtlb = s.gtlb := rfl
@[simp] theorem wcache_setCore (s : State) (n : Nat) (c : Core) : (s.setCore n c).wcache = s.wcache := rfl
@[simp] theorem tilAt_setCore (s : State) (n : Nat) (c : Core) : (s.setCore n c).tilAt = s.tilAt := rfl
@[simp] theorem skew_setCore (s : State) (n : Nat) (c : Core) : (s.setCore n c).skew = s.skew := rfl
@[simp] theorem resv_setCore (s : State) (n : Nat) (c : Core) : (s.setCore n c).resv = s.resv := rfl
@[simp] theorem barriers_setCore (s : State) (n : Nat) (c : Core) : (s.setCore n c).barriers = s.barriers := rfl
@[simp] theorem words_setCore (s : State) (n : Nat) (c : Core) : (s.setCore n c).words = s.words := rfl
@[simp] theorem slots_setCore (s : State) (n : Nat) (c : Core) : (s.setCore n c).slots = s.slots := rfl
@[simp] theorem kslotArg_setCore (s : State) (n : Nat) (c : Core) : (s.setCore n c).kslotArg = s.kslotArg := rfl
@[simp] theorem kslotErr_setCore (s : State) (n : Nat) (c : Core) : (s.setCore n c).kslotErr = s.kslotErr := rfl
@[simp] theorem kslotBusy_setCore (s : State) (n : Nat) (c : Core) : (s.setCore n c).kslotBusy = s.kslotBusy := rfl
@[simp] theorem l2Target_setCore (s : State) (n : Nat) (c : Core) : (s.setCore n c).l2Target = s.l2Target := rfl
@[simp] theorem l2Goal_setCore (s : State) (n : Nat) (c : Core) : (s.setCore n c).l2Goal = s.l2Goal := rfl
@[simp] theorem l2On_setCore (s : State) (n : Nat) (c : Core) : (s.setCore n c).l2On = s.l2On := rfl
@[simp] theorem l2Busy_setCore (s : State) (n : Nat) (c : Core) : (s.setCore n c).l2Busy = s.l2Busy := rfl
@[simp] theorem l2Cur_setCore (s : State) (n : Nat) (c : Core) : (s.setCore n c).l2Cur = s.l2Cur := rfl
@[simp] theorem l2Err_setCore (s : State) (n : Nat) (c : Core) : (s.setCore n c).l2Err = s.l2Err := rfl
@[simp] theorem ctxdir_setCore (s : State) (n : Nat) (c : Core) : (s.setCore n c).ctxdir = s.ctxdir := rfl
@[simp] theorem tlbis_setCore (s : State) (n : Nat) (c : Core) : (s.setCore n c).tlbis = s.tlbis := rfl
@[simp] theorem nextTlbi_setCore (s : State) (n : Nat) (c : Core) : (s.setCore n c).nextTlbi = s.nextTlbi := rfl
@[simp] theorem rep_setCore (s : State) (n : Nat) (c : Core) : (s.setCore n c).rep = s.rep := rfl
@[simp] theorem repApplied_setCore (s : State) (n : Nat) (c : Core) : (s.setCore n c).repApplied = s.repApplied := rfl
@[simp] theorem disp0_setCore (s : State) (n : Nat) (c : Core) : (s.setCore n c).disp0 = s.disp0 := rfl
@[simp] theorem disp1_setCore (s : State) (n : Nat) (c : Core) : (s.setCore n c).disp1 = s.disp1 := rfl
@[simp] theorem groups_setCore (s : State) (n : Nat) (c : Core) : (s.setCore n c).groups = s.groups := rfl
@[simp] theorem retSave_setCore (s : State) (n : Nat) (c : Core) : (s.setCore n c).retSave = s.retSave := rfl
@[simp] theorem tstate_setCore (s : State) (n : Nat) (c : Core) : (s.setCore n c).tstate = s.tstate := rfl
@[simp] theorem tbusy_setCore (s : State) (n : Nat) (c : Core) : (s.setCore n c).tbusy = s.tbusy := rfl
@[simp] theorem srallow_setCore (s : State) (n : Nat) (c : Core) : (s.setCore n c).srallow = s.srallow := rfl
@[simp] theorem dramsr_setCore (s : State) (n : Nat) (c : Core) : (s.setCore n c).dramsr = s.dramsr := rfl
@[simp] theorem bridge_setCore (s : State) (n : Nat) (c : Core) : (s.setCore n c).bridge = s.bridge := rfl
@[simp] theorem wakeSrc_setCore (s : State) (n : Nat) (c : Core) : (s.setCore n c).wakeSrc = s.wakeSrc := rfl
@[simp] theorem arm_setCore (s : State) (n : Nat) (c : Core) : (s.setCore n c).arm = s.arm := rfl
@[simp] theorem cascades_setCore (s : State) (n : Nat) (c : Core) : (s.setCore n c).cascades = s.cascades := rfl
@[simp] theorem portage_setCore (s : State) (n : Nat) (c : Core) : (s.setCore n c).portage = s.portage := rfl
@[simp] theorem silt_setCore (s : State) (n : Nat) (c : Core) : (s.setCore n c).silt = s.silt := rfl
@[simp] theorem mailbox_setCore (s : State) (n : Nat) (c : Core) : (s.setCore n c).mailbox = s.mailbox := rfl
@[simp] theorem window_setCore (s : State) (n : Nat) (c : Core) : (s.setCore n c).window = s.window := rfl
@[simp] theorem hostRing_setCore (s : State) (n : Nat) (c : Core) : (s.setCore n c).hostRing = s.hostRing := rfl
@[simp] theorem hostPending_setCore (s : State) (n : Nat) (c : Core) : (s.setCore n c).hostPending = s.hostPending := rfl
@[simp] theorem hostGot_setCore (s : State) (n : Nat) (c : Core) : (s.setCore n c).hostGot = s.hostGot := rfl
@[simp] theorem spdm_setCore (s : State) (n : Nat) (c : Core) : (s.setCore n c).spdm = s.spdm := rfl
@[simp] theorem keys_setCore (s : State) (n : Nat) (c : Core) : (s.setCore n c).keys = s.keys := rfl
@[simp] theorem tdi_setCore (s : State) (n : Nat) (c : Core) : (s.setCore n c).tdi = s.tdi := rfl
@[simp] theorem links_setCore (s : State) (n : Nat) (c : Core) : (s.setCore n c).links = s.links := rfl
@[simp] theorem peerOut_setCore (s : State) (n : Nat) (c : Core) : (s.setCore n c).peerOut = s.peerOut := rfl
@[simp] theorem saved_setCore (s : State) (n : Nat) (c : Core) : (s.setCore n c).saved = s.saved := rfl
@[simp] theorem binds_setCore (s : State) (n : Nat) (c : Core) : (s.setCore n c).binds = s.binds := rfl
@[simp] theorem cfg_setCore (s : State) (n : Nat) (c : Core) : (s.setCore n c).cfg = s.cfg := rfl
@[simp] theorem idKey_setCore (s : State) (n : Nat) (c : Core) : (s.setCore n c).idKey = s.idKey := rfl
@[simp] theorem boot_setCore (s : State) (n : Nat) (c : Core) : (s.setCore n c).boot = s.boot := rfl
@[simp] theorem time_setCore (s : State) (n : Nat) (c : Core) : (s.setCore n c).time = s.time := rfl
@[simp] theorem net_setCore (s : State) (n : Nat) (c : Core) : (s.setCore n c).net = s.net := rfl
@[simp] theorem agenda_setCore (s : State) (n : Nat) (c : Core) : (s.setCore n c).agenda = s.agenda := rfl
@[simp] theorem freeCtr_setCore (s : State) (n : Nat) (c : Core) : (s.setCore n c).freeCtr = s.freeCtr := rfl

/-! ## Fields of the part after `setHere` -/

@[simp] theorem cur_setHere (s : State) (c : Core) : (s.setHere c).cur = s.cur := rfl
@[simp] theorem cb_setHere (s : State) (c : Core) : (s.setHere c).cb = s.cb := rfl
@[simp] theorem mem_setHere (s : State) (c : Core) : (s.setHere c).mem = s.mem := rfl
@[simp] theorem tags_setHere (s : State) (c : Core) : (s.setHere c).tags = s.tags := rfl
@[simp] theorem units_setHere (s : State) (c : Core) : (s.setHere c).units = s.units := rfl
@[simp] theorem owners_setHere (s : State) (c : Core) : (s.setHere c).owners = s.owners := rfl
@[simp] theorem l2_setHere (s : State) (c : Core) : (s.setHere c).l2 = s.l2 := rfl
@[simp] theorem gtlb_setHere (s : State) (c : Core) : (s.setHere c).gtlb = s.gtlb := rfl
@[simp] theorem wcache_setHere (s : State) (c : Core) : (s.setHere c).wcache = s.wcache := rfl
@[simp] theorem tilAt_setHere (s : State) (c : Core) : (s.setHere c).tilAt = s.tilAt := rfl
@[simp] theorem skew_setHere (s : State) (c : Core) : (s.setHere c).skew = s.skew := rfl
@[simp] theorem resv_setHere (s : State) (c : Core) : (s.setHere c).resv = s.resv := rfl
@[simp] theorem barriers_setHere (s : State) (c : Core) : (s.setHere c).barriers = s.barriers := rfl
@[simp] theorem words_setHere (s : State) (c : Core) : (s.setHere c).words = s.words := rfl
@[simp] theorem slots_setHere (s : State) (c : Core) : (s.setHere c).slots = s.slots := rfl
@[simp] theorem kslotArg_setHere (s : State) (c : Core) : (s.setHere c).kslotArg = s.kslotArg := rfl
@[simp] theorem kslotErr_setHere (s : State) (c : Core) : (s.setHere c).kslotErr = s.kslotErr := rfl
@[simp] theorem kslotBusy_setHere (s : State) (c : Core) : (s.setHere c).kslotBusy = s.kslotBusy := rfl
@[simp] theorem l2Target_setHere (s : State) (c : Core) : (s.setHere c).l2Target = s.l2Target := rfl
@[simp] theorem l2Goal_setHere (s : State) (c : Core) : (s.setHere c).l2Goal = s.l2Goal := rfl
@[simp] theorem l2On_setHere (s : State) (c : Core) : (s.setHere c).l2On = s.l2On := rfl
@[simp] theorem l2Busy_setHere (s : State) (c : Core) : (s.setHere c).l2Busy = s.l2Busy := rfl
@[simp] theorem l2Cur_setHere (s : State) (c : Core) : (s.setHere c).l2Cur = s.l2Cur := rfl
@[simp] theorem l2Err_setHere (s : State) (c : Core) : (s.setHere c).l2Err = s.l2Err := rfl
@[simp] theorem ctxdir_setHere (s : State) (c : Core) : (s.setHere c).ctxdir = s.ctxdir := rfl
@[simp] theorem tlbis_setHere (s : State) (c : Core) : (s.setHere c).tlbis = s.tlbis := rfl
@[simp] theorem nextTlbi_setHere (s : State) (c : Core) : (s.setHere c).nextTlbi = s.nextTlbi := rfl
@[simp] theorem rep_setHere (s : State) (c : Core) : (s.setHere c).rep = s.rep := rfl
@[simp] theorem repApplied_setHere (s : State) (c : Core) : (s.setHere c).repApplied = s.repApplied := rfl
@[simp] theorem disp0_setHere (s : State) (c : Core) : (s.setHere c).disp0 = s.disp0 := rfl
@[simp] theorem disp1_setHere (s : State) (c : Core) : (s.setHere c).disp1 = s.disp1 := rfl
@[simp] theorem groups_setHere (s : State) (c : Core) : (s.setHere c).groups = s.groups := rfl
@[simp] theorem retSave_setHere (s : State) (c : Core) : (s.setHere c).retSave = s.retSave := rfl
@[simp] theorem tstate_setHere (s : State) (c : Core) : (s.setHere c).tstate = s.tstate := rfl
@[simp] theorem tbusy_setHere (s : State) (c : Core) : (s.setHere c).tbusy = s.tbusy := rfl
@[simp] theorem srallow_setHere (s : State) (c : Core) : (s.setHere c).srallow = s.srallow := rfl
@[simp] theorem dramsr_setHere (s : State) (c : Core) : (s.setHere c).dramsr = s.dramsr := rfl
@[simp] theorem bridge_setHere (s : State) (c : Core) : (s.setHere c).bridge = s.bridge := rfl
@[simp] theorem wakeSrc_setHere (s : State) (c : Core) : (s.setHere c).wakeSrc = s.wakeSrc := rfl
@[simp] theorem arm_setHere (s : State) (c : Core) : (s.setHere c).arm = s.arm := rfl
@[simp] theorem cascades_setHere (s : State) (c : Core) : (s.setHere c).cascades = s.cascades := rfl
@[simp] theorem portage_setHere (s : State) (c : Core) : (s.setHere c).portage = s.portage := rfl
@[simp] theorem silt_setHere (s : State) (c : Core) : (s.setHere c).silt = s.silt := rfl
@[simp] theorem mailbox_setHere (s : State) (c : Core) : (s.setHere c).mailbox = s.mailbox := rfl
@[simp] theorem window_setHere (s : State) (c : Core) : (s.setHere c).window = s.window := rfl
@[simp] theorem hostRing_setHere (s : State) (c : Core) : (s.setHere c).hostRing = s.hostRing := rfl
@[simp] theorem hostPending_setHere (s : State) (c : Core) : (s.setHere c).hostPending = s.hostPending := rfl
@[simp] theorem hostGot_setHere (s : State) (c : Core) : (s.setHere c).hostGot = s.hostGot := rfl
@[simp] theorem spdm_setHere (s : State) (c : Core) : (s.setHere c).spdm = s.spdm := rfl
@[simp] theorem keys_setHere (s : State) (c : Core) : (s.setHere c).keys = s.keys := rfl
@[simp] theorem tdi_setHere (s : State) (c : Core) : (s.setHere c).tdi = s.tdi := rfl
@[simp] theorem links_setHere (s : State) (c : Core) : (s.setHere c).links = s.links := rfl
@[simp] theorem peerOut_setHere (s : State) (c : Core) : (s.setHere c).peerOut = s.peerOut := rfl
@[simp] theorem saved_setHere (s : State) (c : Core) : (s.setHere c).saved = s.saved := rfl
@[simp] theorem binds_setHere (s : State) (c : Core) : (s.setHere c).binds = s.binds := rfl
@[simp] theorem cfg_setHere (s : State) (c : Core) : (s.setHere c).cfg = s.cfg := rfl
@[simp] theorem idKey_setHere (s : State) (c : Core) : (s.setHere c).idKey = s.idKey := rfl
@[simp] theorem boot_setHere (s : State) (c : Core) : (s.setHere c).boot = s.boot := rfl
@[simp] theorem time_setHere (s : State) (c : Core) : (s.setHere c).time = s.time := rfl
@[simp] theorem net_setHere (s : State) (c : Core) : (s.setHere c).net = s.net := rfl
@[simp] theorem agenda_setHere (s : State) (c : Core) : (s.setHere c).agenda = s.agenda := rfl
@[simp] theorem freeCtr_setHere (s : State) (c : Core) : (s.setHere c).freeCtr = s.freeCtr := rfl

/-! ## Fields of the part after `setMe` -/

@[simp] theorem cur_setMe (s : State) (b : Berth) : (s.setMe b).cur = s.cur := rfl
@[simp] theorem cb_setMe (s : State) (b : Berth) : (s.setMe b).cb = s.cb := rfl
@[simp] theorem mem_setMe (s : State) (b : Berth) : (s.setMe b).mem = s.mem := rfl
@[simp] theorem tags_setMe (s : State) (b : Berth) : (s.setMe b).tags = s.tags := rfl
@[simp] theorem units_setMe (s : State) (b : Berth) : (s.setMe b).units = s.units := rfl
@[simp] theorem owners_setMe (s : State) (b : Berth) : (s.setMe b).owners = s.owners := rfl
@[simp] theorem l2_setMe (s : State) (b : Berth) : (s.setMe b).l2 = s.l2 := rfl
@[simp] theorem gtlb_setMe (s : State) (b : Berth) : (s.setMe b).gtlb = s.gtlb := rfl
@[simp] theorem wcache_setMe (s : State) (b : Berth) : (s.setMe b).wcache = s.wcache := rfl
@[simp] theorem tilAt_setMe (s : State) (b : Berth) : (s.setMe b).tilAt = s.tilAt := rfl
@[simp] theorem skew_setMe (s : State) (b : Berth) : (s.setMe b).skew = s.skew := rfl
@[simp] theorem resv_setMe (s : State) (b : Berth) : (s.setMe b).resv = s.resv := rfl
@[simp] theorem barriers_setMe (s : State) (b : Berth) : (s.setMe b).barriers = s.barriers := rfl
@[simp] theorem words_setMe (s : State) (b : Berth) : (s.setMe b).words = s.words := rfl
@[simp] theorem slots_setMe (s : State) (b : Berth) : (s.setMe b).slots = s.slots := rfl
@[simp] theorem kslotArg_setMe (s : State) (b : Berth) : (s.setMe b).kslotArg = s.kslotArg := rfl
@[simp] theorem kslotErr_setMe (s : State) (b : Berth) : (s.setMe b).kslotErr = s.kslotErr := rfl
@[simp] theorem kslotBusy_setMe (s : State) (b : Berth) : (s.setMe b).kslotBusy = s.kslotBusy := rfl
@[simp] theorem l2Target_setMe (s : State) (b : Berth) : (s.setMe b).l2Target = s.l2Target := rfl
@[simp] theorem l2Goal_setMe (s : State) (b : Berth) : (s.setMe b).l2Goal = s.l2Goal := rfl
@[simp] theorem l2On_setMe (s : State) (b : Berth) : (s.setMe b).l2On = s.l2On := rfl
@[simp] theorem l2Busy_setMe (s : State) (b : Berth) : (s.setMe b).l2Busy = s.l2Busy := rfl
@[simp] theorem l2Cur_setMe (s : State) (b : Berth) : (s.setMe b).l2Cur = s.l2Cur := rfl
@[simp] theorem l2Err_setMe (s : State) (b : Berth) : (s.setMe b).l2Err = s.l2Err := rfl
@[simp] theorem ctxdir_setMe (s : State) (b : Berth) : (s.setMe b).ctxdir = s.ctxdir := rfl
@[simp] theorem tlbis_setMe (s : State) (b : Berth) : (s.setMe b).tlbis = s.tlbis := rfl
@[simp] theorem nextTlbi_setMe (s : State) (b : Berth) : (s.setMe b).nextTlbi = s.nextTlbi := rfl
@[simp] theorem rep_setMe (s : State) (b : Berth) : (s.setMe b).rep = s.rep := rfl
@[simp] theorem repApplied_setMe (s : State) (b : Berth) : (s.setMe b).repApplied = s.repApplied := rfl
@[simp] theorem disp0_setMe (s : State) (b : Berth) : (s.setMe b).disp0 = s.disp0 := rfl
@[simp] theorem disp1_setMe (s : State) (b : Berth) : (s.setMe b).disp1 = s.disp1 := rfl
@[simp] theorem groups_setMe (s : State) (b : Berth) : (s.setMe b).groups = s.groups := rfl
@[simp] theorem retSave_setMe (s : State) (b : Berth) : (s.setMe b).retSave = s.retSave := rfl
@[simp] theorem tstate_setMe (s : State) (b : Berth) : (s.setMe b).tstate = s.tstate := rfl
@[simp] theorem tbusy_setMe (s : State) (b : Berth) : (s.setMe b).tbusy = s.tbusy := rfl
@[simp] theorem srallow_setMe (s : State) (b : Berth) : (s.setMe b).srallow = s.srallow := rfl
@[simp] theorem dramsr_setMe (s : State) (b : Berth) : (s.setMe b).dramsr = s.dramsr := rfl
@[simp] theorem bridge_setMe (s : State) (b : Berth) : (s.setMe b).bridge = s.bridge := rfl
@[simp] theorem wakeSrc_setMe (s : State) (b : Berth) : (s.setMe b).wakeSrc = s.wakeSrc := rfl
@[simp] theorem arm_setMe (s : State) (b : Berth) : (s.setMe b).arm = s.arm := rfl
@[simp] theorem cascades_setMe (s : State) (b : Berth) : (s.setMe b).cascades = s.cascades := rfl
@[simp] theorem portage_setMe (s : State) (b : Berth) : (s.setMe b).portage = s.portage := rfl
@[simp] theorem silt_setMe (s : State) (b : Berth) : (s.setMe b).silt = s.silt := rfl
@[simp] theorem mailbox_setMe (s : State) (b : Berth) : (s.setMe b).mailbox = s.mailbox := rfl
@[simp] theorem window_setMe (s : State) (b : Berth) : (s.setMe b).window = s.window := rfl
@[simp] theorem hostRing_setMe (s : State) (b : Berth) : (s.setMe b).hostRing = s.hostRing := rfl
@[simp] theorem hostPending_setMe (s : State) (b : Berth) : (s.setMe b).hostPending = s.hostPending := rfl
@[simp] theorem hostGot_setMe (s : State) (b : Berth) : (s.setMe b).hostGot = s.hostGot := rfl
@[simp] theorem spdm_setMe (s : State) (b : Berth) : (s.setMe b).spdm = s.spdm := rfl
@[simp] theorem keys_setMe (s : State) (b : Berth) : (s.setMe b).keys = s.keys := rfl
@[simp] theorem tdi_setMe (s : State) (b : Berth) : (s.setMe b).tdi = s.tdi := rfl
@[simp] theorem links_setMe (s : State) (b : Berth) : (s.setMe b).links = s.links := rfl
@[simp] theorem peerOut_setMe (s : State) (b : Berth) : (s.setMe b).peerOut = s.peerOut := rfl
@[simp] theorem saved_setMe (s : State) (b : Berth) : (s.setMe b).saved = s.saved := rfl
@[simp] theorem binds_setMe (s : State) (b : Berth) : (s.setMe b).binds = s.binds := rfl
@[simp] theorem cfg_setMe (s : State) (b : Berth) : (s.setMe b).cfg = s.cfg := rfl
@[simp] theorem idKey_setMe (s : State) (b : Berth) : (s.setMe b).idKey = s.idKey := rfl
@[simp] theorem boot_setMe (s : State) (b : Berth) : (s.setMe b).boot = s.boot := rfl
@[simp] theorem time_setMe (s : State) (b : Berth) : (s.setMe b).time = s.time := rfl
@[simp] theorem net_setMe (s : State) (b : Berth) : (s.setMe b).net = s.net := rfl
@[simp] theorem agenda_setMe (s : State) (b : Berth) : (s.setMe b).agenda = s.agenda := rfl
@[simp] theorem freeCtr_setMe (s : State) (b : Berth) : (s.setMe b).freeCtr = s.freeCtr := rfl

/-! ## Fields of a core after `setBerth` -/

@[simp] theorem power_setBerth (c : Core) (i : Nat) (b : Berth) : (c.setBerth i b).power = c.power := by
  unfold Core.setBerth; split <;> rfl
@[simp] theorem away_setBerth (c : Core) (i : Nat) (b : Berth) : (c.setBerth i b).away = c.away := by
  unfold Core.setBerth; split <;> rfl
@[simp] theorem guestAge_setBerth (c : Core) (i : Nat) (b : Berth) : (c.setBerth i b).guestAge = c.guestAge := by
  unfold Core.setBerth; split <;> rfl
@[simp] theorem idle0_setBerth (c : Core) (i : Nat) (b : Berth) : (c.setBerth i b).idle0 = c.idle0 := by
  unfold Core.setBerth; split <;> rfl
@[simp] theorem ctxid_setBerth (c : Core) (i : Nat) (b : Berth) : (c.setBerth i b).ctxid = c.ctxid := by
  unfold Core.setBerth; split <;> rfl
@[simp] theorem rank_setBerth (c : Core) (i : Nat) (b : Berth) : (c.setBerth i b).rank = c.rank := by
  unfold Core.setBerth; split <;> rfl
@[simp] theorem tvec_setBerth (c : Core) (i : Nat) (b : Berth) : (c.setBerth i b).tvec = c.tvec := by
  unfold Core.setBerth; split <;> rfl
@[simp] theorem ksavea_setBerth (c : Core) (i : Nat) (b : Berth) : (c.setBerth i b).ksavea = c.ksavea := by
  unfold Core.setBerth; split <;> rfl
@[simp] theorem ksaveb_setBerth (c : Core) (i : Nat) (b : Berth) : (c.setBerth i b).ksaveb = c.ksaveb := by
  unfold Core.setBerth; split <;> rfl
@[simp] theorem tags_setBerth (c : Core) (i : Nat) (b : Berth) : (c.setBerth i b).tags = c.tags := by
  unfold Core.setBerth; split <;> rfl
@[simp] theorem tagOrder_setBerth (c : Core) (i : Nat) (b : Berth) : (c.setBerth i b).tagOrder = c.tagOrder := by
  unfold Core.setBerth; split <;> rfl
@[simp] theorem copyStatus_setBerth (c : Core) (i : Nat) (b : Berth) : (c.setBerth i b).copyStatus = c.copyStatus := by
  unfold Core.setBerth; split <;> rfl
@[simp] theorem geom_setBerth (c : Core) (i : Nat) (b : Berth) : (c.setBerth i b).geom = c.geom := by
  unfold Core.setBerth; split <;> rfl
@[simp] theorem tapen_setBerth (c : Core) (i : Nat) (b : Berth) : (c.setBerth i b).tapen = c.tapen := by
  unfold Core.setBerth; split <;> rfl
@[simp] theorem dispCur_setBerth (c : Core) (i : Nat) (b : Berth) : (c.setBerth i b).dispCur = c.dispCur := by
  unfold Core.setBerth; split <;> rfl
@[simp] theorem den_setBerth (c : Core) (i : Nat) (b : Berth) : (c.setBerth i b).den = c.den := by
  unfold Core.setBerth; split <;> rfl
@[simp] theorem noguest_setBerth (c : Core) (i : Nat) (b : Berth) : (c.setBerth i b).noguest = c.noguest := by
  unfold Core.setBerth; split <;> rfl
@[simp] theorem ready_setBerth (c : Core) (i : Nat) (b : Berth) : (c.setBerth i b).ready = c.ready := by
  unfold Core.setBerth; split <;> rfl
@[simp] theorem hold_setBerth (c : Core) (i : Nat) (b : Berth) : (c.setBerth i b).hold = c.hold := by
  unfold Core.setBerth; split <;> rfl
@[simp] theorem inbox_setBerth (c : Core) (i : Nat) (b : Berth) : (c.setBerth i b).inbox = c.inbox := by
  unfold Core.setBerth; split <;> rfl
@[simp] theorem urgent_setBerth (c : Core) (i : Nat) (b : Berth) : (c.setBerth i b).urgent = c.urgent := by
  unfold Core.setBerth; split <;> rfl
@[simp] theorem ovfTail_setBerth (c : Core) (i : Nat) (b : Berth) : (c.setBerth i b).ovfTail = c.ovfTail := by
  unfold Core.setBerth; split <;> rfl
@[simp] theorem ovfHead_setBerth (c : Core) (i : Nat) (b : Berth) : (c.setBerth i b).ovfHead = c.ovfHead := by
  unfold Core.setBerth; split <;> rfl
@[simp] theorem ovfSize_setBerth (c : Core) (i : Nat) (b : Berth) : (c.setBerth i b).ovfSize = c.ovfSize := by
  unfold Core.setBerth; split <;> rfl
@[simp] theorem ovfBase_setBerth (c : Core) (i : Nat) (b : Berth) : (c.setBerth i b).ovfBase = c.ovfBase := by
  unfold Core.setBerth; split <;> rfl
@[simp] theorem ovfEn_setBerth (c : Core) (i : Nat) (b : Berth) : (c.setBerth i b).ovfEn = c.ovfEn := by
  unfold Core.setBerth; split <;> rfl
@[simp] theorem ports_setBerth (c : Core) (i : Nat) (b : Berth) : (c.setBerth i b).ports = c.ports := by
  unfold Core.setBerth; split <;> rfl
@[simp] theorem absent_setBerth (c : Core) (i : Nat) (b : Berth) : (c.setBerth i b).absent = c.absent := by
  unfold Core.setBerth; split <;> rfl
@[simp] theorem pendSync_setBerth (c : Core) (i : Nat) (b : Berth) : (c.setBerth i b).pendSync = c.pendSync := by
  unfold Core.setBerth; split <;> rfl
@[simp] theorem wakeSrc_setBerth (c : Core) (i : Nat) (b : Berth) : (c.setBerth i b).wakeSrc = c.wakeSrc := by
  unfold Core.setBerth; split <;> rfl
@[simp] theorem preempt_setBerth (c : Core) (i : Nat) (b : Berth) : (c.setBerth i b).preempt = c.preempt := by
  unfold Core.setBerth; split <;> rfl
@[simp] theorem recalled_setBerth (c : Core) (i : Nat) (b : Berth) : (c.setBerth i b).recalled = c.recalled := by
  unfold Core.setBerth; split <;> rfl
@[simp] theorem atNi_setBerth (c : Core) (i : Nat) (b : Berth) : (c.setBerth i b).atNi = c.atNi := by
  unfold Core.setBerth; split <;> rfl
@[simp] theorem engine_setBerth (c : Core) (i : Nat) (b : Berth) : (c.setBerth i b).engine = c.engine := by
  unfold Core.setBerth; split <;> rfl
@[simp] theorem fifo_setBerth (c : Core) (i : Nat) (b : Berth) : (c.setBerth i b).fifo = c.fifo := by
  unfold Core.setBerth; split <;> rfl
@[simp] theorem nextCopy_setBerth (c : Core) (i : Nat) (b : Berth) : (c.setBerth i b).nextCopy = c.nextCopy := by
  unfold Core.setBerth; split <;> rfl
@[simp] theorem l1_setBerth (c : Core) (i : Nat) (b : Berth) : (c.setBerth i b).l1 = c.l1 := by
  unfold Core.setBerth; split <;> rfl
@[simp] theorem icache_setBerth (c : Core) (i : Nat) (b : Berth) : (c.setBerth i b).icache = c.icache := by
  unfold Core.setBerth; split <;> rfl
@[simp] theorem tlb_setBerth (c : Core) (i : Nat) (b : Berth) : (c.setBerth i b).tlb = c.tlb := by
  unfold Core.setBerth; split <;> rfl
@[simp] theorem rankCache_setBerth (c : Core) (i : Nat) (b : Berth) : (c.setBerth i b).rankCache = c.rankCache := by
  unfold Core.setBerth; split <;> rfl
@[simp] theorem epoch_setBerth (c : Core) (i : Nat) (b : Berth) : (c.setBerth i b).epoch = c.epoch := by
  unfold Core.setBerth; split <;> rfl
@[simp] theorem tlbiAck_setBerth (c : Core) (i : Nat) (b : Berth) : (c.setBerth i b).tlbiAck = c.tlbiAck := by
  unfold Core.setBerth; split <;> rfl
@[simp] theorem tlbiCopies_setBerth (c : Core) (i : Nat) (b : Berth) : (c.setBerth i b).tlbiCopies = c.tlbiCopies := by
  unfold Core.setBerth; split <;> rfl
@[simp] theorem unacked_setBerth (c : Core) (i : Nat) (b : Berth) : (c.setBerth i b).unacked = c.unacked := by
  unfold Core.setBerth; split <;> rfl
@[simp] theorem heldPkts_setBerth (c : Core) (i : Nat) (b : Berth) : (c.setBerth i b).heldPkts = c.heldPkts := by
  unfold Core.setBerth; split <;> rfl
@[simp] theorem bridgeHeld_setBerth (c : Core) (i : Nat) (b : Berth) : (c.setBerth i b).bridgeHeld = c.bridgeHeld := by
  unfold Core.setBerth; split <;> rfl
@[simp] theorem probes_setBerth (c : Core) (i : Nat) (b : Berth) : (c.setBerth i b).probes = c.probes := by
  unfold Core.setBerth; split <;> rfl
@[simp] theorem poolTag_setBerth (c : Core) (i : Nat) (b : Berth) : (c.setBerth i b).poolTag = c.poolTag := by
  unfold Core.setBerth; split <;> rfl
@[simp] theorem poolNew_setBerth (c : Core) (i : Nat) (b : Berth) : (c.setBerth i b).poolNew = c.poolNew := by
  unfold Core.setBerth; split <;> rfl
@[simp] theorem ring_setBerth (c : Core) (i : Nat) (b : Berth) : (c.setBerth i b).ring = c.ring := by
  unfold Core.setBerth; split <;> rfl
@[simp] theorem ringStopped_setBerth (c : Core) (i : Nat) (b : Berth) : (c.setBerth i b).ringStopped = c.ringStopped := by
  unfold Core.setBerth; split <;> rfl
@[simp] theorem freezeF_setBerth (c : Core) (i : Nat) (b : Berth) : (c.setBerth i b).freezeF = c.freezeF := by
  unfold Core.setBerth; split <;> rfl
@[simp] theorem sent_setBerth (c : Core) (i : Nat) (b : Berth) : (c.setBerth i b).sent = c.sent := by
  unfold Core.setBerth; split <;> rfl
@[simp] theorem received_setBerth (c : Core) (i : Nat) (b : Berth) : (c.setBerth i b).received = c.received := by
  unfold Core.setBerth; split <;> rfl
@[simp] theorem gangPanels_setBerth (c : Core) (i : Nat) (b : Berth) : (c.setBerth i b).gangPanels = c.gangPanels := by
  unfold Core.setBerth; split <;> rfl
@[simp] theorem stoppedBy_setBerth (c : Core) (i : Nat) (b : Berth) : (c.setBerth i b).stoppedBy = c.stoppedBy := by
  unfold Core.setBerth; split <;> rfl
@[simp] theorem lastB_setBerth (c : Core) (i : Nat) (b : Berth) : (c.setBerth i b).lastB = c.lastB := by
  unfold Core.setBerth; split <;> rfl
@[simp] theorem machine_setBerth (c : Core) (i : Nat) (b : Berth) : (c.setBerth i b).machine = c.machine := by
  unfold Core.setBerth; split <;> rfl
@[simp] theorem entryFence_setBerth (c : Core) (i : Nat) (b : Berth) : (c.setBerth i b).entryFence = c.entryFence := by
  unfold Core.setBerth; split <;> rfl

/-! ## Registers -/

/-- R204: g0 reads as 0 and DATA. -/
@[simp] theorem getG_zero (b : Berth) : b.getG 0 = GReg.zero := rfl

/-- R204: a write of g0 changes nothing. -/
@[simp] theorem setG_zero (b : Berth) (r : GReg) : b.setG 0 r = b := rfl

theorem getG_setG_same (b : Berth) {n : BitVec 6} (r : GReg) (h : n ≠ 0) : (b.setG n r).getG n = r := by
  unfold Berth.getG Berth.setG
  rw [if_neg h, if_neg h]
  simp

theorem getG_setG_other (b : Berth) {n m : BitVec 6} (r : GReg) (h : m ≠ n) : (b.setG n r).getG m = b.getG m := by
  unfold Berth.getG Berth.setG
  split
  · rfl
  · split
    · rfl
    · have : n.toNat ≠ m.toNat := fun e => h (BitVec.eq_of_toNat_eq e.symm)
      simp [this]

@[simp] theorem getV_setV_same (b : Berth) (n : BitVec 5) (x : BitVec 512) : (b.setV n x).getV n = ⟨x, true⟩ := by
  simp [Berth.getV, Berth.setV]

theorem getV_setV_other (b : Berth) {n m : BitVec 5} (x : BitVec 512) (h : m ≠ n) : (b.setV n x).getV m = b.getV m := by
  have : n.toNat ≠ m.toNat := fun e => h (BitVec.eq_of_toNat_eq e.symm)
  simp [Berth.getV, Berth.setV, this]

/-- R204: k0 reads as all ones. -/
@[simp] theorem getK_zero (b : Berth) : b.getK 0 = ⟨BitVec.allOnes 64, true⟩ := rfl

@[simp] theorem setK_zero (b : Berth) (x : Word) : b.setK 0 x = b := rfl

theorem getK_setK_same (b : Berth) {n : BitVec 2} (x : Word) (h : n ≠ 0) : (b.setK n x).getK n = ⟨x, true⟩ := by
  unfold Berth.getK Berth.setK
  rw [if_neg h, if_neg h]
  simp

theorem getK_setK_other (b : Berth) {n m : BitVec 2} (x : Word) (h : m ≠ n) : (b.setK n x).getK m = b.getK m := by
  unfold Berth.getK Berth.setK
  split
  · rfl
  · split
    · rfl
    · have : n.toNat ≠ m.toNat := fun e => h (BitVec.eq_of_toNat_eq e.symm)
      simp [this]

/-! ## Fields of a berth after `setG` -/

@[simp] theorem occupied_setG (b : Berth) (n : BitVec 6) (r : GReg) : (b.setG n r).occupied = b.occupied := by
  unfold Berth.setG; split <;> rfl
@[simp] theorem stopped_setG (b : Berth) (n : BitVec 6) (r : GReg) : (b.setG n r).stopped = b.stopped := by
  unfold Berth.setG; split <;> rfl
@[simp] theorem pc_setG (b : Berth) (n : BitVec 6) (r : GReg) : (b.setG n r).pc = b.pc := by
  unfold Berth.setG; split <;> rfl
@[simp] theorem v_setG (b : Berth) (n : BitVec 6) (r : GReg) : (b.setG n r).v = b.v := by
  unfold Berth.setG; split <;> rfl
@[simp] theorem k_setG (b : Berth) (n : BitVec 6) (r : GReg) : (b.setG n r).k = b.k := by
  unfold Berth.setG; split <;> rfl
@[simp] theorem ox_setG (b : Berth) (n : BitVec 6) (r : GReg) : (b.setG n r).ox = b.ox := by
  unfold Berth.setG; split <;> rfl
@[simp] theorem status_setG (b : Berth) (n : BitVec 6) (r : GReg) : (b.setG n r).status = b.status := by
  unfold Berth.setG; split <;> rfl
@[simp] theorem cause_setG (b : Berth) (n : BitVec 6) (r : GReg) : (b.setG n r).cause = b.cause := by
  unfold Berth.setG; split <;> rfl
@[simp] theorem epc_setG (b : Berth) (n : BitVec 6) (r : GReg) : (b.setG n r).epc = b.epc := by
  unfold Berth.setG; split <;> rfl
@[simp] theorem eval_setG (b : Berth) (n : BitVec 6) (r : GReg) : (b.setG n r).eval = b.eval := by
  unfold Berth.setG; split <;> rfl
@[simp] theorem timecmp_setG (b : Berth) (n : BitVec 6) (r : GReg) : (b.setG n r).timecmp = b.timecmp := by
  unfold Berth.setG; split <;> rfl
@[simp] theorem prio_setG (b : Berth) (n : BitVec 6) (r : GReg) : (b.setG n r).prio = b.prio := by
  unfold Berth.setG; split <;> rfl
@[simp] theorem mspill_setG (b : Berth) (n : BitVec 6) (r : GReg) : (b.setG n r).mspill = b.mspill := by
  unfold Berth.setG; split <;> rfl
@[simp] theorem vstat_setG (b : Berth) (n : BitVec 6) (r : GReg) : (b.setG n r).vstat = b.vstat := by
  unfold Berth.setG; split <;> rfl
@[simp] theorem arith_setG (b : Berth) (n : BitVec 6) (r : GReg) : (b.setG n r).arith = b.arith := by
  unfold Berth.setG; split <;> rfl
@[simp] theorem repst_setG (b : Berth) (n : BitVec 6) (r : GReg) : (b.setG n r).repst = b.repst := by
  unfold Berth.setG; split <;> rfl
@[simp] theorem seqOn_setG (b : Berth) (n : BitVec 6) (r : GReg) : (b.setG n r).seqOn = b.seqOn := by
  unfold Berth.setG; split <;> rfl
@[simp] theorem seqkey_setG (b : Berth) (n : BitVec 6) (r : GReg) : (b.setG n r).seqkey = b.seqkey := by
  unfold Berth.setG; split <;> rfl
@[simp] theorem seqtrap_setG (b : Berth) (n : BitVec 6) (r : GReg) : (b.setG n r).seqtrap = b.seqtrap := by
  unfold Berth.setG; split <;> rfl
@[simp] theorem lease_setG (b : Berth) (n : BitVec 6) (r : GReg) : (b.setG n r).lease = b.lease := by
  unfold Berth.setG; split <;> rfl
@[simp] theorem leaseAt_setG (b : Berth) (n : BitVec 6) (r : GReg) : (b.setG n r).leaseAt = b.leaseAt := by
  unfold Berth.setG; split <;> rfl
@[simp] theorem nrank_setG (b : Berth) (n : BitVec 6) (r : GReg) : (b.setG n r).nrank = b.nrank := by
  unfold Berth.setG; split <;> rfl
@[simp] theorem nberth_setG (b : Berth) (n : BitVec 6) (r : GReg) : (b.setG n r).nberth = b.nberth := by
  unfold Berth.setG; split <;> rfl
@[simp] theorem nnode_setG (b : Berth) (n : BitVec 6) (r : GReg) : (b.setG n r).nnode = b.nnode := by
  unfold Berth.setG; split <;> rfl
@[simp] theorem gang_setG (b : Berth) (n : BitVec 6) (r : GReg) : (b.setG n r).gang = b.gang := by
  unfold Berth.setG; split <;> rfl
@[simp] theorem launch_setG (b : Berth) (n : BitVec 6) (r : GReg) : (b.setG n r).launch = b.launch := by
  unfold Berth.setG; split <;> rfl
@[simp] theorem task_setG (b : Berth) (n : BitVec 6) (r : GReg) : (b.setG n r).task = b.task := by
  unfold Berth.setG; split <;> rfl
@[simp] theorem wait_setG (b : Berth) (n : BitVec 6) (r : GReg) : (b.setG n r).wait = b.wait := by
  unfold Berth.setG; split <;> rfl
@[simp] theorem rsp_setG (b : Berth) (n : BitVec 6) (r : GReg) : (b.setG n r).rsp = b.rsp := by
  unfold Berth.setG; split <;> rfl
@[simp] theorem fetched_setG (b : Berth) (n : BitVec 6) (r : GReg) : (b.setG n r).fetched = b.fetched := by
  unfold Berth.setG; split <;> rfl

/-! ## Fields of a berth after `setV` -/

@[simp] theorem occupied_setV (b : Berth) (n : BitVec 5) (x : BitVec 512) : (b.setV n x).occupied = b.occupied := rfl
@[simp] theorem stopped_setV (b : Berth) (n : BitVec 5) (x : BitVec 512) : (b.setV n x).stopped = b.stopped := rfl
@[simp] theorem pc_setV (b : Berth) (n : BitVec 5) (x : BitVec 512) : (b.setV n x).pc = b.pc := rfl
@[simp] theorem g_setV (b : Berth) (n : BitVec 5) (x : BitVec 512) : (b.setV n x).g = b.g := rfl
@[simp] theorem k_setV (b : Berth) (n : BitVec 5) (x : BitVec 512) : (b.setV n x).k = b.k := rfl
@[simp] theorem ox_setV (b : Berth) (n : BitVec 5) (x : BitVec 512) : (b.setV n x).ox = b.ox := rfl
@[simp] theorem status_setV (b : Berth) (n : BitVec 5) (x : BitVec 512) : (b.setV n x).status = b.status := rfl
@[simp] theorem cause_setV (b : Berth) (n : BitVec 5) (x : BitVec 512) : (b.setV n x).cause = b.cause := rfl
@[simp] theorem epc_setV (b : Berth) (n : BitVec 5) (x : BitVec 512) : (b.setV n x).epc = b.epc := rfl
@[simp] theorem eval_setV (b : Berth) (n : BitVec 5) (x : BitVec 512) : (b.setV n x).eval = b.eval := rfl
@[simp] theorem timecmp_setV (b : Berth) (n : BitVec 5) (x : BitVec 512) : (b.setV n x).timecmp = b.timecmp := rfl
@[simp] theorem prio_setV (b : Berth) (n : BitVec 5) (x : BitVec 512) : (b.setV n x).prio = b.prio := rfl
@[simp] theorem mspill_setV (b : Berth) (n : BitVec 5) (x : BitVec 512) : (b.setV n x).mspill = b.mspill := rfl
@[simp] theorem vstat_setV (b : Berth) (n : BitVec 5) (x : BitVec 512) : (b.setV n x).vstat = b.vstat := rfl
@[simp] theorem arith_setV (b : Berth) (n : BitVec 5) (x : BitVec 512) : (b.setV n x).arith = b.arith := rfl
@[simp] theorem repst_setV (b : Berth) (n : BitVec 5) (x : BitVec 512) : (b.setV n x).repst = b.repst := rfl
@[simp] theorem seqOn_setV (b : Berth) (n : BitVec 5) (x : BitVec 512) : (b.setV n x).seqOn = b.seqOn := rfl
@[simp] theorem seqkey_setV (b : Berth) (n : BitVec 5) (x : BitVec 512) : (b.setV n x).seqkey = b.seqkey := rfl
@[simp] theorem seqtrap_setV (b : Berth) (n : BitVec 5) (x : BitVec 512) : (b.setV n x).seqtrap = b.seqtrap := rfl
@[simp] theorem lease_setV (b : Berth) (n : BitVec 5) (x : BitVec 512) : (b.setV n x).lease = b.lease := rfl
@[simp] theorem leaseAt_setV (b : Berth) (n : BitVec 5) (x : BitVec 512) : (b.setV n x).leaseAt = b.leaseAt := rfl
@[simp] theorem nrank_setV (b : Berth) (n : BitVec 5) (x : BitVec 512) : (b.setV n x).nrank = b.nrank := rfl
@[simp] theorem nberth_setV (b : Berth) (n : BitVec 5) (x : BitVec 512) : (b.setV n x).nberth = b.nberth := rfl
@[simp] theorem nnode_setV (b : Berth) (n : BitVec 5) (x : BitVec 512) : (b.setV n x).nnode = b.nnode := rfl
@[simp] theorem gang_setV (b : Berth) (n : BitVec 5) (x : BitVec 512) : (b.setV n x).gang = b.gang := rfl
@[simp] theorem launch_setV (b : Berth) (n : BitVec 5) (x : BitVec 512) : (b.setV n x).launch = b.launch := rfl
@[simp] theorem task_setV (b : Berth) (n : BitVec 5) (x : BitVec 512) : (b.setV n x).task = b.task := rfl
@[simp] theorem wait_setV (b : Berth) (n : BitVec 5) (x : BitVec 512) : (b.setV n x).wait = b.wait := rfl
@[simp] theorem rsp_setV (b : Berth) (n : BitVec 5) (x : BitVec 512) : (b.setV n x).rsp = b.rsp := rfl
@[simp] theorem fetched_setV (b : Berth) (n : BitVec 5) (x : BitVec 512) : (b.setV n x).fetched = b.fetched := rfl

/-! ## Fields of a berth after `setK` -/

@[simp] theorem occupied_setK (b : Berth) (n : BitVec 2) (x : Word) : (b.setK n x).occupied = b.occupied := by
  unfold Berth.setK; split <;> rfl
@[simp] theorem stopped_setK (b : Berth) (n : BitVec 2) (x : Word) : (b.setK n x).stopped = b.stopped := by
  unfold Berth.setK; split <;> rfl
@[simp] theorem pc_setK (b : Berth) (n : BitVec 2) (x : Word) : (b.setK n x).pc = b.pc := by
  unfold Berth.setK; split <;> rfl
@[simp] theorem g_setK (b : Berth) (n : BitVec 2) (x : Word) : (b.setK n x).g = b.g := by
  unfold Berth.setK; split <;> rfl
@[simp] theorem v_setK (b : Berth) (n : BitVec 2) (x : Word) : (b.setK n x).v = b.v := by
  unfold Berth.setK; split <;> rfl
@[simp] theorem ox_setK (b : Berth) (n : BitVec 2) (x : Word) : (b.setK n x).ox = b.ox := by
  unfold Berth.setK; split <;> rfl
@[simp] theorem status_setK (b : Berth) (n : BitVec 2) (x : Word) : (b.setK n x).status = b.status := by
  unfold Berth.setK; split <;> rfl
@[simp] theorem cause_setK (b : Berth) (n : BitVec 2) (x : Word) : (b.setK n x).cause = b.cause := by
  unfold Berth.setK; split <;> rfl
@[simp] theorem epc_setK (b : Berth) (n : BitVec 2) (x : Word) : (b.setK n x).epc = b.epc := by
  unfold Berth.setK; split <;> rfl
@[simp] theorem eval_setK (b : Berth) (n : BitVec 2) (x : Word) : (b.setK n x).eval = b.eval := by
  unfold Berth.setK; split <;> rfl
@[simp] theorem timecmp_setK (b : Berth) (n : BitVec 2) (x : Word) : (b.setK n x).timecmp = b.timecmp := by
  unfold Berth.setK; split <;> rfl
@[simp] theorem prio_setK (b : Berth) (n : BitVec 2) (x : Word) : (b.setK n x).prio = b.prio := by
  unfold Berth.setK; split <;> rfl
@[simp] theorem mspill_setK (b : Berth) (n : BitVec 2) (x : Word) : (b.setK n x).mspill = b.mspill := by
  unfold Berth.setK; split <;> rfl
@[simp] theorem vstat_setK (b : Berth) (n : BitVec 2) (x : Word) : (b.setK n x).vstat = b.vstat := by
  unfold Berth.setK; split <;> rfl
@[simp] theorem arith_setK (b : Berth) (n : BitVec 2) (x : Word) : (b.setK n x).arith = b.arith := by
  unfold Berth.setK; split <;> rfl
@[simp] theorem repst_setK (b : Berth) (n : BitVec 2) (x : Word) : (b.setK n x).repst = b.repst := by
  unfold Berth.setK; split <;> rfl
@[simp] theorem seqOn_setK (b : Berth) (n : BitVec 2) (x : Word) : (b.setK n x).seqOn = b.seqOn := by
  unfold Berth.setK; split <;> rfl
@[simp] theorem seqkey_setK (b : Berth) (n : BitVec 2) (x : Word) : (b.setK n x).seqkey = b.seqkey := by
  unfold Berth.setK; split <;> rfl
@[simp] theorem seqtrap_setK (b : Berth) (n : BitVec 2) (x : Word) : (b.setK n x).seqtrap = b.seqtrap := by
  unfold Berth.setK; split <;> rfl
@[simp] theorem lease_setK (b : Berth) (n : BitVec 2) (x : Word) : (b.setK n x).lease = b.lease := by
  unfold Berth.setK; split <;> rfl
@[simp] theorem leaseAt_setK (b : Berth) (n : BitVec 2) (x : Word) : (b.setK n x).leaseAt = b.leaseAt := by
  unfold Berth.setK; split <;> rfl
@[simp] theorem nrank_setK (b : Berth) (n : BitVec 2) (x : Word) : (b.setK n x).nrank = b.nrank := by
  unfold Berth.setK; split <;> rfl
@[simp] theorem nberth_setK (b : Berth) (n : BitVec 2) (x : Word) : (b.setK n x).nberth = b.nberth := by
  unfold Berth.setK; split <;> rfl
@[simp] theorem nnode_setK (b : Berth) (n : BitVec 2) (x : Word) : (b.setK n x).nnode = b.nnode := by
  unfold Berth.setK; split <;> rfl
@[simp] theorem gang_setK (b : Berth) (n : BitVec 2) (x : Word) : (b.setK n x).gang = b.gang := by
  unfold Berth.setK; split <;> rfl
@[simp] theorem launch_setK (b : Berth) (n : BitVec 2) (x : Word) : (b.setK n x).launch = b.launch := by
  unfold Berth.setK; split <;> rfl
@[simp] theorem task_setK (b : Berth) (n : BitVec 2) (x : Word) : (b.setK n x).task = b.task := by
  unfold Berth.setK; split <;> rfl
@[simp] theorem wait_setK (b : Berth) (n : BitVec 2) (x : Word) : (b.setK n x).wait = b.wait := by
  unfold Berth.setK; split <;> rfl
@[simp] theorem rsp_setK (b : Berth) (n : BitVec 2) (x : Word) : (b.setK n x).rsp = b.rsp := by
  unfold Berth.setK; split <;> rfl
@[simp] theorem fetched_setK (b : Berth) (n : BitVec 2) (x : Word) : (b.setK n x).fetched = b.fetched := by
  unfold Berth.setK; split <;> rfl

/-! ## Fields of a berth after `advance` -/

@[simp] theorem occupied_advance (b : Berth) (n : Nat) : (b.advance n).occupied = b.occupied := by
  unfold Berth.advance; split <;> (try split) <;> (try split) <;> rfl
@[simp] theorem stopped_advance (b : Berth) (n : Nat) : (b.advance n).stopped = b.stopped := by
  unfold Berth.advance; split <;> (try split) <;> (try split) <;> rfl
@[simp] theorem g_advance (b : Berth) (n : Nat) : (b.advance n).g = b.g := by
  unfold Berth.advance; split <;> (try split) <;> (try split) <;> rfl
@[simp] theorem v_advance (b : Berth) (n : Nat) : (b.advance n).v = b.v := by
  unfold Berth.advance; split <;> (try split) <;> (try split) <;> rfl
@[simp] theorem k_advance (b : Berth) (n : Nat) : (b.advance n).k = b.k := by
  unfold Berth.advance; split <;> (try split) <;> (try split) <;> rfl
@[simp] theorem ox_advance (b : Berth) (n : Nat) : (b.advance n).ox = b.ox := by
  unfold Berth.advance; split <;> (try split) <;> (try split) <;> rfl
@[simp] theorem status_advance (b : Berth) (n : Nat) : (b.advance n).status = b.status := by
  unfold Berth.advance; split <;> (try split) <;> (try split) <;> rfl
@[simp] theorem cause_advance (b : Berth) (n : Nat) : (b.advance n).cause = b.cause := by
  unfold Berth.advance; split <;> (try split) <;> (try split) <;> rfl
@[simp] theorem epc_advance (b : Berth) (n : Nat) : (b.advance n).epc = b.epc := by
  unfold Berth.advance; split <;> (try split) <;> (try split) <;> rfl
@[simp] theorem eval_advance (b : Berth) (n : Nat) : (b.advance n).eval = b.eval := by
  unfold Berth.advance; split <;> (try split) <;> (try split) <;> rfl
@[simp] theorem timecmp_advance (b : Berth) (n : Nat) : (b.advance n).timecmp = b.timecmp := by
  unfold Berth.advance; split <;> (try split) <;> (try split) <;> rfl
@[simp] theorem prio_advance (b : Berth) (n : Nat) : (b.advance n).prio = b.prio := by
  unfold Berth.advance; split <;> (try split) <;> (try split) <;> rfl
@[simp] theorem mspill_advance (b : Berth) (n : Nat) : (b.advance n).mspill = b.mspill := by
  unfold Berth.advance; split <;> (try split) <;> (try split) <;> rfl
@[simp] theorem vstat_advance (b : Berth) (n : Nat) : (b.advance n).vstat = b.vstat := by
  unfold Berth.advance; split <;> (try split) <;> (try split) <;> rfl
@[simp] theorem arith_advance (b : Berth) (n : Nat) : (b.advance n).arith = b.arith := by
  unfold Berth.advance; split <;> (try split) <;> (try split) <;> rfl
@[simp] theorem seqkey_advance (b : Berth) (n : Nat) : (b.advance n).seqkey = b.seqkey := by
  unfold Berth.advance; split <;> (try split) <;> (try split) <;> rfl
@[simp] theorem seqtrap_advance (b : Berth) (n : Nat) : (b.advance n).seqtrap = b.seqtrap := by
  unfold Berth.advance; split <;> (try split) <;> (try split) <;> rfl
@[simp] theorem lease_advance (b : Berth) (n : Nat) : (b.advance n).lease = b.lease := by
  unfold Berth.advance; split <;> (try split) <;> (try split) <;> rfl
@[simp] theorem leaseAt_advance (b : Berth) (n : Nat) : (b.advance n).leaseAt = b.leaseAt := by
  unfold Berth.advance; split <;> (try split) <;> (try split) <;> rfl
@[simp] theorem nrank_advance (b : Berth) (n : Nat) : (b.advance n).nrank = b.nrank := by
  unfold Berth.advance; split <;> (try split) <;> (try split) <;> rfl
@[simp] theorem nberth_advance (b : Berth) (n : Nat) : (b.advance n).nberth = b.nberth := by
  unfold Berth.advance; split <;> (try split) <;> (try split) <;> rfl
@[simp] theorem nnode_advance (b : Berth) (n : Nat) : (b.advance n).nnode = b.nnode := by
  unfold Berth.advance; split <;> (try split) <;> (try split) <;> rfl
@[simp] theorem gang_advance (b : Berth) (n : Nat) : (b.advance n).gang = b.gang := by
  unfold Berth.advance; split <;> (try split) <;> (try split) <;> rfl
@[simp] theorem launch_advance (b : Berth) (n : Nat) : (b.advance n).launch = b.launch := by
  unfold Berth.advance; split <;> (try split) <;> (try split) <;> rfl
@[simp] theorem task_advance (b : Berth) (n : Nat) : (b.advance n).task = b.task := by
  unfold Berth.advance; split <;> (try split) <;> (try split) <;> rfl
@[simp] theorem wait_advance (b : Berth) (n : Nat) : (b.advance n).wait = b.wait := by
  unfold Berth.advance; split <;> (try split) <;> (try split) <;> rfl
@[simp] theorem rsp_advance (b : Berth) (n : Nat) : (b.advance n).rsp = b.rsp := by
  unfold Berth.advance; split <;> (try split) <;> (try split) <;> rfl
@[simp] theorem fetched_advance (b : Berth) (n : Nat) : (b.advance n).fetched = b.fetched := by
  unfold Berth.advance; split <;> (try split) <;> (try split) <;> rfl

/-- Outside a repetition an instruction advances the PC by its length (R213). -/
theorem advance_plain (b : Berth) (n : Nat) (h : b.repAct = false) : b.advance n = { b with pc := b.pc + w64 n } := by
  simp [Berth.advance, h]

@[simp] theorem getG_advance (b : Berth) (n : Nat) (m : BitVec 6) : (b.advance n).getG m = b.getG m := by
  simp [Berth.getG]

@[simp] theorem getV_advance (b : Berth) (n : Nat) (m : BitVec 5) : (b.advance n).getV m = b.getV m := by
  simp [Berth.getV]

@[simp] theorem getK_advance (b : Berth) (n : Nat) (m : BitVec 2) : (b.advance n).getK m = b.getK m := by
  simp [Berth.getK]

/-! ## Retiring -/

@[simp] theorem me_retire (s : State) (n : Nat) : (s.retire n).me = { s.me.advance n with wait := .none, rsp := [], fetched := none } := me_setMe s _

@[simp] theorem me_jump (s : State) (t : Word) : (s.jump t).me = { s.me with pc := t, wait := .none, rsp := [], fetched := none } := me_setMe s _

end Sys2Proof.Machine
end

