-- ==== Sys2Proof/Laws/Operands.lean ====
section
/-! SUPPORT. What an instruction does once its operands are there (State.ready), and when they are not. -/

namespace Sys2Proof.Machine

theorem emptyCheck_ok {b : Berth} : ∀ {l : List Src}, (l.all fun x => !b.isEmpty x) = true → emptyCheck b l = .ok ()
  | [], _ => rfl
  | x :: r, h => by
    simp only [List.all_cons, Bool.and_eq_true, Bool.not_eq_true'] at h
    simp only [emptyCheck, h.1]
    exact emptyCheck_ok h.2

theorem boundCheck_ok {s : State} : ∀ {l : List (Option Nat × Nat)},
    (∀ p c, (some p, c) ∈ l → (s.binding s.cur p).isSome = true) → boundCheck s l = .ok ()
  | [], _ => rfl
  | (none, _) :: r, h => boundCheck_ok (l := r) fun p c m => h p c (List.mem_cons_of_mem _ m)
  | (some p, c) :: r, h => by
    have h1 := h p c List.mem_cons_self
    have ih := boundCheck_ok (l := r) fun q d m => h q d (List.mem_cons_of_mem _ m)
    unfold boundCheck
    cases hb : s.binding s.cur p with
    | none => rw [hb] at h1; cases h1
    | some b => exact ih

/-- With its operands there, an instruction reads them (R202 to R208). -/
theorem operands_ready {s : State} {srcs : List Src} {dsts : List Dst} (h : s.ready srcs dsts = true) :
    operands s srcs dsts = .ok (s.readSrcs srcs []) := by
  simp only [State.ready, Bool.and_eq_true, Bool.or_eq_true] at h
  obtain ⟨⟨⟨⟨h1, h2⟩, h3⟩, h4⟩, _⟩ := h
  have he := emptyCheck_ok h1
  have hg : (!(popList srcs ++ pushList dsts).isEmpty && s.guest) = false := by
    rcases h2 with h2 | h2
    · rw [h2]; rfl
    · have : s.guest = false := by simp only [decide_eq_true_eq] at h2; simp [State.guest]; omega
      simp [this]
  have hb : boundCheck s (srcs.map (fun x => (x.port, x.code)) ++ dsts.map (fun x => (x.port, x.code))) = .ok () := by
    apply boundCheck_ok
    intro p c hm
    rw [List.all_eq_true] at h3
    apply h3
    simp only [List.mem_append, List.mem_map, Prod.mk.injEq] at hm
    simp only [List.mem_append, popList, pushList, List.mem_filterMap]
    rcases hm with ⟨x, hx, h5, _⟩ | ⟨x, hx, h5, _⟩
    · exact .inl ⟨x, hx, h5⟩
    · exact .inr ⟨x, hx, h5⟩
  unfold operands
  simp only [hg, he, hb, h4]
  cases (popList srcs ++ pushList dsts).isEmpty <;> rfl

/-- With its operands there, its results have room (R208). -/
theorem hasRoom_ready {s : State} {srcs : List Src} {dsts : List Dst} (h : s.ready srcs dsts = true) :
    hasRoom s dsts = true := by
  simp only [State.ready, Bool.and_eq_true] at h
  exact h.2

/-- An instruction whose own part succeeds is over. -/
theorem opTo_ready {s : State} {srcs : List Src} {dsts : List Dst} {len : Nat}
    {f : State → List Val → M (State × List Val × Option Word)} (h : s.ready srcs dsts = true) {t : State} {rs : List Val}
    {pc : Option Word} (hf : f s (s.readSrcs srcs []) = .ok (t, rs, pc)) :
    run s (opTo s srcs dsts len f) = .next (match pc with
      | none => t.finish srcs dsts rs len
      | some x => t.finishAt srcs dsts rs x) := by
  unfold opTo
  rw [operands_ready h]
  simp only [bind, Except.bind, hf, hasRoom_ready h, if_true]
  cases pc <;> rfl

/-- The same for an instruction that goes on at the next one. -/
theorem op_ready {s : State} {srcs : List Src} {dsts : List Dst} {len : Nat}
    {f : State → List Val → M (State × List Val)} (h : s.ready srcs dsts = true) {t : State} {rs : List Val}
    (hf : f s (s.readSrcs srcs []) = .ok (t, rs)) :
    run s (op s srcs dsts len f) = .next (t.finish srcs dsts rs len) := by
  unfold op
  exact opTo_ready h (pc := none) (by simp only [hf]; rfl)

/-- An instruction that only computes is over. -/
theorem pureOp_ready {s : State} {srcs : List Src} {dsts : List Dst} {len : Nat} {f : List Val → List Val}
    (h : s.ready srcs dsts = true) :
    pureOp s srcs dsts len f = .next (s.finish srcs dsts (f (s.readSrcs srcs [])) len) :=
  op_ready h rfl

/-- A trap of an instruction's own part is taken. -/
theorem opTo_trap {s : State} {srcs : List Src} {dsts : List Dst} {len : Nat}
    {f : State → List Val → M (State × List Val × Option Word)} (h : s.ready srcs dsts = true) {c : Cause} {v : Word}
    (hf : f s (s.readSrcs srcs []) = .error (.trap c v)) :
    run s (opTo s srcs dsts len f) = .next (s.takeSync c v) := by
  unfold opTo
  rw [operands_ready h]
  simp only [bind, Except.bind, hf]
  rfl

end Sys2Proof.Machine
end

