-- ==== Sys2Proof/Tests/Slice0.lean ====
section
/-! SUPPORT. Tests of the model: ill-formed instructions, decoding of words laid out from the spec's encodings, small steps whose results are
worked from the spec, and for the statements of Certificates/Slice0/Obligations.lean states that meet their hypotheses. -/

namespace Sys2Proof.Tests

open Sys2Proof Sys2Proof.Machine Sys2Proof.Claims

set_option Elab.async false

noncomputable section

/-! ## States -/

/-- Rill core 0 at an instruction of its berth `i`: B0 handles no entry of its own unless `i` is 0, B1 holds a thread; `f` and `g` fill
their registers, `h` the core. -/
def two (i : Nat) (f g : Berth → Berth) (h : Core → Core) : State :=
  { State.reset with
    cores := [(0x800, h { Core.reset with
      power := .run, idle0 := i != 0, b0 := f { Berth.kernel with pc := 0x10000 }
      b1 := g { Berth.kernel with pc := 0x10000, occupied := true, nnode := 0x800 } })]
    cur := 0x800, cb := i, boot := 1, tstate := 2, bridge := true, silt := { State.reset.silt with en := false } }

/-- B0 at an instruction. -/
def ks (f : Berth → Berth) : State := two 0 f id id

/-- B1 at an instruction. -/
def us (f : Berth → Berth) : State := two 1 id f id

/-- A berth with DATA values in g1, g2, … -/
def put (l : List Word) (b : Berth) : Berth :=
  l.zipIdx.foldl (fun b x => b.setG (BitVec.ofNat 6 (x.2 + 1)) (dataReg x.1)) b

/-- A berth with a capability in a g register. -/
def cap (n : BitVec 6) (v sh : Word) (b : Berth) : Berth := b.setG n ⟨v, sh, .cap⟩

/-- An address in the LM alias (R14). -/
def lm (o : Nat) : Word := BitVec.ofNat 64 (0xF80000000000 + o)

/-- The shadow of a capability over the whole LM alias, with every permission (R26 to R28). -/
def lmShadow : Word := 0x00018000000000FF

/-- The state after an instruction. -/
def after (i : Instr) (s : State) : State :=
  match exec i s with
  | .next t => t
  | _ => State.reset

/-- Words at offsets of core 0x800's LM. -/
def filled (l : List (Nat × Word)) (s : State) : State :=
  l.foldl (fun s x => s.putHome (lmLoc 0x800 x.1) x.2 tagData) s

/-- A g register's value after an instruction. -/
def gAfter (i : Instr) (s : State) (n : BitVec 6) : Word := ((after i s).me.getG n).val

/-- A computation succeeds, with a result that meets `p`. -/
def okAnd {e a : Type} (m : Except e a) (p : a → Bool) : Bool :=
  match m with
  | .ok x => p x
  | .error _ => false

/-- An access reaches memory of the core's own that meets `p`. -/
def reaches (s : State) (a : Need) (p : State → List (Piece × Loc) → Bool) : Bool :=
  match s.reach a with
  | some (u, l) => p u l
  | none => false

/-- An operation at a home reaches a word that meets `p`. -/
def homes (s : State) (a : Need) (p : State → Loc → Bool) : Bool :=
  match s.homeAt a with
  | some (u, k) => p u k
  | none => false

/-- A translation holds. -/
def someAnd {a : Type} (m : Option a) (p : a → Bool) : Bool :=
  match m with
  | some x => p x
  | none => false

/-- Context 0's rank table stands at 0x100000, and its rank `r` is on Rill core `c` (R102). -/
def ranked (r c : Nat) (s : State) : State :=
  let t := s.putHome (s.headerLoc 0 16) 0x100000 0
  t.putHome (t.rankLoc 0 r) (BitVec.ofNat 64 (2 ^ 63 + 2 ^ 18 + c)) 0

/-- Context 0's page tables map the page at 0x10000 to itself, for the kernel and with every access (R35, R37). -/
def paged (s : State) : State :=
  [(8, 0x1000), (0x1000, 0x2001), (0x2000, 0x3001), (0x3000, 0x4001), (0x4080, 0x1001F)].foldl
    (fun t x => t.putHome (physLoc false x.1 0 0) x.2 tagData) s

/-- A message of the executing berth for another core is under way (R137). -/
def sending (s : State) : State :=
  { s with net := [{ src := s.cur, dst := 0x801, ctx := 0, ranked := true, drank := 1, srank := 0, epoch := false, launch := none
                     body := .gport 0 ⟨5, 0, false, 0, s.cur, 0⟩, sender := s.cb }] }

/-- A message with a capability in its first pair. -/
def aMsg : Msg := ⟨lm 0, lmShadow, 3, 4, 3, 5, 0x801, 0, 0, false, 0⟩

/-- The Rill dispenser with one launch, whose record 0's successors are to be decremented. -/
def launched (f : Dispenser → Dispenser) : State :=
  (ranked 0 0 (ks id)).setDisp 1 (f { Dispenser.reset [0xFFFF] with
    en := true
    launches := [⟨2, 0, 0, 0, 1, ⟨0, 0, .data⟩, 0xF00000000000, 7, [], [], some (0, 0)⟩]
    ended := [(2, 0, [0xF00000000020])] })

/-- Words at LM offset 16, with tags. -/
def mem2 (x0 x1 : Word) (t : Nat) (s : State) : State :=
  (s.putHome (lmLoc 0x800 16) x0 t).putHome (lmLoc 0x800 24) x1 t

/-- A reservation of this thread, or one of another core's thread, on the granule at LM offset 16. -/
def held (mine : Bool) (s : State) : State :=
  let s := mem2 7 0xA000000000000000 2 s
  let k : Loc := lmLoc 0x800 16
  { s with resv := [{ gran := k.key, node := if mine then 0x800 else 0x801, berth := if mine then 0 else 1, holds := true,
                      waitNode := if mine then 0x800 else 0x801, waitBerth := if mine then 0 else 1,
                      va := (lm 16).toNat, size := 16, ctx := k.ctx, slot := k.slot }] }

/-- A barrier at LM offset 16: ARRIVE, EXPECT, BYTES, PHASE. -/
def bar (a e : Nat) (y p : Nat) (s : State) : State :=
  mem2 (BitVec.ofNat 64 (e * 2 ^ 32 + a)) (BitVec.ofNat 64 (0xB * 2 ^ 60 + p * 2 ^ 48 + y)) 2 s

/-- Torrent core 0x20 at an instruction of its B1. -/
def torrent (f : Core → Core) (h : State → State) : State :=
  h { us id with cur := 0x20, cores := [(0x20, f { (us (put [10000])).here with b1 := put [10000] (us id).here.b1 })] }

/-! ## Well-formedness: for each check a term that it refuses, and one at its edge -/

/-- No instruction of a list is well formed. -/
def illFormed (l : List Instr) : Bool := l.all fun i => !i.wellFormed

/-- Every instruction of a list is well formed. -/
def allWell (l : List Instr) : Bool := l.all fun i => i.wellFormed

theorem test_ill_integer : illFormed [.btag 1 0 3, .gclr 62 2, .gmap 1 5, .lrw 4 1 4] = true ∧
    allWell [.btag 1 0 2, .gclr 62 1, .gmap 1 4, .lrw 0 1 0, .lrw 4 1 5] = true := by decide +kernel
theorem test_ill_quads : illFormed [.copy 14 0, .copynb 1 15 0, .copyd 14 0, .copyc 14 0, .send 14 0 0, .recv 14 0, .recv 1 7, .recvnb 15 0,
      .recvnb 2 8, .eret 14, .rqpush 1 14, .rqpop 15, .cRecv 0] = true ∧
    allWell [.copy 13 0, .copynb 1 13 0, .copyd 13 0, .copyc 13 0, .send 13 0 1, .recv 13 51, .recvnb 1 8, .eret 13, .rqpush 1 13, .rqpop 13,
      .cRecv 7] = true := by decide +kernel
theorem test_ill_float : illFormed [.vfadd 1 1 1 3 0, .vfsub 1 1 1 3 0, .vfmul 1 1 1 3 0, .vfdiv 1 1 1 3 0, .vfmin 1 1 1 3 0, .vfmax 1 1 1 3 0,
      .vfabs 1 1 3 0, .vfneg 1 1 3 0, .vfsqrt 1 1 3 0, .vfrcp 1 1 3 0, .vfrsq 1 1 3 0, .vfexp2 1 1 3 0, .vflog2 1 1 3 0, .vfma 1 1 1 3 0,
      .vfms 1 1 1 3 0, .vfnma 1 1 1 3 0] = true := by decide +kernel
theorem test_ill_lanes : illFormed [.vceq 1 1 1 7 0, .vcne 1 1 1 7 0, .vclt 1 1 1 7 0, .vcle 1 1 1 7 0, .vrsum 1 1 7 0, .vrmin 1 1 7 0,
      .vrmax 1 1 7 0, .vperm 1 1 1 7 0, .vslide 1 1 0 7, .vbcast 1 1 7 0, .vext 1 1 0 7, .vext 1 1 64 0, .vins 1 1 0 7, .vins 1 1 8 3,
      .vrot 1 1 0 7, .vld 1 1 0 7 0, .vst 1 1 0 7 0, .vlds 1 1 1 7 0, .vsts 1 1 1 7 0, .vgath 1 1 1 7 0, .vscat 1 1 1 7 0, .vsel 1 1 1 7 0,
      .kpop 1 1 7] = true ∧ allWell [.vext 1 1 63 0, .vins 1 1 7 3] = true := by decide +kernel
theorem test_ill_conversions : illFormed [.vcvt 1 1 0 7 6 0, .vcvt 1 1 0 13 6 0, .vcvt 1 1 0 6 6 0, .vcvt 1 1 0 0 7 0, .vcvts 1 1 8 3 0, .vcvts 1 1 4 0 0,
      .vcvts 1 1 6 2 0, .vunpk3 1 1 0 3 0, .vunpk3 1 1 5 0 0, .vunpk3 1 1 20 2 0] = true ∧
    allWell [.vcvt 1 1 1 12 6 0, .vcvts 1 1 4 2 0, .vcvts 1 1 10 0 0, .vunpk3 1 1 4 0 0, .vunpk3 1 1 19 2 0] = true := by decide +kernel
theorem test_ill_system : illFormed [.tlbi 1 1 3, .tlbi 1 1 0, .tlbi 1 0 2] = true ∧ allWell [.tlbi 1 1 1, .tlbi 1 0 0, .tlbi 0 0 2] = true := by
  decide +kernel
theorem test_ill_nodes : illFormed [.coreStart 17, .trapEntry 0x400, .nmsgArrive 0 0x7FF, .migDepart 0x809 1 0, .waitValue 31 0 0] = true ∧
    allWell [.coreStart 16, .trapEntry 0x808, .nmsgArrive 0 0x3F0, .migDepart 0x800 1 0] = true := by decide +kernel

/-! ## Decoding: for every encoded row of spec/opcode_table.json a word laid out from its `match` and its fields -/

/-- Every word of a list decodes to the instruction beside it. -/
def decodes (l : List (Nat × Nat × Instr)) : Bool := l.all fun x => decodeTableWord x.1 x.2.1 == some x.2.2

theorem test_decode_integer_1 : decodes [
    (32, 0x7770808D, .add 35 29 55 1), (32, 0xEF118075, .sub 29 59 49 1), (32, 0x87728095, .and 37 33 55 1),
    (32, 0x2F338085, .or 33 11 51 1), (32, 0xA67480CD, .xor 51 41 39 1), (32, 0x1DD5804D, .andn 19 7 29 1),
    (32, 0x163680CD, .shl 51 5 35 1), (32, 0xB697800D, .shr 3 45 41 1), (32, 0xFD9880F5, .sar 61 63 25 1),
    (32, 0xA6F9809D, .rol 39 41 47 1), (32, 0x2E7A8005, .min 1 11 39 1), (32, 0x845B800D, .max 3 33 5 1),
    (32, 0x379C803D, .minu 15 13 57 1), (32, 0x71D8075, .maxu 29 1 49 1), (32, 0x765E80D5, .slt 53 29 37 1),
    (32, 0x84FF80A5, .sltu 41 33 15 1), (32, 0x7C1081AD, .mul 43 31 1 1), (32, 0x76918145, .mulh 17 29 41 1),
    (32, 0xFE3281FD, .mulhu 63 63 35 1), (32, 0xD45381B5, .mulhsu 45 53 5 1), (32, 0x5714813D, .div 15 21 49 1),
    (32, 0x4C158115, .divu 5 19 1 1), (32, 0xC4768165, .rem 25 49 7 1), (32, 0xDD378165, .remu 25 55 19 1),
    (32, 0xF4088105, .clz 1 61 1), (32, 0xAC098105, .ctz 1 43 1), (32, 0x340A81ED, .popc 59 13 1),
    (32, 0xC0B817D, .brev 31 3 1), (32, 0xFC0C81B5, .bswap 45 63 1), (32, 0x6C5D8194, .ilv2 37 27 5),
    (32, 0xA4DE81C4, .ilv3 49 41 13), (32, 0xAD158255, .addi 21 43 1301), (32, 0x4D558307, .andi 1 19 3413),
    (32, 0x6F0984ED, .ori 59 27 1801), (32, 0x24FD85B5, .xori 45 9 1277), (32, 0x4038674, .shli 29 1 3),
    (32, 0xCC1F872C, .shri 11 51 31), (32, 0xAC238834, .sari 13 43 35), (32, 0x76098937, .slti 13 29 3593),
    (32, 0xBF138A25, .sltui 9 47 1811)] = true := by decide +kernel

theorem test_decode_integer_2 : decodes [
    (32, 0xA4CB8B65, .lui 25 107723), (32, 0x65158C6F, .auipc 27 222485), (32, 0x34019047, .beq 17 13 3073),
    (32, 0xFFE791CF, .bne 51 63 4071), (32, 0x4FFD92E5, .blt 57 19 2045), (32, 0x34BF9367, .bge 25 13 3263),
    (32, 0xDE6994A7, .bltu 41 55 3689), (32, 0x1C2B95FD, .bgeu 63 7 1067), (32, 0x9C59645, .btag 17 1477 2),
    (32, 0x317979D, .dbnz 39 1815), (32, 0xD48D984D, .jal 19 119949), (32, 0x144D9915, .jalr 5 5 1101),
    (32, 0x95539A00, .rep 37 3 21), (32, 0x670A05C, .csetb 23 1 39), (32, 0x5E71A074, .csetbx 29 23 39),
    (32, 0x27D2A094, .candp 37 9 61), (32, 0x7F53A094, .cseta 37 31 53), (32, 0x2404A0DC, .cgetb 55 9),
    (32, 0x6405A02C, .cgett 11 25), (32, 0xA406A024, .cgetp 9 41), (32, 0x4C07A0EC, .ctod 59 19), (32, 0x3C00A1D4, .gtag 53 15),
    (32, 0x141A124, .gclr 9 20), (32, 0x32A134, .gmap 13 3), (16, 0x73F, .cMov 25 31), (16, 0x8FD, .cAdd 7 29),
    (16, 0xC65, .cSub 3 5), (16, 0x13A7, .cAnd 29 7), (16, 0x14B7, .cOr 5 23), (16, 0x1869, .cXor 3 9),
    (16, 0x1DA3, .cAddi 13 3), (16, 0x21BB, .cLi 13 27), (16, 0x27ED, .cShli 31 13), (16, 0x2A39, .cShri 17 25),
    (16, 0x2EE5, .cSari 23 5), (16, 0x4275, .cBeqz 19 21), (16, 0x457D, .cBnez 11 29), (16, 0x4B49, .cJ 841),
    (16, 0x4FE0, .cJr 31), (16, 0x5000, .cRet)] = true := by decide +kernel

theorem test_decode_integer_3 : decodes [
    (16, 0x632B, .cGclr 25 11)] = true := by decide +kernel

theorem test_decode_memory_1 : decodes [
    (32, 0x2EF5A8A7, .ldb 41 11 3829), (32, 0x8CC9A9AF, .ldbu 43 35 3273), (32, 0x6787AA7F, .ldh 31 25 3975),
    (32, 0x15AFAB0D, .ldhu 3 5 1455), (32, 0x1C27AC87, .ldw 33 7 3111), (32, 0x44F5ADBF, .ldwu 47 17 3317),
    (32, 0x6507AE6F, .ldd 27 25 3335), (32, 0xE663AF7D, .ldc 31 57 1635), (32, 0x84B3B0EF, .stb 59 33 3251),
    (32, 0xFC47B125, .sth 9 63 1095), (32, 0x7E3DB2A7, .stw 41 31 3645), (32, 0x9E75B315, .std 5 39 1653),
    (32, 0x37ABB4ED, .stc 59 13 1963), (32, 0xBC11B515, .rld 5 47 1041), (32, 0x6DD0B63D, .ldx 15 27 29 1),
    (32, 0xCB1B64D, .stx 19 3 11 1), (32, 0x8650B700, .disc 33 37), (32, 0xFC90B815, .aadd 5 63 9 1),
    (32, 0x2791B877, .aand 29 9 57 3), (32, 0x56B2B8BF, .aor 47 21 43 3), (32, 0x8653B8F5, .axor 61 33 37 1),
    (32, 0x9434B8ED, .amin 59 37 3 1), (32, 0x7FB5B85F, .amax 23 31 59 3), (32, 0x4FD6B80D, .aminu 3 19 61 1),
    (32, 0x9E97B815, .amaxu 5 39 41 1), (32, 0x16F8B84D, .aswap 19 5 47 1), (32, 0x27F9B815, .acas 5 9 63 1),
    (32, 0x7630B95F, .aaddW 23 29 35 3), (32, 0xF91B9EF, .aandW 59 3 57 3), (32, 0xBED2B927, .aorW 9 47 45 3),
    (32, 0xF7B3B955, .axorW 21 61 59 1), (32, 0x16B4B97F, .aminW 31 5 43 3), (32, 0x1775B9DD, .amaxW 55 5 55 1),
    (32, 0xF736B907, .aminuW 1 61 51 3), (32, 0x7E57B907, .amaxuW 1 31 37 3), (32, 0xAD98B967, .aswapW 25 43 25 3),
    (32, 0x679B915, .acasW 5 1 39 1), (32, 0x1690BA01, .radd 5 41 1), (32, 0xFD11BA01, .rand 63 17 1),
    (32, 0x6EF2BA01, .ror 27 47 1)] = true := by decide +kernel

theorem test_decode_memory_2 : decodes [
    (32, 0x67B3BA01, .rxor 25 59 1), (32, 0xB654BA01, .rmin 45 37 1), (32, 0x75D5BA01, .rmax 29 29 1),
    (32, 0x8C56BA01, .rminu 35 5 1), (32, 0xC617BA01, .rmaxu 49 33 1), (32, 0xC670BCAC, .loga 43 49 39),
    (32, 0xEDF1BC00, .merge 59 31), (32, 0xBD0C, .fenceAcq 3), (32, 0xBD1D, .fenceRel 7), (32, 0xBD06, .fenceAr 1),
    (32, 0xBD0F, .fenceSc 3), (32, 0x4C90BE00, .waitge 19 9), (32, 0xAE71BE00, .waitne 43 39), (32, 0x3610BF00, .binit 13 33),
    (32, 0x2C01BFC4, .barr 49 11), (32, 0xE552BFAC, .bwait 43 57 21), (32, 0xEC03BF74, .baw 29 59),
    (32, 0x7F94BF00, .bexp 31 57), (32, 0x3C05BF00, .bkill 15), (32, 0x5406BF64, .bqry 25 21), (16, 0x30ED, .cLdd 7 13),
    (16, 0x36B5, .cStd 21 21), (16, 0x3B21, .cLdw 25 1), (16, 0x3C67, .cStw 3 7)] = true := by decide +kernel

theorem test_decode_system : decodes [
    (32, 0x4E78BA00, .rfadd 19 39), (32, 0x14C0BB24, .lrw 9 5 12), (32, 0x3FD1BBB4, .sch 45 15 61),
    (32, 0x1C02BB7C, .relq 31 7), (32, 0x3400F000, .trap 13), (32, 0x5001F000, .eret 5), (32, 0xA192F08C, .srr 35 2585),
    (32, 0xA373F034, .srw 13 2615), (32, 0x8794F034, .srx 13 2169), (32, 0xDC05F00C, .oxw 55 3), (32, 0x9C06F000, .sleep 39),
    (32, 0x7F094, .time 37), (32, 0x5008F024, .rqpush 9 5), (32, 0x9F050, .rqpop 5), (32, 0xAF0EC, .rqpeek 59),
    (32, 0xBE9BF000, .gsave 47 41), (32, 0xCD7CF000, .grst 51 23), (32, 0xDF01C, .ifence 7), (32, 0x2D5EF004, .tlbi 11 21 1),
    (32, 0x50BFF000, .brk 1291), (32, 0xE7B0F100, .silt 57 59), (32, 0x3401F134, .lease 13 13)] = true := by decide +kernel

theorem test_decode_messages : decodes [
    (32, 0x5110C000, .copy 5 17), (32, 0x5291C06C, .copynb 27 5 41), (32, 0x5332C000, .copyd 5 51),
    (32, 0x53B3C000, .copyc 5 59), (32, 0x3400C1E5, .twany 57 13 1), (32, 0x6401C13D, .twall 15 25 1),
    (32, 0xEC02C155, .tff 21 59 1), (32, 0x2403C100, .tclr 9), (32, 0x2404C17C, .tget 31 9), (32, 0x5350C201, .send 5 53 1),
    (32, 0x281C250, .recv 5 40), (32, 0x282C250, .recvnb 5 40), (32, 0xF403C2FC, .inq 63 61), (32, 0x4400C300, .migrate 17),
    (32, 0x1C300, .home), (32, 0x2C3D4, .rank 53), (32, 0x2C70C400, .portb 11 7), (32, 0x7401C47C, .portq 31 29),
    (32, 0x47B0C534, .launch 13 17 59), (32, 0x1C500, .texit), (32, 0x2C500, .tyield), (32, 0xD403C500, .lbnd 53),
    (16, 0x5580, .cRecv 3), (16, 0x5877, .cTff 3 23), (16, 0x5E35, .cTwany 17 21)] = true := by decide +kernel

theorem test_decode_vectors_1 : decodes [
    (32, 0x6B43D08A, .vadd 17 13 13 2 3), (32, 0xAAC7D0DA, .vsub 27 21 11 2 3), (32, 0xFCC9D05A, .vmul 11 31 19 2 1),
    (32, 0xD84DD0DA, .vmin 27 27 1 2 1), (32, 0xD53D04A, .vmax 9 1 21 2 3), (32, 0x5A57D0CA, .vand 25 11 9 2 3),
    (32, 0xD59D06A, .vor 13 1 21 2 1), (32, 0x385FD0DA, .vxor 27 7 1 2 3), (32, 0x3E61D0CA, .vshl 25 7 25 2 1),
    (32, 0xFD65D07A, .vshr 15 31 21 2 1), (32, 0xAC6BD0AA, .vsar 21 21 17 2 3), (32, 0x5FEDD0AA, .vsadd 21 11 31 2 1),
    (32, 0x3EF1D04A, .vssub 9 7 27 2 1), (32, 0xB835D0CA, .vabs 25 23 2 1), (32, 0x8DC1D12E, .vfadd 5 17 23 2 1),
    (32, 0x4E45D18E, .vfsub 17 9 25 2 1), (32, 0xFC4BD19E, .vfmul 19 31 17 2 3), (32, 0xC94DD1DE, .vfdiv 27 25 5 2 1),
    (32, 0xBF51D11E, .vfmin 3 23 29 2 1), (32, 0xEF57D16E, .vfmax 13 29 29 2 3), (32, 0x7819D13E, .vfabs 7 15 2 1),
    (32, 0xE81FD10E, .vfneg 1 29 2 3), (32, 0x8823D1AE, .vfsqrt 21 17 2 3), (32, 0x8827D1DE, .vfrcp 27 17 2 3),
    (32, 0x5829D15E, .vfrsq 11 11 2 1), (32, 0xF82DD11E, .vfexp2 3 31 2 1), (32, 0xD833D1CE, .vflog2 25 27 2 3),
    (32, 0xEDC1D23E, .vfma 7 29 23 2 1), (32, 0xEB47D21E, .vfms 3 29 13 2 3), (32, 0x4C4BD2CE, .vfnma 25 9 17 2 3),
    (32, 0x5A4FD2BE, .vdot4 23 11 9 1 3), (32, 0xAC3D30A, .vceq 1 1 11 2 3), (32, 0x7AC7D30A, .vcne 1 15 11 2 3),
    (32, 0x4BCBD30A, .vclt 1 9 15 2 3), (32, 0xCECDD30A, .vcle 1 25 27 2 1), (32, 0x953D30A, .vcltu 1 1 5 2 3),
    (32, 0xCF55D30A, .vcleu 1 25 29 2 1), (32, 0xFE43D48A, .vcvt 17 31 1 9 2 3), (32, 0xAA45D4FE, .vcvts 31 21 9 2 1),
    (32, 0x7803D5FA, .vrsum 31 15 2 3)] = true := by decide +kernel

theorem test_decode_vectors_2 : decodes [
    (32, 0x1807D53A, .vrmin 7 3 2 3), (32, 0x880BD54A, .vrmax 9 17 2 3), (32, 0xBC43D62A, .vperm 5 23 17 2 3),
    (32, 0x8EC7D68A, .vslide 17 17 123 2), (32, 0x480BD66A, .vbcast 13 9 2 3), (32, 0xD94CD69A, .vext 19 27 5 2),
    (32, 0x4950D6FA, .vins 31 9 5 2), (32, 0x8A57D67A, .vrot 15 17 105 2), (32, 0x6C41D78A, .vld 17 13 17 2 1),
    (32, 0x9B45D78A, .vst 17 19 13 2 1), (32, 0xC4BD76A, .vlds 13 1 17 2 3), (32, 0xCFCFD71A, .vsts 3 25 31 2 3),
    (32, 0x1DD1D71A, .vgath 3 3 23 2 1), (32, 0x8BD5D7EA, .vscat 29 17 15 2 1), (32, 0xC8C1D84A, .vunpk3 9 25 3 2 1),
    (32, 0x7BC5D85A, .vtacc 11 15 15 1), (32, 0x6F43D9EA, .vsel 29 13 29 2 3), (32, 0x1844D918, .kand 3 3 1),
    (32, 0x848D908, .kor 1 1 1), (32, 0x8CCD908, .kxor 1 1 3), (32, 0x1810D908, .knot 1 3), (32, 0x814D9BA, .kpop 23 1 2)] = true := by decide +kernel

theorem test_decode_matrix : decodes [
    (32, 0xFC10E004, .mma 1 63 1), (32, 0x1E005, .mzero 1 1), (32, 0x3C02E005, .mld 1 15 1), (32, 0x4C13E00C, .mst 3 19 1),
    (32, 0x5C04E03C, .msave 15 23), (32, 0x9DF5E000, .mrst 39 31), (32, 0x6E01C, .gang 7), (32, 0x7C07E000, .mpf 31)] = true := by decide +kernel

theorem test_decode_sampling : decodes [
    (32, 0xBE50E81C, .smax 7 47 37), (32, 0xDE11E89C, .smass 39 55 33), (32, 0x112E8B4, .sdraw 45 17),
    (32, 0x36D3E884, .sloc 33 13 45), (32, 0xE5B4E804, .grmask 1 57 27), (32, 0x6695E86C, .grstep 27 25 41)] = true := by decide +kernel

theorem test_decode_taps : decodes [
    (32, 0xD616E89C, .tap 39 53 33), (32, 0x2E37E800, .tsteer 11 35)] = true := by decide +kernel

/-! ## Integer, control, capabilities -/

/-- For AluCompletes, AddSubCompletes, BitCountsComplete, ImmediatesComplete and BranchesComplete: their operands there. -/
theorem wit_IntegerOperations : (ks id).ready [.g 1, .g 2] [.g 3] = true ∧ (ks id).ready [.g 31, .g 0] [.g 0] = true := by
  decide +kernel

/-- Port registers as operands (R208): a value has arrived at PN, and PS is bound. -/
def portState : State :=
  two 1 id id fun c =>
    (c.setPort 0 { Port.empty with inq := [⟨5, 0, false, 0, 0, 0⟩], bind := .to ⟨false, 0, 0, 0⟩ }).setPort 1
      { Port.empty with bind := .to ⟨false, 0, 0, 0⟩ }

theorem wit_port_operands : portState.ready [.g 56, .g 1] [.g 57] = true := by decide +kernel

theorem test_port_add : (after (.addi 57 56 1) portState).here.ports[1].outq.map (·.val.val) = [6] ∧
    (after (.addi 57 56 1) portState).here.ports[0].inq = [] := by decide +kernel

theorem wit_DivisionRule : (ks (put [7, 0])).ready [.g 1, .g 2] [.g 3] = true ∧ (ks (put [7, 0])).wv [.g 1, .g 2] 1 = 0 := by decide +kernel

/-- The worked results of R264. -/
theorem test_div : gAfter (.div 3 1 2 0) (ks (put [-7, 2])) 3 = 0xFFFFFFFFFFFFFFFD := by decide +kernel
theorem test_rem : gAfter (.rem 3 1 2 0) (ks (put [-7, 2])) 3 = 0xFFFFFFFFFFFFFFFF := by decide +kernel
theorem test_divu_zero : gAfter (.divu 3 1 2 0) (ks (put [7, 0])) 3 = 0xFFFFFFFFFFFFFFFF := by decide +kernel
theorem test_remu_zero : gAfter (.remu 3 1 2 0) (ks (put [7, 0])) 3 = 7 := by decide +kernel
theorem test_div_w : gAfter (.div 3 1 2 1) (ks (put [0x80000000, 0xFFFFFFFF])) 3 = 0xFFFFFFFF80000000 := by decide +kernel
theorem test_rem_min : gAfter (.rem 3 1 2 0) (ks (put [0x8000000000000000, -1])) 3 = 0 := by decide +kernel

theorem test_add_wraps : gAfter (.add 3 1 2 0) (ks (put [0xFFFFFFFFFFFFFFFF, 2])) 3 = 1 := by decide +kernel
theorem test_sub_w : gAfter (.sub 3 1 2 1) (ks (put [0, 1])) 3 = 0xFFFFFFFFFFFFFFFF := by decide +kernel
theorem test_mulh : gAfter (.mulh 3 1 2 0) (ks (put [-1, 1])) 3 = 0xFFFFFFFFFFFFFFFF := by decide +kernel
theorem test_mulhu : gAfter (.mulhu 3 1 2 0) (ks (put [-1, -1])) 3 = 0xFFFFFFFFFFFFFFFE := by decide +kernel
theorem test_mulhsu : gAfter (.mulhsu 3 1 2 0) (ks (put [-1, -1])) 3 = 0xFFFFFFFFFFFFFFFF := by decide +kernel
theorem test_sar_w : gAfter (.sar 3 1 2 1) (ks (put [0x80000000, 33])) 3 = 0xFFFFFFFFC0000000 := by decide +kernel
theorem test_rol : gAfter (.rol 3 1 2 0) (ks (put [0x8000000000000001, 1])) 3 = 3 := by decide +kernel
theorem test_andn : gAfter (.andn 3 1 2 0) (ks (put [0xF, 0x5])) 3 = 0xA := by decide +kernel
theorem test_slt_sltu : gAfter (.slt 3 1 2 0) (ks (put [-1, 1])) 3 = 1 ∧ gAfter (.sltu 3 1 2 0) (ks (put [-1, 1])) 3 = 0 := by
  decide +kernel
theorem test_min_maxu : gAfter (.min 3 1 2 0) (ks (put [-1, 1])) 3 = -1 ∧ gAfter (.maxu 3 1 2 0) (ks (put [-1, 1])) 3 = -1 := by
  decide +kernel
theorem test_clz_w : gAfter (.clz 3 1 1) (ks (put [0xFFFFFFFF00000000])) 3 = 32 := by decide +kernel
theorem test_bswap_w : gAfter (.bswap 3 1 1) (ks (put [0x11223380])) 3 = 0xFFFFFFFF80332211 := by decide +kernel
theorem test_ilv2 : gAfter (.ilv2 3 1 2) (ks (put [1, 3])) 3 = 7 := by decide +kernel
theorem test_lui : gAfter (.lui 3 0x20000) (ks id) 3 = 0xFFFFFFFFE0000000 := by decide +kernel
theorem test_auipc : gAfter (.auipc 3 1) (ks id) 3 = 0x11000 := by decide +kernel
theorem test_cLi : gAfter (.cLi 3 0x1F) (ks id) 3 = -1 := by decide +kernel
theorem test_g0_discards : (after (.addi 0 1 5) (ks (put [7]))).me.getG 0 = ⟨0, 0, .data⟩ := by decide +kernel

/-- A sum keeps the CAP tag only when gA alone is CAP and the address stays representable (R262, R30). -/
theorem test_add_cap : ((after (.add 3 1 2 0) (ks (cap 1 (lm 0) lmShadow ∘ put [0, 8]))).me.getG 3) = ⟨lm 8, lmShadow, .cap⟩ ∧
    ((after (.sub 3 1 2 0) (ks (cap 1 (lm 0) lmShadow ∘ put [0, 8]))).me.getG 3).tag = .data := by decide +kernel

/-- For JumpsComplete and JalrTraps. -/
theorem wit_ControlFlow :
    (jumpAllowed ((ks (put [0x20000])).gv [.g 1] 0) 0x20000 ∧ (ks (put [0x20000])).ready [.g 1] [.g 1] = true) ∧
    ¬ jumpAllowed ((ks (put [0x20001])).gv [.g 1] 0) 0x20001 ∧ ¬ jumpAllowed ⟨lm 0, lmShadow &&& 0xFFFFFFFFFFFFFFFB, .cap⟩ (lm 0) ∧
    ¬ jumpAllowed ⟨0, 0, .data⟩ 0x1000000000000 := by unfold jumpAllowed; decide +kernel

theorem test_branch_back : (after (.blt 1 2 0xFFE) (ks (put [-1, 0]))).me.pc = 0xFFFC ∧
    (after (.bltu 1 2 0xFFE) (ks (put [-1, 0]))).me.pc = 0x10004 := by decide +kernel
theorem test_dbnz_g0 : (after (.dbnz 0 4) (ks id)).me.pc = 0x10008 := by decide +kernel
theorem test_jalr_same : (after (.jalr 1 1 2) (ks (put [0x20000]))).me.pc = 0x20002 ∧
    gAfter (.jalr 1 1 2) (ks (put [0x20000])) 1 = 0x10004 := by decide +kernel
theorem test_jalr_odd : (after (.jalr 1 1 1) (us (put [0x20000]))).here.b1.cause = 0x07 := by decide +kernel

/-- A REP of one body instruction, VFMA, three rounds. -/
def repState : State :=
  let s := State.reset.withFetchWord 64 0x2980D2260041_9A00
  { s with cur := 0x800, cb := 0, cores := s.cores.map fun p => (p.1, { p.2 with b0 := put [3] p.2.b0 }) }

/-- For RepCompletes. -/
theorem wit_Repetition : (bodyChecks repState 0x10004 1).toOption.isSome = true ∧ repState.ready [.g 1] [] = true ∧
    (ks (put [0x1000000])).ready [.g 1] [] = true ∧ 2 ^ 24 ≤ ((ks (put [0x1000000])).wv [.g 1] 0).toNat := by decide +kernel

theorem wit_RepSequencer : (after (.rep 1 0 4) repState).me.repAct = true ∧ (after (.rep 1 0 4) repState).me.repRem = 3 ∧
    (after (.rep 1 0 4) repState).me.pc = 0x10004 := by decide +kernel

/-- For SetBoundsComplete and CapabilityCompletes. -/
theorem wit_Capabilities :
    let s := ks (cap 1 (lm 16) lmShadow ∘ put [0, 32])
    s.ready [.g 1, .g 2] [.g 3] = true ∧ (s.gv [.g 1, .g 2] 0).tag = .cap ∧ capWell (s.gv [.g 1, .g 2] 0).sh = true ∧
      choice (lm 16).toNat 32 0 ∧ capBase (lm 16) lmShadow ≤ (lm 16).toNat ∧ ((lm 48).toNat : Int) ≤ capTop (lm 16) lmShadow := by
  unfold choice fits; decide +kernel

theorem wit_CapabilityTraps : (ks (cap 1 0 0x1F00)).ready [.g 1] [.g 3] = true ∧ capWell 0x1F00 = false := by decide +kernel

theorem test_csetb : (after (.csetb 3 1 2) (ks (cap 1 (lm 16) lmShadow ∘ put [0, 32]))).me.getG 3 =
    ⟨lm 16, 0x00000020000400FF, .cap⟩ := by decide +kernel
theorem test_cgett : gAfter (.cgett 3 1) (ks (cap 1 (lm 16) lmShadow)) 3 = lm 0x18000 := by decide +kernel
theorem test_candp : ((after (.candp 3 1 2) (ks (cap 1 (lm 0) lmShadow ∘ put [0, 3]))).me.getG 3).sh = 0x0001800000000003 := by
  decide +kernel
theorem test_csetb_data : (after (.csetb 3 1 2) (us id)).here.b1.cause = 0x04 ∧ (after (.csetb 3 1 2) (us id)).here.b1.eval = 1 := by
  decide +kernel

/-- For TagInstructionsComplete. -/
theorem wit_TagInstructions : (ks id).ready [] [.g 5] = true ∧ portState.ready [.g 56] [.g 3] = true := by decide +kernel
theorem test_gclr : ((after (.gclr 60 3) (ks id)).me.getG 62).tag = .empty ∧ (after (.gclr 60 3) (ks id)).me.isEmpty (.g 61) = false ∧
    ((after (.gclr 0 1) (ks id)).me.getG 1).tag = .empty := by decide +kernel
theorem test_gtag_empty : gAfter (.gtag 3 1) (after (.gclr 1 0) (ks id)) 3 = 2 := by decide +kernel
theorem test_emptyread : (after (.add 3 1 2 0) (after (.gclr 1 1) (us id))).here.b1.cause = 0x03 ∧
    (after (.add 3 1 2 0) (after (.gclr 1 1) (us id))).here.b1.eval = 1 := by decide +kernel

/-- R265's example. -/
theorem test_ilv3 : gAfter (.ilv3 40 41 42) (ks fun b => (b.setG 41 (dataReg 0x600005)).setG 42 (dataReg 6)) 40 = 0x15E := by decide +kernel

/-- R275's example: bounds rounded out, and refused by CSETBX. -/
theorem test_rounded : let s := us (cap 1 0x100000123 0x0002000000000803 ∘ put [0, 0x1000000])
    (after (.csetb 3 1 2) s).me.getG 3 = ⟨0x100000123, 0x0002000100008703, .cap⟩ ∧
    (after (.csetbx 3 1 2) s).here.b1.cause = 0x05 ∧ (after (.csetbx 3 1 2) s).here.b1.eval = 0x100000123 := by decide +kernel

/-! ## Memory -/

theorem wit_LoadsComplete : let s := ks (put [lm 17])
    s.ready [.g 1] [.g 3] = true ∧ (∀ e ∈ loadOps, (s.loads (loadAt (s.gv [.g 1] 0) 1 (s.wv [.g 1] 0) e.2.1)).isSome = true) ∧
      (let t := ks (put [lm 16, 8])
       (t.loads { loadAt (t.gv [.g 1] 0) 1 (t.wv [.g 1] 0) 8 with align := 8 }).isSome = true ∧ t.ready [.g 1, .g 2] [.g 0] = true ∧
        (t.loads (loadAt (t.gv [.g 1] 0) 1 (t.wv [.g 1] 0 + 8 <<< 3) 8)).isSome = true) ∧
      (let t := ks (put [0, lm 0x17FF8])
       t.ready [.g 2] [.g 31] = true ∧ (t.loads (loadAt (t.gv [.g 2] 0) 2 (t.wv [.g 2] 0) 8)).isSome = true ∧
        (t.loads (loadAt (t.gv [.g 2] 0) 2 (t.wv [.g 2] 0) 4)).isSome = true) := by decide +kernel

theorem wit_StoresComplete : let s := ks (put [lm 0x17FF8, 0, 7])
    s.ready [.g 1, .g 3] [] = true ∧
      (∀ e ∈ storeOps, (s.stores (storeAt (s.gv [.g 1] 0) 1 (s.wv [.g 1] 0) e.2) (7 % 256 ^ e.2)).isSome = true) ∧
      s.ready [.g 1, .g 2, .g 3] [] = true ∧
      (s.stores (storeAt (s.gv [.g 1] 0) 1 (s.wv [.g 1] 0 + 0 <<< 3) 8) 7).isSome = true ∧
      (let t := ks (put [0, lm 0x17FF8])
       t.ready [.g 2, .g 31] [] = true ∧ (t.stores (storeAt (t.gv [.g 2] 0) 2 (t.wv [.g 2] 0) 8) 0).isSome = true ∧
        (t.stores (storeAt (t.gv [.g 2] 0) 2 (t.wv [.g 2] 0) 4) 0).isSome = true) := by decide +kernel

theorem test_ldh : gAfter (.ldh 3 1 0) (filled [(16, 0x80FF00)] (ks (put [lm 17]))) 3 = 0xFFFFFFFFFFFF80FF := by decide +kernel
theorem test_ldwu_unaligned : gAfter (.ldwu 3 1 6) (filled [(16, 0x1122334455667788), (24, 0x99AA)] (ks (put [lm 16]))) 3 =
    0x99AA1122 := by decide +kernel
theorem test_stw : mgetN (after (.stw 3 1 0xFFF) (ks (put [lm 17, 0, 0x1122334455]))).mem (lmLoc 0x800 16).key 8 = 0x22334455 := by
  decide +kernel
theorem test_cLdw : gAfter (.cLdw 3 31) (filled [(16, 0x80000000)] (ks (put [0, lm 16 - 124]))) 3 = 0xFFFFFFFF80000000 := by
  decide +kernel
theorem test_stx : mgetN (after (.stx 3 1 2 1) (ks (put [lm 16, 3, 0xABCD12]))).mem (lmLoc 0x800 16).key 8 = 0xCD12000000000000 := by
  decide +kernel

theorem wit_AccessChecks :
    (let s := us (put [lm 16])
     s.ready [.g 1] [.g 3] = true ∧ s.cb ≠ 0 ∧ (s.gv [.g 1] 0).tag ≠ .cap) ∧
    (let s := us (cap 1 (lm 0x17FFC) lmShadow)
     s.ready [.g 1, .g 3] [] = true ∧ (s.gv [.g 1, .g 3] 0).tag = .cap ∧ capWell lmShadow = true ∧
      ¬ ((s.wv [.g 1, .g 3] 0).toNat + 8 : Int) ≤ capTop (s.wv [.g 1, .g 3] 0) lmShadow) ∧
    (let sh := lmShadow &&& 0xFFFFFFFFFFFFFFFC
     let s := us (cap 1 (lm 0x17FF8) sh)
     s.ready [.g 1] [.g 3] = true ∧ capWell sh = true ∧ capL sh ≠ 0 ∧ capBase (s.wv [.g 1] 0) sh ≤ (s.wv [.g 1] 0).toNat ∧
      ((s.wv [.g 1] 0).toNat + 8 : Int) ≤ capTop (s.wv [.g 1] 0) sh ∧ hasPerm sh 1 = false ∧ hasPerm sh 2 = false) := by
  decide +kernel

theorem test_bounds : (after (.ldd 3 1 0) (us (cap 1 (lm 0x17FFC) lmShadow))).here.b1.cause = 0x05 ∧
    (after (.ldd 3 1 0) (us (cap 1 (lm 0x17FFC) lmShadow))).here.b1.eval = lm 0x17FFC := by decide +kernel

/-- The last 8 bytes of the alias, and a word at each tag. -/
theorem wit_AliasBytes : (ks id).memWf ∧ (ks id).silt.valid = false ∧ (ks id).kern = true ∧ 0x17FF8 + 8 ≤ 0x18000 ∧
    ∀ i < 8, (mget (ks id).tags ((2 ^ 49 + (ks id).cur * 2 ^ 17 + 0x17FF8 + i) / 8)).toNat = 0 := by
  unfold State.memWf; decide +kernel

theorem wit_StoreFrame : let s := ks (put [lm 0x17FFC])
    s.memWf ∧ s.silt.valid = false ∧ (reaches s (storeAt (s.gv [.g 1] 0) 1 (lm 0x17FFE - 2) 4) fun _ l =>
      (l.map fun p => p.2.key / 8).Nodup && l.all fun p => p.2.kind = .lm) = true ∧ (s.stores (storeAt (s.gv [.g 1] 0) 1 (lm 0x17FFE - 2) 4) 5).isSome = true := by
  unfold State.memWf; decide +kernel

/-- The same for a store across two words of a page of DRAM. -/
theorem wit_StoreFrame_dram : let s := paged (ks (put [0x1000C]))
    s.memWf ∧ s.silt.valid = false ∧ (reaches s (storeAt (s.gv [.g 1] 0) 1 0x1000C 8) fun u l =>
      (l.map fun p => p.2.key / 8).Nodup && l.length = 2 && l.all (fun p => p.2.kind ≠ .lm && u.sole p.2) &&
        l.all fun p => l.all fun q => p.2.ctx = q.2.ctx && p.2.slot = q.2.slot) = true ∧
    (s.stores (storeAt (s.gv [.g 1] 0) 1 0x1000C 8) 5).isSome = true := by
  unfold State.memWf; decide +kernel

theorem test_store_dram : let s := paged (ks (put [0x1000C, 0, 0x1122334455667788]))
    ((after (.std 3 1 0) s).here.l1At (physLoc false 0x10008 0 0)).map (fun w => (w.val, w.st)) = some (0x5566778800000000, .od) ∧
    mgetN (after (.std 3 1 0) s).mem 0x10008 8 = 0 := by decide +kernel

theorem wit_StoreThenLoad : (ks id).memWf ∧ (ks id).silt.valid = false ∧ (physLoc false 0x4000000 0 1).kind ≠ .lm := by
  unfold State.memWf; decide +kernel

theorem test_store_load : (((ks id).storeWord 0x800 (physLoc false 0x4000000 0 1) 77 1).loadRaw 0x800 (physLoc false 0x4000000 0 1)).2 = (77, 1) := by
  decide +kernel

theorem wit_CapabilityAccessCompletes : let s := mem2 5 lmShadow 1 (ks (put [lm 16]))
    s.ready [.g 1] [.g 3] = true ∧ s.ready [.g 1, .g 3] [] = true ∧
    (someAnd (s.readable { loadAt (s.gv [.g 1] 0) 1 (lm 16) 16 with align := 16 }) fun x => !x.2.isEmpty) = true ∧
    (someAnd (s.writable { storeAt (s.gv [.g 1] 0) 1 (lm 16) 16 with align := 16 }) fun x => !x.2.isEmpty) = true ∧
    (let t := ks (cap 3 (lm 8) lmShadow ∘ put [lm 16])
     (t.gv [.g 1, .g 3] 1).tag = .cap ∧
      (someAnd (t.writable { storeAt (t.gv [.g 1, .g 3] 0) 1 (lm 16) 16 with perms := 2 ||| 16, cs := true, align := 16 }) fun x =>
        !x.2.isEmpty) = true) := by decide +kernel

theorem test_ldc : (after (.ldc 3 1 0) (mem2 (lm 8) lmShadow 1 (ks (put [lm 16])))).me.getG 3 = ⟨lm 8, lmShadow, .cap⟩ ∧
    (after (.ldc 3 1 0) (mem2 (lm 8) lmShadow 0 (ks (put [lm 16])))).me.getG 3 = ⟨lm 8, lmShadow, .data⟩ := by decide +kernel
theorem test_stc_std : (after (.stc 3 1 0) (ks (cap 3 (lm 8) lmShadow ∘ put [lm 16]))).homeWord (lmLoc 0x800 24) = (lmShadow, 1) ∧
    (after (.std 3 1 0) (mem2 0 0 1 (ks (put [lm 16])))).homeWord (lmLoc 0x800 16) = (0, 0) := by decide +kernel

theorem wit_DiscCompletes : let s := ks (put [lm 16, 0x100, 0])
    s.ready [.g 1, .g 3] [] = true ∧ s.wv [.g 1, .g 3] 1 = 0 ∧ s.ready [.g 1, .g 2] [] = true ∧
    s.kern = true ∧ (s.gv [.g 1, .g 2] 0).tag ≠ .cap ∧ 0xF80000000000 ≤ (lm 16).toNat ∧ (lm 16).toNat + 0x100 ≤ 0xF80000018000 ∧
    (let t := paged (ks (put [0x10004, 0x10]))
     (someAnd (t.discRange (storeAt (t.gv [.g 1, .g 2] 0) 1 0x10004 0x10)) fun x => !x.2.isEmpty) = true) ∧
    (let k := physLoc false 0x10008 0 0
     k.kind ≠ .lm ∧ (s.core 0x800).pinned = [] ∧ (s.homeWord k).2 ≠ 2) := by decide +kernel

/-- The words wholly in the range are discarded, the part of a word before it is not (R288). -/
theorem test_disc : let s := paged (ks (put [0x10004, 0x10, 7]))
    let t := after (.disc 1 2) (after (.std 3 1 4) (after (.stw 3 1 0) s))
    t.here.l1At (physLoc false 0x10008 0 0) = none ∧ (t.here.l1At (physLoc false 0x10000 0 0)).map (·.val) = some 0x700000000 := by
  decide +kernel

/-! ## Homes -/

theorem wit_AmoCompletes : let s := ks (put [lm 20, 3, 4])
    s.ready [.g 1, .g 2] [.g 3] = true ∧ s.ready [.g 1, .g 2, .g 3] [.g 3] = true ∧
    s.sendsOpen 6 = false ∧
    (homes s (updateAt (s.gv [.g 1] 0) 1 4 3 true) fun u k => (u.takeHome u.cur k).homeWord k = (0, 0) && k.key % 4 = 0) = true ∧
    (let t := ks (put [lm 0x17FF8])
     homes t (updateAt (t.gv [.g 1] 0) 1 8 3 true) fun u k => (u.takeHome u.cur k).homeWord k = (0, 0)) = true := by decide +kernel

theorem test_amin_w : let s := filled [(16, 0xFFFFFFFF00000005)] (ks (put [lm 20, 3]))
    gAfter (.aminW 3 1 2 0) s 3 = 0xFFFFFFFFFFFFFFFF ∧
    (after (.amaxuW 3 1 2 0) s).homeWord (lmLoc 0x800 16) = (0xFFFFFFFF00000005, 0) := by decide +kernel
theorem test_acas : let s := filled [(16, 9)] (ks (put [lm 16, 3, 9]))
    (after (.acas 3 1 2 0) s).homeWord (lmLoc 0x800 16) = (3, 0) ∧ gAfter (.acas 3 1 2 0) s 3 = 9 := by decide +kernel

theorem wit_RedCompletes : let s := ks (put [lm 16, 3])
    s.ready [.g 1, .g 2] [] = true ∧ s.repApplied = false ∧
    (homes s (updateAt (s.gv [.g 1] 0) 1 8 2 false) fun u k => (u.takeHome u.cur k).homeWord k = (0, 0)) = true ∧
    (homes s (updateAt (s.gv [.g 1] 0) 1 4 2 false) fun u k => (u.takeHome u.cur k).homeWord k = (0, 0) && k.key % 4 = 0) = true ∧
    (let t := { s with repApplied := true }
     t.repApplied = true ∧ (t.homeAt (updateAt (t.gv [.g 1] 0) 1 4 2 false)).isSome = true) := by decide +kernel

theorem test_rfadd : (after (.rfadd 1 2) (filled [(16, 0x3F800000_40000000)] (ks (put [lm 20, 0x3F800000])))).homeWord
    (lmLoc 0x800 16) = (0x40000000_40000000, 0) := by decide +kernel

/-- The granule at gA, as a sync operation finds it. -/
def granuleAt (s : State) (p : State → Word → Word → Bool → Bool) : Bool :=
  homes s (updateAt (s.gv [.g 1] 0) 1 16 35 true) fun u k => okAnd (u.granule u.cur k) fun x => p x.1 x.2.1 x.2.2.1 x.2.2.2

theorem wit_ReservationsComplete : let s := ks (put [lm 16, 9])
    s.ready [.g 1] [.g 3, .g 4] = true ∧ s.ready [.g 1, .g 2] [.g 3] = true ∧ s.ready [.g 1] [.g 3] = true ∧
    granuleAt s (fun w _ _ o => !o && w.resv.isEmpty) = true ∧ s.sendsOpen 6 = false ∧
    granuleAt (held false s) (fun w _ x1 o => o && getF x1 60 4 = 0xA && w.resv.any (fun r => r.gran = (lmLoc 0x800 16).key && r.holds) &&
      w.resv.all fun r => (r.node, r.berth) ≠ w.ident) = true ∧
    granuleAt (held true s) (fun w _ _ _ => w.resv.any fun r => (r.node, r.berth) = w.ident && r.gran = (lmLoc 0x800 16).key && r.holds)
      = true := by decide +kernel

theorem test_lrw_sch : let s := after (.lrw 3 1 4) (filled [(16, 7)] (ks (put [lm 16, 9])))
    (s.me.getG 3).val = 7 ∧ (s.me.getG 4).val = 0 ∧ s.homeWord (lmLoc 0x800 24) = (0xA000000000000000, 2) ∧
    (after (.sch 5 1 2) s).homeWord (lmLoc 0x800 16) = (9, 2) ∧ gAfter (.sch 5 1 2) s 5 = 0 ∧
    (after (.sch 5 1 2) s).resv = [] := by decide +kernel
theorem test_relq_other : gAfter (.relq 3 1) (held false (ks (put [lm 16]))) 3 = 1 := by decide +kernel

/-- A thread waits at the barrier at LM offset 16. -/
def barWaiter (s : State) : State := { s with barriers := [⟨(lmLoc 0x800 16).key, 0x800, 1, 0, 0, 0xF80000000010⟩] }

theorem wit_BarriersComplete : let s := ks (put [lm 16, 1])
    s.sendsOpen 6 = false ∧ s.cb < 4 ∧ (s.wv [.g 1, .g 2] 1).toNat < 2 ^ 32 ∧
    (let live (t : State) (p : Word → Word → Bool) : Prop := granuleAt t (fun _ x0 x1 o => o && getF x1 60 4 = 0xB && p x0 x1) = true
     live (bar 2 2 0 1 s) (fun _ x1 => getF x1 48 8 = 1) ∧ live (bar 2 2 0 2 s) (fun _ x1 => getF x1 48 8 ≠ 1) ∧
     live (bar 0 2 5 0 s) (fun x0 _ => x0.toNat % 2 ^ 32 = 0) ∧
     live (barWaiter (bar 2 2 0 0 s)) (fun _ _ => (barWaiter s).barriers.any fun r => r.addr = (lmLoc 0x800 16).key)) ∧
    granuleAt (held true s) (fun _ _ x1 o => o && getF x1 60 4 ≠ 0xB) = true ∧
    (let flips (n : Nat) (y : Bool) : Prop :=
       homes (bar n 2 0 0 s) (updateAt (s.gv [.g 1] 0) 1 16 35 true) (fun u k => someAnd (u.granuleAt k) fun x =>
         (getF (((x.1.putBarrier k (setF x.2.1 0 32 (n - 1)) x.2.2.1)).homeWord (k.plus 8)).1 48 8 ≠ getF x.2.2.1 48 8) == y) = true
     flips 1 true ∧ flips 2 false) ∧
    (let t := ks (fun b => (put [lm 16, 1] b).setWarr true)
     t.me.warr = true ∧ t.ready [.g 1] [.g 2] = true ∧ granuleAt t (fun _ _ _ o => !o) = true ∧
      granuleAt (bar 2 2 0 1 t) (fun _ _ x1 o => o && getF x1 48 8 = t.me.g[2].val.toNat % 256) = true ∧
      granuleAt (bar 2 2 0 2 t) (fun _ _ x1 o => o && getF x1 48 8 ≠ t.me.g[2].val.toNat % 256) = true ∧
      granuleAt (held true t) (fun _ _ x1 o => o && getF x1 60 4 ≠ 0xB) = true) := by decide +kernel

theorem wit_BarriersComplete_fresh : let s := ks (put [lm 16, 1])
    s.ready [.g 1, .g 2] [] = true ∧ s.ready [.g 1, .g 2] [.g 3] = true ∧ s.ready [.g 1] [.g 3] = true ∧ s.ready [.g 1] [] = true ∧
    granuleAt s (fun _ _ _ o => !o) = true ∧ s.wv [.g 1, .g 2] 1 = 1 ∧ s.me.warr = false ∧
    granuleAt (bar 2 2 0 0 s) (fun _ x0 x1 o => o && getF x1 60 4 = 0xB && x0.toNat % 2 ^ 32 = 2 && getF x1 48 8 = 0) = true ∧
    (homes (bar 2 2 0 0 s) { base := s.gv [.g 1] 0, code := 1, ea := lm 16, n := 16, perms := 1, rd := true, wr := false, cs := false,
                             align := 16 } fun u k => okAnd (u.granule u.cur k) fun _ => true) = true := by decide +kernel

theorem wit_BarrierFlips : let x0 : Word := 0x0000000200000000
    let x1 : Word := 0xB0FF000000000000
    x0.toNat % 2 ^ 32 = 0 ∧ x1.toNat % 2 ^ 48 = 0 ∧ (x0 + 1).toNat % 2 ^ 32 ≠ 0 ∧
    (barWaiter (ks id)).barriers.any (fun w => w.addr = (lmLoc 0x800 16).key && w.berth < 4) = true := by decide +kernel

/-- BAW resumed after a stop waits for the phase it kept and does not arrive again (R173); in an ended phase it is over. -/
theorem test_baw_resumed : let s := bar 2 2 0 7 (ks (fun b => (put [lm 16, 7] b).setWarr true))
    (after (.baw 2 1) s).me.wait = .barrier (lmLoc 0x800 16).key (some (2, 7)) ∧
    ((after (.baw 2 1) s).homeWord (lmLoc 0x800 16)).1 = 0x0000000200000002 ∧
    ((after (.baw 2 1) (bar 2 2 0 8 (ks (fun b => (put [lm 16, 7] b).setWarr true)))).me.getG 2).val = 0 := by decide +kernel

theorem test_binit : (after (.binit 1 2) (ks (put [lm 16, 3]))).homeWord (lmLoc 0x800 16) = (0x0000000300000003, 2) ∧
    (after (.binit 1 2) (ks (put [lm 16, 3]))).homeWord (lmLoc 0x800 24) = (0xB000000000000000, 2) := by decide +kernel
theorem test_barr_flip : let t := after (.barr 3 1) (bar 1 2 0 0xFF (ks (put [lm 16])))
    (t.me.getG 3).val = 0xFF ∧ t.homeWord (lmLoc 0x800 16) = (0x0000000200000002, 2) ∧
    t.homeWord (lmLoc 0x800 24) = (0xB000000000000000, 2) := by decide +kernel
theorem test_barr_bytes : let t := after (.barr 3 1) (bar 1 2 5 0 (ks (put [lm 16])))
    t.homeWord (lmLoc 0x800 16) = (0x0000000200000000, 2) := by decide +kernel
theorem test_bkill_data : (after (.bkill 1) (bar 1 2 0 0 (ks (put [lm 16])))).homeWord (lmLoc 0x800 16) = (0x0000000200000001, 0) := by
  decide +kernel

/-- A descriptor at LM offset 0x100 of a log of 1-record segments at LM offset 0x1000, and a target. -/
def logState : State :=
  let s := filled [(0x110, 1)] (ranked 0 0 <| ks (put [lm 16, 0x00000001_00000005, lm 0x100, 0x130]))
  (s.putHome (lmLoc 0x800 0x100) (lm 0x1000) 1).putHome (lmLoc 0x800 0x108) lmShadow 1

theorem wit_LogaCompletes : let s := logState
    s.ready [.g 1, .g 2, .g 3] [] = true ∧ s.me.wait = .none ∧ (s.wv [.g 1, .g 2, .g 3] 1).toNat / 2 ^ 32 % 4 = 1 ∧
    (okAnd (logDesc s (s.gv [.g 1, .g 2, .g 3] 2) 3) fun d =>
      homes d.1 (updateAt (s.gv [.g 1] 0) 1 4 2 false) fun u k =>
        okAnd (u.logaTarget u.cur k) fun w =>
          okAnd (w.appendLog w.cur w.here.ctxid w.kern d.2.a d.2.segrec (logSeg k)
            ⟨1, s.logVa (lm 16), 5, s.nativeRank, s.me.lseq⟩) fun _ => true) = true := by decide +kernel

theorem test_loga_lseq : (after (.loga 3 1 2) logState).me.lseq = 1 ∧ (after (.loga 3 1 2) logState).homeWord (lmLoc 0x800 16) = (0, 0) := by
  decide +kernel

theorem wit_MergeCompletes : let s := logState
    s.cb = 0 ∧ s.ready [.g 3, .g 4] [] = true ∧ (okAnd (logDesc s (s.gv [.g 3, .g 4] 0) 3) fun d => d.1.here.fifo.length < 16) = true ∧
    (s.wv [.g 3, .g 4] 1).toNat % 64 = 48 := by decide +kernel

theorem wit_FencesComplete : let s := ks id
    s.tlbiOpen = false ∧ (5 : BitVec 3).toNat < 6 ∧ 6 ≤ (7 : BitVec 3).toNat ∧ s.sendsOpen 7 = false ∧ (sending s).sendsOpen 6 = true ∧
    ({ s with tlbis := [⟨0, s.cur, s.cb, 0, 0, 0, [0x801]⟩] }).tlbiOpen = true := by decide +kernel

/-- A release waits for the thread's message, an acquire does not (R129, R137). -/
theorem test_fence_release : (after (.fenceRel 6) (sending (ks id))).me.pc = 0x10000 ∧
    (after (.fenceAcq 6) (sending (ks id))).me.pc = 0x10004 := by decide +kernel

theorem wit_WaitsComplete : let s := filled [(16, 0x80000004)] (ks (put [lm 16, 5]))
    s.ready [.g 1, .g 2] [] = true ∧ s.cb < 4 ∧
    (homes s { base := s.gv [.g 1, .g 2] 0, code := 1, ea := lm 16, n := 4, perms := 1, rd := true, wr := false, cs := false, align := 4 }
      fun u k => let x := (u.loadWord u.cur k).2
        x.2 ≠ 3 && (halfOf x.1 k - 5).msb = false && halfOf x.1 k ≠ 5 && (halfOf x.1 k - 6).msb = false) = true ∧
    (let t := filled [(16, 5)] (ks (put [lm 16, 5]))
     homes t { base := t.gv [.g 1, .g 2] 0, code := 1, ea := lm 16, n := 4, perms := 1, rd := true, wr := false, cs := false, align := 4 }
      fun u k => halfOf (u.loadWord u.cur k).2.1 k = 5) = true ∧
    (let t := filled [(16, 4)] (ks (put [lm 16, 5]))
     homes t { base := t.gv [.g 1, .g 2] 0, code := 1, ea := lm 16, n := 4, perms := 1, rd := true, wr := false, cs := false, align := 4 }
      fun u k => (halfOf (u.loadWord u.cur k).2.1 k - 5).msb = true) = true := by decide +kernel

theorem test_waitge : (after (.waitge 1 2) (filled [(16, 4)] (ks (put [lm 16, 5])))).me.pc = 0x10000 ∧
    (after (.waitge 1 2) (filled [(16, 5)] (ks (put [lm 16, 5])))).me.pc = 0x10004 := by decide +kernel

/-! ## Copies, tags, messages, ports, tasks -/

/-- A copy request of kernel code in quad 1: 16 bytes, tag 48, with the flags `f` in the third word and `x` in the fourth. -/
def asks (f x : Word) : State :=
  ranked 0 0 <| ks (put [0, 0, 0, lm 0, if x = 0 then lm 0x100 else 0xF00000000100, 0x0030000000000010 ||| f, x])

/-- The FIFO full. -/
def fullFifo (s : State) : State :=
  match copyRequest (asks 0 0) .copy 1 ((asks 0 0).readSrcs (requestSrcs (asks 0 0) 1 0) []) with
  | .ok (_, e) => s.setHere { s.here with fifo := List.replicate 16 e }
  | .error _ => s

/-- A request passes its checks. -/
def passes (s : State) (k : CopyKind) (p : State → CopyEntry → Bool) : Bool :=
  let l := requestSrcs s 1 0
  s.ready l [.g 20] && okAnd (copyRequest s k 1 (s.readSrcs l [])) fun r => p r.1 r.2

/-- COPY, COPYD with a deal of two blocks to two ranks, COPYC with a descriptor of its own; an empty FIFO and a full one. -/
theorem wit_CopiesComplete : (asks 0 0).cb < 2 ∧ passes (asks 0 0) .copy (fun t e => t.here.fifo.length < 16 && e.len = 16) = true ∧
    passes (fullFifo (asks 0 0)) .copy (fun t _ => 16 ≤ t.here.fifo.length) = true ∧
    passes (asks (1 <<< 56) 0x0000010040000008) .deal (fun t _ => t.here.fifo.length < 16) = true ∧
    passes (asks (1 <<< 58) (lm 0x200)) .crypt (fun t _ => t.here.fifo.length < 16) = true ∧ (asks 0 0).sendsOpen 6 = false ∧
    passes (ranked 0 0 (ks (put [0, 0, 0, lm 0, 0, 0x0030000000000000, 0]))) .copy (fun t e => t.here.fifo.length < 16 && e.len = 0)
      = true := by decide +kernel

/-- A copy of no bytes completes at once, without reading its destination (R305). -/
theorem test_copy_empty : let s := ranked 0 0 (ks fun b => (put [0, 0, 0, lm 0, 0, 0x0030000000000000, 0] b).setG 5 ⟨0, 0, .empty⟩)
    let t := after (.copy 1 0) s
    t.me.pc = 0x10004 ∧ t.here.tags = 0x0001000000000000 ∧ t.here.fifo = [] := by decide +kernel

theorem wit_CopyAccepted : passes (asks 0 0) .copy (fun t e => e.len ≠ 0 && e.tag < 64 && !e.moved && t.here.fifo.all fun x => x.tag ≠ e.tag)
    = true := by decide +kernel

theorem test_copynb_full : gAfter (.copynb 20 1 0) (fullFifo (asks 0 0)) 20 = 1 ∧ gAfter (.copynb 20 1 0) (asks 0 0) 20 = 0 := by
  decide +kernel
theorem test_copy_reserved : (after (.copy 1 0) (asks (1 <<< 63) 0)).here.b0.cause = 0x17 := by decide +kernel

/-- B1 of a core whose tag register has bits 3 and 47 set, 47 first, and the kernel's bit 50. -/
def tagged (m : Word) : State :=
  two 1 id (put [m]) fun c => { c with tags := 0x0004800000000008, tagOrder := [50, 47, 3] }

theorem wit_TagsComplete : (tagged 8).cb < 2 ∧ (tagged 8).ready [.g 1] [.g 3] = true ∧ (tagged 8).ready [.g 1] [] = true ∧
    (tagged 8).here.tags &&& 8 ≠ 0 ∧ (tagged 16).here.tags &&& 16 = 0 ∧
    ((tagged 0x0004800000000008).here.tagOrder.find? fun j => (0x0000800000000008 : Word).getLsbD j && (tagged 0).here.tags.getLsbD j) = some 47 ∧
    ((tagged 47).wv [.g 1] 0).toNat % 64 < 48 ∧ (tagged 8).here.tags &&& 8 = 8 ∧ (tagged 24).here.tags &&& 24 ≠ 24 ∧
    ((tagged 16).here.tagOrder.find? fun j => (16 : Word).getLsbD j && (tagged 0).here.tags.getLsbD j) = none ∧
    (tagged 0x0008000000000000).wv [.g 1] 0 &&& 0x0000FFFFFFFFFFFF = 0 := by decide +kernel

/-- With .acq the observation drops a V word of the core's L1, without it does not (R134). -/
theorem test_twany_acq : let s := { tagged 8 with cores := [(0x800, { (tagged 8).here with l1 := [⟨0x2000, 0, 0, .v, 5, 0, false, false⟩] })] }
    (after (.twany 3 1 1) s).here.l1 = [] ∧ (after (.twany 3 1 0) s).here.l1 = s.here.l1 := by decide +kernel

theorem test_tff_oldest : gAfter (.tff 3 1 0) (tagged 0x0004800000000008) 3 = 47 ∧
    (after (.tff 3 1 0) (tagged 0x0004800000000008)).here.tags = 0x0004000000000008 := by decide +kernel
theorem test_twall_waits : (after (.twall 3 1 0) (tagged 0x18)).me.pc = 0x10000 ∧ gAfter (.twany 3 1 0) (tagged 0x18) 3 = 8 := by
  decide +kernel

/-- B0 with a message's words in quad 1, gB = g8, toward rank 2 on core 1. -/
def sender (x : Word) : State :=
  ranked 2 1 <| ks (cap 4 (lm 0) lmShadow ∘ put [0, 0, 0, 1, 2, 3, 4, x])

theorem wit_SendCompletes : let s := sender 2
    s.ready (quadOf 1 ++ [.g 8]) [] = true ∧ s.cb = 0 ∧ s.me.wait = .none ∧ (s.wv (quadOf 1 ++ [.g 8]) 4).getLsbD 63 = false ∧
    (match s.findRank s.cur s.here.ctxid 2 with
      | (_, .valid k) => k = 0x801
      | _ => false) = true ∧
    (let t := sender 0x8000000000000801
     t.ready (quadOf 1 ++ [.g 8]) [] = true ∧ (t.wv (quadOf 1 ++ [.g 8]) 4).getLsbD 63 = true ∧ t.usedNode 0x801 = true) := by
  decide +kernel

/-- An urgent message to a node has context 0 (R312). -/
theorem test_send_node : ((after (.send 1 8 1) (sender 0x8000000000000801)).net.map fun p => (p.dst, p.ctx, p.ranked)) =
    [(0x801, 0, false)] := by decide +kernel

theorem test_send : ((after (.send 1 8 0) (sender 2)).net.map fun p => (p.dst, p.drank)) = [(0x801, 2)] := by decide +kernel

/-- A message in B1's inbox, with a capability in its first pair. -/
def inboxOf (m : List Msg) : State := two 1 id id fun c => { c with inbox := m }

theorem wit_ReceiveCompletes : let s := inboxOf [aMsg]
    s.cb < 2 ∧ s.here.inbox = [aMsg] ∧ s.ready [] (quadTo 13 ++ [.g 8]) = true ∧ s.ready [] (quadTo ((7 : BitVec 3).setWidth 4) ++ [.g 0]) = true ∧
    (inboxOf []).here.inbox = [] ∧ (inboxOf []).ready [] (quadTo 1 ++ [.g 8]) = true ∧ (inboxOf []).ready [] [.g 8] = true := by
  decide +kernel

theorem test_recv : let t := after (.recv 1 8) (inboxOf [aMsg])
    t.me.getG 4 = ⟨lm 0, lmShadow, .cap⟩ ∧ t.me.getG 5 = dataReg lmShadow ∧ t.me.getG 6 = dataReg 3 ∧ t.me.getG 7 = dataReg 4 ∧ t.me.getG 8 = dataReg 5 := by
  decide +kernel
theorem test_recvnb_empty : gAfter (.recvnb 1 8) (inboxOf []) 8 = 0x8000000000000000 := by decide +kernel

theorem wit_MovesComplete : (us id).cb = 1 ∧ (us id).pinned = false ∧ 2 ≤ (two 2 id id id).cb ∧
    (let s := us (cap 1 (lm 16) lmShadow)
     s.ready [.g 1] [] = true ∧ (match place (s.wv [.g 1] 0).toNat with | .alias_ o => o = 16 | _ => false) = true ∧
     (okAnd (capChecks false ⟨s.gv [.g 1] 0, 1, s.wv [.g 1] 0, 1, 0, false, false, false, 0⟩) fun _ => true) = true) ∧
    (let s := ranked 2 1 (us (cap 1 0xF00000040000 lmShadow))
     let need : Need := ⟨s.gv [.g 1] 0, 1, s.wv [.g 1] 0, 1, 0, false, false, false, 0⟩
     s.ready [.g 1] [] = true ∧ s.pinned = false ∧ (okAnd (capChecks false need) fun _ => true) = true ∧
     (match place (s.wv [.g 1] 0).toNat with | .window r o => r = 2 && o = 0 && r ≠ s.here.rank | _ => false) = true ∧
     (okAnd (windowCheck s need 2) fun x => x.2 = .valid 0x801 && !x.1.sendsOpen 6) = true) ∧ (us id).ready [] [.g 3] = true ∧
    (let s := filled [(0, 1)] (ks (put [lm 0]))
     s.cb = 0 ∧ s.ready [.g 1] [.g 3] = true ∧ s.lmEntry (s.wv [.g 1] 0) = some 0 ∧
     (okAnd (capChecks true ⟨s.gv [.g 1] 0, 1, s.wv [.g 1] 0, 128, pR, true, false, false, 0⟩) fun _ => true) = true ∧
     (okAnd (entryLoad s (s.wv [.g 1] 0) 0) fun _ => true) = true) := by decide +kernel

theorem test_rank : gAfter (.rank 3) (two 1 id (fun b => { b with nrank := 5 }) fun c => { c with rank := 5 }) 3 = 0x50005 := by
  decide +kernel

theorem wit_PortsComplete : let s := ranked 2 1 (us (put [5, 0x30002]))
    s.cb < 2 ∧ s.ready [.g 1, .g 2] [] = true ∧ (s.wv [.g 1, .g 2] 0).toNat < 6 ∧ (s.here.port 5).outq = [] ∧
    (∀ i < 64, (10 ≤ i ∧ i < 16 ∨ 20 ≤ i ∧ i < 24 ∨ 26 ≤ i ∧ i < 31 ∨ 32 ≤ i) → (s.wv [.g 1, .g 2] 1).getLsbD i = false) ∧
    (s.wv [.g 1, .g 2] 1).getLsbD 31 = false ∧ (s.wv [.g 1, .g 2] 1).getLsbD 24 = false ∧
    (s.lookRank s.cur s.here.ctxid 2).2 = .valid 0x801 ∧ ((us (put [5, 0x80000000])).wv [.g 1, .g 2] 1).getLsbD 31 = true ∧
    (us (put [5])).ready [.g 1] [.g 3] = true ∧ ((us id).here.port 5).inq.length ≤ 8 := by decide +kernel

theorem test_portb : ((after (.portb 1 2) (ranked 2 1 (us (put [5, 0x30002])))).here.port 5).bind = .to ⟨false, 0, 2, 3⟩ := by
  decide +kernel

/-- A move of context 0 in phase `p`. -/
def inPhase (p : Nat) (s : State) : State := { s with portage := ⟨0, 0, 0, 0, 0, p, [], 0, [], false⟩ }

/-- A launch word: 1 record, priority 1, the Rill island. -/
theorem wit_TasksComplete : let s := ks (put [lm 0, 0x4010001])
    s.cb < 2 ∧ s.ready [.g 1, .g 2] [.g 3] = true ∧ (s.wv [.g 1, .g 2] 1).toNat % 2 ^ 16 = 1 ∧ (s.wv [.g 1, .g 2] 1).toNat < 2 ^ 27 ∧
    (s.reach { base := s.gv [.g 1] 0, code := 1, ea := lm 0, n := 32, perms := 1, rd := true, wr := false, cs := false,
               align := 32 }).isSome = true ∧
    (let u := us (put [3])
     u.cb = 1 ∧ u.ready [.g 1] [] = true ∧ u.portage.phase ≠ 1 ∧ u.here.engine.mmaBusy 1 = false ∧ u.sendsOpen 6 = false) ∧
    (s.wv [.g 1, .g 2] 1).toNat / 2 ^ 26 % 2 = 1 ∧ s.ready [.g 1] [] = true ∧
    (someAnd (s.reach { base := s.gv [.g 1] 0, code := 1, ea := lm 0, n := 32, perms := 1, rd := true, wr := false, cs := false,
                        align := 32 }) fun x => (x.1.launchWait 0x4010001).isNone && !x.1.sendsOpen 6) = true ∧
    (let u := inPhase 1 (us (put [3]))
     u.cb = 1 ∧ u.ready [.g 1] [] = true ∧ u.portage.phase = 1 ∧ getF u.portage.run 0 12 = u.here.ctxid) := by decide +kernel

/-- A thread of a context that is to move stops after its LBND (R456). -/
theorem test_lbnd_stops : let t := after (.lbnd 1) (inPhase 1 (us (put [3])))
    t.me.wait = .lbnd ∧ t.me.pc = 0x10004 := by decide +kernel

theorem test_texit : (after .texit (us (put [3]))).here.b1.occupied = false ∧ ((after .texit (us (put [3]))).here.b1.getG 1).tag = .empty := by
  decide +kernel

theorem wit_TyieldCompletes : (us fun b => { b with gang := some ⟨0, [0x800], 0, 0, none⟩ }).me.gang.isSome = true ∧
    (let s := two 1 id id fun c => { c with idle0 := false }
     s.cb = 1 ∧ s.me.gang = none ∧ s.here.idle0 = false) := by decide +kernel

theorem wit_DispenserSteps : (launched id).memWf ∧ ((launched id).disp 1).en = true ∧ ((ks id).disp 1).en = false ∧
    ((launched fun d => { d with launches := [] }).disp 1).launches = [] ∧
    ((launched id).disp 1).launches ≠ [] ∧ (launched id).sweepPeriod ≤ ((launched id).disp 1).swept ∧
    ({ launched id with time := 3414 } : State).sweepPeriod > ((launched id).disp 1).swept ∧
    ((filled [(0x30, 2)] (launched id)).agentLoc 0 (0xF00000000020 + 16) true).isSome = true ∧
    ((filled [(0x30, 2)] (launched id)).agentWait 0 0xF00000000020).isNone = true ∧ ((launched id).disp 1).rebind = true ∧
    (let s := launched fun d => { d with ended := [], launches := d.launches.map fun l => { l with seen := some (0, 0) } }
     ((s.disp 1).launches.all fun l => l.seen = s.sweepOk 1 l && l.seen.isSome) = true) ∧
    ((filled [(0x30, 2)] (launched id)).homeWord (lmLoc 0x800 0x30)) = (2, 0) ∧
    ((launched fun d => { d with rebind := false }).disp 1).rebind = false ∧
    (let s := two 0 id (fun b => { b with occupied := false }) fun c => { c with poolNew := some 2 }
     (s.core 0x800).poolNew = some 2 ∧ (s.core 0x800).waits = true) := by unfold State.memWf; decide +kernel

theorem test_decrement : (after (.dependencyDecrement 1) (filled [(0x30, 0x50002)] (launched id))).homeWord (lmLoc 0x800 0x30) =
    (0x50001, 0) := by decide +kernel

/-! ## Exceptions and system instructions -/

theorem wit_TrapOfKernel : (ks id).cb = 0 ∧ (ks id).here.b0.ktrap = false := by decide +kernel

theorem wit_DoubleTrap : let s := ks fun b => { b with status := setF b.status 7 1 1 }
    s.cb = 0 ∧ s.here.b0.ktrap = true ∧ s.here.b1.occupied = true := by decide +kernel

theorem wit_TrapOfUser : (us id).cb = 1 ∧ (us id).here.idle0 = true ∧
    (let s := two 1 id id fun c => { c with idle0 := false }
     s.cb = 1 ∧ s.here.idle0 = false) := by decide +kernel

theorem wit_TrapOfGuest : (two 2 id id id).cb = 2 ∧ (two 3 id id id).cb = 3 := by decide +kernel

theorem wit_TrapsRaised : (us (put [5])).ready [.g 1] [] = true ∧ (us id).cb ≠ 0 := by decide +kernel

theorem test_syscall : let t := after (.trap 1) (us (put [5]))
    t.here.b1.cause = 0x18 ∧ t.here.b1.eval = 5 ∧ t.here.b1.epc = 0x10000 ∧ t.here.b0.sb = 1 := by decide +kernel
theorem test_eret_priv : (after (.eret 1) (us id)).here.b1.cause = 0x02 ∧ (after (.eret 1) (us id)).here.b1.eval = 0x1001F000 := by
  decide +kernel

theorem wit_EretCompletes :
    (let s := ks fun b => { b with status := setF b.status 7 1 1, epc := 0x2000 }
     s.cb = 0 ∧ s.here.b0.ktrap = true ∧ s.here.b0.epc.getLsbD 0 = false) ∧
    (let s := two 0 (fun b => { b with status := setF b.status 12 3 1 }) (fun b => { b with epc := 0x3000, stopped := true }) id
     s.here.b0.ktrap = false ∧ s.here.b0.sb % 2 = 1 ∧ s.here.b1.occupied = true ∧ s.here.b1.epc.getLsbD 0 = false) := by decide +kernel

/-- B0 about to start a task in an empty B1, its quad in g4 to g7. -/
def starting : State :=
  two 0 (fun b => { put [0, 0, 0, 1, 0x4000, 8, 9] b with status := setF b.status 10 2 1 }) (fun _ => Berth.vacant) id

theorem wit_TaskStarts : let s := starting
    s.cb = 0 ∧ s.here.b0.ktrap = false ∧ s.here.b0.tb = 1 ∧ s.here.b1.occupied = false ∧ s.here.away = false ∧
    s.cur ≠ 0x808 ∧ (∀ x ∈ s.here.icache, x.locked = false) ∧ s.ready (quadOf 1) [] = true ∧ s.wv (quadOf 1) 0 = 1 ∧ (1 : Word).toNat / 2 ^ 33 % 2 ^ 10 = s.here.rank ∧
    (s.wv (quadOf 1) 1).getLsbD 0 = false := by decide +kernel

theorem test_task_start : let t := (after (.eret 1) starting).here
    t.b1.pc = 0x4000 ∧ t.b1.getG 2 = dataReg 8 ∧ t.b1.getG 3 = dataReg 9 ∧ (t.b1.getG 4).tag = .empty := by decide +kernel

theorem wit_SystemCompletes : (us (put [1, 2])).ready [.g 1] [] = true ∧ (us id).ready [] [.g 3] = true ∧
    (us (put [1, 2])).ready [.g 1, .g 2] [] = true ∧ (us id).cb < 2 ∧
    (us (put [0])).me.wait = .none ∧ ({ us (put [4]) with time := 4 } : State).wv [.g 1] 0 = 4 ∧
    (us fun b => { b with wait := .woken }).me.wait = .woken ∧
    (let s := ks (put [0, 0, 0, 1])
     s.cb = 0 ∧ s.ready (quadOf 1) [.g 20] = true ∧ (s.wv (quadOf 1) 0).getLsbD 0 = true ∧ (s.wv (quadOf 1) 0).getLsbD 61 = false ∧
     (s.wv (quadOf 1) 0).toNat / 4 % 2 ^ 23 = 0 ∧ s.here.ready.length < 16 ∧ s.ready [] (quadTo 1) = true) ∧
    ((ks id).wv (quadOf 1) 0).getLsbD 0 = false ∧
    (two 0 id id fun c => { c with ready := List.replicate 16 ⟨dataReg 1, dataReg 0, dataReg 0, dataReg 0⟩ }).here.ready.length = 16 := by
  decide +kernel

theorem test_rqpop_best : let e (p : Word) (x : Word) : Ready := ⟨dataReg (p <<< 62 ||| 1), dataReg x, dataReg 0, dataReg 0⟩
    let s := two 0 id id fun c => { c with ready := [e 2 0, e 1 2, e 1 4] }
    gAfter (.rqpop 1) s 5 = 2 ∧ ((after (.rqpop 1) s).here.ready.map fun r => r.q1.val) = [0, 4] := by decide +kernel

theorem wit_ReadyHead : readyHead [⟨dataReg 1, dataReg 0, dataReg 0, dataReg 0⟩] = some ⟨dataReg 1, dataReg 0, dataReg 0, dataReg 0⟩ := by
  decide +kernel

/-- A TLBI of B0 under way. -/
def flushing (n : Nat) : State := { ks (put [7, 0x1000]) with tlbis := List.replicate n ⟨0, 0x800, 0, 0, 0, 0, [0x801]⟩ }

theorem wit_FetchAndTlbComplete : (ks id).me.wait = .none ∧ (1 : BitVec 3).toNat ≤ 1 ∧ 2 ≤ (2 : BitVec 3).toNat ∧ (ks id).tlbiOpen = false ∧
    (ks fun b => { b with wait := .done 0 0 }).me.wait = .done 0 0 ∧ (flushing 7).cb = 0 ∧ (flushing 7).ready [.g 1, .g 2] [] = true ∧
    ((flushing 7).wv [.g 1, .g 2] 1).toNat < 2 ^ 48 ∧ ((flushing 7).tlbis.filter fun r => r.node = (flushing 7).cur && r.berth = 0).length < 8 ∧
    (flushing 1).tlbiOpen = true ∧ (ks id).sendsOpen 7 = false ∧ (flushing 0).ready [.g 1] [] = true := by decide +kernel

/-- A line locked for the handler stays, refilled from memory (R420). -/
theorem test_ifence : let l (n : Nat) (k : Bool) : ILine := ⟨n, 0, 0, List.replicate 64 7, [], k⟩
    let s := two 0 id id fun c => { c with icache := [l 5 false, l 6 true] }
    ((after (.ifence 1) s).here.icache.map fun x => (x.line, x.bytes.head?)) = [(6, some 0)] := by decide +kernel

theorem wit_RegistersComplete : let s := ks (put [9])
    s.cb = 0 ∧ s.here.b0.tb = 0 ∧ s.ready [.g 1] [.g 1] = true ∧ s.ready [.g 1] [] = true ∧ s.ready [] [.g 1] = true := by decide +kernel

theorem wit_RegisterPrivilege : (us (put [9])).cb = 1 ∧ (us (put [9])).ready [] [.g 1] = true ∧ (us (put [9])).ready [.g 1] [] = true := by
  decide +kernel

theorem test_srx : (after (.srx 1 0x014) (us (put [0xFF]))).me.vstat = 0xFF ∧ gAfter (.srx 1 0x014) (us (put [0xFF])) 1 = 0 := by
  decide +kernel

theorem wit_LeasesComplete : (us (put [10001])).cb < 2 ∧ (us (put [10001])).cur < 0x1000 ∧ (us (put [10001])).ready [.g 1] [.g 3] = true ∧
    10000 < ((us (put [10001])).wv [.g 1] 0).toNat ∧ ((us (put [0])).wv [.g 1] 0).toNat = 0 ∧
    ((us (put [1])).wv [.g 1] 0).toNat = 1 ∧ (us (put [1])).rep = false ∧ isRill (us (put [1])).cur = true ∧
    ({ us (put [1]) with rep := true } : State).rep = true ∧
    (let s := torrent id fun s => { s with groups := s.groups.map fun g => { g with withhold := false, hot := false, overBudget := false } }
     s.cb < 2 ∧ s.ready [.g 1] [.g 3] = true ∧ (s.wv [.g 1] 0).toNat = 10000 ∧ isRill s.cur = false ∧
      s.leaseGrants s.cur s.cb (groupOf s.cur) = true) ∧
    (let s := us fun b => { b with lease := setF 5 61 3 1 }
     getF (s.berthAt 0x800 1).lease 61 3 = 1 ∧
      getF (({ s with time := 5000 } : State).berthAt 0x800 1).lease 0 14 ≤ ((5000 : Word) - (s.berthAt 0x800 1).leaseAt).toNat / 1000) := by
  decide +kernel

theorem wit_RegisterWritesComplete : let s := ks id
    let idle := two 0 id (fun _ => Berth.vacant) id
    idle.memWf ∧ (5 : Word).toNat % 2 ^ 12 ≠ (idle.core 0x800).ctxid ∧ (idle.core 0x800).b1.occupied = false ∧
    (idle.core 0x800).b2.occupied = false ∧ (idle.core 0x800).b3.occupied = false ∧ (idle.core 0x800).away = false ∧
    (0 : Word).toNat % 2 ^ 12 = (s.core 0x800).ctxid ∧ (0 : Word).toNat % 2 ^ 10 = (s.core 0x800).rank ∧
    (1 : Word).toNat % 2 ^ 10 ≠ (s.core 0x800).rank ∧
    (let v : Word := 0x93F01 &&& 0x9BFC1
     v.getLsbD 0 = true ∧ v.toNat / 2 ^ 16 % 2 ^ 4 = 9 ∧ 128 * (v.toNat / 2 ^ 6 % 2 ^ 10 + 2 ^ 9) ≤ 0x18000) ∧
    bitOf (s.berthAt 0x800 1).mspill 63 = false ∧ (2 : Word).toNat % 4 ≠ 3 ∧ (s.berthAt 0x800 1).gang = none ∧
    (0x400 : Word).toNat / 2 ^ 8 % 8 ≤ 4 ∧ (0 : Nat) < (shapeDims 4).1 ∧ (0 : Nat) < (shapeDims 4).2 ∧
    (let g := two 0 id id fun c => { c with b2 := { (us id).here.b1 with nnode := 0x801 } }
     (g.core 0x800).b2.occupied = true ∧ (g.core 0x800).b2.busy = false ∧ g.inside 0x800 2 = false ∧ (g.core 0x800).b3.occupied = false) ∧
    s.inside 0x800 1 = false ∧ (us fun b => { b with wait := .remote }).inside 0x800 1 = true := by
  unfold State.memWf; decide +kernel

theorem test_ctxid_clears_lm : (after (.ctxidWrite 0x800 5) (filled [(8, 3)] (two 0 id (fun _ => Berth.vacant) id))).mem = [] := by
  decide +kernel

theorem wit_WaitsEnd : ((us fun b => { b with wait := .ifence 7 }).berthAt 0x800 1).wait = .ifence 7 ∧
    (us fun b => { b with wait := .sleep 3 0 }).here.b1.wait = .sleep 3 0 ∧
    (3 : Word).toNat ≤ (({ us id with time := 3 } : State).timeAt 0x800).toNat := by decide +kernel

theorem wit_CausesTaken : ((us id).berthAt 0x800 1).timecmp = 0 ∧ ((us fun b => { b with timecmp := 5 }).berthAt 0x800 1).timecmp = 5 ∧
    ((us id).timeAt 0x800).toNat < 5 ∧ (5 : Word).toNat ≤ (({ us id with time := 5 } : State).timeAt 0x800).toNat ∧
    ((us id).core 0x800).takable 0 = none ∧
    (someAnd (((two 1 id id fun c => { c with urgent := [aMsg] }).core 0x800).takable 0) fun e => e.cause = .urgent) = true ∧
    (let c := (two 1 id id fun c => { c with urgent := [aMsg] }).core 0x800
     c.pendSync = none ∧ c.urgent ≠ []) ∧
    (let c := (two 1 id id fun c => { c with wakeSrc := some 1 }).core 0x800
     c.pendSync = none ∧ c.urgent = [] ∧ c.wakeSrc.isSome = true) ∧
    (someAnd (((launched id).disp 1).launch 2) fun l => ((launched id).agentWait l.ctx l.entry).isNone) = true := by decide +kernel

theorem test_urgent_entry : let t := after (.trapEntry 0x800) (two 1 id id fun c => { c with urgent := [aMsg] })
    t.here.b0.cause = 0x81 ∧ t.here.idle0 = false := by decide +kernel

/-! ## Vectors -/

/-- A v register from lanes of `w` bits. -/
def vec (w : Nat) (l : List Nat) : BitVec 512 := BitVec.ofNat 512 (l.zipIdx.foldl (fun r x => r + x.1 % 2 ^ w * 2 ^ (w * x.2)) 0)

/-- A berth with v1, v2, … and k1. -/
def vput (l : List (BitVec 512)) (k : Word) (b : Berth) : Berth :=
  (l.zipIdx.foldl (fun b x => b.setV (BitVec.ofNat 5 (x.2 + 1)) x.1) b).setK 1 k

/-- A v register after an instruction. -/
def vAfter (i : Instr) (s : State) (n : BitVec 5) : BitVec 512 := ((after i s).me.getV n).val

/-- A berth with three v registers, k1 and k2: the operands of every vector form. -/
def vs3 : State := ks (fun b => (vput [1, 2, 3] 5 (put [7] b)).setK 2 6)

theorem wit_IntegerLanesComplete : vs3.ready ([.v 1, .v 2] ++ [.k 1]) [.v 4] = true ∧ vs3.ready ([.v 1] ++ [.k 0]) [.v 27] = true := by
  decide +kernel

theorem wit_FloatLanesComplete : vs3.ready ([.v 1, .v 2, .v 3] ++ [.k 1]) [.v 3] = true ∧ vs3.ready ([.v 1, .v 2] ++ [.k 1]) [.v 3] = true ∧
    vs3.ready ([.v 1] ++ [.k 1]) [.v 3] = true := by decide +kernel

theorem wit_FloatSpecials : (fp32.decode 0x7FC00000).isNan = true ∧ (fp32.decode 0x7F800000 = .inf false) ∧
    (fp16.decode 0xFC00 = .inf true) ∧ (match fp32.decode 0x80000000 with | .fin a m _ => a && m = 0 | _ => false) = true ∧
    (match bf16.decode 0xBF80, bf16.decode 0x3F80 with | .fin a m e, .fin b n k => a && !b && m = n && e = k && m ≠ 0 | _, _ => false) = true := by
  decide +kernel

theorem wit_MinMaxRule : (fp32.decode 0x7FC00000).isNan = true ∧ (fp32.decode 0x3F800000).isNan = false := by decide +kernel

theorem wit_MasksComplete : vs3.ready [.v 1, .v 2, .k 1] [.k 1] = true ∧ vs3.ready [.k 1, .k 2] [.k 3] = true ∧ vs3.ready [.k 1] [.k 3] = true ∧
    vs3.ready [.k 1] [.g ((3 : BitVec 5).setWidth 6)] = true ∧ vs3.ready [.v 1, .v 2, .k 1] [.v 1] = true := by decide +kernel

theorem wit_ConversionsComplete : vs3.ready ([.v 1] ++ [.k 1]) [.v 4] = true ∧
    (let s := ks (fun b => (vput [1] 5 b).setOx 0 9)
     s.ready [.v 1, .k 1, .ox 0] [.v 4] = true) := by decide +kernel

theorem wit_ReductionsComplete : vs3.ready [.v 1, .k 1] [.v 4] = true := by decide +kernel

theorem wit_PermutationsComplete : vs3.ready ([.v 1, .v 2] ++ [.k 1]) [.v 4] = true ∧
    vs3.ready ([.g ((1 : BitVec 5).setWidth 6)] ++ [.k 1]) [.v 4] = true ∧ vs3.ready [.v 1] [.v 4] = true ∧
    vs3.ready [.v 1] [.g ((4 : BitVec 5).setWidth 6)] = true ∧ (63 : BitVec 7).toNat < laneN 0 ∧
    vs3.ready [.g ((1 : BitVec 5).setWidth 6)] [.v 4] = true ∧ vs3.ready ([.v 1, .v 2, .v 3] ++ [.k 1]) [.v 3] = true ∧
    laneN 0 * 4 + laneN 0 ≤ 320 ∧ laneN 2 * 19 + laneN 2 ≤ 320 := by decide +kernel

theorem test_vsadd : vAfter (.vsadd 3 1 2 0 0) (ks (vput [vec 8 [0x7F, 0x80], vec 8 [1, 0xFF]] 0)) 3 = vec 8 [0x7F, 0x80] ∧
    (after (.vsadd 3 1 2 0 0) (ks (vput [vec 8 [0x7F], vec 8 [1]] 0))).me.vstat = 32 := by decide +kernel
theorem test_vadd_masked : vAfter (.vadd 3 1 2 2 1) (ks (vput [vec 32 [0xFFFFFFFF, 7], vec 32 [1, 8], vec 32 [5, 6]] 1)) 3 = vec 32 [0, 6] := by
  decide +kernel
theorem test_vfadd_tie : vAfter (.vfadd 3 1 2 2 1) (ks (vput [vec 32 [0x4B800000], vec 32 [0x3F800000], 0] 1)) 3 = vec 32 [0x4B800000] ∧
    (after (.vfadd 3 1 2 2 1) (ks (vput [vec 32 [0x4B800000], vec 32 [0x3F800000]] 1))).me.vstat = 1 := by decide +kernel
theorem test_vfma : vAfter (.vfma 3 1 2 2 1) (ks (vput [vec 32 [0x40000000], vec 32 [0x40400000], vec 32 [0x3F800000]] 1)) 3 =
    vec 32 [0x40E00000] := by decide +kernel
theorem test_vfdiv_zero : vAfter (.vfdiv 3 1 2 2 1) (ks (vput [vec 32 [0xBF800000], 0] 1)) 3 = vec 32 [0xFF800000] ∧
    (after (.vfdiv 3 1 2 2 1) (ks (vput [vec 32 [0xBF800000], 0] 1))).me.vstat = 8 := by decide +kernel

/-- R243's example. -/
theorem test_vrsum : vAfter (.vrsum 4 1 6 0) (ks (vput [vec 32 [0x4B800000, 0x3F800000, 0x3F800000, 0x3F800000]] 0)) 4 = 0x4B800001 ∧
    (after (.vrsum 4 1 6 0) (ks (vput [vec 32 [0x4B800000, 0x3F800000, 0x3F800000, 0x3F800000]] 0))).me.vstat = 1 := by decide +kernel

/-- R338's example. -/
def vtaccState : State := ks (vput [vec 8 ((List.range 20).map fun p => p + 246), vec 8 [0xC8, 121, 121, 121, 0xFA, 0xF2, 121, 0, 250], 0] 3)
theorem test_vtacc : vAfter (.vtacc 3 1 2 1) vtaccState 3 = vec 32 [0xFFFFFFF9, 0xFFFFFFCE] ∧ (after (.vtacc 3 1 2 1) vtaccState).me.vstat = 64 := by
  decide +kernel

theorem test_vunpk3 : vAfter (.vunpk3 4 1 0 0 0) (ks (vput [vec 8 [200, 250]] 0)) 4 =
    vec 8 ([1, 255, 0, 0, 1, 0, 0, 0, 0, 0] ++ List.replicate 54 255) := by decide +kernel
theorem test_vcvt : vAfter (.vcvt 4 1 0 1 6 1) (ks (vput [vec 32 [0x42F7, 0x3F800000]] 2)) 4 = 0x10000 := by decide +kernel
theorem test_vslide_vrot : vAfter (.vslide 4 1 2 3) (ks (vput [vec 64 [1, 2, 3]] 0)) 4 = vec 64 [3] ∧
    vAfter (.vrot 4 1 2 3) (ks (vput [vec 64 [1, 2, 3]] 0)) 4 = vec 64 [3, 0, 0, 0, 0, 0, 1, 2] := by decide +kernel
theorem test_kand : ((after (.kand 1 1 2) vs3).me.getK 1).val = 4 ∧ (after (.kand 0 1 2) vs3).me.getK 0 = ⟨BitVec.allOnes 64, true⟩ := by
  decide +kernel
theorem test_vceq : ((after (.vceq 2 1 1 6 0) (ks (vput [vec 32 [0x7FC00000, 5]] 0))).me.getK 2).val = 0xFFFE := by decide +kernel
theorem test_vdot4 : vAfter (.vdot4 3 1 2 0 1) (ks (vput [vec 8 [1, 2, 3, 0xFF], vec 8 [1, 2, 3, 4], vec 32 [5]] 1)) 3 = vec 32 [15] := by
  decide +kernel
theorem test_vext : gAfter (.vext 3 1 1 0) (ks (vput [vec 8 [1, 0x80]] 0)) 3 = 0xFFFFFFFFFFFFFF80 := by decide +kernel

/-! ## Vector memory -/

/-- A vector load's elements from LM offset 0x40 on, one lane at the edge of the alias. -/
theorem wit_VectorAccessCompletes : let s := ks (vput [vec 64 [0, 1, 2], 7] 5 ∘ put [lm 0x40, 8])
    let ok (load : Bool) (off : Nat → Word) : Bool :=
      okAnd (elemChecks load false (fun j => if load then { loadAt (s.gv [.g 1] 0) 1 (lm 0x40 + off j) 8 with align := 8 }
        else { storeAt (s.gv [.g 1] 0) 1 (lm 0x40 + off j) 8 with align := 8 }) (fun _ t _ _ _ r => .ok (t, r)) s []
          ((List.range 8).filter fun j => (5 : Word).getLsbD j))
        fun x => x.2.1.isEmpty && x.2.2.all fun e => match e.w with | .here _ => true | _ => false
    s.kern = true ∧ (s.gv [.g 1] 0).tag ≠ .cap ∧ s.ready [.g ((1 : BitVec 5).setWidth 6), .k 1] [.v 3] = true ∧
    s.ready [.g ((1 : BitVec 5).setWidth 6), .g ((2 : BitVec 5).setWidth 6), .v 2, .k 1] [] = true ∧
    s.ready [.g ((1 : BitVec 5).setWidth 6), .v 1, .v 2, .k 1] [] = true ∧
    ok true (fun j => BitVec.ofNat 64 (8 * j)) = true ∧ ok false (fun j => BitVec.ofNat 64 (8 * j) - 0x40) = true := by decide +kernel

theorem test_vld : vAfter (.vld 3 1 0 3 1) (filled [(0x40, 7), (0x48, 8), (0x50, 9)] (ks (vput [0, 0, vec 64 [1, 2, 3]] 5 ∘ put [lm 0x40]))) 3 =
    vec 64 [7, 2, 9] := by decide +kernel

/-- R335's example. -/
theorem test_vscat : let s := after (.vscat 1 1 2 3 1) (ks (vput [vec 64 [10, 11, 12, 13], vec 64 [0, 1, 0, 2, 100]] 15 ∘ put [lm 0x40]))
    s.homeWord (lmLoc 0x800 0x40) = (12, 0) ∧ s.homeWord (lmLoc 0x800 0x48) = (11, 0) ∧ s.homeWord (lmLoc 0x800 0x50) = (13, 0) := by
  decide +kernel

/-! ## Matrices -/

/-- A tile header at an LM offset: DATA, ROWS, COLS, STRIDE, FMT, flags (R348, R349). -/
def hdr (o : Nat) (data : Word) (rows cols stride fmt flags : Nat) : List (Nat × Word) :=
  [(o, data), (o + 32, BitVec.ofNat 64 (rows + cols * 2 ^ 16 + stride * 2 ^ 32)), (o + 40, BitVec.ofNat 64 (fmt + flags * 2 ^ 8))]

/-- B0 owns the engine, a0 32-bit integers of zeros. -/
def owner (s : State) : State := { after (.mzero 0 1) s with cb := s.cb }

theorem wit_MzeroCompletes : (ks id).cb < 2 ∧ bitOf (ks id).me.mspill 63 = false ∧ (ks id).here.engine.held = false ∧
    (ks id).here.slotWaits = false ∧ (ks id).here.engine.waiting = [] ∧ (ks id).here.engine.grant = none ∧ (owner (ks id)).here.engine.owner 0 (owner (ks id)).me = true := by
  decide +kernel

/-- An INT32 matrix of 2 rows and 3 columns at LM offset 0x1000, its header at 0x400. -/
def matState : State := filled (hdr 0x400 (lm 0x1000) 2 3 16 0 2 ++ [(0x1000, 0x0000000200000001), (0x1008, 3), (0x1010, 4)]) (ks (put [lm 0x400]))

/-- The header's checks and the rows' of an MLD or MST. -/
def matrix32 (s : State) (wr : Bool) : Bool :=
  okAnd (tileHeader s 1 (s.gv [.g 1] 0)) fun p =>
    let x := p.2
    !x.reserved true && x.w32 && x.smode = 0 && !x.scaleSlotBad && !x.sizeBad true && x.korg % 48 = 0 &&
    okAnd (tileSlots p.1.kern x true) (fun _ => true) &&
    okAnd (rangeChecks wr p.1 (sortRanges (x.outRows p.1.here true))) fun q0 =>
    okAnd (rangeChecks wr q0.1 (sortRanges ((x.parts p.1.here true).map (·.2)))) fun q =>
      if wr then okAnd (storeRangeChecks q.1 q.2) (fun t => t.here.geom = p.1.here.geom) else okAnd (rangeLoads q.1 q.2) fun _ => true

theorem wit_MldCompletes : matState.cb < 2 ∧ matState.ready [.g 1] [] = true ∧ matrix32 matState false = true := by decide +kernel

theorem wit_MstCompletes : (owner matState).cb < 2 ∧ (owner matState).here.engine.owner 0 (owner matState).me = true ∧
    (owner matState).ready [.g 1] [] = true ∧ (owner matState).here.engine.progress = none ∧
    (owner matState).here.engine.getAcc 0 ≠ .empty ∧ matrix32 (owner matState) true = true := by decide +kernel

theorem test_mld : let e := ((after (.mld 0 1 1) matState).here.engine.getAcc 0).elems
    e.take 4 = [1, 2, 3, 0] ∧ (e.drop 32).take 2 = [4, 0] := by decide +kernel
theorem test_mst : let t := after (.mst 0 1 1) { after (.mld 0 1 1) matState with cb := 0 }
    t.here.engine.held = false ∧ mgetN t.mem (lmLoc 0x800 0x1000).key 8 = 0x0000000200000001 := by decide +kernel

theorem wit_MatrixSavesComplete : let s := ks (put [lm 0x4000, 0])
    s.cb < 2 ∧ s.ready [.g 1] [.g 3] = true ∧ s.ready [.g 1, .g 2] [] = true ∧ bitOf s.me.mspill 63 = false ∧
    (okAnd (regionChecks s ⟨s.gv [.g 1] 0, 1, lm 0x4000, 0x4000, 2, false, true, false, 64⟩) fun t => t.savedState .without = .nothing) = true ∧
    (let u := owner s
     (okAnd (regionChecks u ⟨u.gv [.g 1] 0, 1, lm 0x4000, 0x4000, 2, false, true, false, 64⟩) fun t =>
       t.here.engine.progress.isNone && okAnd (saveRegion t ⟨u.gv [.g 1] 0, 1, lm 0x4000, 0x4000, 2, false, true, false, 64⟩
         (t.here.engine.acc.toList.flatMap accWords)) fun _ => true) = true) ∧
    bitOf (s.wv [.g 1, .g 2] 1) 31 = false ∧ s.here.engine.progress = none ∧ s.here.engine.slot = none := by decide +kernel

/-- MRST of a state word with V 1 and a0 in INT32 form, in B1. -/
theorem wit_MrstCompletes : let s := us (put [0, 0x80000002] ∘ id)
    let u := two 1 id (fun b => cap 1 (lm 0x4000) lmShadow (put [0, 0x80000002] b)) id
    getF (u.wv [.g 1, .g 2] 1) 32 32 = 0 ∧ getF (u.wv [.g 1, .g 2] 1) 28 3 = 0 ∧ bitOf (u.wv [.g 1, .g 2] 1) 31 = true ∧
    (∀ i < 4, getF (u.wv [.g 1, .g 2] 1) (2 * i) 2 ≠ 3) ∧ getF (u.wv [.g 1, .g 2] 1) 0 2 = 2 ∧ s.cb = 1 ∧
    (okAnd (regionChecks u ⟨u.gv [.g 1] 0, 1, lm 0x4000, 0x4000, 1, true, false, false, 64⟩) fun t =>
      !t.here.engine.held && t.here.engine.slot.isNone && t.here.engine.waiting = [] &&
      okAnd (loadRegion t ⟨u.gv [.g 1] 0, 1, lm 0x4000, 0x4000, 1, true, false, false, 64⟩) fun x => x.1.cb = 1 && !x.1.here.engine.held && x.1.here.engine.slot.isNone) = true := by
  decide +kernel

/-- INT8 matrices of one row each: A is 3, B is 4. -/
def mmaState : State :=
  owner (filled (hdr 0x400 (lm 0x1000) 1 1 1 5 0 ++ hdr 0x440 (lm 0x1040) 1 1 1 5 0 ++ [(0x1000, 3), (0x1040, 4)]) (ks (put [lm 0x400, lm 0x440])))

theorem wit_MmaCompletes : let s := mmaState
    s.cb < 2 ∧ s.ready [.g 1, .g 2] [] = true ∧ s.me.wait = .none ∧ s.me.gang = none ∧ s.here.engine.owner 0 s.me = true ∧
    s.here.engine.getAcc 0 ≠ .empty ∧ s.here.engine.progress = none ∧
    (okAnd (mmaHeaders (s.setEngine (s.here.engine.unwait s.cb)) 0 1 2 (s.gv [.g 1, .g 2] 0) (s.gv [.g 1, .g 2] 1)) fun p =>
      p.1.here.engine.progress.isNone && okAnd (mmaFetch p.1 p.2.1 p.2.2 true true) fun _ => true) = true ∧
    (let u := two 0 (fun b => put [1, 2] { b with wait := .done 1 0 }) id id
     u.ready [.g 1, .g 2] [] = true ∧ u.me.wait = .done 1 0) := by decide +kernel

theorem wit_MmaEnds : let f : Flight := ⟨0, 0, 0, [mmaBlock 5 5 false false 1 [(3, [])] [(4, [])] 0], false, [], none, false⟩
    let s := (owner (ks id)).setEngine { (owner (ks id)).here.engine with flight := some f }
    (s.core 0x800).engine.flight = some f ∧ f.gang = none ∧ f.berth < 4 ∧ f.acc < 4 ∧ f.blocks.length ≤ 1 := by decide +kernel

theorem test_mma_block : ((Acc.int32 (List.replicate 1024 5)).addBlock (mmaBlock 5 5 false false 2 [(0xFF03, [])] [(0x0204, [])] 0)).elems.take 2 = [15, 5] := by decide +kernel

/-- R244's example: three products 1.0 × 1.0 of E4M3 onto 16777216.0. -/
theorem test_mma_fp8 : ((Acc.fp32 (List.replicate 1024 0x4B800000)).addBlock (mmaBlock 2 2 false false 3 [(0x383838, [])] [(0x383838, [])] 0)).elems.take 1 = [0x4B800002] := by decide +kernel

theorem wit_IntegerProducts : (List.replicate 1024 (0 : BitVec 32)).length = 1024 ∧ ([(3, [])] : Panel).length ≤ 32 := by decide +kernel

theorem wit_SpillsComplete :
    (let s := owner (ks id)
     let c := s.here
     let p := s.setHere { c with engine := { c.engine with oclass := 1, waiting := [1], grant := some 1 }, b1 := { c.b1 with prio := 2 } }
     p.here.engine.grant = some 1 ∧ (p.core 0x800).maySpill ((p.core 0x800).berth 1).mclass = true ∧ p.here.engine.flight = none ∧ p.here.engine.progress = none) ∧ (ks id).memWf ∧ (5 : Nat) ≤ 5 ∧
    (∀ a ∈ (owner (ks id)).here.engine.acc.toList, a ≠ .empty → a.elems.length = 1024) := by unfold State.memWf; decide +kernel

theorem wit_SlotWaits : let sp : Spill := ⟨1, 0, 1, [2, 0, 0, 0], none, none, false, none⟩
    let s := two 1 id (fun b => { b with mspill := setF 0 63 1 1 }) fun c => { c with engine := { c.engine with slot := some sp, waiting := [1] } }
    s.here.engine.slot = some sp ∧ s.here.engine.held = false ∧ s.here.slotWaits = true := by decide +kernel

/-- Rill cores 0 and 1, whose B1s form a gang; core 1's has arrived when `w`. -/
def gangOf (w : Bool) (g : Gang) : State :=
  let s := us fun b => { b with gang := some g }
  s.setCore 0x801 { s.here with b1 := { s.here.b1 with wait := if w then .gang else .none } }

theorem wit_GangsComplete : let g : Gang := ⟨1, [0x800, 0x801], 0, 0, none⟩
    (us id).endPending.here.engine.held = false ∧ (us id).me.gang = none ∧ getF (us id).here.geom 8 3 = 0 ∧ (us id).ready [] [.g 3] = true ∧ (us id).cb < 2 ∧
    (us fun b => { b with gang := some g, wait := .done 2 0 }).me.wait = .done 2 0 ∧
    (gangOf false g).me.gang = some g ∧ ((gangOf false g).berthAt 0x801 1).wait = .none ∧ g.members.Nodup ∧
    ((gangOf true g).berthAt 0x801 1).wait = .gang ∧ ((gangOf true g).berthAt 0x801 1).gang = some g ∧
    (gangOf true g).me.sameGang ((gangOf true g).berthAt 0x801 1) = true ∧
    matState.ready [.g 1] [] = true ∧ (okAnd (tileHeader matState.endPending 1 (matState.gv [.g 1] 0)) fun _ => true) = true ∧
    (let p : Packet :=
       { src := 0x801, dst := 0x800, ctx := 0, ranked := false, drank := 0, srank := 0, epoch := false, launch := none, body := .gangb 1 0 }
     ({ ks id with net := [p] } : State).firstPacket 0x801 0x800 4 = some p ∧ p.event = .gangbArrive 0x801 0x800) := by decide +kernel

/-! ## Sampling, grammars, taps, saves -/

/-- A slice of two unmasked logits, 2.0 and 5.0, BASE 6, with T in OX0 and 5.0 in OX3; g3 is u. -/
def sampler (t u : Word) : State :=
  filled [(0x200, 0x40A0000040000000), (0x208, 3)] (ks fun b =>
    ((((put [lm 0x200, 0x00060002, u] b).setOx 0 t).setOx 1 9).setOx 2 0).setOx 3 0x40A00000)

theorem wit_SamplingCompletes : let s := sampler 0 0
    s.cb < 2 ∧ s.me.wait = .none ∧ s.me.gang = none ∧ s.here.bmOn = false ∧ s.ready [.g 1, .g 2, .ox 2] [.g 4] = true ∧
    s.ready [.g 1, .g 2, .ox 0, .ox 2, .ox 3] [.g 4] = true ∧ s.ready [.g 2, .ox 0, .ox 1, .ox 2] [.g 4] = true ∧
    s.ready [.g 1, .g 2, .g 3, .ox 0, .ox 2, .ox 3] [.g 3] = true ∧ (tempOf 0).isSome = true ∧ (tempOf 0x7F800000).isSome = true ∧
    (okAnd (readSlice (s.setMe { s.me with wait := .sample ⟨0, 1, s.gv [.g 1] 0, 0x00060002, 0, 0, 0, 0, 0⟩ })
      ⟨0, 1, s.gv [.g 1] 0, 0x00060002, 0, 0, 0, 0, 0⟩) fun x => x.2 = [some 0x40000000, some 0x40A00000] &&
        sliceMax x.2 = some 0x40A00000 && (weights 0 0x40A00000 x.2) = [0, 1] && hasRoom x.1 [.g 4]) = true := by decide +kernel

/-- The rows of R376's example: greedy, and uniform over what is unmasked. -/
theorem test_smax : gAfter (.smax 4 1 2) (sampler 0 0) 4 = 0x40A00000 := by decide +kernel
theorem test_smass : gAfter (.smass 4 1 2) (sampler 0 0) 4 = 1 ∧ gAfter (.smass 4 1 2) (sampler 0x7F800000 0) 4 = 2 := by decide +kernel
theorem test_sloc : gAfter (.sloc 3 1 2) (sampler 0 0) 3 = 7 ∧ gAfter (.sloc 3 1 2) (sampler 0x7F800000 0) 3 = 6 := by decide +kernel

/-- R383's example: tables at LM offset 0x1000, a block at 0x300 of the given DEPTH and states. -/
def grammar (depth : Nat) (st : Word) (tok : Word) (f : Berth → Berth) : State :=
  let s := filled [(0x300, lm 0x1000), (0x308, lmShadow), (0x310, BitVec.ofNat 64 depth), (0x320, st),
    (0x1000, 0x0000000400000003), (0x1008, 3), (0x1010, 0x40), (0x1018, 0x100), (0x1020, 0x60), (0x1028, 0x80), (0x1030, 0xA0),
    (0x1040, 1), (0x1050, 2), (0x1070, 0x0001000000A8), (0x1080, 0x100000000), (0x1088, 0x100000001), (0x1090, 0x100000002),
    (0x10A0, 0x5D615B), (0x10A8, 2),
    (0x1100 + 8 * 0x5B, 0x0000000200010002), (0x1100 + 8 * (512 + 0x61), 0x0000000100000002), (0x1100 + 8 * (512 + 0x5D), 0x0000000300000000)]
    (ks (f ∘ put [lm 0x300, tok, lm 0x400]))
  (s.putHome (lmLoc 0x800 0x300) (lm 0x1000) 1).putHome (lmLoc 0x800 0x308) lmShadow 1

/-- A grammar instruction's checks pass. -/
def grams (s : State) (p : State → GramBlock → Gram → Bool) : Bool :=
  okAnd (gramBlock s 1 (s.gv [.g 1, .g 2] 0)) fun b => okAnd (gramHeader b.1 b.2) fun g => p g.1 b.2 g.2

theorem wit_GrammarCompletes : let s := grammar 1 0 0 id
    s.cb < 2 ∧ s.ready [.g 1, .g 2] [.g 4] = true ∧ s.ready [.g 1, .g 2, .g 3] [] = true ∧
    grams s (fun t blk g => okAnd (g.walk t blk.stack blk.depth 0) fun w =>
      match w.2 with
      | some (st, n) => n = 2 && okAnd (localPlaces w.1 ⟨s.gv [.g 1] 0, 1, lm 0x300, 160, 2, false, true, false, 16⟩) fun q =>
          okAnd (syncChecks q.1 ((gramStores blk st n).map fun x => (x.2, fieldPlace q.2 x.1))) fun _ => true
      | none => false) = true ∧
    grams (grammar 1 0 1 id) (fun t blk g => okAnd (g.walk t blk.stack blk.depth 1) fun w => w.2.isNone) = true ∧
    (let u := grammar 2 0x20001 4 id
     grams u (fun t blk g => okAnd (allowedTokens t blk g 0 4) fun x => x.2 = [1, 2] &&
      okAnd (localPlaces x.1 ⟨u.gv [.g 3] 0, 3, lm 0x400, sliceLen 4, 2, false, true, false, 8⟩) fun q =>
        okAnd (storeCheck q.1.cur q.1 (q.2.filter fun p => (lm 0x400).toNat + maskOff 4 ≤ p.1.va)) fun _ => true) = true) := by decide +kernel

theorem test_grstep : gAfter (.grstep 4 1 2) (grammar 1 0 0 id) 4 = 0 ∧
    (after (.grstep 4 1 2) (grammar 1 0 0 id)).homeWord (lmLoc 0x800 0x310) = (2, 0) ∧
    (after (.grstep 4 1 2) (grammar 1 0 0 id)).homeWord (lmLoc 0x800 0x320) = (0x20001, 0) ∧
    (after (.grstep 4 1 2) (grammar 2 0x20001 2 id)).homeWord (lmLoc 0x800 0x310) = (1, 0) := by decide +kernel
theorem test_grmask : (after (.grmask 3 1 2) (grammar 2 0x20001 4 id)).homeWord (lmLoc 0x800 0x410) = (6, 0) ∧
    (after (.grmask 3 1 2) (grammar 1 0 4 id)).homeWord (lmLoc 0x800 0x410) = (1, 0) := by decide +kernel

theorem wit_GrammarWalk : grams (grammar 2 0x20001 4 id) (fun t blk g =>
    let top := blk.stack.getD 1 (0, 0)
    top.1 = 2 && top.1 < g.nstates && okAnd (g.read t (g.pool + 1) 1) fun r => r.2 = 0x61 &&
      okAnd (g.read r.1 (g.trans + 8 * (256 * 2 + 0x61)) 8) fun e => e.2 = 2 ^ 32 + 2 && e.2 / 2 ^ 34 = 0) = true := by decide +kernel

theorem wit_TapsComplete : (ks (put [lm 0x400, 0])).cb < 2 ∧ (ks id).here.tapOn = false ∧ (ks (put [lm 0x400, 0])).ready [.g 1, .g 2] [.g 4] = true ∧
    (two 0 id id fun c => { c with tapen := 0x4001 }).here.tapOn = true ∧ (([(0, 5), (1, 6)] : List (Nat × Nat)).map (·.1)).Nodup := by
  decide +kernel

/-- B0 handling an entry of a stopped B1, whose save area is at LM offset 0x5000; g2 selects. -/
def saving (sel : Word) : State :=
  two 0 (fun b => put [lm 0x5000, sel] { b with status := setF b.status 10 2 1 }) (fun b => (put [6, 7] { b with stopped := true, epc := 0x10000 }).setK 2 9) id

theorem wit_ThreadSavesComplete : let s := saving 4
    s.cb = 0 ∧ s.kern = true ∧ s.here.b0.tb = 1 ∧ s.here.b1.occupied = true ∧ s.here.b1.stopped = true ∧ s.inside s.cur 1 = false ∧ s.here.away = false ∧
    s.ready [.g 1, .g 2] [] = true ∧ (s.wv [.g 1, .g 2] 1).toNat % 32 = 4 ∧
    (okAnd (storeArea s ⟨s.gv [.g 1] 0, 1, lm 0x5000, 4096, 2, false, true, false, 64⟩
      (saveWords s.here.b1 (s.here.b1.leaseNow s.time) s.here.geom 4)) fun _ => true) = true ∧
    (let u := saving 20
     (u.wv [.g 1, .g 2] 1).toNat % 32 = 20 ∧ (okAnd (storeArea u ⟨u.gv [.g 1] 0, 1, lm 0x5000, 4096, 2, false, true, false, 64⟩
      (saveWords u.here.b1 (u.here.b1.frozenLease u.time) u.here.geom 20)) fun _ => true) = true) := by decide +kernel

theorem wit_Restores : let s := { after (.gsave 1 2) (saving 4) with cb := 0 }
    s.kern = true ∧ s.here.b1.occupied = true ∧ s.here.b1.stopped = true ∧ s.inside s.cur 1 = false ∧ s.ready [.g 1, .g 2] [] = true ∧
    (okAnd (loadArea s ⟨s.gv [.g 1] 0, 1, lm 0x5000, 4096, 1, true, false, false, 64⟩ (loadOffs 4)) fun x =>
      (areaWord x.2 0xC58).getLsbD 2 && x.1.here.b1.occupied) = true := by decide +kernel

/-- The system range of a saved thread, for an empty B1. -/
def vacated : State :=
  let s := after (.gsave 1 2) (saving 8)
  { s with cb := 0 }.setHere { s.here with b1 := Berth.vacant }

theorem wit_Restores_empty : let s := vacated
    s.cb = 0 ∧ s.kern = true ∧ s.here.b0.tb = 1 ∧ s.cur ≠ 0x808 ∧ s.here.b1.occupied = false ∧ s.here.away = false ∧
    s.ready [.g 1, .g 2] [] = true ∧ 8 ≤ (s.wv [.g 1, .g 2] 1).toNat % 16 ∧
    (okAnd (loadArea s ⟨s.gv [.g 1] 0, 1, lm 0x5000, 4096, 1, true, false, false, 64⟩ (loadOffs 8)) fun x =>
      (areaWord x.2 0xC58).getLsbD 3 && !x.1.here.b1.occupied) = true := by decide +kernel

theorem test_grst_empty : let b := (after (.grst 1 2) vacated).here.b1
    b.occupied = true ∧ b.stopped = true ∧ b.epc = 0x10000 := by decide +kernel

theorem test_gsave_grst : let s := { after (.gsave 1 2) (saving 4) with cb := 0 }
    let c := s.setHere { s.here with b1 := { Berth.vacant with occupied := true, stopped := true, nnode := 0x800 } }
    (after (.grst 1 2) c).here.b1.getK 2 = ⟨9, true⟩ := by decide +kernel

/-! ## Homes, caches, copies -/

/-- A DRAM word under key slot 0, and a word of core 1's LM. -/
def dramKeyOf (a : Nat) : Word := BitVec.ofNat 64 (keyLoc a 0 0).key

theorem wit_HomeOperationsComplete : let s := filled [(16, 5)] (ks id)
    let l := keyLoc (lmLoc 0x800 16).key 0 0
    let d := keyLoc 0x4000000 0 0
    d.kind ≠ .lm ∧ (s.takeHome 0x800 d).homeWord d = (0, 0) ∧ isRill 0x800 = true ∧ isRill (lmNode l.key) = true ∧ s.reachable (lmNode l.key) = true ∧
    (s.core (lmNode l.key)).resident 0 0 = true ∧ (s.takeHome 0x800 l).homeWord l = (5, 0) ∧
    (okAnd (s.lrw 0x800 l (s.identAt 0x800 0).1 (s.identAt 0x800 0).2 0x800 0 0 16 0) fun x => x.2.isSome) = true ∧
    (okAnd ((held false s).lrw 0x800 l (s.identAt 0x800 0).1 (s.identAt 0x800 0).2 0x800 0 0 16 0) fun x => x.2.isNone) = true ∧
    (okAnd ((held true s).sch 0x800 l (s.identAt 0x800 0).1 (s.identAt 0x800 0).2 true 9) fun _ => true) = true ∧
    (okAnd (s.barrier 0x800 0 0 l 1 0) fun x => match x.2 with | .val _ => true | _ => false) = true ∧
    (okAnd ((bar 1 1 0 0 s).barrier 0x800 0 0 l 2 0) fun x => match x.2 with | .waits _ => true | _ => false) = true ∧
    (s.readHome l).2 = (5, 0) ∧ waitPasses true (halfOf 5 l) 4 = true ∧ waitPasses true (halfOf 5 l) 5 = false ∧
    ((s.setBerthAt 0x800 0 { s.berthAt 0x800 0 with wait := .home none 0x800 }).berthAt 0x800 0).wait.isHome = true ∧ l.key % 4 = 0 ∧
    (s.homeWord l).2 < 2 ∧ (((mem2 5 0 2 s).takeHome 0x800 l).homeWord l).2 = 2 ∧ (((mem2 5 0 3 s).takeHome 0x800 l).homeWord l).2 = 3 ∧
    (match (mem2 5 0 3 s).sch 0x800 l 0x800 0 true 9 with | .error (c, _) => c = .poison | .ok _ => false) = true ∧
    (match (held true s).barrier 0x800 0 0 l 1 0 with | .error (c, _) => c = .barstate | .ok _ => false) = true ∧
    ((mem2 5 0 3 s).readHome l).2 = (5, 3) ∧
    (let t := (bar 1 1 0 0 s).setBerthAt 0x800 0 { s.berthAt 0x800 0 with wait := .home (some (3, 0)) 0x800 }
     (okAnd (t.barrier 0x800 0 0 l 2 0) fun x => (x.1.berthAt 0x800 0).wait = .home (some (3, 0)) 0x800 &&
       match x.2 with | .waits _ => true | _ => false) = true) ∧
    ((s.setBerthAt 0x800 0 { s.berthAt 0x800 0 with wait := .word 8 true 3 }).berthAt 0x800 0).wait = .word 8 true 3 ∧
    waitPasses true 4 3 = true ∧ waitPasses true 3 3 = false ∧ (s.homeWord l).2 ≠ 2 ∧ s.words = [] := by decide +kernel

/-- An LRW of a granule whose word 0 is POISON is refused. -/
theorem wit_HomeRefusals : let s := (ks id).putHome (lmLoc 0x800 16) 0 3
    (match s.lrw 0x800 (lmLoc 0x800 16) 0x800 0 0x800 0 0 16 0 with | .error (c, _) => c = .poison | .ok _ => false) = true := by decide +kernel

theorem wit_HomeLoga : let s := ranked 0 0 (ks id)
    (match place (lm 16).toNat, place 0xF00000000010 with | .alias_ _, .window r k => r = 0 && k = 16 | _, _ => false) = true ∧
    (okAnd (s.logaTarget 0x800 (keyLoc (lmLoc 0x800 16).key 0 0)) fun t =>
      okAnd (t.appendLog 0x800 0 true 0xF00000001000 1 64 ⟨0, 0xF00000000010, 7, 3, 1⟩) fun _ => true) = true ∧
    (match (s.putHome (lmLoc 0x800 16) 5 2).logaTarget 0x800 (keyLoc (lmLoc 0x800 16).key 0 0) with
      | .error (c, _) => c = .syncstore | .ok _ => false) = true ∧
    (match (s.putHome (lmLoc 0x800 0x3008) 0 3).appendLog 0x800 0 true 0xF00000001000 1 64 ⟨0, 0xF00000000010, 7, 3, 1⟩ with
      | .error (.bad c, a) => c = .poison && a = 0xF00000003008 | _ => false) = true ∧
    (match (s.putHome (s.rankLoc 0 1) 0xC000000000040800 0).appendLog 0x800 0 true 0xF00000021000 1 64 ⟨0, 0xF00000000010, 7, 3, 1⟩ with
      | .error (.wait _, _) => true | _ => false) = true := by decide +kernel

theorem wit_CacheStepsComplete : let s := ks id
    let l := (keyLoc 0x4000008 0 0).lineBase
    let o := s.storeWord 0x800 l 7 0
    (keyLoc 0x4000008 0 0).kind ≠ .lm ∧ (∀ j < 8, s.ownersOf (l.key / 8 + j) = []) ∧ (s.core 0x800).l1 = [] ∧
    roomToFill s 0x800 l = true ∧ (o.core 0x800).pinned.contains (l.key / 64) = false ∧
    (({ s with cores := [(0x800, { (ks id).here with
      engine := { Engine.free with flight := some ⟨0, 0, 0, [], false, [l.key / 64], none, false⟩ } })] } : State).core 0x800).pinned.contains (l.key / 64) = true ∧
    (match (paged s).translate 0x800 0 0x10000 with | .error _ => false | .ok _ => true) = true ∧
    0x800 ∉ s.ownersOf (l.key / 8) ∧ 0x800 ∈ o.ownersOf (l.key / 8) ∧ (s.core 0x800).pinned.contains 5 = false ∧
    (match s.translate 0x800 0 0x1000 with | .error _ => true | .ok _ => false) = true ∧
    s.memWf ∧ s.silt.valid = false ∧ s.silt.en = false ∧ s.words = [] ∧ (keyLoc (lmLoc 0x800 16).key 0 0).kind = .lm := by
  unfold State.memWf; decide +kernel

theorem wit_ColumnsComplete : let s : State := { ks id with l2Busy := true, l2Cur := 3 }
    s.l2Busy = true ∧ s.l2Cur = (3 : BitVec 3).toNat ∧ (ks id).l2Busy = false ∧ (ks id).tstate = 2 ∧ State.reset.tstate ≠ 2 ∧
    ((0xEE : BitVec 8).getLsbD 0 = false ∧ (0xEE : BitVec 8).getLsbD 4 = false) ∧
    ∀ i < 4, (0x0F : BitVec 8).getLsbD i = true ∨ (0x0F : BitVec 8).getLsbD (i + 4) = true := by decide +kernel

/-- A copy of two words inside the alias, accepted, and the same when it has moved. -/
def copyOf (moved : Bool) : CopyEntry :=
  ⟨0, .copy, 0, ⟨lm 0, 0, .data⟩, ⟨lm 0x20, 0, .data⟩, 16, 48, false, false, 0, 0, none, GReg.zero, [], 0, 0, true, none, moved, moved,
    if moved then 1 else 0, 0, 0, []⟩

def copying (moved : Bool) : State :=
  filled [(0, 5), (8, 6)] (two 0 id id fun c => { c with fifo := [copyOf moved] })

theorem wit_CopiesMove : let s := copying false
    let e := copyOf false
    s.workable 0x800 = [e] ∧ e.kind = .copy ∧ e.len ≠ 0 ∧ e ∈ (s.core 0x800).fifo ∧
    (∀ j < 2, s.latent (lmLoc 0x800 (8 * (0 + j))) = false) ∧ (copying true).workable 0x800 = [] ∧
    (∀ x ∈ ((copying true).core 0x800).fifo, x.moved = true) ∧
    (s.transfer 0x800 e).again = none ∧ (copyOf true).notify = false ∧ (copyOf true).bar = none ∧ (copyOf true).tag = (48 : BitVec 6).toNat ∧
    ((copying true).core 0x800).fifo.find? (fun x => x.tag = 48 && x.moved && decide (x.kind = .merge) = false) = some (copyOf true) ∧
    ((copying true).core 0x800).tagStatus 48 = 0 ∧ s.memWf ∧ s.silt.valid = false ∧ e.ctx = (s.core 0x800).ctxid ∧
    e.src.val = BitVec.ofNat 64 (0xF80000000000 + 8 * 0) ∧ e.dst.val = BitVec.ofNat 64 (0xF80000000000 + 8 * 4) ∧ e.len = 8 * 2 ∧
    (0 + 2 ≤ 4) ∧ (∀ j < 2, (mget s.tags ((2 ^ 49 + 0x800 * 2 ^ 17 + 8 * (0 + j)) / 8)).toNat = 0 ∧
      (mget s.tags ((2 ^ 49 + 0x800 * 2 ^ 17 + 8 * (4 + j)) / 8)).toNat = 0) := by unfold State.memWf; decide +kernel

/-- A merge that has moved, and a start held back by an earlier ordered entry. -/
theorem wit_OtherEntries : let m : CopyEntry := { copyOf true with kind := .merge }
    let s := two 0 id id fun c => { c with fifo := [m] }
    (s.core 0x800).fifo.find? (fun x => x.tag = 48 && x.moved && decide (x.kind = .merge) = true) = some m ∧
    (let e : CopyEntry := { copyOf false with id := 1, ordered := true }
     let t := two 0 id id fun c => { c with fifo := [{ copyOf false with started := true }, e] }
     t.workable 0x800 = [{ copyOf false with started := true }] ∧ e.moved = false) ∧
    (let t := two 0 id id fun c => { c with fifo := [{ m with moved := false }] }
     t.workable 0x800 = [] ∧ ∃ x ∈ (t.core 0x800).fifo, x.moved = false) ∧
    (let t := two 0 id id fun c => { c with fifo := [{ m with moved := false, started := false }] }
     t.workable 0x800 = [{ m with moved := false, started := false }]) ∧
    (let e : CopyEntry := { copyOf false with src := ⟨0xF00000020000, 0, .data⟩ }
     let t := ranked 0 0 (ks id)
     (((t.putHome (t.rankLoc 0 1) 0xC000000000040800 0).transfer 0x800 e).again).isSome = true) := by decide +kernel

theorem test_copy_moves : ((copying false).moveBytes 0x800 (copyOf false)).homeWord (lmLoc 0x800 0x28) = (6, 0) := by decide +kernel
theorem test_copy_completes : (after (.copyComplete 0x800 48) (copying true)).here.tags.getLsbD 48 = true ∧
    (after (.copyComplete 0x800 48) (copying true)).here.fifo = [] := by decide +kernel

theorem wit_MergePasses : let m : CopyEntry := { copyOf false with kind := .merge, started := true }
    let s := ranked 0 0 (two 0 id id fun c => { c with fifo := [m] })
    (s.core 0x800).fifo.find? (fun x => x.tag = (48 : BitVec 6).toNat && x.kind = .merge && x.started && !x.moved) = some m ∧
    (match s.logPlace 0x800 0 true 0xF00000000010 with | .ok l => l.kind = .lm && l.key % 4 = 0 && s.homeWord l = (0, 0) | .error _ => false) = true ∧
    (match (s.putHome (lmLoc 0x800 16) 0 3).logPlace 0x800 0 true 0xF00000000010 with
      | .ok l => ((s.putHome (lmLoc 0x800 16) 0 3).homeWord l).2 = 3
      | .error _ => false) = true := by decide +kernel

/-! ## The network -/

/-- A packet from core 1 to core 0's rank 0, and the state in which it arrives. -/
def pkt (b : Body) : Packet :=
  { src := 0x801, dst := 0x800, ctx := 0, ranked := true, drank := 0, srank := 5, epoch := false, launch := none, body := b }

def carrying (b : Body) (s : State) : State := { s with net := [pkt b] }

theorem wit_MessagesArrive : let s := carrying (.nmsg aMsg) (us id)
    let v : PVal := ⟨7, 0, false, 0, 0, 0⟩
    s.firstPacket (0x801 : BitVec 12).toNat (0x800 : BitVec 12).toNat (pkt (.nmsg aMsg)).body.vn = some (pkt (.nmsg aMsg)) ∧ s.reachable 0x800 = true ∧
    s.headerOk 0 = true ∧ (s.putHome (s.headerLoc 0 88) 1 0).headerOk 0 = false ∧ (pkt (.nmsg aMsg)).ctx = (s.core 0x800).ctxid ∧ (pkt (.nmsg aMsg)).drank = (s.core 0x800).rank ∧ (s.core 0x800).hold = false ∧
    (s.core 0x800).inbox.length < 32 ∧ (s.core 0x800).urgent.length < 8 ∧
    ({ s with cores := [] } : State).reachable 0x20 = false ∧
    (carrying (.umsg aMsg) (us id)).firstPacket 0x801 0x800 (pkt (.umsg aMsg)).body.vn = some (pkt (.umsg aMsg)) ∧
    (carrying (.gport 5 v) (us id)).firstPacket 0x801 0x800 (pkt (.gport 5 v)).body.vn = some (pkt (.gport 5 v)) ∧
    (carrying (.vport 9 v) (us id)).firstPacket 0x801 0x800 (pkt (.vport 9 v)).body.vn = some (pkt (.vport 9 v)) ∧
    ((us id).core 0x800 |>.port 5).inq.length < 8 ∧ ((us id).core 0x800 |>.port 9).inq.length < 4 := by decide +kernel

theorem test_message : ((after (.nmsgArrive 0x801 0x800) (carrying (.nmsg aMsg) (us id))).here.inbox.map (·.w2)) = [3] := by decide +kernel

/-- A Torrent core on which a rank-addressed packet is acknowledged. -/
theorem wit_Acknowledged : let s : State := { torrent id id with groups := State.reset.groups.map fun g => { g with state := 0 }
                                                                 net := [{ pkt (.nmsg aMsg) with dst := 0x20 }] }
    s.reachable 0x20 = true ∧ isRill 0x20 = false ∧ s.firstPacket 0x801 0x20 (pkt (.nmsg aMsg)).body.vn = some { pkt (.nmsg aMsg) with dst := 0x20 } ∧
    (s.core 0x20).ctxid = 0 ∧ (s.core 0x20).rank = 0 ∧ (s.core 0x20).hold = false := by decide +kernel

theorem wit_PortValuesLeave : let o (peer : Bool) : OutVal := ⟨⟨7, 0, false, 0, 0, 0⟩, ⟨peer, 0, 2, 3⟩, 0, none, 1⟩
    let s (peer : Bool) := ranked 2 1 (two 1 id id fun c => c.setPort 1 { Port.empty with outq := [o peer] })
    (((s true).core 0x800).port (1 : BitVec 4).toNat).outq = [o true] ∧
    ({ s true with links := (s true).links.setIfInBounds 0 .paired } : State).links[0]? = some .paired ∧
    (let t := torrent (fun c => c.setPort 1 { Port.empty with outq := [o false] }) (ranked 2 1)
     ((t.core 0x20).port 1).outq = [o false] ∧ isRill 0x20 = false ∧ (t.findRank 0x20 0 2).2 = .valid 0x801 ∧
      (t.findRank 0x20 0 3).2 = .invalid) := by decide +kernel

theorem wit_RemoteAccessesServed : let q : RwReq := ⟨0x17FF8, 8, .load, 0, 0, false⟩
    let s := carrying (.rwreq 1 q) (us id)
    s.firstPacket 0x801 0x800 (pkt (.rwreq 1 q)).body.vn = some (pkt (.rwreq 1 q)) ∧ s.reachable 0x800 = true ∧
    (s.core 0x800).resident 0 0 = true ∧ ((two 1 id id fun c => { c with rank := 3 }).core 0x800).resident 0 0 = false ∧
    (s.loadWord 0x800 (lmLoc 0x800 0x17FF8)).2 = (0, 0) ∧
    (let u := carrying (.rwrsp 1 (.ok 9 0 false)) (us fun b => { b with wait := .remote })
     u.firstPacket 0x801 0x800 (pkt (.rwrsp 1 (.ok 9 0 false))).body.vn = some (pkt (.rwrsp 1 (.ok 9 0 false))) ∧ (u.berthAt 0x800 1).wait = .remote) ∧
    ((us fun b => { b with wait := .absent }).berthAt 0x800 1).wait = .absent ∧
    ((us fun b => { b with wait := .home none 0x800, rsp := [.ok 0 0 false] }).berthAt 0x800 1).rsp ≠ [] ∧
    ((us fun b => { b with wait := .home none 0x800 }).berthAt 0x800 1).wait.isHome = true ∧
    (let u := carrying (.dack true) (us id)
     (u.net.find? fun k => k.dst = 0x800 && k.body = .dack true && u.firstPacket k.src 0x800 4 = some k) = some (pkt (.dack true))) := by decide +kernel

/-! ## Threads on the move, power, the host -/

/-- A packet from core 1 to core 0's rank 0. -/
def packetOf (b : Body) : Packet :=
  { src := 0x801, dst := 0x800, ctx := 0, ranked := true, drank := 0, srank := 0, epoch := false, launch := none, body := b }

def aThread (nnode : Nat) : Thread :=
  { pc := 0x4000, g := Berth.vacant.g, v := Berth.vacant.v, k := Berth.vacant.k, status := 0, arith := 0, vstat := 0, repst := 0
    nnode := nnode, nrank := 0, tdep := 0, launch := none, task := 0, trap := none, bounced := false }

theorem wit_ThreadsArrive :
    (let s := ranked 2 1 (us id)
     let b := s.berthAt 0x800 1
     (s.findRank 0x800 (s.core 0x800).ctxid 2).2 = .valid 0x801 ∧ ({ s with cur := 0x800, cb := 1 } : State).sendsOpen 6 = false ∧ b.occupied = true ∧ b.stopped = false ∧ b.wait = .none ∧ b.rsp = [] ∧
     b.gang = none ∧ b.mspill.getLsbD 63 = false) ∧
    (let s := ks id
     s.reachable 0x800 = true ∧ (s.core 0x800).resident 0 0 = true ∧ (s.core 0x800).noguest = false ∧ (s.core 0x800).b2.occupied = false ∧
     ((two 2 id id fun c => { c with b2 := { c.b1 with nnode := 0x801 } }).core 0x800).b3.occupied = false) ∧
    (let c := (two 0 id (fun _ => Berth.vacant) fun c => { c with away := true }).core 0x800
     c.away = true ∧ c.resident 0 0 = true ∧ c.recalled = false) ∧
    ((us fun b => { b with wait := .arrive 0 none false }).berthAt 0x800 1).wait = .arrive 0 none false ∧ timePassed 8 0 = true ∧ timePassed 7 0 = false ∧
    ((us fun b => { b with wait := .arrive 0 (some (.poison, 8)) false }).berthAt 0x800 1).wait = .arrive 0 (some (.poison, 8)) false ∧
    ((us fun b => { b with wait := .arrive 0 none true }).berthAt 0x800 1).wait = .arrive 0 none true ∧
    timePassed ({ us id with time := 8 } : State).time 0 = true ∧
    ((us fun b => { b with wait := .retry }).berthAt 0x800 1).wait = .retry := by decide +kernel

theorem wit_thread_packets : let p := packetOf (.mig (aThread 0x801))
    let q := packetOf (.evict (aThread 0x800))
    ({ ks id with net := [p] } : State).firstPacket 0x801 0x800 p.body.vn = some p ∧ p.ranked = true ∧
    ({ ks id with net := [q] } : State).firstPacket 0x801 0x800 q.body.vn = some q := ⟨rfl, rfl, rfl⟩

theorem test_guest_enters : ((after (.migArrive 0x801 0x800) { ks id with net := [packetOf (.mig (aThread 0x801))] }).core 0x800).b2.pc = 0x4000 := by
  decide +kernel

theorem wit_TlbiSteps : let q : TlbiReq := ⟨3, 0x801, 0, 0, 7, 0, [0x800]⟩
    let s : State := { ks id with tlbis := [q] }
    (s.tlbis.find? fun r => r.id = (3 : BitVec 16).toNat) = some q ∧ s.reachable 0x800 = true ∧ (s.core 0x800).tlbiAck = none ∧
    s.reachable 0x20 = false ∧ s.tlbiBefore 0x800 q = false ∧ (s.core 0x800).heldPkts = [] ∧
    ({ s with tlbis := [⟨2, 0x801, 0, 0, 7, 0, [0x800]⟩, q] } : State).tlbiBefore 0x800 q = true ∧
    (let t : State := { two 0 id id fun c => { c with tlbiAck := some 3 } with tlbis := [q] }
     (t.core 0x800).tlbiAck = some 3 ∧ (t.core 0x800).drained = true) := by decide +kernel

theorem wit_CoresStart : ((ks id).core 0x801).power = .off ∧ ((ks id).core 0x800).power = .run ∧
    ((two 0 id id fun c => { c with power := .ret }).core 0x800).power = .ret := by decide +kernel

/-- The state with one group's registers changed. -/
def group0 (f : Group → Group) (s : State) : State := { s with groups := s.groups.setIfInBounds 0 (f (s.groups[0]?.getD Group.reset)) }

theorem wit_HandshakeSteps :
    (let s := group0 (fun g => { g with quiesce := true }) (ks id)
     (s.group 0).quiesce = true ∧ (s.group 0).quiesced = false ∧
     (∀ n ∈ groupNodes 0, (((groupNodes 0).foldl State.quiesceCore s).core n).quiet = true)) ∧
    (let s := group0 (fun g => { g with quiesced := true }) (ks id)
     (s.group 0).quiesced = true ∧ (s.group 0).drained = false ∧ ∀ n ∈ groupNodes 0, (s.core n).fifo = [] ∧ (s.core n).engine.flight = none) ∧
    (∀ e ∈ (ks id).agenda, e.isRetSave = false) ∧
    (∃ e ∈ ({ ks id with agenda := [.gretSaveRetain 3] } : State).agenda, e.isRetSave = true) ∧
    (let s := group0 (fun g => { g with saved := true, quiesce := true, wakeBy := 0 }) (ks id)
     (s.group 0).wakeBy = 0 ∧ (s.group 0).saved = true ∧ (s.group 0).quiesce = true) ∧
    (let s := group0 (fun g => { g with gate := true, saved := true, img := false, rail := 2, railok := true }) (ks id)
     (s.group 0).gate = true ∧ (s.group 0).saved = true ∧ (s.group 0).img = false ∧ (s.group 0).rail = 2 ∧ (s.group 0).railok = true) := by
  decide +kernel

theorem test_gate_order : ((after (.gclkGateWrite 1) (group0 (fun g => { g with gate := false, saved := false }) (ks id))).group 0).seqerr = true ∧
    ((after (.gclkGateWrite 1) (group0 (fun g => { g with gate := false, saved := false }) (ks id))).group 0).gate = false := by decide +kernel

theorem wit_WakingSteps : (ks id).arm.getLsbD 16 = false ∧ ({ ks id with arm := 0x10000 } : State).arm.getLsbD 16 = true ∧
    ({ ks id with arm := 8 } : State).arm.getLsbD (3 : BitVec 4).toNat = true ∧ (ks id).arm.getLsbD (3 : BitVec 4).toNat = false ∧
    (∀ n ∈ groupNodes 0, ((ks id).core n).atNi = []) ∧ (ks id).tstate = 2 ∧ ((ks id).inStep 0 = false) ∧
    ((group0 (fun g => { g with wakeBy := 1 }) (ks id)).group 0).wakeBy ≠ 0 ∧ ((ks id).group 0).quiesce = false ∧
    ((group0 (fun g => { g with quiesce := true }) (ks id)).group 0).quiesce = true ∧ (ks id).l2 = [] ∧
    ((group0 (fun g => { g with quiesce := true, quiesced := false }) (ks id)).inStep 0 = true) ∧
    (let s : State := { ks id with srallow := true, tstate := 0 }
     s.srallow = true ∧ s.tstate ≠ 2) ∧ (ks id).allDown = true ∧ (∀ g < 32, ((ks id).group g).wakeBy = 0) ∧ (ks id).net = [] ∧
    (∀ g < 32, ((ks id).group g).state = 2) ∧
    (∃ g < 32, ((group0 (fun g => { g with state := 1 }) (ks id)).group g).state = 1) := by decide +kernel

/-- A move in a phase. -/
def moving (p : Nat) : State := (ranked 0 0 (ks id)).setPortage { State.reset.portage with phase := p }

theorem wit_PortageSteps : (moving 0).portage.phase = 0 ∧ (moving 1).portage.phase = 1 ∧ (moving 1).atBoundary = false ∧
    (moving 2).fenced = true ∧ (moving 2).portage.run.getLsbD 41 = false ∧ (moving 2).ctxCores 0 = [0x800] ∧
    (∀ n ∈ (moving 2).ctxCores 0, ∀ e ∈ ((moving 2).core n).fifo, e.ctx ≠ 0) ∧ (moving 3).ranks 0 = [0] ∧
    (let s := (moving 3).setPortage { State.reset.portage with phase := 3, arg := 0x200000 }
     let t := s.putHome (physLoc false 0x200000 0 0) 0x8000000000040800 0
     (match t.rankEntry (t.targetEntry 0) with | .valid k => k = 0x800 | _ => false) = true) ∧
    (let s := (two 0 id (fun _ => Berth.vacant) id).setPortage { State.reset.portage with phase := 1 }
     s.atBoundary = true) ∧
    (let s := { moving 4 with tlbis := [⟨9, 0x840, 0, 0, 0, 0, [0x800]⟩] }.setPortage { State.reset.portage with phase := 4, waitTlbi := [9] }
     s.fenced = false) ∧ (∃ r ∈ (moving 3).ranks 0, (moving 3).rankEntry ((moving 3).targetEntry r) = .invalid) := by decide +kernel

theorem wit_RecorderSteps : (ks id).silt.frozen = false ∧ (ks id).silt.valid = false ∧ (ks id).silt.build = false ∧
    ({ ks id with silt := { (ks id).silt with frozen := true } } : State).silt.frozen = true ∧
    (let s : State := { two 0 id id fun c => { c with freezeF := some 4 } with time := 7 }
     (s.core 0x800).freezeF = some 4 ∧ (4 : Word).toNat + 2 < (s.timeAt 0x800).toNat) ∧
    (let s : State := { two 0 id id fun c => { c with ringStopped := true } with silt := { (ks id).silt with build := true } }
     s.silt.build = true ∧ ∀ p ∈ s.cores, p.2.power ≠ .off → (s.core p.1).ringStopped = true) := by decide +kernel

theorem wit_MailboxCommands : State.reset.boot = 0 ∧ (ks id).boot = 1 ∧ (ks id).silt.valid = false ∧
    (12 : BitVec 64).toNat ≤ 12 ∧ (0x1000 : BitVec 64).toNat + 64 + 64 * 2 ^ 12 ≤ 24 * 2 ^ 20 ∧ 12 < (13 : BitVec 64).toNat ∧
    ({ ks id with spdm := { (ks id).spdm with session := some [1], established := true } } : State).spdm.established = true ∧
    (0xF0001 : BitVec 64).toNat % 2 ^ 12 ≠ 0 ∧ (0xF0001 : BitVec 64).toNat / 2 ^ 16 % 2 ^ 16 < 16 ∧
    (5 : BitVec 64).toNat < 2 ^ 12 ∧ (0x1000 : BitVec 64).toNat % 2 ^ 12 = 0 ∧ (0x1000 : BitVec 64).toNat + (2 ^ 26 - 4096) ≤ 2 ^ 47 := by
  decide +kernel

/-- The Rill dispenser enabled, with a dispatch block at LM offset 0x2000 and a queue table at 0x200000. -/
def launching : State :=
  let s := (ranked 0 0 (ks id)).setDisp 1 { Dispenser.reset [0xFFFF] with en := true, qtab := 0x200000 }
  ((s.putHome (s.headerLoc 0 72) 0xF00000002000 0).putHome (physLoc false 0x200000 0 0) 0x8000000000000000 0).putHome (lmLoc 0x800 0x2040)
    0x8000000000000000 0

theorem wit_HostAccesses : (ks id).tdi = .unlocked ∧ (4095 : BitVec 64).toNat + (1 : BitVec 7).toNat ≤ 4096 ∧ (8 : BitVec 4).toNat ≤ 8 ∧
    2 ^ 26 < (0x4000000 : BitVec 64).toNat + (1 : BitVec 7).toNat ∧ (ks id).window = none ∧
    ({ ks id with window := some (0, 0) } : State).window = some (0, 0) ∧ (ks id).hostRing = none ∧
    (let s : State := { ks id with hostRing := some (0x1000, 2) }
     let h := s.readWord (physLoc true 0x1000 0 0)
     h.2.1 = (h.1.readWord (physLoc true 0x1008 0 0)).2.1) ∧
    (let s : State := { (ks id).putHome (physLoc true 0x1008 0 0) 1 0 with hostRing := some (0x1000, 2) }
     let h := s.readWord (physLoc true 0x1000 0 0)
     h.2.1 ≠ (h.1.readWord (physLoc true 0x1008 0 0)).2.1 ∧ (h.1.readWord (physLoc true 0x1008 0 0)).1.hostPending = none ∧
      (h.1.readWord (physLoc true 0x1008 0 0)).1.boot = 1) ∧
    ({ launching with hostPending := some (1, 0, ⟨0xF00000000000, lmShadow, .cap⟩, 0x4010001) } : State).hostPending ≠ none ∧
    (launching.launch 1 0 ⟨0xF00000000000, lmShadow, .cap⟩ 0x4010001).2 = true := by decide +kernel

theorem wit_SpdmExchange : (ks id).boot = 1 ∧ ({ ks id with spdm := { (ks id).spdm with stage := 3 } } : State).spdm.stage = 3 ∧
    (ks id).spdm.session = none ∧ ({ ks id with tdi := .locked } : State).tdi = .locked := by decide +kernel

theorem wit_LinksAndResets : (ks id).memWf ∧ ({ ks id with links := (ks id).links.setIfInBounds 1 .up } : State).links[1]? = some .up ∧
    ({ ks id with links := (ks id).links.setIfInBounds 1 .down } : State).links[1]? = some .down := by unfold State.memWf; decide +kernel

/-! ## The machine -/

/-- ADD standing where the next step fetches (log 10). -/
def loaded : State := State.reset.withFetchWord 32 0xA6AE81A0

theorem wit_StepKeepsMemory : loaded.memWf ∧ ∃ t, Sys2Proof.Machine.step loaded = .next t := by
  have h : (match Sys2Proof.Machine.step loaded with | .next _ => true | .fault _ => false | .refused _ => false) = true := by
    decide +kernel
  refine ⟨by unfold State.memWf; decide +kernel, ?_⟩
  generalize Sys2Proof.Machine.step loaded = o at h
  cases o with
  | next t => exact ⟨t, rfl⟩
  | fault f => cases h
  | refused r => cases h

theorem wit_DecodeEncode : Instr.wellFormed (.ilv3 40 41 42) = true ∧ encode (.ilv3 40 41 42) = some (32, 0xA6AE81A0) := by decide +kernel

/-- R457's example: two log-adds beside 16777216.0 apply in the order of ranks 1, 2 and 3 (R166). -/
theorem test_log_order : (sortRecs [⟨0, 0, 0x4B800000, 3, 0⟩, ⟨0, 0, 0x3F800000, 1, 0⟩, ⟨0, 0, 0x3F800000, 2, 0⟩]).map (·.rank) = [1, 2, 3] := by
  decide +kernel

/-- R68's example. -/
theorem test_slice : sliceAllOn 0x12345678 = 3 ∧ ({ ks id with l2On := 0xF7 } : State).slice 0x12345678 = 7 := by decide +kernel

theorem wit_StepRunsDecoded : loaded.movers = [.berth 0x800 0] ∧ loaded.choose (.berth 0x800 0) [] = .berth 0x800 0 ∧
    (loaded.turn 0x800 0).me.wait = .none ∧
    (okAnd ((loaded.turn 0x800 0).fetch (loaded.turn 0x800 0).me.pc) fun x =>
      x.2 = 0xA6AE81A0 && (match decodeBits x.2 with | .instr k n => k == .ilv3 40 41 42 && n = 4 | _ => false) && !x.1.me.repAct) = true := by
  decide +kernel

/-- The same with a body instruction inside a repetition. -/
def repeating : State :=
  let s := State.reset.withFetchWord 32 0x2980D226
  s.setCore 0x800 { s.core 0x800 with b0 := { (s.core 0x800).b0 with repst := 0x8000000000000003, seqOn := true } }

theorem wit_step_repeats : repeating.movers = [.berth 0x800 0] ∧ (repeating.turn 0x800 0).me.repAct = true ∧
    (okAnd ((repeating.turn 0x800 0).fetch 0x10000) fun x => repBody x.2) = true := by decide +kernel

/-- A step from the loaded state runs the instruction: ADDI's result stands in its register, its berth goes on after it. -/
theorem test_step : (match Sys2Proof.Machine.step (State.reset.withFetchWord 32 0x00058204) with
    | .next t => (t.core 0x800).b0.pc = 0x10004 && (t.core 0x800).b0.getG 1 = dataReg 5
    | _ => false) = true := by decide +kernel

/-! ## A tap whose table stands in a mapped page -/

/-- Kernel code with TAPEN.EN 1, the table's page at 0x4000 of the private range in the core's TLB, a tile of one row, no probe. -/
def tapping : State :=
  filled (hdr 0x400 (lm 0x1000) 1 1 4 0 2) (two 0 (put [lm 0x400, 0]) id fun c =>
    { c with tapen := 0x4001, tlb := [⟨0, 0x4000, 0x4000, 0x100000, false, 0, false, false, false, true, true⟩] })

/-- With an empty cache the choice whether it has lost its entries makes no difference. -/
theorem mayForget_empty : tapping.mayForget = tapping.drawn := by
  unfold State.mayForget
  split
  · rfl
  · decide +kernel

def tapTile : Tile := ⟨(lm 0x400).toNat, ⟨lm 0x1000, 0, .data⟩, GReg.zero, 1, 1, 4, 0, 0, 2, 0, 0⟩

theorem ok_of {e a : Type} [DecidableEq a] (m : Except e a) (x : a) (h : (okAnd m fun y => decide (y = x)) = true) : m = .ok x := by
  cases m with
  | error _ => exact absurd h (by simp [okAnd])
  | ok y => exact congrArg _ (of_decide_eq_true h)

theorem tap_header : tileHeader tapping 1 (tapping.gv [.g 1, .g 2] 0) = .ok (tapping, tapTile) :=
  ok_of _ _ (by decide +kernel)

theorem tap_map : batchMap tapping = .ok (tapping, 0, 0) := ok_of _ _ (by decide +kernel)

theorem wit_TapReads : (okAnd (tapChecks tapping 1 (tapping.gv [.g 1, .g 2] 0) 0 false) fun x =>
    okAnd (rangeLoads x.1 (x.2.rows.map fun q => q.2.2)) fun y => y.2.length = 1) = true ∧
    (okAnd (tapChecks tapping 1 (tapping.gv [.g 1, .g 2] 0) 0 true) fun x =>
      (x.2.rows.filter fun q => q.2.1).length = 0) = true ∧
    tapping.here.tapOn = true ∧ tapping.ready [.g 1, .g 2] [.g 4] = true ∧ (tapping.wv [.g 1, .g 2] 1).toNat % 64 = 0 := by
  simp only [tapChecks, tap_header, tap_map, bind, Except.bind, tapTile, mayForget_empty]
  decide +kernel

/-! ## Further forms -/

/-- The executing thread holds `n` reservations elsewhere. -/
def reserved (n : Nat) (s : State) : State :=
  { s with resv := (List.range n).map fun k =>
      { gran := (lmLoc 0x800 (0x1000 + 16 * k)).key, node := 0x800, berth := 0, holds := true, waitNode := 0x800, waitBerth := 0, va := 0
        size := 16, ctx := 0, slot := 0 } }

theorem wit_Reservations_again : let s := ks (put [lm 16, 9])
    s.ready [.g 1] [.g 3, .g 4] = true ∧
    granuleAt (held true s) (fun w _ x1 o => o && getF x1 60 4 = 0xA &&
      w.resv.any fun r => r.gran = (lmLoc 0x800 16).key && r.holds && (r.node, r.berth) = w.ident) = true ∧
    granuleAt (reserved 8 s) (fun w _ _ o => !o && 8 ≤ (w.resv.countP fun r => r.node = w.ident.1 && r.berth = w.ident.2) &&
      w.resv.all fun r => r.gran ≠ (lmLoc 0x800 16).key) = true ∧
    (let u : State := { held false s with resv := (held false s).resv.map fun r => { r with holds := false } }
     u.resv.any fun r => r.gran = (lmLoc 0x800 16).key && !r.holds && r.waitBerth < 4) = true := by decide +kernel

theorem test_lrw_again : let s := ks (put [lm 16, 9])
    (let t := after (.lrw 3 1 4) (held true s)
     (t.me.getG 3).val = 7 ∧ (t.me.getG 4).val = 0 ∧ t.resv.length = 1) ∧
    (let t := after (.lrw 3 1 4) (filled [(16, 7)] (reserved 8 s))
     (t.me.getG 3).val = 0 ∧ (t.me.getG 4).val = 2 ∧ t.resv.length = 8) := by decide +kernel

theorem wit_BarriersComplete_seen : let s := ks (put [lm 16, 1])
    granuleAt (barWaiter (bar 2 2 0 0 s)) (fun w _ x1 o => o && getF x1 60 4 = 0xB &&
      w.barriers.any fun r => r.addr = (lmLoc 0x800 16).key && r.sees (keyLoc (lmLoc 0x800 16).key 0 0)) = true ∧
    granuleAt (bar 2 2 0 0 s) (fun w _ x1 o => o && getF x1 60 4 = 0xB && w.barriers.isEmpty) = true := by decide +kernel

/-- PORTB of VW to a v port, and of a port to a rank of the peer (R318). -/
theorem wit_PortsComplete_more :
    (let s := ranked 2 1 (us (put [10, 0x80002]))
     s.ready [.g 1, .g 2] [] = true ∧ (s.wv [.g 1, .g 2] 0).toNat = 10 ∧ (s.here.port 8).outq = [] ∧
     (s.wv [.g 1, .g 2] 1).toNat / 2 ^ 16 % 16 = 8 ∧ (s.wv [.g 1, .g 2] 1).getLsbD 31 = false ∧ (s.wv [.g 1, .g 2] 1).getLsbD 24 = false ∧
     (s.lookRank s.cur s.here.ctxid 2).2 = .valid 0x801) ∧
    (let s := us (put [5, 0x3030003])
     s.ready [.g 1, .g 2] [] = true ∧ (s.wv [.g 1, .g 2] 1).getLsbD 24 = true ∧ (s.wv [.g 1, .g 2] 1).toNat / 2 ^ 16 % 16 = 3 ∧
     (∀ i < 64, (10 ≤ i ∧ i < 16 ∨ 20 ≤ i ∧ i < 24 ∨ 26 ≤ i ∧ i < 31 ∨ 32 ≤ i) → (s.wv [.g 1, .g 2] 1).getLsbD i = false)) ∧
    (us (put [11])).ready [.g 1] [.g 3] = true := by decide +kernel

theorem test_portb_v : ((after (.portb 1 2) (ranked 2 1 (us (put [10, 0x80002])))).here.port 8).bind = .to ⟨false, 0, 2, 6⟩ ∧
    ((after (.portb 1 2) (us (put [5, 0x3030003]))).here.port 5).bind = .to ⟨true, 1, 3, 3⟩ := by decide +kernel

theorem wit_TyieldCompletes_idle : let s := us id
    s.cb = 1 ∧ s.me.gang = none ∧ s.here.idle0 = true ∧ s.here.power = .run ∧ s.here.stoppedBy = false ∧ s.here.away = false ∧
    s.me.occupied = true ∧ s.here.pendSync = none ∧ s.here.urgent = [] ∧ s.here.wakeSrc = none ∧ s.here.b0.timecmp = 0 ∧
    s.me.timecmp = 0 := by decide +kernel

theorem test_tyield_idle : let t := (after .tyield (two 1 id id fun c => { c with tvec := 0x8001 })).here
    t.b1.stopped = true ∧ t.preempt = none ∧ t.b1.epc = 0x10004 ∧ t.b1.cause = Cause.preempt.code ∧ t.b1.eval = 1 ∧ t.idle0 = false ∧
    t.b0.pc = 0x8000 ∧ t.b0.sb = 1 ∧ t.b0.tb = 1 ∧ t.b0.ktrap = false := by decide +kernel
/-- One launch of the Rill dispenser, of one record with the given fate, and a dispatch block at LM offset 0x2000 with a stack capability;
B1 waits for work when `w`. -/
def placing (w : Bool) (f : Fate) : State :=
  let s := (ranked 0 0 (two 0 id (fun b => if w then Berth.vacant else b) id)).setDisp 1 { Dispenser.reset [0xFFFF] with
    en := true, slot := 5
    launches := [⟨2, 0, 0, 0, 1, ⟨0, 0, .data⟩, 0xF00000000000, 7, [f], [], none⟩] }
  (((s.putHome (s.headerLoc 0 72) 0xF00000002000 0).putHome (lmLoc 0x800 0x2000) (lm 0) 1).putHome (lmLoc 0x800 0x2008) lmShadow 1).putHome
    (lmLoc 0x800 0x2010) 256 0

def aTask : Task := ⟨0x4000, 3, 0, false, 0, []⟩

theorem wit_DispenserSteps_places : let s := placing true (.ready 0 aTask)
    let t := placing false (.ready 0 aTask)
    (s.disp 1).en = true ∧ (s.disp 1).launches.map (·.fates) = [[.ready 0 aTask]] ∧ (s.disp 1).reserve = [] ∧ (s.disp 1).prios = [] ∧
    (s.disp 1).slot ≠ 0 ∧ (s.islandCores 1).find? (s.takes 0 3) = some 0x800 ∧ (t.islandCores 1).find? (t.takes 0 3) = none ∧
    (s.cutStack 0 (s.core 0x800).rank).isSome = true ∧ ((s.dispatchBlock 0).bind (s.agentWait 0 ·)).isNone = true := by decide +kernel

theorem test_dispatch : let s := placing true (.ready 0 aTask)
    let t := after (.dispatchSlot 1) s
    ((t.core 0x800).ready.map fun e => (e.q0.val, e.q1.val, e.q2.val, e.q3.val)) =
      [(0x4000000000000000 + (1024 + 2) * 2 ^ 43 + 1, 0x4000, lm 256, 0xF00000000000)] ∧
    (t.disp 1).launches.map (·.fates) = [[.running 1 aTask]] ∧
    (after (.dispatchSlot 1) (placing false (.ready 0 aTask))).cores = (placing false (.ready 0 aTask)).cores := by decide +kernel

/-- The record at LM offset 0x20, of COUNT `n` and entry point `e`, waits for record 0, which has ended. -/
def waitingFor (n e : Word) : State :=
  filled [(0x20, e), (0x30, n)] (launched fun d => { d with launches := d.launches.map fun l => { l with fates := [.ended, .waiting] } })

theorem wit_DispenserSteps_counts : let s (n e : Word) := waitingFor n e
    let u (n e : Word) := (s n e).setDisp 1 { (s n e).disp 1 with ended := [] }
    let l (n e : Word) := ((s n e).disp 1).launches
    (someAnd ((u 0 0x4000).agentLoc 0 (0xF00000000020 + 16) true) fun p => p.kind = .lm &&
      ((u 0 0x4000).takeHome 0x808 p).homeWord p = (0, 0)) = true ∧
    (someAnd ((u 1 0x4000).agentLoc 0 (0xF00000000020 + 16) true) fun p => p.kind = .lm &&
      ((u 1 0x4000).takeHome 0x808 p).homeWord p = (1, 0)) = true ∧
    (l 1 0x4000).map (fun x => (x.index 0 0xF00000000020, x.fate 1)) = [(some 1, .waiting)] ∧ ((s 1 0x4000).disp 0).launches = [] ∧
    ((u 1 0x4000).agentWait 0 0xF00000000020).isNone = true ∧
    (let v (e : Word) := ((u 1 e).takeHome 0x808 (lmLoc 0x800 0x30)).writeHome 0x808 (lmLoc 0x800 0x30) 0 0
     ((l 1 0x4000).all fun x => ((v 0x4000).taskWait x 0xF00000000020).isNone && ((v 0x4000).readTask x 0xF00000000020).2) = true ∧
     ((l 1 0x4001).all fun x => ((v 0x4001).taskWait x 0xF00000000020).isNone && !((v 0x4001).readTask x 0xF00000000020).2) = true) ∧
    (let t := launched fun d => { d with ended := [(2, 0, [0x4000000])] }
     (t.agentWait 0 0x4000000).isNone = true ∧ (t.agentLoc 0 (0x4000000 + 16) true).isNone = true) := by decide +kernel

theorem test_decrement_ready :
    (((after (.dependencyDecrement 1) (waitingFor 1 0x4000)).disp 1).launches.map fun l => (l.fate 1, l.bads)) =
      [(.ready 0 ⟨0x4000, 0, 0, false, 0, []⟩, [])] ∧
    (((after (.dependencyDecrement 1) (waitingFor 1 0x4001)).disp 1).launches.map fun l => (l.fate 1, l.bads)) = [(.ended, [(1, 1)])] ∧
    (((after (.dependencyDecrement 1) (waitingFor 0 0x4000)).disp 1).launches.map fun l => (l.fate 1, l.bads)) = [(.waiting, [(0, 2)])] := by
  decide +kernel

theorem wit_DispenserSteps_marks : let s := placing false (.ready 0 { aTask with pool := 1 })
    (s.disp 1).rebind = true ∧ ((s.cands 1).map fun c => (c.t.ranked, c.t.pool)) = [(false, 1)] ∧
    (s.islandCores 1).all (fun n => (s.core n).tagNow ≠ 1 || !(s.core n).waits) = true ∧
    (s.islandCores 1).find? (fun n => (s.core n).tagNow ≠ 1) = some 0x800 := by decide +kernel

theorem test_marking : let t := after (.occupancyWindow 1) (placing false (.ready 0 { aTask with pool := 1 }))
    (t.core 0x800).poolNew = some 1 ∧ .poolRebind 0x800 ∈ t.agenda := by decide +kernel

theorem wit_DoubleTrap_barrier : ((ks fun b => { b with wait := .barrier 8 (some (2, 7)) }).core 0x800).b0.wait = .barrier 8 (some (2, 7)) := by
  decide +kernel

theorem test_machine_baw : let t := (((ks fun b => { b with wait := .barrier 8 (some (2, 7)) }).enterMachine 0x800 1).core 0x800).b0
    t.warr = true ∧ t.wait = .none ∧ t.epc = 0x10000 ∧ t.eval = 1 ∧ t.getG 2 = dataReg 7 := by decide +kernel

/-- A dispatch pushed while B1 sleeps (R432, R434). -/
theorem wit_SystemCompletes_wakes : let s := two 0 (put [0, 0, 0, 0x4000000000000001]) (fun b => { b with wait := .sleep 0 0 }) (fun c => { c with den := true })
    let c : Core := { s.here with dispCur := 2, ready := [⟨dataReg 1, dataReg 0, dataReg 0, dataReg 0⟩] }
    s.cb = 0 ∧ s.ready (quadOf 1) [.g 20] = true ∧ c.dispatchDue = true ∧ s.here.dispatchDue = false ∧ c.b1.wait = .sleep 0 0 ∧
    ((s.setSched s.cur c).core s.cur).b1.wait = .woken := by decide +kernel

/-- B0 with STATUS.TB 1, B1 stopped. -/
def reaching (f : Berth → Berth) : State :=
  two 0 (fun b => put [9, lm 0] { b with status := setF b.status 10 2 1 }) (fun b => f { b with stopped := true, epc := 0x4000 }) id

theorem wit_RegistersOfBerths : let s := reaching id
    let t := reaching fun b => { b with wait := .remote }
    s.cb < 2 ∧ s.me.tb = 1 ∧ regAccess s.priv 0x003 = some (true, true) ∧ s.ready [.g 1] [.g 1] = true ∧ s.ready [] [.g 1] = true ∧
    s.inside 0x800 1 = false ∧ s.agenda = [] ∧ (t.berthAt 0x800 1).stopped = true ∧ t.inside 0x800 1 = true ∧
    ({ s with agenda := [.registerWrite 0x800 1 3 7] } : State).agenda.any (·.isRegWrite 0x800 1) = true ∧
    regAccess (us id).priv 0x014 = some (true, true) ∧ (us (put [9])).ready [.g 1] [.g 1] = true := by decide +kernel

theorem test_eval_of_berth : let t := after (.srw 1 0x003) (reaching id)
    t.here.b1.eval = 9 ∧ t.here.b0.eval = 0 ∧ (after (.srw 1 0x003) (reaching fun b => { b with wait := .remote })).agenda =
      [.registerWrite 0x800 1 3 9] ∧ gAfter (.srr 1 0x002) (reaching id) 1 = 0x4000 := by decide +kernel

theorem wit_FloatSpecials_rounding : (match fp16.decode 0x3C01, fp16.decode 0x8001, fp16.decode 0x7BFF with
    | .fin _ _ _, .fin _ _ _, .fin _ _ _ => true | _, _, _ => false) = true := by decide +kernel

/-- 65504 + 16 lies half way to the next power: an infinity to the nearest, the largest number toward zero. -/
theorem test_round_top : fpAdd fp16 0 0x7BFF 0x4C00 = (0x7C00, 5) ∧ fpAdd fp16 1 0x7BFF 0x4C00 = (0x7BFF, 1) ∧
    fpAdd fp16 0 0x7BFF 0x4BFF = (0x7BFF, 1) ∧ fpAdd fp16 3 0x3C00 0x0001 = (0x3C01, 1) := by decide +kernel

/-- The engine held by B0 with class 1, whose B1 of class 2 has called for a spill; with an MMA in flight when `f`. -/
def toSpill (f : Option Flight) : State :=
  let s := owner (ks id)
  let c := s.here
  s.setHere { c with engine := { c.engine with oclass := 1, waiting := [1], grant := some 1, flight := f }, b1 := { c.b1 with prio := 2 } }

theorem wit_SpillsComplete_granted :
    (let c := (toSpill none).core 0x800
     c.engine.grant = some 1 ∧ c.maySpill (c.berth 1).mclass = true ∧ c.engine.flight = none ∧ c.engine.progress = none) ∧
    (let f : Flight := ⟨0, 0, 0, [mmaBlock 5 5 false false 1 [(3, [])] [(4, [])] 0], false, [], none, false⟩
     let c := (toSpill (some f)).core 0x800
     c.engine.flight = some f ∧ c.engine.grant = some 1 ∧ c.maySpill (c.berth 1).mclass = true) := by decide +kernel

theorem test_spill_keeps_claim : let f : Flight := ⟨0, 0, 0, [mmaBlock 5 5 false false 1 [(3, [])] [(4, [])] 0], false, [], none, false⟩
    let e := ((after (.engineSpill 0x800) (toSpill (some f))).core 0x800).engine
    e.held = false ∧ e.waiting = [1, 0] ∧ e.grant = some 1 := by decide +kernel

/-- A thread whose claim called for the spill has the FREE engine, whoever waits (R343). -/
theorem wit_MzeroCompletes_granted : let s := two 1 id id fun c => { c with engine := { c.engine with waiting := [0, 1], grant := some 1 } }
    s.cb < 2 ∧ bitOf s.me.mspill 63 = false ∧ s.here.engine.held = false ∧ s.here.engine.grant = some s.cb := by decide +kernel

/-- Rill core 0's thread runs as a guest in B2 of core 1, at a boundary unless `w`. -/
def awayOn (w : Wait) : State :=
  let s := two 0 id (fun _ => Berth.vacant) fun c => { c with away := true }
  s.setCore 0x801 { s.here with away := false, b2 := { (put [6] Berth.kernel) with occupied := true, pc := 0x4000, nnode := 0x800, wait := w } }

theorem wit_RegisterWrites_recall : ((awayOn .none).core 0x800).away = true ∧
    (awayOn .none).awayAt 0x800 = some (0x801, 2) ∧
    ((awayOn .none).setCore 0x800 { (awayOn .none).here with recalled := true }).inside 0x801 2 = false ∧
    ((awayOn .remote).setCore 0x800 { (awayOn .remote).here with recalled := true }).inside 0x801 2 = true ∧
    ((awayOn .none).berthAt 0x801 2).wait = .none ∧
    (two 0 id (fun _ => Berth.vacant) fun c => { c with away := true }).awayAt 0x800 = none := by decide +kernel

theorem test_recall : let t := after (.rqstatRecall 0x800) (awayOn .none)
    (t.core 0x800).recalled = true ∧ t.berthAt 0x801 2 = Berth.vacant ∧
    (t.net.map fun p => (p.src, p.dst, match p.body with | .mig th => th.pc | _ => 0)) = [(0x801, 0x800, 0x4000)] ∧
    (after (.rqstatRecall 0x800) (awayOn .remote)).net = [] := by decide +kernel

/-- B1 waits for an IFENCE of its super-group; core 1's cache holds a line of the context, and a locked one. -/
def fencing : State :=
  let s := us fun b => { b with wait := .ifence 3 }
  let l (n : Nat) (k : Bool) : ILine := ⟨n, 0, 0, List.replicate 64 7, [], k⟩
  s.setCore 0x801 { s.here with icache := [l 5 false, l 6 true] }

theorem wit_WaitsEnd_locked : (fencing.berthAt 0x800 1).wait = .ifence 3 ∧ 0x801 ∈ fencing.scopeNodes 0x800 3 ∧
    ((us fun b => { b with wait := .ifence 3 }).scopeNodes 0x800 3).all (fun m =>
      ((us fun b => { b with wait := .ifence 3 }).core m).icache.all fun l => !l.locked) = true := by decide +kernel

theorem test_ifence_complete : let t := after (.ifenceComplete 0x800 1) fencing
    (t.berthAt 0x800 1).wait = .done 0 0 ∧ ((t.core 0x801).icache.map fun x => (x.line, x.bytes.head?)) = [(6, some 0)] := by decide +kernel

theorem wit_CausesTaken_slept : (5 : Word).toNat ≤ (({ us id with time := 5 } : State).timeAt 0x800).toNat ∧
    ((us fun b => { b with timecmp := 5, wait := .sleep 0 1 }).berthAt 0x800 1).sleptDue 1 = true ∧
    ((us fun b => { b with timecmp := 5, wait := .sleep 0 0 }).berthAt 0x800 1).sleptDue 1 = false := by decide +kernel

theorem wit_KeySlots_locked : let l (k : Bool) : ILine := ⟨6, 3, 3, List.replicate 64 7, [], k⟩
    (two 0 id id fun c => { c with icache := [l true] }).cores.any (fun p => p.2.icache.any fun w => w.slot = 3 && w.locked) = true ∧
    (two 0 id id fun c => { c with icache := [l false] }).cores.all (fun p => p.2.icache.all fun w => !w.locked) = true ∧
    (3 : BitVec 12).toNat ≠ 0 := by decide +kernel

/-- A packet over the peer link. -/
def overLink (b : Body) (l : LinkState) : State :=
  { us id with net := [{ pkt b with src := 0x450 }], links := (us id).links.setIfInBounds 0 l }

theorem wit_MessagesArrive_link : let p : Packet := { pkt (.nmsg aMsg) with src := 0x450 }
    (overLink (.nmsg aMsg) .up).firstPacket 0x450 0x800 p.body.vn = some p ∧ isLink p.src = true ∧
    (overLink (.nmsg aMsg) .up).links[p.src - 0x450]? ≠ some .paired ∧ (overLink (.nmsg aMsg) .paired).links[p.src - 0x450]? = some .paired ∧
    (let q (b : Body) : Packet := { pkt b with src := 0x450 }
     let v : PVal := ⟨7, 0, false, 0, 0, 0⟩
     (overLink (.umsg aMsg) .up).firstPacket 0x450 0x800 (q (.umsg aMsg)).body.vn = some (q (.umsg aMsg)) ∧
     (overLink (.gport 1 v) .up).firstPacket 0x450 0x800 (q (.gport 1 v)).body.vn = some (q (.gport 1 v)) ∧
     (overLink (.vport 7 v) .up).firstPacket 0x450 0x800 (q (.vport 7 v)).body.vn = some (q (.vport 7 v))) := by decide +kernel

theorem test_link_refuses : (after (.nmsgArrive 0x450 0x800) (overLink (.nmsg aMsg) .up)).here.inbox = [] ∧
    (after (.nmsgArrive 0x450 0x800) (overLink (.nmsg aMsg) .paired)).here.inbox.length = 1 := by decide +kernel

theorem wit_PortValuesLeave_peer : let o : OutVal := ⟨⟨7, 0, false, 0, 0, 0⟩, ⟨true, 0, 2, 3⟩, 0, none, 1⟩
    let s := two 1 id id fun c => c.setPort 1 { Port.empty with outq := [o] }
    ((s.core 0x800).port (1 : BitVec 4).toNat).outq = [o] ∧ o.bind.peer = true ∧ isRill 0x800 = true ∧
    ({ s with bridge := false } : State).bridge = false ∧ s.bridge = true ∧ s.links[0]? ≠ some .paired := by decide +kernel

theorem test_port_at_bridge : let o : OutVal := ⟨⟨7, 0, false, 0, 0, 0⟩, ⟨true, 0, 2, 3⟩, 0, none, 1⟩
    let s := two 1 id id fun c => c.setPort 1 { Port.empty with outq := [o] }
    let t := after (.portOutboundSend 0x800 1) { s with bridge := false }
    (t.here.bridgeHeld.map fun p => (p.dst, p.drank)) = [(0x450, 2)] ∧ (t.here.port 1).outq = [] ∧
    ((after (.portOutboundSend 0x800 1) s).here.port 1).lost = true := by decide +kernel

/-- A vector store's part of a word: bytes 2 and 3, under their mask (R110, R335). -/
theorem wit_RemoteAccesses_bytes : let q : RwReq := ⟨0x17FF8, 8, .bytes, 0x0BBBAAAA0000, 0xC, false⟩
    let s := carrying (.rwreq 1 q) (us id)
    s.firstPacket 0x801 0x800 (pkt (.rwreq 1 q)).body.vn = some (pkt (.rwreq 1 q)) ∧ (s.core 0x800).resident 0 0 = true ∧ q.op = .bytes ∧
    (s.loadWord 0x800 (lmLoc 0x800 0x17FF8)).2.2 ≠ 2 ∧
    ((s.putHome (lmLoc 0x800 0x17FF8) 0 2).loadWord 0x800 (lmLoc 0x800 0x17FF8)).2.2 = 2 := by decide +kernel

theorem wit_Power_more : ((ks id).core 0x800).pinned = [] ∧
    ((group0 (fun g => { g with rail := 2 }) (ks id)).group 0).rail = 2 ∧ ({ group0 (fun g => { g with rail := 2 }) (ks id) with tstate := 0 } : State).tstate ≠ 2 ∧
    ((0x3 : BitVec 64).toNat / 2 ^ (2 * 0) % 4 = 3) ∧ ((group0 (fun g => { g with quiesced := true, wakeBy := 1 }) (ks id)).group 0).wakeBy ≠ 0 ∧
    (let p : Packet := { packetOf (.gport 0 ⟨7, 0, false, 0, 0, 0⟩) with src := 0x800, dst := 0x450 }
     let s : State := { two 0 id id fun c => { c with bridgeHeld := [p] } with tstate := 1, links := (us id).links.setIfInBounds 0 .paired }
     s.tstate ≠ 2 ∧ (s.core 0x800).bridgeHeld = [p] ∧ isLink p.dst = true ∧ s.linkUp (p.dst - 0x450) = true) := by decide +kernel

/-- A field of RAIL that is 3 is ignored and sets its group's SEQERR (R446); a rail is full in transition (R444). -/
theorem test_rail : ((after (.grailCtlWrite 3) (ks id)).group 0).seqerr = true ∧ ((after (.grailCtlWrite 3) (ks id)).group 0).rail = 0 ∧
    ((after (.railOk 0) (group0 (fun g => { g with rail := 2, state := 1 }) (ks id))).group 0).state = 3 ∧
    ((after (.groupDrain 0) (group0 (fun g => { g with quiesced := true, wakeBy := 1 }) (ks id))).group 0).drained = false := by
  decide +kernel

theorem test_bring_up_link : let p : Packet := { packetOf (.gport 0 ⟨7, 0, false, 0, 0, 0⟩) with src := 0x800, dst := 0x450 }
    let s : State := { two 0 id id fun c => { c with bridgeHeld := [p] } with tstate := 1, links := (us id).links.setIfInBounds 0 .paired }
    (after .torrentBringUp s).peerOut = [p] ∧ (after .torrentBringUp s).net = [] := by decide +kernel

theorem wit_PortageSteps_sends :
    let s := (moving 4).setPortage { State.reset.portage with phase := 4, saved := [(0, 0x800)] }
    let p : Packet := { packetOf (.nmsg aMsg) with src := 0x800, dst := 0x801, sender := 1 }
    s.portage.phase = 4 ∧ s.fenced = true ∧ s.moveSends = false ∧ ({ s with net := [p] } : State).moveSends = true := by decide +kernel

theorem wit_RecorderSteps_more : let z : Silt := { (ks id).silt with frozen := true, reached := true, first := 1, f := 9 }
    ({ ks id with silt := { (ks id).silt with valid := true } } : State).silt.valid = true ∧
    (let s : State := { ks id with silt := z, time := 5 }
     s.silt.frozen = true ∧ s.mergeOver = false ∧ s.timeAt 0x808 < s.silt.f) ∧
    (let s : State := { ks id with silt := { z with build := true }, time := 50 }
     s.silt.frozen = true ∧ s.mergeOver = true ∧ s.silt.build = true) ∧ (ks id).mergeOver = false := by decide +kernel

/-- R463: 27 ticks after the first freeze a further one is dropped, 26 ticks after it one of a smaller F is merged. -/
theorem test_merged_freeze : let s (t : Word) : State := { ks id with silt := { (ks id).silt with frozen := true, reached := true, first := 1, f := 99 }, time := t }
    (after .siltFreeze (s 27)).silt.f = 27 ∧ (after .siltFreeze (s 27)).silt.drops = 0 ∧ (after .siltFreeze (s 28)).silt.f = 99 ∧
    (after .siltFreeze (s 28)).silt.drops = 1 := by decide +kernel

theorem wit_MailboxCommands_more : State.reset.booting = true ∧ (ks id).booting = false ∧
    ({ ks id with silt := { (ks id).silt with valid := true } } : State).silt.valid = true ∧
    ((ks id).mailbox.args.drop 2).all (· = 0) = true ∧
    ((({ ks id with mailbox := { (ks id).mailbox with args := [0, 0, 1, 0] } } : State).mailbox.args.drop 2).any (· ≠ 0)) = true := by decide +kernel

theorem wit_LinksAndResets_boot : ({ ks id with boot := 2 } : State).boot = 2 ∧ (ks id).boot ≠ 2 ∧
    ({ ks id with silt := { (ks id).silt with valid := true, held := 5 } } : State).silt.valid = true := by decide +kernel

theorem wit_ResetState_boot : let s (b : Nat) : State := { State.reset with boot := b }
    (s 4).movers = [.boot] ∧ (s 4).choose .boot [] = .boot ∧ (s 4).boot = 4 ∧ ((s 4).core 0x803).power = .off ∧
    (let t : State := { s 0 with cfg := { State.reset.cfg with valid := false } }
     t.movers = [.boot] ∧ t.cfg.valid = false) ∧
    (let t : State := { s 3 with cfg := { State.reset.cfg with monitorValid := false } }
     t.movers = [.boot] ∧ t.cfg.monitorValid = false) := by decide +kernel

/-- After the monitor's step the eight Rill cores run at KENTRY (R476). -/
theorem test_boot : let t := ({ State.reset with boot := 4 } : State).bootUp
    t.boot = 1 ∧ (t.core 0x807).power = .run ∧ (t.core 0x807).b0.pc = 0x10000 ∧ (t.core 0x808).power = .off ∧
    (State.reset.bootUp.bootUp.core 0x808).power = .run := by decide +kernel

/-! ## Witnesses of the clauses on refusals, words of a log, narrow stores and flights -/

theorem wit_Capabilities_refused :
    (let s := ks (cap 1 (lm 16) lmShadow ∘ put [0, 0x80000000000])
     s.ready [.g 1, .g 2] [.g 3] = true ∧ (s.gv [.g 1, .g 2] 0).tag = .cap ∧ capWell (s.gv [.g 1, .g 2] 0).sh = true ∧
       2 ^ 48 < (s.gv [.g 1, .g 2] 0).val.toNat + (s.wv [.g 1, .g 2] 1).toNat) ∧
    (1 + (2 ^ 48 - 1) ≤ 2 ^ 48 ∧ ∀ e ≤ 30, ¬ fits 1 (2 ^ 48 - 1) e) ∧
    (choice (lm 0x17FF8).toNat 16 0 ∧ ¬ ((lm 0x18008).toNat : Int) ≤ capTop (lm 16) lmShadow) := by
  unfold choice fits; decide +kernel

/-- The words that LOGA reads of its target's segment, and those of its record. -/
def logWords (s : State) (p : Word → Word → Word → Nat → Bool) : Bool :=
  okAnd (logDesc s (s.gv [.g 1, .g 2, .g 3] 2) 3) fun d =>
    homes d.1 (updateAt (s.gv [.g 1] 0) 1 4 2 false) fun u k =>
      okAnd (u.logaTarget u.cur k) fun w =>
        let word (q : State) (va : Nat) := q.logWord w.cur w.here.ctxid w.kern va
        let base := d.2.a + logSeg k * (64 + 64 * d.2.segrec)
        okAnd (word w base) fun a => okAnd (word a.1 (base + 8)) fun b => okAnd (word b.1 (base + 16)) fun c =>
          okAnd (word c.1 (base + 24)) fun e =>
            let slot := base + 64 + 32 * (c.2.2.toNat % 2 * d.2.segrec + (if c.2.2.toNat % 2 = 0 then a.2.2 else b.2.2).toNat)
            p a.2.2 b.2.2 c.2.2 d.2.segrec && okAnd (word e.1 slot) fun f => okAnd (word f.1 (slot + 8)) fun g =>
              okAnd (word g.1 (slot + 16)) fun h => okAnd (word h.1 (slot + 24)) fun _ => true

theorem wit_LogaCompletes_room : logWords logState (fun c0 _ act n => act = 0 && c0.toNat < n) = true ∧
    logWords (filled [(0x3000, 1), (0x3008, 1)] logState) (fun c0 _ act n => act = 0 && decide (n ≤ c0.toNat)) = true := by decide +kernel

/-- The record stands in slot 0 of half 0 and COUNT0 is 1; a full half counts in OVF0. -/
theorem test_loga_record : let t := after (.loga 3 1 2) logState
    (t.homeWord (lmLoc 0x800 0x3000)).1 = 1 ∧ (t.homeWord (lmLoc 0x800 0x3040)).1 = BitVec.ofNat 64 (2 ^ 48 + logState.logVa (lm 16)) ∧
    (t.homeWord (lmLoc 0x800 0x3048)).1 = 5 ∧
    ((after (.loga 3 1 2) (filled [(0x3000, 1)] logState)).homeWord (lmLoc 0x800 0x3018)).1 = 1 := by decide +kernel

theorem wit_PortsComplete_bound : let s := us (put [5])
    let b := s.setHere (s.here.setPort 5 { s.here.port 5 with bind := .to ⟨true, 1, 3, 8⟩ })
    b.ready [.g 1] [.g 3] = true ∧ (b.binding b.cur 5).map (·.port) = some 8 ∧ (b.here.port 5).inq.length ≤ 8 ∧
    (let u := s.setHere (s.here.setPort 5 { s.here.port 5 with bind := .unbound })
     u.binding u.cur 5 = none ∧ u.ready [.g 1] [.g 3] = true) := by decide +kernel

/-- PEER in bit 48, TPORT in bits 47:44, TRANK from bit 32, BOUND in bit 16. -/
theorem test_portq : let s := us (put [5])
    gAfter (.portq 3 1) (s.setHere (s.here.setPort 5 { s.here.port 5 with bind := .to ⟨true, 1, 3, 8⟩ })) 3 = 0x1A00300010000 := by decide +kernel

theorem wit_TyieldCompletes_running : (us fun b => { b with gang := some ⟨0, [0x800], 0, 0, none⟩ }).me.stopped = false := by decide +kernel

theorem wit_FloatSpecials_values : (match fp32.decode 0x40000000 with | .fin a m _ => !a && m ≠ 0 | _ => false) = true ∧
    (match fp16.decode 0xC000 with | .fin a m _ => a && m ≠ 0 | _ => false) = true ∧
    (match bf16.decode 0x0001 with | .fin a m _ => !a && m ≠ 0 | _ => false) = true ∧ fp16.decode 0x7C00 = .inf false := by decide +kernel

theorem wit_ConversionsComplete_values : NumT.fp fp32 ∈ convTypes ∧ NumT.fp e4m3 ∈ convTypes ∧ NumT.fp fp4 ∈ convTypes ∧
    NumT.int true 8 ∈ convTypes ∧ bf16.bits < fp32.bits ∧ (match fp32.decode 0x7F800001 with | .nan s => s | _ => false) = true ∧
    fp32.decode 0xFF800000 = .inf true ∧ (match fp32.decode 0x3F800001 with | .fin _ _ _ => true | _ => false) = true := by decide +kernel

/-- An INT8 matrix of 2 rows and 3 columns at LM offset 0x1000, its header at 0x400. -/
def narrowState : State := filled (hdr 0x400 (lm 0x1000) 2 3 16 5 0) (ks (put [lm 0x400]))

theorem wit_MstCompletes_narrow : let s := owner narrowState
    owns s ∧ s.here.engine.progress = none ∧ s.here.engine.getAcc 0 ≠ .empty ∧
    (okAnd (tileHeader s 1 (s.gv [.g 1] 0)) fun p =>
      let x := p.2
      !x.reserved false && !x.w32 && x.smode = 0 && !x.scaleSlotBad && !x.sizeBad false && x.korg % 48 = 0 && x.fmt = 5 &&
      (s.here.engine.getAcc 0).form = 2 && okAnd (tileSlots p.1.kern x false) (fun _ => true) &&
      okAnd (rangeChecks true p.1 (sortRanges (x.outRows p.1.here false))) fun q0 =>
      okAnd (rangeChecks true q0.1 (sortRanges ((x.parts p.1.here false).map (·.2)))) fun q =>
        okAnd (storeRangeChecks q.1 q.2) fun t => t.here.geom = p.1.here.geom) = true := by unfold owns; decide +kernel

/-- B0 at its MMA in flight, which it has gone past when `p`. -/
def flying (p : Bool) (g : Option (Nat × List Nat)) (til : Word) : State :=
  let f : Flight := ⟨0, 0, 0, [mmaBlock 5 5 false false 1 [(3, [])] [(4, [])] 0], false, [], g, p⟩
  let s := owner (ks (fun b => put [1, 2] { b with wait := .mma, arith := til }))
  s.setHere { s.here with b0 := { s.here.b0 with wait := .mma }, engine := { s.here.engine with flight := some f } }

theorem wit_MmaCompletes_past : let s := flying false none 0
    s.cb < 2 ∧ s.ready [.g 1, .g 2] [] = true ∧ s.me.wait = .mma ∧ (s.here.engine.flight.map (·.berth)) = some s.cb ∧
    (s.here.engine.flight.bind (·.gang)) = none ∧ s.me.tilTrap = false ∧ s.free % 2 = s.free % 2 ∧
    ((flying false (some (0, [0x801])) 0).here.engine.flight.bind (·.gang)).isSome = true ∧
    ((flying true none 0).here.engine.flight.map (·.past)) = some true ∧ ((flying false none 0).here.engine.flight.map (·.past)) = some false := by
  refine ⟨?_, ?_, ?_, ?_, ?_, ?_, rfl, ?_, ?_, ?_⟩ <;> decide +kernel

/-- A stop of an MMA that its thread stands at leaves it pending; one of a passed MMA ends it (R347). -/
theorem test_stop_mma : let e (p : Bool) : Engine := ((flying p none 0).here.stopMma 0).engine
    ((e false).progress.map (·.blk)) = some 0 ∧ (e false).getAcc 0 = .int32 (List.replicate 1024 0) ∧
    (e true).progress = none ∧ ((e true).getAcc 0).elems.take 2 = [12, 0] := by decide +kernel

theorem wit_MrstCompletes_idle : (us (put [0, 0])).here.engine.mmaBusy 1 = false ∧ (us (put [0, 0])).here.engine.progress = none := by decide +kernel

theorem wit_CausesTaken_inside : let t := two 0 (fun b => { b with wait := .home none 0x800 }) id id
    t.inside 0x800 0 = true ∧ (ks id).inside 0x800 0 = false ∧ (t.core 0x800).machine = false := by decide +kernel

/-- MACHINE while B0's operation is at its home waits, and the freeze has started; it starts no second one at the entry (log 62). -/
theorem test_machine_waits : let t := after (.machineEntry 0x800 2) (two 0 (fun b => { b with wait := .home none 0x800 }) id id)
    let u := after (.machineEntry 0x800 2) (t.setCore 0x800 { t.here with b0 := { t.here.b0 with wait := .none } })
    t.silt.frozen = true ∧ t.here.machine = true ∧ t.here.b0.cause = 0 ∧ u.here.b0.cause = 0x84 ∧ u.here.b0.eval = 2 ∧
    u.here.machine = false ∧ u.silt.flying.length = 1 := by decide +kernel

theorem wit_KeySlots_retire : (5 : BitVec 12).toNat ≠ 0 ∧ (ks id).slotGen 5 + 1 = ((after (.kslotRetire 5) (ks id)).slotGen 5) := by decide +kernel

/-- Core 0x800 with a packet of the same source and network at its NI. -/
def behind (b c : Body) : State :=
  { two 1 id id (fun k => { k with atNi := [pkt c] }) with net := [pkt b] }

theorem wit_MessagesArrive_ni : (carrying (.nmsg aMsg) (us id)).niTakes (pkt (.nmsg aMsg)) = true ∧
    (behind (.nmsg aMsg) (.nmsg aMsg)).niTakes (pkt (.nmsg aMsg)) = false ∧ (pkt (.nmsg aMsg)).acked = false ∧
    (behind (.rwreq 1 ⟨8, 8, .load, 0, 0, false⟩) (.nmsg aMsg)).niTakes (pkt (.rwreq 1 ⟨8, 8, .load, 0, 0, false⟩)) = true := by decide +kernel

/-- A message behind one that waits at the NI waits too (R98). -/
theorem test_ni_order : let t := after (.nmsgArrive 0x801 0x800) (behind (.nmsg aMsg) (.gport 1 ⟨7, 0, false, 0, 0, 0⟩))
    t.here.inbox = [] ∧ t.here.atNi.length = 2 := by decide +kernel

theorem wit_RemoteAccesses_home : let p : Packet := { pkt (.mrsp 1) with ranked := false }
    let s : State := { us (fun b => { b with wait := .home none 0x801, rsp := [.ok 0 0 false] }) with net := [p] }
    let t : State := { s with net := [pkt (.dack true), p] }
    (s.net.find? fun k => k.dst = 0x800 && k.body = .mrsp (1 : BitVec 2).toNat) = some p ∧ s.firstPacket p.src 0x800 4 = some p ∧
    (s.berthAt 0x800 1).wait.isHome = true ∧ (s.berthAt 0x800 1).rsp ≠ [] ∧
    (t.net.find? fun k => k.dst = 0x800 && k.body = .mrsp (1 : BitVec 2).toNat) = some p ∧ t.firstPacket p.src 0x800 4 ≠ some p := by decide +kernel

theorem wit_ThreadsArrive_ni : (ks id).niTakes (packetOf (.mig (aThread 0x801))) = true ∧ (ks id).niTakes (packetOf (.evict (aThread 0x800))) = true := by
  decide +kernel

theorem wit_TlbiSteps_up : (ks id).niUp 0x800 = true ∧ (ks id).niUp 0x20 = false ∧
    (∀ w ∈ (ks id).barriers, w.node ≠ 0x800) ∧
    (let s := us fun b => { b with wait := .word (lmLoc 0x800 16).key false 3 }
     ({ s with words := [⟨(lmLoc 0x800 16).key, 0x800, 1, 0, 0, (lm 16).toNat⟩] } : State).waitStands ⟨(lmLoc 0x800 16).key, 0x800, 1, 0, 0, (lm 16).toNat⟩ false = true) := by
  decide +kernel

theorem wit_WakingSteps_thread : let p : Packet := { packetOf (.mig (aThread 0x800)) with src := 0x800, dst := 0x20 }
    let s : State := { two 0 id id fun c => { c with bridgeHeld := [p] } with tstate := 1, time := 9 }
    s.tstate ≠ 2 ∧ (s.core 0x800).bridgeHeld = [p] ∧ isLink p.dst = false ∧ isRill p.src = true := by decide +kernel

/-- A thread held at the bridge leaves with the time of that moment (R115). -/
theorem test_tdep : let p : Packet := { packetOf (.mig (aThread 0x800)) with src := 0x800, dst := 0x20 }
    let s : State := { two 0 id id fun c => { c with bridgeHeld := [p] } with tstate := 1, time := 9 }
    ((after .torrentBringUp s).net.map fun q => match q.body with | .mig t => t.tdep | _ => 0) = [9] := by decide +kernel

theorem wit_PortageSteps_abort : (0x8000000000000001 : BitVec 64).getLsbD 63 = true ∧ (0x4000000000000000 : BitVec 64).getLsbD 62 = true ∧
    (0x4000000000000000 : BitVec 64).getLsbD 63 = false ∧ (moving 1).portage.abort = false ∧
    ((moving 1).devSet .pcmd 0x4000000000000000).portage.abort = true := by decide +kernel

/-- The second of two GOs is the one refused (R455). -/
theorem test_two_goes : let t := ((moving 0).devSet .pcmd 0x8000000000000000).devSet .pcmd 0x8000000000000000
    t.portage.phase = 1 ∧ t.portage.err = 1 ∧ ((moving 2).devSet .pcmd 0x4000000000000000).agenda = (moving 2).agenda := by decide +kernel

/-- A freeze of time F and node `n` on its way to core 0x800 and the management core. -/
def freezing (r v : Bool) (m : Nat) : State :=
  { two 0 id id id with
    time := 5
    silt := { (ks id).silt with frozen := true, reached := r, valid := v, first := if m = 0 then 0 else 5, f := 9, node := 0x20,
                                flying := [⟨4, 0x800, 0x84, 7, [0x800, 0x808]⟩] } }

theorem wit_RecorderSteps_flying : let x : Freeze := ⟨4, 0x800, 0x84, 7, [0x800, 0x808]⟩
    (freezing false false 0).silt.flying.filter (·.left.contains 0x800) = [x] ∧
    (freezing false false 0).silt.flying.filter (·.left.contains 0x808) = [x] ∧ (freezing false true 0).silt.valid = true ∧
    (freezing true false 5).mergeOver = false ∧ ({ freezing true false 5 with time := 50 } : State).mergeOver = true ∧
    x.f < (freezing true false 5).silt.f ∧ (∀ y ∈ (freezing false false 0).silt.flying, 0x801 ∉ y.left) ∧
    (ks id).silt.flying = [] := by decide +kernel

/-- The section's row: a freeze that reaches the management core late counts in DROPS (R463). -/
theorem test_late_freeze : let x : Freeze := ⟨4, 0x800, 0x84, 7, []⟩
    let t := ({ freezing true false 5 with time := 50 } : State).freezeAtMc x
    let u := (freezing true false 5).freezeAtMc x
    t.silt.drops = 1 ∧ t.silt.f = 9 ∧ u.silt.drops = 0 ∧ u.silt.f = 4 ∧ u.silt.node = 0x800 ∧ u.silt.fctx = 7 := by decide +kernel

theorem test_link_down : (after (.linkDown 0) (overLink (.nmsg aMsg) .paired)).net = [] ∧
    (after (.linkDown 1) (overLink (.nmsg aMsg) .paired)).net.length = 1 := by decide +kernel

theorem wit_SamplingCompletes_weights : (2 ^ 23 ≤ 0x3F800000 ∧ 0x3F800000 < 0x7F800000) ∧ (∀ z, some z ∈ [some 0x40000000, none] → z < 2 ^ 32) ∧
    (weights 0x3F800000 0x40000000 [some 0x40000000, none, some 0x3F800000])[0]? = some (2 ^ 40) := by
  refine ⟨by decide, ?_, by decide +kernel⟩
  intro z hz
  simp only [List.mem_cons, Option.some.injEq, List.not_mem_nil, or_false, reduceCtorEq] at hz
  omega

/-- IEEE 1619's vector 10 of AES-256-XTS: block 3 of the data unit with tweak 0xFF, enciphered and deciphered (R49). -/
def xtsKey : BitVec 512 :=
  0x92459474098205513799931697418802952783336462842393975853265941312776966649575999699370245777496226357174286053234590452818281827

theorem test_xts : xtsBlock aesBlock xtsKey 0xFF 3 0x3F3E3D3C3B3A39383736353433323130 = 0xFD88B14BCBFEBE4533FCAD35AC860A68 ∧
    xtsBlock aesUnblock xtsKey 0xFF 3 0xFD88B14BCBFEBE4533FCAD35AC860A68 = 0x3F3E3D3C3B3A39383736353433323130 := by decide +kernel

end

end Sys2Proof.Tests
end

section
/-! Proofs. Folds of updates over nodes and groups, and a group's record after an update. -/

namespace Sys2Proof.Machine

/-! ## Folds of updates -/

/-- What no step of a fold changes, the fold does not change. -/
theorem foldl_keeps {α ι : Type} (get : State → α) {f : State → ι → State} (h : ∀ t i, get (f t i) = get t) (l : List ι)
    (s : State) : get (l.foldl f s) = get s := by
  induction l generalizing s with
  | nil => rfl
  | cons i r ih => exact (ih (f s i)).trans (h s i)

/-- What the step at one index reaches, and every step keeps, holds after a fold that meets this index. -/
theorem foldl_reaches {ι : Type} {P : State → Prop} {f : State → ι → State} {i : ι} (own : ∀ t, P (f t i))
    (keep : ∀ t j, P t → P (f t j)) {l : List ι} (hi : i ∈ l) (s : State) : P (l.foldl f s) := by
  induction l generalizing s with
  | nil => cases hi
  | cons j r ih =>
    rcases List.mem_cons.mp hi with rfl | hr
    · exact List.foldlRecOn r f (motive := P) (own s) fun t ht k _ => keep t k ht
    · exact ih hr (f s j)

/-- A fold of steps, each of which updates its own index alone by a function that is idempotent. -/
theorem foldl_updates {α : Type} {get : State → Nat → α} {f : State → Nat → State} {F : Nat → α → α} {l : List Nat}
    (same : ∀ t, ∀ n ∈ l, get (f t n) n = F n (get t n)) (other : ∀ t, ∀ n ∈ l, ∀ k, k ≠ n → get (f t n) k = get t k)
    (idem : ∀ n x, F n (F n x) = F n x) (s : State) (k : Nat) :
    get (l.foldl f s) k = if k ∈ l then F k (get s k) else get s k := by
  induction l generalizing s with
  | nil => simp
  | cons n r ih =>
    rw [List.foldl_cons, ih (fun t m hm => same t m (List.mem_cons_of_mem n hm))
      (fun t m hm => other t m (List.mem_cons_of_mem n hm))]
    by_cases hk : k = n
    · subst hk
      simp [same s k List.mem_cons_self, idem]
    · simp [other s n List.mem_cons_self k hk, hk]

/-! ## A group's record -/

theorem group_setGroup_same (s : State) {g : Nat} (x : Group) (hg : g < 32) : (s.setGroup g x).group g = x := by
  simp [State.group, State.setGroup, hg]

theorem group_setGroup_other (s : State) {g k : Nat} (x : Group) (h : k ≠ g) : (s.setGroup g x).group k = s.group k := by
  simp [State.group, State.setGroup, Ne.symm h]

theorem group_congr {s t : State} (h : t.groups = s.groups) (g : Nat) : t.group g = s.group g := by
  simp only [State.group, h]

/-- Writing a group's own record changes no group. -/
theorem groups_setGroup_self (s : State) (g : Nat) : (s.setGroup g (s.group g)).groups = s.groups := by
  ext i hi
  by_cases h : g = i
  · subst h; simp [State.setGroup, State.group, hi]
  · simp [State.setGroup, h]

@[simp] theorem core_setGroup (s : State) (g : Nat) (x : Group) (n : Nat) : (s.setGroup g x).core n = s.core n := rfl
@[simp] theorem cores_setGroup (s : State) (g : Nat) (x : Group) : (s.setGroup g x).cores = s.cores := rfl
@[simp] theorem mem_setGroup (s : State) (g : Nat) (x : Group) : (s.setGroup g x).mem = s.mem := rfl
@[simp] theorem group_later (s : State) (e : Event) (g : Nat) : (s.later e).group g = s.group g := rfl
@[simp] theorem cores_later (s : State) (e : Event) : (s.later e).cores = s.cores := rfl
@[simp] theorem groups_later (s : State) (e : Event) : (s.later e).groups = s.groups := rfl
@[simp] theorem tbusy_later (s : State) (e : Event) : (s.later e).tbusy = s.tbusy := rfl
@[simp] theorem mem_later (s : State) (e : Event) : (s.later e).mem = s.mem := rfl

theorem mem_agenda_later (s : State) (e : Event) : e ∈ (s.later e).agenda := by simp [State.later]

theorem mem_agenda_later_of_mem {s : State} {d : Event} (e : Event) (h : d ∈ s.agenda) : d ∈ (s.later e).agenda := by
  simp [State.later, h]

theorem mem_agenda_laterOnce (s : State) (e : Event) : e ∈ (s.laterOnce e).agenda := by
  unfold State.laterOnce
  split
  · next h => simpa using h
  · exact mem_agenda_later s e

@[simp] theorem groups_laterOnce (s : State) (e : Event) : (s.laterOnce e).groups = s.groups := by
  unfold State.laterOnce; split <;> rfl
@[simp] theorem cores_laterOnce (s : State) (e : Event) : (s.laterOnce e).cores = s.cores := by
  unfold State.laterOnce; split <;> rfl
@[simp] theorem mem_laterOnce (s : State) (e : Event) : (s.laterOnce e).mem = s.mem := by
  unfold State.laterOnce; split <;> rfl
@[simp] theorem tbusy_laterOnce (s : State) (e : Event) : (s.laterOnce e).tbusy = s.tbusy := by
  unfold State.laterOnce; split <;> rfl

@[simp] theorem groups_record (s : State) (n cls typ : Nat) (p : Word) : (s.record n cls typ p).groups = s.groups := by
  unfold State.record State.recordFor; dsimp only; split <;> rfl
@[simp] theorem mem_record (s : State) (n cls typ : Nat) (p : Word) : (s.record n cls typ p).mem = s.mem := by
  unfold State.record State.recordFor; dsimp only; split <;> rfl

/-- Of the groups' records a change of STATE writes that STATE alone (R444). -/
theorem groups_groupState (s : State) (g st : Nat) :
    (s.groupState g st).groups = (s.setGroup g { s.group g with state := st }).groups := by
  unfold State.groupState
  dsimp only
  split
  · next h => subst h; exact (groups_setGroup_self s g).symm
  · split
    · simp
    · split <;> simp

@[simp] theorem mem_groupState (s : State) (g st : Nat) : (s.groupState g st).mem = s.mem := by
  unfold State.groupState
  dsimp only
  split
  · rfl
  · split
    · simp [State.setGroup]
    · split <;> simp [State.setGroup]

theorem group_groupState_same (s : State) {g : Nat} (st : Nat) (hg : g < 32) :
    (s.groupState g st).group g = { s.group g with state := st } :=
  (group_congr (groups_groupState s g st) g).trans (group_setGroup_same s _ hg)

theorem group_groupState_other (s : State) {g k : Nat} (st : Nat) (h : k ≠ g) : (s.groupState g st).group k = s.group k :=
  (group_congr (groups_groupState s g st) k).trans (group_setGroup_other s _ h)

end Sys2Proof.Machine
end

section
/-! Proofs. The start of a core (R414), the steps of boot (R476), and the state after reset. -/

namespace Sys2Proof.Machine

/-! ## The start of cores -/

/-- A core as CORE_START leaves it: from OFF its B0 is at KENTRY in context 0, in another state it is as it was (R414). -/
def Core.started (c : Core) (frozen : Bool) (kentry : Word) : Core :=
  if c.power == .off then
    { c.powerOff with power := .run, idle0 := false, ringStopped := frozen, b0 := { Berth.kernel with pc := kentry } }
  else c

theorem started_of_off {c : Core} (h : c.power = .off) (frozen : Bool) (kentry : Word) : c.started frozen kentry =
    { c.powerOff with power := .run, idle0 := false, ringStopped := frozen, b0 := { Berth.kernel with pc := kentry } } := by
  simp [Core.started, h]

theorem started_of_on {c : Core} (h : c.power ≠ .off) (frozen : Bool) (kentry : Word) : c.started frozen kentry = c := by
  simp [Core.started, h]

theorem started_started (c : Core) (frozen : Bool) (kentry : Word) :
    (c.started frozen kentry).started frozen kentry = c.started frozen kentry := by
  by_cases h : c.power = .off
  · apply started_of_on
    simp [started_of_off h]
  · rw [started_of_on h, started_of_on h]

theorem core_coreStart_same (s : State) (n : Nat) :
    (s.coreStart n).core n = (s.core n).started s.silt.frozen s.cfg.kentry := by
  unfold State.coreStart Core.started
  dsimp only
  split <;> simp

theorem core_coreStart_other (s : State) {n k : Nat} (h : k ≠ n) : (s.coreStart n).core k = s.core k := by
  unfold State.coreStart
  dsimp only
  split
  · exact core_setCore_other s _ h
  · rfl

@[simp] theorem mem_coreStart (s : State) (n : Nat) : (s.coreStart n).mem = s.mem := by
  unfold State.coreStart; dsimp only; split <;> rfl
@[simp] theorem silt_coreStart (s : State) (n : Nat) : (s.coreStart n).silt = s.silt := by
  unfold State.coreStart; dsimp only; split <;> rfl
@[simp] theorem cfg_coreStart (s : State) (n : Nat) : (s.coreStart n).cfg = s.cfg := by
  unfold State.coreStart; dsimp only; split <;> rfl

/-- A core after the starts of the cores of a list: one of them has started, another is as it was. -/
theorem core_foldl_coreStart (s : State) (l : List Nat) (n : Nat) : (l.foldl State.coreStart s).core n =
    if n ∈ l then (s.core n).started s.silt.frozen s.cfg.kentry else s.core n := by
  have h := foldl_updates (f := State.coreStart) (l := l) (get := fun t m => (t.core m, t.silt.frozen, t.cfg.kentry))
    (F := fun _ x => (x.1.started x.2.1 x.2.2, x.2)) (fun t m _ => by simp [core_coreStart_same])
    (fun t m _ k hk => by simp [core_coreStart_other t hk]) (fun _ x => by simp [started_started]) s n
  have h1 := congrArg Prod.fst h
  simpa [apply_ite Prod.fst] using h1

/-! ## The steps of boot -/

theorem bootUp_record {s : State} (h : s.boot = 0) : s.bootUp = { s with boot := if s.cfg.valid then 3 else 2 } := by
  simp [State.bootUp, h]

theorem bootUp_monitor {s : State} (h : s.boot = 3) (hm : s.cfg.monitorValid = true) : s.bootUp =
    { ({ s with idKey := Config.secret 5 (Config.image s.cfg.helper) } : State).coreStart mcNode with boot := 4 } := by
  simp [State.bootUp, h, hm]

theorem bootUp_badMonitor {s : State} (h : s.boot = 3) (hm : s.cfg.monitorValid = false) : s.bootUp =
    { s with idKey := Config.secret 5 (Config.image s.cfg.helper), boot := 2 } := by
  simp [State.bootUp, h, hm]

/-- The nodes of the eight Rill compute cores, in the order in which they start. -/
def rillNodes : List Nat := (List.range 8).map (0x800 + ·)

theorem mem_rillNodes {n : Nat} : n ∈ rillNodes ↔ 0x800 ≤ n ∧ n < 0x808 := by
  simp only [rillNodes, List.mem_map, List.mem_range]
  constructor
  · rintro ⟨i, hi, rfl⟩; omega
  · intro h; exact ⟨n - 0x800, by omega, by omega⟩

theorem bootUp_rill {s : State} (h : s.boot = 4) : s.bootUp = { rillNodes.foldl State.coreStart s with boot := 1 } := by
  simp [State.bootUp, h, rillNodes, List.foldl_map]

theorem core_setBoot (s : State) (b n : Nat) : ({ s with boot := b } : State).core n = s.core n := rfl

theorem core_bootUp_rill {s : State} (h : s.boot = 4) (n : Nat) :
    s.bootUp.core n = if n ∈ rillNodes then (s.core n).started s.silt.frozen s.cfg.kentry else s.core n := by
  rw [bootUp_rill h, core_setBoot, core_foldl_coreStart]

@[simp] theorem mem_bootUp (s : State) : s.bootUp.mem = s.mem := by
  unfold State.bootUp
  split
  · rfl
  · split <;> simp
  · dsimp only
    exact foldl_keeps State.mem (fun t i => mem_coreStart t (0x800 + i)) _ s
  · rfl

/-! ## Steps of which boot is the mover -/

@[simp] theorem mem_tick (s : State) : s.tick.mem = s.mem := rfl
@[simp] theorem core_tick (s : State) (n : Nat) : s.tick.core n = s.core n := rfl

/-- A step that takes the mover boot is the next step of boot, and time goes on. -/
theorem step_of_choose_boot {s : State} {m : Mover} {l : List Mover} (hm : s.movers = m :: l) (hc : s.choose m l = .boot) :
    step s = .next s.bootUp.tick := by
  unfold step
  rw [hm]
  exact congrArg (fun x => tickOut (moverStep s x)) hc

/-- While boot goes on and neither a core nor the agenda holds anything, boot alone moves. -/
theorem step_of_booting {s : State} (hb : s.booting = true) (hc : s.cores = []) (ha : s.agenda = []) :
    step s = .next s.bootUp.tick := by
  refine step_of_choose_boot (m := .boot) (l := []) ?_ rfl
  simp [State.movers, hb, hc, ha, State.eventMovers]

/-! ## Reset -/

theorem core_reset (n : Nat) : State.reset.core n = Core.reset := rfl

theorem group_reset {g : Nat} (hg : g < 32) : State.reset.group g = Group.reset := by
  simp [State.group, State.reset, hg]

theorem reset_memWf : State.reset.memWf := ⟨rfl, rfl⟩

theorem step_reset : step State.reset = .next State.reset.bootUp.tick := step_of_booting rfl rfl rfl

/-- The second step from reset follows the first: no core has started, and nothing has been scheduled. -/
theorem step_step_reset : step State.reset.bootUp.tick = .next State.reset.bootUp.tick.bootUp.tick :=
  step_of_booting rfl rfl rfl

theorem bootUp_bootUp_reset : State.reset.bootUp.tick.bootUp =
    { ({ State.reset.bootUp.tick with idKey := Config.secret 5 (Config.image State.reset.cfg.helper) } : State).coreStart mcNode
      with boot := 4 } :=
  bootUp_monitor rfl rfl

/-- After the monitor's step the management core has started, every other core is as reset left it. -/
theorem core_bootUp_bootUp_reset (n : Nat) : State.reset.bootUp.tick.bootUp.core n =
    if n = mcNode then Core.reset.started false State.reset.cfg.kentry else Core.reset := by
  rw [bootUp_bootUp_reset]
  split
  · next h => subst h; exact core_coreStart_same _ mcNode
  · next h => exact core_coreStart_other _ h

/-- The two first steps of the part: the record is verified, then the monitor, which starts on the management core (R476). -/
theorem reset_starts_monitor : ∃ t u : State, step State.reset = .next t ∧ t.boot = 3 ∧ t.mem = [] ∧ t.cores = [] ∧
    step t = .next u ∧ u.boot = 4 ∧ u.mem = [] ∧ (u.core 0x808).power = .run ∧ (u.core 0x808).b0.pc = State.reset.cfg.kentry ∧
    (u.core 0x808).ctxid = 0 ∧ (u.core 0x808).idle0 = false ∧ ∀ n, n ≠ 0x808 → (u.core n).power = .off := by
  refine ⟨State.reset.bootUp.tick, State.reset.bootUp.tick.bootUp.tick, step_reset, rfl, rfl, rfl, step_step_reset, ?_, ?_, ?_⟩
  · rw [bootUp_bootUp_reset]; rfl
  · rw [mem_tick, mem_bootUp]; rfl
  · have mc : State.reset.bootUp.tick.bootUp.tick.core 0x808 = Core.reset.started false State.reset.cfg.kentry :=
      core_bootUp_bootUp_reset 0x808
    rw [mc]
    refine ⟨rfl, rfl, rfl, rfl, fun n hn => ?_⟩
    rw [core_tick, core_bootUp_bootUp_reset, if_neg (show n ≠ mcNode from hn)]
    rfl

/-- What a step of boot does: a check that fails ends boot with no core started; the last step starts the Rill cores that are OFF at
KENTRY and leaves every other core as it was (R444, R476). -/
theorem bootUp_outcome (s : State) :
    (s.boot = 0 → s.cfg.valid = false → s.bootUp.boot = 2 ∧ s.bootUp.cores = s.cores) ∧
    (s.boot = 3 → s.cfg.monitorValid = false → s.bootUp.boot = 2 ∧ s.bootUp.cores = s.cores) ∧
    (s.boot = 4 → s.bootUp.boot = 1 ∧ (∀ n, n < 0x800 ∨ 0x808 ≤ n → s.bootUp.core n = s.core n) ∧
      ∀ n, 0x800 ≤ n → n < 0x808 → (s.core n).power = .off →
        (s.bootUp.core n).power = .run ∧ (s.bootUp.core n).b0.pc = s.cfg.kentry ∧ (s.bootUp.core n).ctxid = 0 ∧
          (s.bootUp.core n).idle0 = false) := by
  refine ⟨fun hb hv => ?_, fun hb hv => ?_, fun hb => ⟨?_, fun n hn => ?_, fun n h1 h2 hoff => ?_⟩⟩
  · simp [bootUp_record hb, hv]
  · simp [bootUp_badMonitor hb hv]
  · rw [bootUp_rill hb]
  · rw [core_bootUp_rill hb, if_neg fun h => by have := mem_rillNodes.mp h; omega]
  · rw [core_bootUp_rill hb, if_pos (mem_rillNodes.mpr ⟨h1, h2⟩), started_of_off hoff]
    exact ⟨rfl, rfl, rfl, rfl⟩

/-- Settles O53: reset's fields are read off, the first two steps are steps of boot, and so is each later one that boot moves. -/
theorem resetState : Obligations.ResetState := by
  unfold Obligations.ResetState
  refine ⟨rfl, rfl, reset_memWf, fun n => by rw [core_reset]; rfl, rfl, rfl, rfl, rfl, rfl, rfl, rfl, rfl,
    fun g hg => by rw [group_reset hg]; exact ⟨rfl, rfl⟩, rfl, rfl, rfl, rfl, rfl, rfl, rfl, rfl, rfl, rfl, rfl,
    reset_starts_monitor, fun s m l hm hc => ?_⟩
  exact ⟨s.bootUp, step_of_choose_boot hm hc, mem_bootUp s, bootUp_outcome s⟩

end Sys2Proof.Machine
end

section
/-! Proofs. What ending pins, revoking and writing back leave of every core (R63, R77, R79, R85), and a core whose caches are dropped
(R447). -/

namespace Sys2Proof.Machine

/-! ## Cores that shed pins and L1 words -/

/-- A core before and after pins have ended and words have left its L1: of its berths only a wait has changed, and none has while
nothing is pinned. -/
structure Core.Shed (c c' : Core) : Prop where
  b0 : ∃ w, c'.b0 = { c.b0 with wait := w }
  b1 : ∃ w, c'.b1 = { c.b1 with wait := w }
  l1 : c'.l1 ⊆ c.l1
  icache : c'.icache = c.icache
  unpinned : c.pinned = [] → c'.b0 = c.b0 ∧ c'.b1 = c.b1 ∧ c'.pinned = []

theorem Core.Shed.refl (c : Core) : c.Shed c :=
  ⟨⟨_, rfl⟩, ⟨_, rfl⟩, fun _ h => h, rfl, fun h => ⟨rfl, rfl, h⟩⟩

theorem Core.Shed.trans {a b c : Core} (h : a.Shed b) (k : b.Shed c) : a.Shed c := by
  obtain ⟨⟨w0, h0⟩, ⟨w1, h1⟩, hl, hi, hp⟩ := h
  obtain ⟨⟨x0, k0⟩, ⟨x1, k1⟩, kl, ki, kp⟩ := k
  refine ⟨⟨x0, by rw [k0, h0]⟩, ⟨x1, by rw [k1, h1]⟩, fun _ m => hl (kl m), ki.trans hi, fun hn => ?_⟩
  obtain ⟨e0, e1, en⟩ := hp hn
  obtain ⟨f0, f1, fn⟩ := kp en
  exact ⟨f0.trans e0, f1.trans e1, fn⟩

/-- Words leave the L1 of a core. -/
theorem Core.Shed.of_filter (c : Core) (p : L1Word → Bool) : c.Shed { c with l1 := c.l1.filter p } :=
  ⟨⟨_, rfl⟩, ⟨_, rfl⟩, List.filter_subset_self _, rfl, fun h => ⟨rfl, rfl, h⟩⟩

/-- Every core of the second state has shed pins and L1 words alone. -/
def State.Sheds (s t : State) : Prop := ∀ n, (s.core n).Shed (t.core n)

theorem sheds_of_cores {s t : State} (h : t.cores = s.cores) : s.Sheds t := fun n => by
  have e : t.core n = s.core n := by simp only [State.core, h]
  rw [e]
  exact .refl _

theorem State.Sheds.trans {s t u : State} (h : s.Sheds t) (k : t.Sheds u) : s.Sheds u := fun n => (h n).trans (k n)

theorem sheds_setCore {s : State} {n : Nat} {c : Core} (h : (s.core n).Shed c) : s.Sheds (s.setCore n c) := fun k => by
  by_cases hk : k = n
  · subst hk; rw [core_setCore]; exact h
  · rw [core_setCore_other s c hk]; exact .refl _

theorem sheds_foldl {ι : Type} {f : State → ι → State} (h : ∀ (t : State) i, t.Sheds (f t i)) (l : List ι) (s : State) :
    s.Sheds (l.foldl f s) :=
  List.foldlRecOn l f (motive := s.Sheds) (sheds_of_cores rfl) fun t ht i _ => ht.trans (h t i)

/-! ## Pins (R77, R79, R85) -/

theorem sheds_settlePins (s : State) (n : Nat) : s.Sheds (s.settlePins n) := by
  unfold State.settlePins
  dsimp only
  split
  · exact (sheds_setCore (.of_filter _ _)).trans (sheds_of_cores rfl)
  · exact sheds_of_cores rfl

theorem sheds_endPin (s : State) (n line : Nat) : s.Sheds (s.endPin n line) := by
  unfold State.endPin
  dsimp only
  split
  · next h =>
    refine State.Sheds.trans ?_ (sheds_settlePins _ n)
    refine sheds_setCore ⟨⟨_, rfl⟩, ⟨_, rfl⟩, fun _ m => m, rfl, fun hn => ?_⟩
    rw [hn] at h
    cases h
  · exact sheds_of_cores rfl

/-! ## Writes at the homes, which change no core -/

@[simp] theorem cores_putBlock (s : State) (b slot x : Nat) : (s.putBlock b slot x).cores = s.cores := by
  unfold State.putBlock; split <;> rfl

@[simp] theorem cores_putUnit (s : State) (unit slot x : Nat) : (s.putUnit unit slot x).cores = s.cores :=
  foldl_keeps State.cores (fun _ _ => cores_putBlock _ _ _ _) _ s

@[simp] theorem cores_l2WriteBack (s : State) (unit : Nat) : (s.l2WriteBack unit).cores = s.cores := by
  unfold State.l2WriteBack
  split
  · split
    · exact cores_putUnit s unit _ _
    · rfl
  · rfl

@[simp] theorem cores_l2Evict (s : State) (unit : Nat) : (s.l2Evict unit).cores = s.cores := cores_l2WriteBack s unit

@[simp] theorem cores_claim (s : State) (l : Loc) : (s.claim l).cores = s.cores := by
  unfold State.claim; dsimp only; split <;> rfl

@[simp] theorem cores_putLow (s : State) (l : Loc) (v : Word) (t : Nat) : (s.putLow l v t).cores = s.cores := by
  unfold State.putLow
  dsimp only
  split
  · rfl
  · split
    · split
      · rfl
      · simp
    · simp

/-! ## Revocations, and the L2's lines (R63, R65, R69) -/

theorem sheds_revokeBy {put : State → Loc → Word → Nat → State} (hput : ∀ (t : State) l v g, t.Sheds (put t l v g)) (s : State)
    (n word : Nat) : s.Sheds (s.revokeBy put n word) := by
  have drop (t : State) (p : L1Word → Bool) : t.Sheds (t.setCore n { t.core n with l1 := (t.core n).l1.filter p }) :=
    sheds_setCore (.of_filter _ p)
  unfold State.revokeBy
  dsimp only
  split
  · exact ((sheds_endPin s n _).trans (hput _ _ _ _)).trans (drop _ _)
  · exact (sheds_endPin s n _).trans (drop _ _)

theorem sheds_revokeLow (s : State) (n word : Nat) : s.Sheds (s.revokeBy State.putLow n word) :=
  sheds_revokeBy (fun t l v g => sheds_of_cores (cores_putLow t l v g)) s n word

theorem sheds_revokeUnit (s : State) (unit : Nat) : s.Sheds (s.revokeUnit unit) :=
  sheds_foldl (fun _ _ => sheds_foldl (fun t n => sheds_revokeLow t n _) _ _) _ s

theorem sheds_l2Leave (s : State) (unit : Nat) : s.Sheds (s.l2Leave unit) :=
  (sheds_revokeUnit s unit).trans (sheds_of_cores (cores_l2Evict _ unit))

theorem sheds_l2Room (s : State) (unit : Nat) : s.Sheds (s.l2Room unit) := by
  unfold State.l2Room
  dsimp only
  split
  · exact sheds_of_cores rfl
  · split
    · exact (sheds_of_cores (t := s.drawn) rfl).trans (sheds_l2Leave _ _)
    · exact sheds_of_cores rfl

theorem sheds_l2Fill (s : State) (l : Loc) : s.Sheds (s.l2Fill l) := sheds_of_cores rfl

theorem cores_dramExit (s : State) : s.dramExit.cores = s.cores := by
  unfold State.dramExit
  split
  · exact cores_laterOnce _ _
  · rfl

theorem sheds_l2Fetch (s : State) (l : Loc) : s.Sheds (s.l2Fetch l) := by
  unfold State.l2Fetch
  dsimp only
  split
  · split
    · split
      · split
        · exact sheds_of_cores rfl
        · exact (sheds_l2Leave s _).trans (sheds_l2Fill _ l)
      · exact (sheds_l2Room s _).trans (sheds_l2Fill _ l)
    · exact sheds_of_cores (cores_dramExit s)
  · exact sheds_of_cores rfl

theorem sheds_putHome (s : State) (l : Loc) (v : Word) (t : Nat) : s.Sheds (s.putHome l v t) := by
  unfold State.putHome
  split
  · exact sheds_of_cores rfl
  · exact (sheds_l2Fetch s l).trans (sheds_of_cores (cores_putLow _ l v t))

theorem sheds_writeBack (s : State) (n word : Nat) : s.Sheds (s.writeBack n word) := by
  unfold State.writeBack
  split
  · exact sheds_putHome s _ _ _
  · exact sheds_of_cores rfl

/-! ## A core drops its caches (R447, R443) -/

/-- A core holds no line of its L1 and of its instruction cache. -/
def Core.dropped (c : Core) : Prop := c.l1 = [] ∧ c.icache = []

theorem Core.Shed.dropped {c c' : Core} (h : c.Shed c') (hd : c.dropped) : c'.dropped :=
  ⟨List.eq_nil_of_subset_nil (hd.1 ▸ h.l1), h.icache.trans hd.2⟩

/-- A core that drops its caches ends its pins and writes its words back first; of its L1 and its instruction cache nothing is left. -/
theorem dropCaches_eq (s : State) (n : Nat) :
    ∃ t : State, s.Sheds t ∧ s.dropCaches n = t.setCore n { t.core n with l1 := [], icache := [] } :=
  ⟨_, (sheds_foldl (fun t k => sheds_endPin t n k) _ s).trans (sheds_foldl (fun t w => sheds_writeBack t n w) _ _), rfl⟩

theorem dropped_dropCaches_same (s : State) (n : Nat) : ((s.dropCaches n).core n).dropped := by
  obtain ⟨t, -, e⟩ := dropCaches_eq s n
  rw [e, core_setCore]
  exact ⟨rfl, rfl⟩

theorem dropped_dropCaches {s : State} {k : Nat} (n : Nat) (h : (s.core k).dropped) : ((s.dropCaches n).core k).dropped := by
  by_cases hk : k = n
  · subst hk; exact dropped_dropCaches_same s k
  · obtain ⟨t, ht, e⟩ := dropCaches_eq s n
    rw [e, core_setCore_other t _ hk]
    exact (ht k).dropped h

theorem dropped_foldl_dropCaches {l : List Nat} {n : Nat} (hn : n ∈ l) (s : State) :
    ((l.foldl State.dropCaches s).core n).dropped :=
  foldl_reaches (P := fun t => (t.core n).dropped) (fun t => dropped_dropCaches_same t n) (fun _ m h => dropped_dropCaches m h) hn s

end Sys2Proof.Machine
end

section
/-! Proofs. The start, RET and return of cores (R414, R443, R450) and the sensors' bits (R446). -/

namespace Sys2Proof.Machine

theorem coreStart_enters {s : State} {n : Nat} (h : (s.core n).power = .off) :
    let c := (s.coreStart n).core n
    c.power = .run ∧ c.b0 = { Berth.kernel with pc := s.cfg.kentry } ∧ c.ctxid = 0 ∧ c.b1.occupied = false ∧
      c.b2.occupied = false ∧ c.b3.occupied = false ∧ c.l1 = [] ∧ c.inbox = (s.core n).inbox ∧ (s.coreStart n).mem = s.mem := by
  rw [core_coreStart_same, started_of_off h]
  exact ⟨rfl, rfl, rfl, rfl, rfl, rfl, rfl, rfl, mem_coreStart s n⟩

theorem exec_coreStart_off {s : State} {node : BitVec 12} (h : (s.core node.toNat).power = .off) :
    exec (.coreStart node) s = .next ((s.coreStart node.toNat).deliverAll node.toNat) := by
  show execCoreStart node s = _
  simp [execCoreStart, h]

theorem isRill_of_bounds {n : Nat} (h1 : 0x800 ≤ n) (h2 : n ≤ 0x808) : isRill n = true := by simp [isRill, h1, h2]

/-- A Rill compute core in RUN enters RET once its caches are dropped; its berths are as they were but for the pins that ended. -/
theorem rillCoreRet_enters {s : State} {node : BitVec 12} (hrun : (s.core node.toNat).power = .run) (h1 : 0x800 ≤ node.toNat)
    (h2 : node.toNat < 0x808) :
    ∃ (t : State) (c : Core), exec (.rillCoreRet node) s = .next t ∧ (s.core node.toNat).Shed c ∧
      t.core node.toNat = { c with l1 := [], icache := [], power := .ret, tlb := [], probes := [] } := by
  have hr : (isRill node.toNat && decide (node.toNat ≠ mcNode) && (s.core node.toNat).power == .run) = true := by
    have hmc : node.toNat ≠ mcNode := Nat.ne_of_lt h2
    simp [isRill_of_bounds h1 (Nat.le_of_lt h2), hmc, hrun]
  obtain ⟨u, hu, e⟩ := dropCaches_eq s node.toNat
  refine ⟨_, u.core node.toNat, congrArg Host.Outcome.next (if_pos hr), hu _, ?_⟩
  rw [core_setCore, e, core_setCore]

theorem getLsbD_wakeSelf (w : Word) : (w ||| 0x100000).getLsbD 20 = true := by
  rw [BitVec.getLsbD_or, Bool.or_eq_true]
  exact .inr (by decide)

/-- A Rill core in RET is back in RUN with WAKE pending, its B1 as it was. -/
theorem rillCoreWake_returns {s : State} {node : BitVec 12} (hret : (s.core node.toNat).power = .ret) (h1 : 0x800 ≤ node.toNat)
    (h2 : node.toNat ≤ 0x808) :
    ∃ t : State, exec (.rillCoreWake node) s = .next t ∧ (t.core node.toNat).power = .run ∧ t.wakeSrc.getLsbD 20 = true ∧
      (t.core node.toNat).wakeSrc.isSome = true ∧ (t.core node.toNat).b1 = (s.core node.toNat).b1 ∧ t.mem = s.mem := by
  have hr : (isRill node.toNat && (s.core node.toNat).power == .ret) = true := by
    simp [isRill_of_bounds h1 h2, hret]
  refine ⟨_, congrArg Host.Outcome.next (if_pos hr), ?_⟩
  rw [core_setCore]
  exact ⟨rfl, getLsbD_wakeSelf s.wakeSrc, rfl, rfl, rfl⟩

/-- R5, R414, R443, R450: cores start, enter RET and return, and the sensors set their bits. -/
theorem coresStart : Claims.CoresStart := by
  refine ⟨fun s node hoff => ⟨exec_coreStart_off hoff, coreStart_enters hoff⟩, fun s node hrun h1 h2 => ?_,
    fun s node hret h1 h2 => rillCoreWake_returns hret h1 h2, fun s g on => ?_, fun s g on => ?_⟩
  · obtain ⟨t, c, he, hc, ht⟩ := rillCoreRet_enters hrun h1 h2
    refine ⟨t, he, ?_⟩
    rw [ht]
    refine ⟨rfl, rfl, hc.b0, hc.b1, fun hp => ?_⟩
    obtain ⟨e0, e1, -⟩ := hc.unpinned hp
    exact ⟨e0, e1⟩
  · exact ⟨_, rfl, group_setGroup_same s _ g.isLt, rfl⟩
  · refine ⟨_, rfl, rfl, (group_setGroup_same s _ g.isLt).trans ?_⟩
    simp [Bool.decide_and]

end Sys2Proof.Machine
end

section
/-! Proofs. The group handshake: quiesce, drain, retention (R447), and the writes that move it on (R446, R448). -/

namespace Sys2Proof.Machine

/-! ## Quiesce and drain (R447) -/

theorem groupQuiesce_steps {s : State} {g : BitVec 5} (hq : (s.group g.toNat).quiesce = true)
    (hd : (s.group g.toNat).quiesced = false) :
    let u := (groupNodes g.toNat).foldl State.quiesceCore s
    ((∀ n ∈ groupNodes g.toNat, (u.core n).quiet = true) →
      ∃ t : State, exec (.groupQuiesce g) s = .next t ∧ (t.group g.toNat).quiesced = true ∧ t.cores = u.cores ∧
        ((s.group g.toNat).wakeBy = 0 → .groupDrain g ∈ t.agenda)) ∧
    (∀ n ∈ groupNodes g.toNat, (u.core n).quiet = false → exec (.groupQuiesce g) s = .next (u.later (.groupQuiesce g))) := by
  intro u
  have hx : exec (.groupQuiesce g) s = .next (if (groupNodes g.toNat).all fun n => (u.core n).quiet then
      (let v := u.setGroup g.toNat { u.group g.toNat with quiesced := true }
       if (s.group g.toNat).wakeBy = 0 then v.later (.groupDrain g) else v)
    else u.later (.groupQuiesce g)) := by
    refine congrArg Host.Outcome.next (if_neg ?_)
    simp [hq, hd]
  refine ⟨fun hall => ?_, fun n hn hb => ?_⟩
  · rw [hx, if_pos (List.all_eq_true.mpr hall)]
    have hs := group_setGroup_same u { u.group g.toNat with quiesced := true } g.isLt
    dsimp only
    split
    · next hw => exact ⟨_, rfl, by rw [group_later, hs], by rw [cores_later, cores_setGroup], fun _ => mem_agenda_later _ _⟩
    · next hw => exact ⟨_, rfl, by rw [hs], cores_setGroup _ _ _, fun h => absurd h hw⟩
  · rw [hx, if_neg]
    intro hall
    rw [List.all_eq_true.mp hall n hn] at hb
    cases hb

theorem groupDrain_steps {s : State} {g : BitVec 5} (hq : (s.group g.toNat).quiesced = true)
    (hd : (s.group g.toNat).drained = false) :
    ((∀ n ∈ groupNodes g.toNat, (s.core n).fifo = [] ∧ (s.core n).engine.flight = none) →
      ∃ t : State, exec (.groupDrain g) s = .next t ∧ ((t.group g.toNat).drained = true ↔ (s.group g.toNat).wakeBy = 0) ∧
        ∀ n ∈ groupNodes g.toNat, (t.core n).l1 = [] ∧ (t.core n).icache = []) ∧
    (∀ n ∈ groupNodes g.toNat, (s.core n).fifo ≠ [] → exec (.groupDrain g) s = .next (s.later (.groupDrain g))) := by
  have hx : exec (.groupDrain g) s = .next (
      if (groupNodes g.toNat).all fun n => (s.core n).fifo.isEmpty && (s.core n).engine.flight.isNone then
        (let u := (groupNodes g.toNat).foldl State.dropCaches s
         u.setGroup g.toNat { u.group g.toNat with drained := (s.group g.toNat).wakeBy = 0 })
      else s.later (.groupDrain g)) := by
    refine congrArg Host.Outcome.next (if_neg ?_)
    simp [hq, hd]
  refine ⟨fun hall => ?_, fun n hn hb => ?_⟩
  · rw [hx, if_pos (List.all_eq_true.mpr fun n hn => by simp [hall n hn])]
    refine ⟨_, rfl, ?_, fun n hn => ?_⟩
    · rw [group_setGroup_same _ _ g.isLt]
      simp
    · rw [core_setGroup]
      exact dropped_foldl_dropCaches hn s
  · rw [hx, if_neg]
    intro hall
    have := List.all_eq_true.mp hall n hn
    simp [hb] at this

/-! ## Retention (R447, R448) -/

/-- A core that GRET_SAVE restores: from RET it is in RUN again. -/
def Core.restored (c : Core) : Core := if c.power == .ret then { c with power := .run } else c

theorem restored_restored (c : Core) : c.restored.restored = c.restored := by
  unfold Core.restored
  by_cases h : c.power = .ret <;> simp [h]

/-- The step of GRET_SAVE's OP 3 at one core. -/
def State.restoreCore (s : State) (n : Nat) : State :=
  if (s.core n).power == .ret then s.setCore n { s.core n with power := .run } else s

theorem core_restoreCore_same (s : State) (n : Nat) : (s.restoreCore n).core n = (s.core n).restored := by
  unfold State.restoreCore Core.restored; split <;> simp

theorem core_restoreCore_other (s : State) {n k : Nat} (h : k ≠ n) : (s.restoreCore n).core k = s.core k := by
  unfold State.restoreCore
  split
  · exact core_setCore_other s _ h
  · rfl

@[simp] theorem mem_restoreCore (s : State) (n : Nat) : (s.restoreCore n).mem = s.mem := by
  unfold State.restoreCore; split <;> rfl
@[simp] theorem groups_restoreCore (s : State) (n : Nat) : (s.restoreCore n).groups = s.groups := by
  unfold State.restoreCore; split <;> rfl

theorem gretSaveRestore_restores (s : State) (g : BitVec 5) :
    ∃ t : State, exec (.gretSaveRestore g) s = .next t ∧ t.mem = s.mem ∧ t.groups = s.groups ∧
      ∀ n, t.core n = if n ∈ groupNodes g.toNat ∧ (s.core n).power = .ret then { s.core n with power := .run } else s.core n := by
  refine ⟨(groupNodes g.toNat).foldl State.restoreCore s, rfl, foldl_keeps State.mem mem_restoreCore _ s,
    foldl_keeps State.groups groups_restoreCore _ s, fun n => ?_⟩
  rw [foldl_updates (get := State.core) (F := fun _ => Core.restored) (fun t m _ => core_restoreCore_same t m)
    (fun t m _ k hk => core_restoreCore_other t hk) (fun _ => restored_restored)]
  by_cases hn : n ∈ groupNodes g.toNat <;> simp [hn, Core.restored]

theorem gretSaveDone_steps (s : State) :
    ((∀ e ∈ s.agenda, e.isRetSave = false) → exec .gretSaveDone s = .next { s with retSave := false }) ∧
    (∀ e ∈ s.agenda, e.isRetSave = true → exec .gretSaveDone s = .next (s.later .gretSaveDone)) := by
  refine ⟨fun h => congrArg Host.Outcome.next (if_neg ?_), fun e he hr => congrArg Host.Outcome.next (if_pos ?_)⟩
  · rw [List.any_eq_true]
    rintro ⟨e, he, hr⟩
    rw [h e he] at hr
    cases hr
  · exact List.any_eq_true.mpr ⟨e, he, hr⟩

/-! ## Writes that keep or break the order (R446, R449) -/

/-- SEQERR of a group becomes 1, the rest of the part is as it was (R446). -/
def State.markSeqerr (s : State) (g : Nat) : State := s.setGroup g { s.group g with seqerr := true }

theorem handshake_of_sound {s : State} {gs : List Nat} {ok : Group → Nat → Bool} (f : State → Nat → State)
    (h : ∀ g ∈ gs, (s.group g).wakeBy = 0 ∧ ok (s.group g) g = true) : s.handshake gs ok f = gs.foldl f s :=
  if_pos (List.all_eq_true.mpr fun g hg => by simp [h g hg])

theorem handshake_of_broken {s : State} {gs : List Nat} {ok : Group → Nat → Bool} (f : State → Nat → State) {g : Nat} (hg : g ∈ gs)
    (h : ¬ ((s.group g).wakeBy = 0 ∧ ok (s.group g) g = true)) : s.handshake gs ok f = gs.foldl State.markSeqerr s :=
  if_neg fun hall => h (by simpa using List.all_eq_true.mp hall g hg)

theorem handshake_dichotomy (s : State) (gs : List Nat) (ok : Group → Nat → Bool) (f : State → Nat → State) :
    s.handshake gs ok f = gs.foldl f s ∨ s.handshake gs ok f = gs.foldl State.markSeqerr s := by
  unfold State.handshake
  split
  · exact .inl rfl
  · exact .inr rfl

/-- After SEQERR of several groups has been set, each group's record is as it was but for that. -/
theorem group_foldl_markSeqerr (s : State) {gs : List Nat} (hgs : ∀ g ∈ gs, g < 32) (k : Nat) :
    (gs.foldl State.markSeqerr s).group k = if k ∈ gs then { s.group k with seqerr := true } else s.group k :=
  foldl_updates (get := State.group) (F := fun _ x => { x with seqerr := true })
    (fun t g hg => group_setGroup_same t _ (hgs g hg)) (fun t _ _ _ hk => group_setGroup_other t _ hk) (fun _ _ => rfl) s k

theorem cores_foldl_markSeqerr (s : State) (gs : List Nat) : (gs.foldl State.markSeqerr s).cores = s.cores :=
  foldl_keeps State.cores (fun t g => cores_setGroup t g _) gs s

theorem mem_foldl_markSeqerr (s : State) (gs : List Nat) : (gs.foldl State.markSeqerr s).mem = s.mem :=
  foldl_keeps State.mem (fun t g => mem_setGroup t g _) gs s

/-! ## GCLK_GATE (R447, R448) -/

/-- One bit of GCLK_GATE takes effect. -/
def State.gateBit (v : Word) (s : State) (g : Nat) : State :=
  let t := s.setGroup g { s.group g with gate := bitOf v g }
  if !bitOf v g && !(s.group g).quiesce then t.later (.groupResume (BitVec.ofNat 5 g)) else t

theorem groups_gateBit (v : Word) (s : State) (g : Nat) :
    (s.gateBit v g).groups = (s.setGroup g { s.group g with gate := bitOf v g }).groups := by
  unfold State.gateBit; dsimp only; split <;> rfl
theorem cores_gateBit (v : Word) (s : State) (g : Nat) : (s.gateBit v g).cores = s.cores := by
  unfold State.gateBit; dsimp only; split <;> rfl
theorem mem_gateBit (v : Word) (s : State) (g : Nat) : (s.gateBit v g).mem = s.mem := by
  unfold State.gateBit; dsimp only; split <;> rfl

theorem gate_foldl_gateBit (v : Word) (s : State) {gs : List Nat} (hgs : ∀ g ∈ gs, g < 32) (k : Nat) :
    ((gs.foldl (State.gateBit v) s).group k).gate = if k ∈ gs then bitOf v k else (s.group k).gate := by
  refine foldl_updates (get := fun t g => (t.group g).gate) (F := fun g _ => bitOf v g) (fun t g hg => ?_) (fun t g _ k hk => ?_)
    (fun _ _ => rfl) s k
  · rw [group_congr (groups_gateBit v t g), group_setGroup_same t _ (hgs g hg)]
  · rw [group_congr (groups_gateBit v t g), group_setGroup_other t _ hk]

theorem mem_changedBits {v : Word} {old : Nat → Bool} {g : Nat} :
    g ∈ changedBits v old ↔ g < 32 ∧ v.getLsbD g ≠ old g := by
  simp [changedBits, bitOf]

/-- What GCLK_GATE demands of a group whose bit changes: SAVED and quiesce to gate it, full power to ungate it. -/
def gateSound (v : Word) (x : Group) (g : Nat) : Bool := if bitOf v g then x.saved && x.quiesce else x.powered

theorem gateSound_iff (v : Word) (x : Group) (g : Nat) : gateSound v x g = true ↔
    if v.getLsbD g then x.saved = true ∧ x.quiesce = true else x.rail = 2 ∧ x.railok = true := by
  unfold gateSound bitOf Group.powered
  cases v.getLsbD g <;> simp

theorem gateWrite_eq (s : State) (v : Word) : s.gateWrite v =
    s.handshake (changedBits v fun g => (s.group g).gate) (gateSound v) (State.gateBit v) := rfl

theorem gclkGateWrite_steps (s : State) (v : BitVec 64) :
    let sound (g : Nat) : Prop := (s.group g).wakeBy = 0 ∧
      if v.getLsbD g then (s.group g).saved = true ∧ (s.group g).quiesce = true else (s.group g).rail = 2 ∧ (s.group g).railok = true
    ∃ t : State, exec (.gclkGateWrite v) s = .next t ∧ t.mem = s.mem ∧ t.cores = s.cores ∧
      ((∀ g < 32, v.getLsbD g ≠ (s.group g).gate → sound g) → ∀ g < 32, (t.group g).gate = v.getLsbD g) ∧
      (∀ g < 32, v.getLsbD g ≠ (s.group g).gate → ¬ sound g →
        (∀ h < 32, (t.group h).gate = (s.group h).gate) ∧ (t.group g).seqerr = true) := by
  intro sound
  have hlt : ∀ g ∈ changedBits v fun g => (s.group g).gate, g < 32 := fun g hg => (mem_changedBits.mp hg).1
  have hsound (g : Nat) : sound g ↔ (s.group g).wakeBy = 0 ∧ gateSound v (s.group g) g = true := by
    rw [gateSound_iff]
  refine ⟨s.gateWrite v, rfl, ?_, ?_, fun hall g hg => ?_, fun g hg hne hbad => ?_⟩
  · rcases handshake_dichotomy s _ (gateSound v) (State.gateBit v) with h | h
    · rw [gateWrite_eq, h]; exact foldl_keeps State.mem (mem_gateBit v) _ s
    · rw [gateWrite_eq, h]; exact mem_foldl_markSeqerr s _
  · rcases handshake_dichotomy s _ (gateSound v) (State.gateBit v) with h | h
    · rw [gateWrite_eq, h]; exact foldl_keeps State.cores (cores_gateBit v) _ s
    · rw [gateWrite_eq, h]; exact cores_foldl_markSeqerr s _
  · have hok : ∀ h ∈ changedBits v fun g => (s.group g).gate, (s.group h).wakeBy = 0 ∧ gateSound v (s.group h) h = true :=
      fun h hh => (hsound h).mp (hall h (hlt h hh) (mem_changedBits.mp hh).2)
    rw [gateWrite_eq, handshake_of_sound _ hok, gate_foldl_gateBit v s hlt]
    split
    · rfl
    · next hn => exact (not_not.mp fun hne => hn (mem_changedBits.mpr ⟨hg, hne⟩)).symm
  · have hmem : g ∈ changedBits v fun g => (s.group g).gate := mem_changedBits.mpr ⟨hg, hne⟩
    rw [gateWrite_eq, handshake_of_broken _ hmem fun h => hbad ((hsound g).mpr h)]
    refine ⟨fun h _ => ?_, ?_⟩
    · rw [group_foldl_markSeqerr s hlt]; split <;> rfl
    · rw [group_foldl_markSeqerr s hlt, if_pos hmem]

end Sys2Proof.Machine
end

section
/-! Proofs. GRAIL_CTL and RAIL_OK (R444, R446, R447), and the handshake as a whole. -/

namespace Sys2Proof.Machine

/-! ## One RAIL field -/

@[simp] theorem groups_dropGroupTlb (s : State) (g : Nat) : (s.dropGroupTlb g).groups = s.groups := rfl

/-- A group's record is written and its STATE changes, in a state whose records are those of `s`. -/
theorem group_powerDown {s t : State} (h : t.groups = s.groups) (g st : Nat) (x : Group) :
    (g < 32 → ((t.setGroup g x).groupState g st).group g = { x with state := st }) ∧
      ∀ k, k ≠ g → ((t.setGroup g x).groupState g st).group k = s.group k := by
  refine ⟨fun hg => ?_, fun k hk => ?_⟩
  · rw [group_groupState_same _ st hg, group_setGroup_same t x hg]
  · rw [group_groupState_other _ st hk, group_setGroup_other t x hk, group_congr h]

/-- Power comes back: the group's RAIL is 2, and no other group's record changes. -/
theorem group_railUp (s : State) (g : Nat) :
    (g < 32 → ((s.railUp g).group g).rail = 2) ∧ ∀ k, k ≠ g → (s.railUp g).group k = s.group k := by
  unfold State.railUp
  dsimp only
  rw [group_later]
  split
  · refine ⟨fun hg => ?_, fun k hk => ?_⟩
    · rw [group_groupState_same _ 3 hg, group_setGroup_same s _ hg]
    · rw [group_later, group_groupState_other _ 3 hk, group_setGroup_other s _ hk]
  · have e (k : Nat) : (({ s.setGroup g { s.group g with rail := 2 } with tbusy := true } : State).laterOnce
        .torrentBringUp).group k = (s.setGroup g { s.group g with rail := 2 }).group k := group_congr (groups_laterOnce _ _) k
    refine ⟨fun hg => ?_, fun k hk => ?_⟩
    · rw [e, group_setGroup_same s _ hg]
    · rw [group_later, e, group_setGroup_other s _ hk]

/-- A RAIL of 1 at the cores of a group, before its record changes: what RET does not keep is gone (R443). -/
def State.retainCores (s : State) (g : Nat) : State :=
  ((groupNodes g).foldl (fun t n => t.setCore n (t.core n).retain) s).dropGroupTlb g

/-- A RAIL of 0 at the cores of a group, before its record changes: their power and their LMs are gone (R443, R447). -/
def State.offCores (s : State) (g : Nat) : State :=
  let off (c : Core) : Core := (if (s.group g).img then c.imaged else c).powerOff
  ((groupNodes g).foldl (fun t n => (t.lmErase n).setCore n (off (t.core n))) s).dropGroupTlb g

theorem groups_retainCores (s : State) (g : Nat) : (s.retainCores g).groups = s.groups := by
  unfold State.retainCores
  rw [groups_dropGroupTlb]
  exact foldl_keeps State.groups (fun t n => groups_setCore t n _) _ s

theorem groups_offCores (s : State) (g : Nat) : (s.offCores g).groups = s.groups := by
  unfold State.offCores
  rw [groups_dropGroupTlb]
  exact foldl_keeps State.groups (fun t n => groups_setCore (t.lmErase n) n _) _ s

theorem railField_retention (s : State) (g : Nat) : s.railField g 1 =
    ((s.retainCores g).setGroup g { s.group g with rail := 1, railok := false }).groupState g 1 := by
  unfold State.railField
  exact if_pos rfl

theorem railField_off (s : State) (g : Nat) : s.railField g 0 =
    ((s.offCores g).setGroup g { s.group g with rail := 0, railok := false, saved := (s.group g).img }).groupState g 2 := by
  unfold State.railField
  exact (if_neg Nat.zero_ne_one).trans (if_pos rfl)

theorem railField_full (s : State) (g : Nat) : s.railField g 2 = s.railUp g := by
  unfold State.railField
  exact (if_neg (Nat.succ_ne_self 1)).trans (if_neg two_ne_zero)

/-- A RAIL field that is not 3 is taken by its group; no other group's record changes. -/
theorem group_railField (s : State) (g : Nat) {r : Nat} (hr : r < 3) :
    (g < 32 → ((s.railField g r).group g).rail = r) ∧ ∀ k, k ≠ g → (s.railField g r).group k = s.group k := by
  have h3 : r = 1 ∨ r = 0 ∨ r = 2 := by omega
  rcases h3 with rfl | rfl | rfl
  · rw [railField_retention]
    obtain ⟨hown, hother⟩ := group_powerDown (groups_retainCores s g) g 1 { s.group g with rail := 1, railok := false }
    exact ⟨fun hg => by rw [hown hg], hother⟩
  · rw [railField_off]
    obtain ⟨hown, hother⟩ := group_powerDown (groups_offCores s g) g 2
      { s.group g with rail := 0, railok := false, saved := (s.group g).img }
    exact ⟨fun hg => by rw [hown hg], hother⟩
  · rw [railField_full]
    exact group_railUp s g

/-! ## GRAIL_CTL (R446, R447) -/

/-- The RAIL field of a group in a value written to GRAIL_CTL. -/
def railOf (v : Word) (g : Nat) : Nat := getF v (2 * g) 2

theorem railOf_eq (v : Word) (g : Nat) : railOf v g = v.toNat / 2 ^ (2 * g) % 4 := by
  simp [railOf, getF, BitVec.extractLsb'_toNat, Nat.shiftRight_eq_div_pow]

theorem railOf_lt_of_ne {v : Word} {g : Nat} (h : railOf v g ≠ 3) : railOf v g < 3 := by
  have : railOf v g < 4 := by rw [railOf_eq]; exact Nat.mod_lt _ (by decide)
  omega

/-- What GRAIL_CTL demands of a group whose RAIL changes: gated clocks, and for retention SAVED without IMG. -/
def railSound (v : Word) (x : Group) (g : Nat) : Bool := if railOf v g = 1 then x.gate && x.saved && !x.img else x.gate

theorem railSound_iff (v : Word) (x : Group) (g : Nat) : railSound v x g = true ↔
    x.gate = true ∧ (railOf v g = 1 → x.saved = true ∧ x.img = false) := by
  unfold railSound
  by_cases h : railOf v g = 1 <;> simp [h, and_assoc]

/-- The groups whose field is 3. -/
def badFields (v : Word) : List Nat := (List.range 32).filter fun g => railOf v g = 3

/-- The groups whose field is not 3 and changes RAIL. -/
def State.railChanges (s : State) (v : Word) : List Nat :=
  (List.range 32).filter fun g => railOf v g ≠ 3 && railOf v g ≠ (s.group g).rail

theorem mem_badFields {v : Word} {g : Nat} : g ∈ badFields v ↔ g < 32 ∧ railOf v g = 3 := by simp [badFields]

theorem mem_railChanges {s : State} {v : Word} {g : Nat} :
    g ∈ s.railChanges v ↔ g < 32 ∧ railOf v g ≠ 3 ∧ railOf v g ≠ (s.group g).rail := by simp [State.railChanges]

/-- The state after the fields of 3 have set their SEQERR (R446). -/
def State.badMarked (s : State) (v : Word) : State := (badFields v).foldl State.markSeqerr s

theorem group_badMarked (s : State) (v : Word) (k : Nat) :
    (s.badMarked v).group k = if k ∈ badFields v then { s.group k with seqerr := true } else s.group k :=
  group_foldl_markSeqerr s (fun _ hg => (mem_badFields.mp hg).1) k

theorem rail_badMarked (s : State) (v : Word) (k : Nat) : ((s.badMarked v).group k).rail = (s.group k).rail := by
  rw [group_badMarked]; split <;> rfl
theorem wakeBy_badMarked (s : State) (v : Word) (k : Nat) : ((s.badMarked v).group k).wakeBy = (s.group k).wakeBy := by
  rw [group_badMarked]; split <;> rfl
theorem railSound_badMarked (s : State) (v : Word) (k : Nat) :
    railSound v ((s.badMarked v).group k) k = railSound v (s.group k) k := by
  rw [group_badMarked]; split <;> rfl

/-- A RAIL field of the value takes effect. -/
def State.railStep (v : Word) (s : State) (g : Nat) : State := s.railField g (railOf v g)

theorem railWrite_eq (s : State) (v : Word) : s.railWrite v =
    (s.badMarked v).handshake (s.railChanges v) (railSound v) (State.railStep v) := rfl

theorem rail_foldl_railStep (v : Word) (s : State) {gs : List Nat} (hgs : ∀ g ∈ gs, g < 32 ∧ railOf v g ≠ 3) (k : Nat) :
    ((gs.foldl (State.railStep v) s).group k).rail = if k ∈ gs then railOf v k else (s.group k).rail := by
  refine foldl_updates (get := fun t g => (t.group g).rail) (F := fun g _ => railOf v g) (fun t g hg => ?_)
    (fun t g hg k hk => ?_)
    (fun _ _ => rfl) s k
  · obtain ⟨h32, h3⟩ := hgs g hg
    exact (group_railField t g (railOf_lt_of_ne h3)).1 h32
  · rw [State.railStep, (group_railField t g (railOf_lt_of_ne (hgs g hg).2)).2 k hk]

/-- A group's record stays as it is while the RAIL fields of others take effect. -/
theorem group_foldl_railStep_other (v : Word) (s : State) {gs : List Nat} (hgs : ∀ g ∈ gs, railOf v g ≠ 3) {k : Nat} (hk : k ∉ gs) :
    (gs.foldl (State.railStep v) s).group k = s.group k :=
  List.foldlRecOn gs (State.railStep v) (motive := fun t => t.group k = s.group k) rfl fun t ht g hg =>
    ((group_railField t g (railOf_lt_of_ne (hgs g hg))).2 k fun e => hk (e ▸ hg)).trans ht

theorem grailCtlWrite_steps (s : State) (v : BitVec 64) :
    let r (g : Nat) : Nat := v.toNat / 2 ^ (2 * g) % 4
    let sound (g : Nat) : Prop := (s.group g).wakeBy = 0 ∧ (s.group g).gate = true ∧
      (r g = 1 → (s.group g).saved = true ∧ (s.group g).img = false)
    ∃ t : State, exec (.grailCtlWrite v) s = .next t ∧
      (∀ g < 32, r g = 3 → (t.group g).seqerr = true) ∧
      ((∀ g < 32, r g ≠ 3 → r g ≠ (s.group g).rail → sound g) →
        ∀ g < 32, (t.group g).rail = if r g = 3 then (s.group g).rail else r g) ∧
      (∀ g < 32, r g ≠ 3 → r g ≠ (s.group g).rail → ¬ sound g →
        t.cores = s.cores ∧ t.mem = s.mem ∧ (∀ h < 32, (t.group h).rail = (s.group h).rail) ∧ (t.group g).seqerr = true) := by
  intro r sound
  have hr (g : Nat) : r g = railOf v g := (railOf_eq v g).symm
  have hsound (g : Nat) : sound g ↔ ((s.badMarked v).group g).wakeBy = 0 ∧ railSound v ((s.badMarked v).group g) g = true := by
    rw [wakeBy_badMarked, railSound_badMarked, railSound_iff, ← hr]
  have hgs : ∀ g ∈ s.railChanges v, g < 32 ∧ railOf v g ≠ 3 := fun g hg =>
    ⟨(mem_railChanges.mp hg).1, (mem_railChanges.mp hg).2.1⟩
  have hlt : ∀ g ∈ s.railChanges v, g < 32 := fun g hg => (hgs g hg).1
  refine ⟨s.railWrite v, rfl, fun g hg h3 => ?_, fun hall g hg => ?_, fun g hg hn hne hbad => ?_⟩
  · rw [hr] at h3
    have hout : g ∉ s.railChanges v := fun hm => (hgs g hm).2 h3
    have hmark : (s.badMarked v).group g = { s.group g with seqerr := true } := by
      rw [group_badMarked, if_pos (mem_badFields.mpr ⟨hg, h3⟩)]
    rw [railWrite_eq]
    rcases handshake_dichotomy (s.badMarked v) (s.railChanges v) (railSound v) (State.railStep v) with h | h
    · rw [h, group_foldl_railStep_other v _ (fun g hg => (hgs g hg).2) hout, hmark]
    · rw [h, group_foldl_markSeqerr _ hlt, if_neg hout, hmark]
  · have hok : ∀ h ∈ s.railChanges v, ((s.badMarked v).group h).wakeBy = 0 ∧ railSound v ((s.badMarked v).group h) h = true :=
      fun h hh => by
        obtain ⟨h1, h2, h3⟩ := mem_railChanges.mp hh
        exact (hsound h).mp (hall h h1 (by rwa [hr]) (by rwa [hr]))
    rw [railWrite_eq, handshake_of_sound _ hok, rail_foldl_railStep v _ hgs, rail_badMarked, hr]
    by_cases h3 : railOf v g = 3
    · rw [if_neg fun hm => (hgs g hm).2 h3, if_pos h3]
    · rw [if_neg h3]
      split
      · rfl
      · next hm => exact (not_not.mp fun hne => hm (mem_railChanges.mpr ⟨hg, h3, hne⟩)).symm
  · rw [hr] at hn hne
    have hmem : g ∈ s.railChanges v := mem_railChanges.mpr ⟨hg, hn, hne⟩
    rw [railWrite_eq, handshake_of_broken _ hmem fun h => hbad ((hsound g).mpr h)]
    refine ⟨?_, ?_, fun h _ => ?_, ?_⟩
    · exact (cores_foldl_markSeqerr _ _).trans (cores_foldl_markSeqerr s _)
    · exact (mem_foldl_markSeqerr _ _).trans (mem_foldl_markSeqerr s _)
    · rw [group_foldl_markSeqerr _ hlt, ← rail_badMarked s v h]; split <;> rfl
    · rw [group_foldl_markSeqerr _ hlt, if_pos hmem]

/-! ## RAIL_OK (R444) -/

theorem railOk_steps {s : State} {g : BitVec 5} (h2 : (s.group g.toNat).rail = 2) :
    (s.tstate = 2 → ∃ t : State, exec (.railOk g) s = .next t ∧ t.mem = s.mem ∧ t.group g.toNat =
      { s.group g.toNat with railok := true, state := if (s.group g.toNat).state = 0 then 0 else 3 }) ∧
    (s.tstate ≠ 2 → ∃ t : State, exec (.railOk g) s = .next t ∧ t.mem = s.mem ∧ t.groups = s.groups ∧ t.tbusy = true ∧
      .torrentBringUp ∈ t.agenda ∧ .railOk g ∈ t.agenda) := by
  have hx : exec (.railOk g) s = .next (if s.tstate ≠ 2 then
      ({ s with tbusy := true }.laterOnce .torrentBringUp).later (.railOk g)
    else
      (let u := if (s.group g.toNat).state = 0 then s else s.groupState g.toNat 3
       u.setGroup g.toNat { u.group g.toNat with railok := true })) :=
    congrArg Host.Outcome.next (if_neg (not_not.mpr h2))
  refine ⟨fun ht => ?_, fun ht => ?_⟩
  · rw [hx, if_neg (not_not.mpr ht)]
    refine ⟨_, rfl, ?_, ?_⟩
    · rw [mem_setGroup]
      split
      · rfl
      · exact mem_groupState s _ 3
    · rw [group_setGroup_same _ _ g.isLt]
      split
      · next h0 => simp only [h0]
      · rw [group_groupState_same s 3 g.isLt]
  · rw [hx, if_pos ht]
    refine ⟨_, rfl, ?_, ?_, ?_, mem_agenda_later_of_mem _ (mem_agenda_laterOnce _ _), mem_agenda_later _ _⟩
    · rw [mem_later, mem_laterOnce]
    · rw [groups_later, groups_laterOnce]
    · rw [tbusy_later, tbusy_laterOnce]

/-! ## The handshake as a whole -/

/-- R444, R446, R447, R448: a group's steps down and up, and the writes that move it on. -/
theorem handshakeSteps : Claims.HandshakeSteps :=
  ⟨fun _ _ hq hd => groupQuiesce_steps hq hd, fun _ _ hq hd => groupDrain_steps hq hd,
    fun s g => ⟨_, rfl, rfl, rfl, group_setGroup_same s _ g.isLt⟩, gretSaveRestore_restores, gretSaveDone_steps,
    gclkGateWrite_steps, grailCtlWrite_steps, fun _ _ h2 => railOk_steps h2⟩

/-- Settles O48: cores start, rest and return, and the group handshake keeps its order. -/
theorem powerSteps : Obligations.PowerSteps := ⟨coresStart, handshakeSteps⟩

end Sys2Proof.Machine
end

section
/-! Proofs. MemoryForm: the canonical form of the byte memory and of the tag memory (R20) through the combinators that the model is
written in: conditionals, folds, and computations that a trap or a wait may stop. One lemma per function of the model then says that it
keeps the form; most functions write no memory, and then the form of the state before is, by definition, that of the state after. -/

namespace Sys2Proof.Machine


/-- A state with the byte memory and the tag memory of a canonical one. -/
theorem State.memWf.frame {s t : State} (h : s.memWf) (hm : t.mem = s.mem := by rfl) (ht : t.tags = s.tags := by rfl) :
    t.memWf := by
  unfold State.memWf at *
  rw [hm, ht]
  exact h

theorem State.memWf.ite {c : Prop} {_ : Decidable c} {s t : State} (h : s.memWf) (k : t.memWf) :
    (if c then s else t).memWf := by
  split
  · exact h
  · exact k

theorem State.memWf.foldl {ι : Type} {f : State → ι → State} {s : State} (h : s.memWf) {l : List ι}
    (hf : ∀ t i, t.memWf → (f t i).memWf) : (l.foldl f s).memWf :=
  List.foldlRecOn l f h fun t ht i _ => hf t i ht

theorem State.memWf.of_pair {α : Type} {x : State × α} {t : State} {a : α} (h : x.1.memWf) (e : x = (t, a)) : t.memWf := by
  rw [e] at h
  exact h

/-- The state that a stop keeps or waits in has its memories in canonical form. -/
def Stop.memWf : Stop → Prop
  | .keep t _ _ => t.memWf
  | .wait t => t.memWf
  | .move t _ _ => t.memWf
  | _ => True

/-- A computation that ends with a value of which `p` holds, or with an error of which `q` does. -/
def Ends {ε α : Type} (q : ε → Prop) (p : α → Prop) : Except ε α → Prop
  | .ok a => p a
  | .error e => q e

section
variable {ε α β : Type} {q : ε → Prop} {p : α → Prop} {p' : β → Prop}

theorem Ends.bind {x : Except ε α} {f : α → Except ε β} (h : Ends q p x) (k : ∀ a, p a → Ends q p' (f a)) :
    Ends q p' (x >>= f) := by
  cases x with
  | ok a => exact k a h
  | error e => exact h

theorem Ends.ite {c : Prop} {_ : Decidable c} {x y : Except ε α} (h : Ends q p x) (k : Ends q p y) :
    Ends q p (if c then x else y) := by
  split
  · exact h
  · exact k

/-- What stops an instruction ends it: nothing after it matters. -/
theorem Ends.stop {e : ε} {f : α → Except ε β} (h : q e) : Ends q p' ((.error e : Except ε α) >>= f) := h

/-- What a computation gives at once, the next one takes. -/
theorem Ends.after {a : α} {f : α → Except ε β} (h : Ends q p' (f a)) : Ends q p' ((.ok a : Except ε α) >>= f) := h

theorem Ends.any {x : Except ε α} : Ends (fun _ => True) (fun _ => True) x := by
  cases x <;> trivial

theorem Ends.foldlM {f : α → β → Except ε α} {l : List β} {a : α} (h : p a) (hf : ∀ a b, p a → Ends q p (f a b)) :
    Ends q p (l.foldlM f a) := by
  induction l generalizing a with
  | nil => exact h
  | cons b r ih => exact .bind (hf a b h) fun _ k => ih k

theorem Ends.ok {x : Except ε α} {a : α} (h : Ends q p x) (e : x = .ok a) : p a := by
  rw [e] at h
  exact h

theorem Ends.error {x : Except ε α} {a : ε} (h : Ends q p x) (e : x = .error a) : q a := by
  rw [e] at h
  exact h
end

/-- An outcome whose next state has its memories in canonical form. -/
def OutWf : Out → Prop
  | .next t => t.memWf
  | _ => True

theorem OutWf.ite {c : Prop} {_ : Decidable c} {s t : Out} (h : OutWf s) (k : OutWf t) : OutWf (if c then s else t) := by
  split
  · exact h
  · exact k

theorem OutWf.next {x : Out} {t : State} (h : OutWf x) (e : x = .next t) : t.memWf := by
  rw [e] at h
  exact h

theorem State.memWf.getD {o : Option State} {d : State} (h : ∀ t, o = some t → t.memWf) (k : d.memWf) : (o.getD d).memWf := by
  cases o with
  | none => exact k
  | some t => exact h t rfl

/-- What an operation at a home leaves has its memories in canonical form. -/
def HomeRes.memWf : HomeRes → Prop
  | .done t _ _ => t.memWf
  | .waits t => t.memWf

/-- What the network interface leaves has its memories in canonical form. -/
def NiRes.memWf : NiRes → Prop
  | .taken t => t.memWf
  | .bridge t => t.memWf
  | .invalid t => t.memWf
  | .full t => t.memWf

theorem NiRes.memWf.of_eq {x y : NiRes} (h : x.memWf) (e : x = y) : y.memWf := e ▸ h

end Sys2Proof.Machine
end

section
/-! Proofs. MemoryForm.Core: what the operations on cores, berths, registers and words keep. -/

namespace Sys2Proof.Machine

variable {s : State}

theorem State.memWf.setCore {n : Nat} {c : Core} (h : s.memWf) : (s.setCore n c).memWf := h

theorem State.memWf.setHere {c : Core} (h : s.memWf) : (s.setHere c).memWf := h.setCore

theorem State.memWf.setMe {b : Berth} (h : s.memWf) : (s.setMe b).memWf := h.setHere

theorem State.memWf.setBerthAt {n i : Nat} {b : Berth} (h : s.memWf) : (s.setBerthAt n i b).memWf := h.setCore

theorem Ends.trap {α : Type} {c : Cause} {v : Word} {p : α → Prop} : Ends Stop.memWf p (trap c v : M α) := trivial

theorem Ends.check {p : Bool} {c : Cause} {v : Word} : Ends Stop.memWf (fun _ => True) (check p c v) := .ite trivial Ends.trap

theorem State.memWf.drawn (h : s.memWf) : s.drawn.memWf := h

theorem State.memWf.later {e : Event} (h : s.memWf) : (s.later e).memWf := h

theorem State.memWf.laterOnce {e : Event} (h : s.memWf) : (s.laterOnce e).memWf := .ite h h.later

theorem State.memWf.again {e : Event} (h : s.memWf) : (s.again e).memWf := h

theorem State.memWf.roomIn {α : Type} {k : Nat} {l : List α} (h : s.memWf) : (s.roomIn k l).1.memWf := by
  unfold State.roomIn
  split
  exacts [h, h.drawn]

theorem State.memWf.retire {len : Nat} (h : s.memWf) : (s.retire len).memWf := h.setMe

theorem State.memWf.jump {t : Word} (h : s.memWf) : (s.jump t).memWf := h.setMe

theorem State.memWf.unwait {n i : Nat} (h : s.memWf) : (s.unwait n i).memWf := h

theorem State.memWf.clearWait {s : State} {w : Waiter} (h : s.memWf) : (s.clearWait w).memWf := by
  have low : ({ s with mem := clearW s.mem w.addr } : State).memWf := ⟨wf_clearW _ h.1, h.2⟩
  exact .ite low (.ite (.ite low h) (.ite h (.ite low h)))

theorem State.memWf.dropWaits {n i : Nat} (h : s.memWf) : (s.dropWaits n i).memWf :=
  (h.unwait.foldl fun _ _ k1 => k1.clearWait)

theorem State.memWf.cancelReq {n i : Nat} (h : s.memWf) : (s.cancelReq n i).memWf := by
  unfold State.cancelReq
  dsimp only
  split
  · split
    exacts [(State.memWf.setBerthAt h), h]
  · exact h.setCore.setBerthAt
  · refine .ite h ?_
    split
    · exact (State.memWf.setBerthAt (State.memWf.setCore h))
    · split
      exacts [h.setCore.setBerthAt, h]
  · exact h

theorem State.memWf.settlePins {n : Nat} (h : s.memWf) : (s.settlePins n).memWf := .ite h h

theorem State.memWf.stopBerth {n i : Nat} (h : s.memWf) : (s.stopBerth n i).memWf := h.cancelReq.dropWaits.setCore.settlePins

theorem State.memWf.stopAll {s : State} {n : Nat} {l : List Nat} (h : s.memWf) : (s.stopAll n l).memWf := by
  induction l generalizing s with
  | nil => exact h
  | cons _ _ ih => exact ih h.stopBerth

theorem State.memWf.recordFor {n ctx cls typ : Nat} {payload : Word} (h : s.memWf) : (s.recordFor n ctx cls typ payload).memWf :=
  .ite h h

theorem State.memWf.record {n cls typ : Nat} {payload : Word} (h : s.memWf) : (s.record n cls typ payload).memWf := h.recordFor

theorem State.memWf.enter {n : Nat} {c : Cause} {v : Word} {m tb : Nat} (h : s.memWf) : (s.enter n c v m tb).memWf :=
  h.stopAll.setCore.record

theorem State.memWf.freezeAtMc {x : Freeze} (h : s.memWf) : (s.freezeAtMc x).memWf := .ite h <| .ite h <| .ite h h

theorem State.memWf.startFreeze {n cause ctx : Nat} (h : s.memWf) : (s.startFreeze n cause ctx).memWf := by
  refine State.memWf.frame (.ite ?_ ?_)
  · refine State.memWf.freezeAtMc (.ite ?_ ?_)
    · exact h
    · exact h.frame rfl rfl
  · refine .ite ?_ ?_
    · exact h
    · exact h.frame rfl rfl

theorem State.memWf.enterMachine {n : Nat} {reason : Word} (h : s.memWf) : (s.enterMachine n reason).memWf :=
  .ite h.cancelReq.dropWaits.stopAll.setCore.settlePins.record h.cancelReq.dropWaits.stopAll.setCore.settlePins.record.startFreeze

theorem State.memWf.enterOwn {n : Nat} {c : Cause} {v : Word} (h : s.memWf) : (s.enterOwn n c v).memWf :=
  .ite h.enterMachine h.dropWaits.setCore.settlePins.record

theorem State.memWf.enterUser {n : Nat} {c : Cause} {v : Word} (h : s.memWf) : (s.enterUser n c v).memWf :=
  .ite h.enter h.stopBerth.setCore

theorem State.memWf.inject {p : Packet} (h : s.memWf) : (s.inject p).memWf := h

theorem State.memWf.packetTriggers {p : Packet} (h : s.memWf) : (s.packetTriggers p).memWf := h.foldl fun _ _ k1 => k1.laterOnce

theorem State.memWf.countSent {n : Nat} {p : Packet} (h : s.memWf) : (s.countSent n p).memWf := by
  unfold State.countSent
  split
  exacts [h.setCore, h]

theorem State.memWf.depart {n : Nat} {p : Packet} (h : s.memWf) : (s.depart n p).memWf :=
  .ite h.setCore.packetTriggers h.setCore.inject

theorem State.memWf.send {n : Nat} {p : Packet} (h : s.memWf) : (s.send n p).memWf := h.countSent.depart

theorem State.memWf.sendHome {n i : Nat} {tr : Option (Cause × Word)} {evicted : Bool} (h : s.memWf) :
    (s.sendHome n i tr evicted).memWf :=
  h.cancelReq.dropWaits.setBerthAt.record.inject

theorem State.memWf.sendAway {n i rank node : Nat} {back : Word} (h : s.memWf) : (s.sendAway n i rank node back).memWf :=
  h.setCore.record.send

theorem State.memWf.takeSync {c : Cause} {v : Word} (h : s.memWf) : (s.takeSync c v).memWf :=
  .ite h.setMe.enterOwn <| .ite h.setMe.enterUser h.setMe.sendHome

theorem State.memWf.run {s : State} {r : M State} (h : s.memWf) (k : Ends Stop.memWf State.memWf r) : OutWf (run s r) := by
  unfold Machine.run
  split
  · exact k
  · exact h.takeSync
  · exact State.memWf.takeSync k
  · exact k
  · exact h.sendHome
  · exact State.memWf.sendAway k

theorem Ends.nativeOnly : Ends Stop.memWf (fun _ => True) (nativeOnly s) := .ite trivial trivial

theorem State.memWf.endEntry (h : s.memWf) : s.endEntry.memWf := .ite h.record.setHere h.record.setHere

end Sys2Proof.Machine
end

section
/-! Proofs. MemoryForm.Places: what the operations on memory, its caches and its homes keep. -/

namespace Sys2Proof.Machine

variable {s : State}

theorem State.memWf.putBlock {s : State} {b slot x : Nat} (h : s.memWf) : (s.putBlock b slot x).memWf := by
  unfold State.putBlock
  split
  exacts [h, ⟨wf_mputN _ _ _ h.left, h.right⟩]

theorem State.memWf.putUnit {unit slot x : Nat} (h : s.memWf) : (s.putUnit unit slot x).memWf := h.foldl fun _ _ k1 => k1.putBlock

theorem wf_putTags {m : Memory} {unit : Nat} {ts : List Nat} (h : m.wf = true) : (putTags m unit ts).wf = true :=
  List.foldlRecOn _ _ (motive := fun r => Memory.wf r = true) h fun _ hr _ _ => wf_mput _ _ hr

theorem State.memWf.l2WriteBack {s : State} {unit : Nat} (h : s.memWf) : (s.l2WriteBack unit).memWf := by
  unfold State.l2WriteBack
  split
  · exact .ite ⟨h.putUnit.1, wf_putTags h.putUnit.2⟩ h
  · exact h

theorem State.memWf.l2Evict {unit : Nat} (h : s.memWf) : (s.l2Evict unit).memWf := h.l2WriteBack

theorem State.memWf.mputN_mem_tags {s : State} {a b n k x y : Nat} {o : List (Nat × Nat × Nat)} (h : s.memWf) :
    ({ s with mem := mputN s.mem a n x, tags := mputN s.tags b k y, owners := o } : State).memWf :=
  ⟨wf_mputN _ _ _ h.left, wf_mputN _ _ _ h.right⟩

theorem State.memWf.claim {s : State} {l : Loc} (h : s.memWf) : (s.claim l).memWf := .ite h h.mputN_mem_tags

theorem State.memWf.putLow {s : State} {l : Loc} {v : Word} {t : Nat} (h : s.memWf) : (s.putLow l v t).memWf :=
  .ite h (.ite (.ite h ⟨h.l2Evict.putBlock.1, wf_mput _ _ h.l2Evict.putBlock.2⟩)
    ⟨wf_mputN 8 _ _ h.claim.1, wf_mput _ _ h.claim.2⟩)

theorem State.memWf.endPin {n line : Nat} (h : s.memWf) : (s.endPin n line).memWf := .ite h.setCore.settlePins h

theorem State.memWf.revokeBy {put : State → Loc → Word → Nat → State} {n word : Nat} (h : s.memWf)
    (k : ∀ (a : State) (a_1 : Loc) (a_2 : Word) (a_3 : Nat), a.memWf → (put a a_1 a_2 a_3).memWf) :
    (s.revokeBy put n word).memWf := by
  unfold State.revokeBy
  dsimp only
  refine ?_.setCore
  split
  exacts [k _ _ _ _ h.endPin, h.endPin]

theorem State.memWf.revokeUnit {unit : Nat} (h : s.memWf) : (s.revokeUnit unit).memWf :=
  h.foldl fun _ _ k1 => k1.foldl fun _ _ k2 => k2.revokeBy fun _ _ _ _ k3 => k3.putLow

theorem State.memWf.l2Leave {unit : Nat} (h : s.memWf) : (s.l2Leave unit).memWf := h.revokeUnit.l2Evict

theorem State.memWf.l2Room {unit : Nat} (h : s.memWf) : (s.l2Room unit).memWf := by
  refine .ite h ?_
  split
  exacts [h.drawn.l2Leave, h]

theorem State.memWf.l2Fill {l : Loc} (h : s.memWf) : (s.l2Fill l).memWf := h

theorem State.memWf.dramExit (h : s.memWf) : s.dramExit.memWf := .ite (State.memWf.laterOnce h) h

theorem State.memWf.l2Fetch {l : Loc} (h : s.memWf) : (s.l2Fetch l).memWf := by
  refine .ite (.ite ?_ h.dramExit) h
  split
  exacts [.ite h h.l2Leave.l2Fill, h.l2Room.l2Fill]

theorem State.memWf.putHome {l : Loc} {v : Word} {t : Nat} (h : s.memWf) : (s.putHome l v t).memWf := .ite h h.l2Fetch.putLow

theorem State.memWf.writeBack {n word : Nat} (h : s.memWf) : (s.writeBack n word).memWf := by
  unfold State.writeBack
  split
  exacts [h.putHome, h]

theorem State.memWf.revoke {n word : Nat} (h : s.memWf) : (s.revoke n word).memWf := h.revokeBy fun _ _ _ _ k1 => k1.putHome

theorem State.memWf.revokeAll {word : Nat} (h : s.memWf) : (s.revokeAll word).memWf := h.foldl fun _ _ k1 => k1.revoke

theorem State.memWf.revokeFor {l : Loc} (h : s.memWf) : (s.revokeFor l).memWf := .ite h.revokeUnit h.revokeAll

theorem State.memWf.l2Flush {p : Nat → Bool} (h : s.memWf) : (s.l2Flush p).memWf := h.foldl fun _ _ k1 => k1.l2Evict

theorem State.memWf.forward {word : Nat} (h : s.memWf) : (s.forward word).memWf := h.foldl fun _ _ k1 => k1.writeBack.setCore

theorem State.memWf.readHome {l : Loc} (h : s.memWf) : (s.readHome l).1.memWf := by
  unfold State.readHome
  split
  exacts [h, h.forward.l2Fetch]

theorem State.memWf.storeView {n : Nat} {l : Loc} (h : s.memWf) : (s.storeView n l).1.memWf := by
  unfold State.storeView
  split
  · exact h
  · split
    · split
      exacts [h, h.readHome]
    · exact h.readHome

theorem State.memWf.evictLine {n line : Nat} (h : s.memWf) : (s.evictLine n line).memWf :=
  (h.endPin.foldl fun _ _ k1 => k1.writeBack).setCore

theorem State.memWf.dropOthers {n : Nat} {l : Loc} (h : s.memWf) : (s.dropOthers n l).memWf := .ite h.evictLine h

theorem State.memWf.l1Room {n line : Nat} (h : s.memWf) : (s.l1Room n line).memWf := by
  refine .ite h ?_
  split
  exacts [h.drawn.evictLine, h]

theorem State.memWf.fillWords {n : Nat} : ∀ {k : Nat} {s : State} {l : Loc}, s.memWf → (s.fillWords n l k).memWf
  | 0, _, _, h => h
  | k + 1, s, l, h => by
    unfold State.fillWords
    split
    · exact State.memWf.fillWords h
    · exact State.memWf.fillWords h.readHome.setCore

theorem State.memWf.fill {n : Nat} {l : Loc} (h : s.memWf) : (s.fill n l).memWf := h.dropOthers.l1Room.fillWords

theorem State.memWf.afterFill {n : Nat} {l : Loc} (h : s.memWf) : (s.afterFill n l).1.memWf := by
  unfold State.afterFill
  split
  exacts [h, h.readHome]

theorem State.memWf.loadRaw {n : Nat} {l : Loc} (h : s.memWf) : (s.loadRaw n l).1.memWf := by
  unfold State.loadRaw
  dsimp only
  split
  · exact h
  · split
    · split
      · exact h
      · split
        · exact h.readHome
        · split
          · exact h
          · split
            exacts [h.readHome, h.setCore.fill.afterFill]
    · exact h.fill.afterFill

theorem State.memWf.loadWord {n : Nat} {l : Loc} (h : s.memWf) : (s.loadWord n l).1.memWf := by
  unfold State.loadWord
  dsimp only
  split
  exacts [h.loadRaw.loadRaw, h.loadRaw]

theorem State.memWf.readWord {l : Loc} (h : s.memWf) : (s.readWord l).1.memWf := by
  unfold State.readWord
  dsimp only
  split
  exacts [h.readHome.readHome, h.readHome]

theorem State.memWf.notify {l : Loc} {v : Word} (h : s.memWf) : (s.notify l v).memWf := h

theorem State.memWf.testCascades {word : Nat} {v : Word} (h : s.memWf) : (s.testCascades word v).memWf := h

theorem State.memWf.changed {l : Loc} {v : Word} (h : s.memWf) : (s.changed l v).memWf :=
  .ite (State.memWf.ite h h.notify).testCascades <| .ite h h.notify

theorem State.memWf.register {l : Loc} (h : s.memWf) : (s.register l).memWf := .ite h.revokeFor h.revokeFor.claim

theorem State.memWf.storeWord {n : Nat} {l : Loc} {v : Word} {t : Nat} (h : s.memWf) : (s.storeWord n l v t).memWf := by
  refine .ite h.putHome.changed (State.memWf.changed (?_.setCore))
  split
  exacts [.ite h.dropOthers h.dropOthers.register, h.dropOthers.register.l1Room]

theorem State.memWf.dropOwn {n word : Nat} (h : s.memWf) : (s.dropOwn n word).memWf := .ite h.setCore h

theorem State.memWf.writeHome {n : Nat} {l : Loc} {v : Word} {t : Nat} (h : s.memWf) : (s.writeHome n l v t).memWf :=
  .ite h.putHome.changed h.revokeFor.dropOwn.putHome.changed

theorem State.memWf.takeHome {n : Nat} {l : Loc} (h : s.memWf) : (s.takeHome n l).memWf := .ite h h.revokeFor.dropOwn.l2Fetch

theorem State.memWf.acquireHere (h : s.memWf) : s.acquireHere.memWf := h.setHere

end Sys2Proof.Machine
end

section
/-! Proofs. MemoryForm.Access: what translation, the checks of an access, loads, stores and operands keep. -/

namespace Sys2Proof.Machine

variable {s : State}

theorem State.memWf.dropWalks {q : TlbiReq} {k : Nat} (h : s.memWf) : (s.dropWalks q k).memWf := h

theorem State.memWf.sendTlbi {q : TlbiReq} (h : s.memWf) : (s.sendTlbi q).memWf := (h.foldl fun _ _ k1 => k1.dropWalks)

theorem State.memWf.cacheWalk {k : Nat} {es : List WalkEntry} (h : s.memWf) : (s.cacheWalk k es).memWf :=
  h.foldl fun _ _ k1 => .ite k1 k1.roomIn

theorem State.memWf.fillGroup {n : Nat} {t : Tlb} (h : s.memWf) : (s.fillGroup n t).memWf := h.roomIn

theorem State.memWf.fillMicro {n : Nat} {t : Tlb} (h : s.memWf) : (s.fillMicro n t).memWf := h.roomIn.setCore

theorem State.memWf.lookTlb {n ctx va : Nat} (h : s.memWf) : Ends (fun _ => True) (fun r => r.1.memWf) (s.lookTlb n ctx va) := by
  unfold State.lookTlb
  split
  · exact h
  · split
    · exact h.fillMicro
    · split
      exacts [trivial, h.drawn.dramExit.cacheWalk.fillGroup.fillMicro]

theorem State.memWf.translate {n ctx va : Nat} (h : s.memWf) :
    Ends (fun _ => True) (fun r => r.1.memWf) (s.translate n ctx va) := by
  unfold State.translate
  split
  · trivial
  · next e => exact .ite trivial (h.lookTlb.ok e)

theorem State.memWf.lookRank {n ctx rank : Nat} (h : s.memWf) : (s.lookRank n ctx rank).1.memWf := by
  unfold State.lookRank
  dsimp only
  split
  · exact h
  · split
    exacts [h.roomIn.setCore, h.roomIn.setCore, h]

theorem State.memWf.released {sc : Nat} (h : s.memWf) : Ends Stop.memWf (fun _ => True) (released s sc) := .ite h trivial

theorem State.memWf.findRank {n ctx rank : Nat} (h : s.memWf) : (s.findRank n ctx rank).1.memWf := by
  unfold State.findRank
  split
  exacts [h, h.lookRank]

theorem State.memWf.wakeSleep {n i : Nat} (h : s.memWf) : (s.wakeSleep n i).memWf := by
  unfold State.wakeSleep
  split
  exacts [h.setBerthAt, h]

theorem State.memWf.raiseAbsent {n reason ctx rank : Nat} (h : s.memWf) : (s.raiseAbsent n reason ctx rank).memWf := by
  unfold State.raiseAbsent
  dsimp only
  split
  exacts [h, h.setCore.wakeSleep]

theorem State.memWf.setGroup {g : Nat} {x : Group} (h : s.memWf) : (s.setGroup g x).memWf := h

theorem State.memWf.groupState {g st : Nat} (h : s.memWf) : (s.groupState g st).memWf :=
  .ite h <| .ite (State.memWf.laterOnce h.setGroup.record) <| .ite h.setGroup.record h.setGroup.record

theorem State.memWf.wakeGroups {gs : List Nat} {bits : Word} (h : s.memWf) : (s.wakeGroups gs bits).memWf := by
  refine State.memWf.foldl (.ite (State.memWf.laterOnce ?_) ?_) fun _ _ k1 =>
    .ite k1 (State.memWf.ite k1.setGroup k1.setGroup.groupState).laterOnce
  exacts [h, h]

theorem State.memWf.autoWake {n : Nat} (h : s.memWf) : (s.autoWake n).memWf := .ite h.wakeGroups h

theorem State.memWf.lmPlace {n ctx rank off : Nat} (h : s.memWf) : (s.lmPlace n ctx rank off).1.memWf := by
  unfold State.lmPlace
  dsimp only
  split
  · exact h
  · split <;> exact h.findRank

theorem State.memWf.repeatLater {ctx : Nat} {x : LmWait} (h : s.memWf) : (s.repeatLater ctx x).memWf := by
  unfold State.repeatLater
  split
  exacts [h, h.raiseAbsent, h.autoWake]

theorem Ends.capChecks {kern : Bool} {a : Need} : Ends Stop.memWf (fun _ => True) (capChecks kern a) :=
  .ite trivial <| .bind Ends.check fun _ _ => .bind Ends.check fun _ _ => .bind Ends.check fun _ _ => Ends.check

theorem Ends.preChecks {kern : Bool} {a : Need} : Ends Stop.memWf (fun _ => True) (preChecks kern a) :=
  .bind Ends.capChecks fun _ _ => Ends.check

theorem State.memWf.placePieces {n ctx : Nat} {kern : Bool} {a : Need} : ∀ {ps : List Piece} {s : State}, s.memWf →
    Ends Stop.memWf (fun r => r.1.memWf) (placePieces n ctx kern a s ps)
  | [], _, h => h
  | p :: ps, _, h => by
    unfold Machine.placePieces
    split
    · split
      · trivial
      · next e => exact .bind Ends.check fun _ _ => .bind (State.memWf.placePieces (h.translate.ok e)) fun _ k => k
    · exact .bind (State.memWf.placePieces h) fun _ k => k
    · exact .bind (State.memWf.placePieces h) fun _ k => k
    · trivial

theorem State.memWf.locate {a : Need} (h : s.memWf) : Ends Stop.memWf (fun r => r.1.memWf) (locate s a) := by
  unfold Machine.locate
  dsimp only
  refine .bind Ends.check fun _ _ => ?_
  split
  · exact h
  · refine .ite (.bind h.placePieces fun _ k2 => k2) ?_
    split
    exacts [Ends.trap, h]
  · exact .bind h.placePieces fun _ k2 => k2

theorem Ends.deviceTrap {α : Type} {s : State} {ea : Word} {p : α → Prop} : Ends Stop.memWf p (deviceTrap s ea : M α) := trivial

theorem State.memWf.loadCheck {n : Nat} : ∀ {l : List (Piece × Loc)} {s : State}, s.memWf →
    Ends Stop.memWf State.memWf (loadCheck n s l)
  | [], _, h => h
  | _ :: _, _, h => .bind Ends.check fun _ _ => State.memWf.loadCheck h.loadWord

theorem State.memWf.loadPieces {s : State} {n : Nat} {l : List (Piece × Loc)} (h : s.memWf) : (loadPieces n s l).1.memWf := by
  induction l generalizing s with
  | nil => exact h
  | cons _ _ ih => exact ih h.loadWord

theorem State.memWf.storeCheck {s : State} {n : Nat} {l : List (Piece × Loc)} (h : s.memWf) :
    Ends Stop.memWf State.memWf (storeCheck n s l) := by
  induction l generalizing s with
  | nil => exact h
  | cons _ _ ih =>
    refine .bind Ends.check fun _ _ => ?_
    dsimp only
    split
    exacts [h, ih h.storeView]

theorem State.memWf.storePieces {s : State} {n x : Nat} {l : List (Piece × Loc)} (h : s.memWf) : (storePieces n s l x).memWf := by
  induction l generalizing s x with
  | nil => exact h
  | cons _ _ ih => exact ih h.storeView.storeWord

theorem State.memWf.windowCheck {a : Need} {rank : Nat} (h : s.memWf) :
    Ends Stop.memWf (fun r => r.1.memWf) (windowCheck s a rank) :=
  .bind Ends.check fun _ _ => .bind Ends.check fun _ _ => h.findRank

theorem State.memWf.holdReq {p : Packet} (h : s.memWf) : (s.holdReq p).memWf := .ite h h.setHere.setMe

theorem State.memWf.remoteAccess {a : Need} {rank i : Nat} {q : RwReq} (h : s.memWf) :
    Ends Stop.memWf (fun r => r.1.memWf) (remoteAccess s a rank i q) := by
  unfold Machine.remoteAccess
  dsimp only
  split
  · exact h
  · refine .ite h <| .bind h.windowCheck fun _ k1 => ?_
    split
    exacts [k1.setMe.send, k1.holdReq]

theorem State.memWf.remoteLoad {s : State} {a : Need} {rank : Nat} {ps : List Piece} {i : Nat} (h : s.memWf) :
    Ends Stop.memWf (fun r => r.1.memWf) (remoteLoad s a rank ps i) := by
  induction ps generalizing s i with
  | nil => exact h
  | cons _ _ ih =>
    refine .bind h.remoteAccess fun _ k => ?_
    dsimp only
    split
    · exact .bind (ih k) fun _ k1 => k1
    all_goals trivial

theorem State.memWf.remoteStore {s : State} {a : Need} {rank : Nat} {ps : List Piece} {i x : Nat} (h : s.memWf) :
    Ends Stop.memWf State.memWf (remoteStore s a rank ps i x) := by
  induction ps generalizing s i x with
  | nil => exact h
  | cons _ _ ih =>
    refine .bind h.remoteAccess fun _ k => ?_
    dsimp only
    split
    · exact ih k
    all_goals trivial

theorem State.memWf.migrateFor {α : Type} {s : State} {a : Need} {rank : Nat} {p : α → Prop} (h : s.memWf) :
    Ends Stop.memWf p (migrateFor s a rank : M α) :=
  .bind h.windowCheck fun _ k => .bind k.released fun _ _ => by
    split
    exacts [k, k]

theorem State.memWf.loadBytes {a : Need} {stay : Bool} (h : s.memWf) :
    Ends Stop.memWf (fun r => r.1.memWf) (loadBytes s a stay) := by
  unfold Machine.loadBytes
  dsimp only
  refine .bind Ends.preChecks fun _ _ => .bind h.locate fun _ k2 => ?_
  split
  · exact .bind k2.loadCheck fun _ k3 => k3.loadPieces
  · exact .ite k2.remoteLoad k2.migrateFor
  · exact Ends.deviceTrap

theorem State.memWf.storeBytes {a : Need} {stay : Bool} {x : Nat} (h : s.memWf) :
    Ends Stop.memWf State.memWf (storeBytes s a stay x) := by
  unfold Machine.storeBytes
  dsimp only
  refine .bind Ends.preChecks fun _ _ => .bind h.locate fun _ k2 => ?_
  split
  · exact .bind k2.storeCheck fun _ k3 => k3.storePieces
  · exact .ite k2.remoteStore k2.migrateFor
  · exact Ends.deviceTrap

theorem State.memWf.keepBinds {n : Nat} (h : s.memWf) : (s.keepBinds n).memWf := h

theorem State.memWf.loadBinds {n : Nat} (h : s.memWf) : (s.loadBinds n).memWf := h.setCore

theorem Ends.emptyCheck {b : Berth} : ∀ {l : List Src}, Ends Stop.memWf (fun _ => True) (emptyCheck b l)
  | [] => trivial
  | _ :: _ => .ite trivial Ends.emptyCheck

theorem Ends.boundCheck {s : State} {l : List (Option Nat × Nat)} : Ends Stop.memWf (fun _ => True) (boundCheck s l) := by
  induction l with
  | nil => trivial
  | cons x _ ih =>
    obtain ⟨_ | _, _⟩ := x
    · exact ih
    · unfold Machine.boundCheck
      split
      exacts [ih, trivial]

theorem State.memWf.operands {s : State} {srcs : List Src} {dsts : List Dst} {step5 : M Unit} (h : s.memWf)
    (k : Ends Stop.memWf (fun _ => True) step5) : Ends Stop.memWf (fun _ => True) (operands s srcs dsts step5) := by
  unfold Machine.operands
  dsimp only
  split
  · trivial
  · refine .after ?_
    split
    · refine .after (.bind Ends.emptyCheck fun _ _ => .bind k fun _ _ => ?_)
      split
      · trivial
      · exact .bind Ends.boundCheck fun _ _ => trivial
    · exact h

theorem State.memWf.pushPort {p : Nat} {x : Val} (h : s.memWf) : (s.pushPort p x).memWf := by
  unfold State.pushPort
  split
  exacts [h, h.setHere.later]

theorem State.memWf.writeDst {d : Dst} {x : Val} (h : s.memWf) : (s.writeDst d x).memWf := by
  unfold State.writeDst
  split
  · exact h.pushPort
  · split <;> exact h.setMe

theorem State.memWf.writeDsts {s : State} {ds : List Dst} {xs : List Val} (h : s.memWf) : (s.writeDsts ds xs).memWf := by
  induction ds generalizing s xs with
  | nil => exact h
  | cons _ _ ih =>
    cases xs with
    | nil => exact h
    | cons _ _ => exact ih h.writeDst

theorem State.memWf.commit {t : State} {srcs : List Src} {dsts : List Dst} {rs : List Val} (h : t.memWf) :
    (t.commit srcs dsts rs).memWf :=
  (State.memWf.ite h h.setHere).writeDsts

theorem State.memWf.opTo {srcs : List Src} {dsts : List Dst} {len : Nat}
    {f : State → List Val → M (State × List Val × Option Word)} {step5 : M Unit} (h : s.memWf) (k1 : ∀ (a : State) (a_1 : List
    Val), a.memWf → Ends Stop.memWf (fun r => r.1.memWf) (f a a_1)) (k2 : Ends Stop.memWf (fun _ => True) step5) :
    Ends Stop.memWf State.memWf (opTo s srcs dsts len f step5) := by
  refine .bind (h.operands k2) fun _ _ => .bind (k1 _ _ h) fun _ k4 => .ite ?_ h
  split
  exacts [k4.commit.retire, k4.commit.jump]

theorem State.memWf.op {srcs : List Src} {dsts : List Dst} {len : Nat} {f : State → List Val → M (State × List Val)}
    {step5 : M Unit} (h : s.memWf) (k1 : ∀ (a : State) (a_1 : List Val), a.memWf → Ends Stop.memWf (fun r =>
    r.1.memWf) (f a a_1)) (k2 : Ends Stop.memWf (fun _ => True) step5) :
    Ends Stop.memWf State.memWf (op s srcs dsts len f step5) :=
  h.opTo (fun _ _ k3 => .bind (k1 _ _ k3) fun _ k4 => k4) k2

theorem State.memWf.pureOp {srcs : List Src} {dsts : List Dst} {len : Nat} {f : List Val → List Val} (h : s.memWf) :
    OutWf (pureOp s srcs dsts len f) :=
  h.run (h.op (fun _ _ k1 => k1) trivial)

end Sys2Proof.Machine
end

section
/-! Proofs. MemoryForm.Basic: what integer, capability and control instructions and the fetch keep. -/

namespace Sys2Proof.Machine

variable {s : State}

theorem State.memWf.gg {d a b : BitVec 6} {len : Nat} {f : GReg → GReg → GReg} (h : s.memWf) : OutWf (gg d a b len f s) := h.pureOp

theorem State.memWf.g1 {d a : BitVec 6} {len : Nat} {f : GReg → GReg} (h : s.memWf) : OutWf (g1 d a len f s) := h.pureOp

theorem State.memWf.alu {d a b : BitVec 6} {w : BitVec 1} {len : Nat} {f : {n : Nat} → BitVec n → BitVec n → BitVec n}
    (h : s.memWf) :
    OutWf (alu d a b w len f s) :=
  h.gg

theorem State.memWf.alu1 {d a : BitVec 6} {w : BitVec 1} {f : {n : Nat} → BitVec n → BitVec n} (h : s.memWf) :
    OutWf (alu1 d a w f s) :=
  h.g1

theorem State.memWf.alui {d a : BitVec 6} {imm : BitVec 12} {f : {n : Nat} → BitVec n → BitVec n → BitVec n} (h : s.memWf) :
    OutWf (alui d a imm f s) :=
  h.g1

theorem State.memWf.shifti {d a : BitVec 6} {n len : Nat} {f : {n : Nat} → BitVec n → BitVec n → BitVec n} (h : s.memWf) :
    OutWf (shifti d a n len f s) :=
  h.g1

theorem Ends.setBounds {exact : Bool} {a : GReg} {len : Word} : Ends Stop.memWf (fun _ => True) (setBounds exact a len) := by
  refine .bind Ends.check fun _ _ => ?_
  split
  exacts [Ends.trap, .bind Ends.check fun _ _ => .bind Ends.check fun _ _ => trivial]

theorem Ends.needCap {code : BitVec 6} {a : GReg} : Ends Stop.memWf (fun _ => True) (needCap code a) :=
  .bind Ends.check fun _ _ => Ends.check

theorem Ends.wellCap {code : BitVec 6} {a : GReg} : Ends Stop.memWf (fun _ => True) (wellCap code a) := Ends.check

theorem State.memWf.cap2 {d a b : BitVec 6} {f : GReg → GReg → M GReg} (h : s.memWf)
    (k : ∀ (a a_1 : GReg), Ends Stop.memWf (fun _ => True) (f a a_1)) :
    OutWf (cap2 d a b s f) :=
  h.run (h.op (fun _ _ k1 => .bind (k _ _) fun _ _ => k1) trivial)

theorem State.memWf.cap1 {d a : BitVec 6} {f : GReg → M GReg} (h : s.memWf)
    (k : ∀ (a : GReg), Ends Stop.memWf (fun _ => True) (f a)) :
    OutWf (cap1 d a s f) :=
  h.run (h.op (fun _ _ k1 => .bind (k _) fun _ _ => k1) trivial)

theorem State.memWf.execCsetb {d a b : BitVec 6} (h : s.memWf) : OutWf (execCsetb d a b s) :=
  h.cap2 fun _ _ => .bind Ends.needCap fun _ _ => Ends.setBounds

theorem State.memWf.execCsetbx {d a b : BitVec 6} (h : s.memWf) : OutWf (execCsetbx d a b s) :=
  h.cap2 fun _ _ => .bind Ends.needCap fun _ _ => Ends.setBounds

theorem State.memWf.execCandp {d a b : BitVec 6} (h : s.memWf) : OutWf (execCandp d a b s) :=
  h.cap2 fun _ _ => .bind Ends.needCap fun _ _ => trivial

theorem State.memWf.execCseta {d a b : BitVec 6} (h : s.memWf) : OutWf (execCseta d a b s) :=
  h.cap2 fun _ _ => .bind Ends.wellCap fun _ _ => trivial

theorem Ends.capField {code : BitVec 6} {x : GReg} {v : Word} : Ends Stop.memWf (fun _ => True) (capField code x v) :=
  .bind Ends.wellCap fun _ _ => trivial

theorem State.memWf.execCgetb {d a : BitVec 6} (h : s.memWf) : OutWf (execCgetb d a s) := h.cap1 fun _ => Ends.capField

theorem State.memWf.execCgett {d a : BitVec 6} (h : s.memWf) : OutWf (execCgett d a s) := h.cap1 fun _ => Ends.capField

theorem State.memWf.execCgetp {d a : BitVec 6} (h : s.memWf) : OutWf (execCgetp d a s) := h.cap1 fun _ => Ends.capField

theorem State.memWf.execCtod {d a : BitVec 6} (h : s.memWf) : OutWf (execCtod d a s) :=
  h.cap1 fun _ => .bind Ends.wellCap fun _ _ => trivial

theorem State.memWf.onTag {a : BitVec 6} {dsts : List Dst} {f : Word → State → List Val × Option Word} (h : s.memWf) :
    OutWf (onTag s a dsts f) :=
  h.run (.ite (h.opTo (fun _ _ k1 => k1) trivial) (h.opTo (fun _ _ k1 => k1) trivial))

theorem State.memWf.gclr {d c len : Nat} (h : s.memWf) : OutWf (gclr d c len s) := h.setMe.retire

theorem State.memWf.fillLine {s : State} {l : Loc} {k : Nat} (h : s.memWf) : (s.fillLine l k).1.memWf := by
  induction k generalizing s l with
  | zero => exact h
  | succ _ ih => exact ih h.readHome

theorem State.memWf.ilineRoom {n line : Nat} (h : s.memWf) : (s.ilineRoom n line).memWf := by
  refine .ite h.setCore ?_
  split
  exacts [h.drawn.setCore, h.setCore]

theorem State.memWf.iline {n : Nat} {l : Loc} (h : s.memWf) : (s.iline n l).1.memWf := by
  unfold State.iline
  dsimp only
  split
  · exact h
  · split
    exacts [h.fillLine.setCore, h.fillLine.ilineRoom.setCore]

theorem State.memWf.dropILines {s : State} {n : Nat} {p : ILine → Bool} (h : s.memWf) : (s.dropILines n p).memWf :=
  h.setCore.foldl fun _ _ k => State.memWf.setCore (k.fillLine (k := 8))

theorem State.memWf.parcel {va : Word} (h : s.memWf) : Ends (fun _ => True) (fun r => r.1.memWf) (s.parcel va) := by
  refine .ite trivial ?_
  split
  exacts [.bind h.translate fun _ k1 => .ite trivial <| .ite trivial k1.iline, trivial, trivial]

theorem State.memWf.fetch {pc : Word} (h : s.memWf) : Ends (fun _ => True) (fun r => r.1.memWf) (s.fetch pc) :=
  .bind h.parcel fun _ k1 => .ite k1 <| .bind k1.parcel fun _ k2 => k2

theorem State.memWf.setSched {n : Nat} {c : Core} (h : s.memWf) : (s.setSched n c).memWf := .ite h.setCore.wakeSleep h.setCore

theorem State.memWf.takeEntry {n : Nat} (h : s.memWf) : (s.takeEntry n).memWf := by
  unfold State.takeEntry
  dsimp only
  split
  exacts [h, .ite h.setCore.enter.record h.setCore.enter]

theorem State.memWf.branch {a b : BitVec 6} {t : Word} {len : Nat} {p : Word → Word → Bool} (h : s.memWf) :
    OutWf (branch s a b t len p) :=
  h.run (h.opTo (fun _ _ k1 => k1) trivial)

theorem State.memWf.execDbnz {d : BitVec 6} {off : BitVec 12} (h : s.memWf) : OutWf (execDbnz d off s) :=
  h.run (h.opTo (fun _ _ k1 => k1) trivial)

theorem State.memWf.execJal {d : BitVec 6} {off : BitVec 18} (h : s.memWf) : OutWf (execJal d off s) :=
  h.run (h.opTo (fun _ _ k1 => k1) trivial)

theorem Ends.jalrChecks {code : BitVec 6} {a : GReg} {t : Word} :
    Ends Stop.memWf (fun _ => True) (jalrChecks code a t) := by
  have last : Ends Stop.memWf (fun _ => True)
      (Machine.check (!bitOf t 0) .align t >>= fun _ => Machine.check (t.toNat < 2 ^ 48) .pagefault t) :=
    .bind Ends.check fun _ _ => Ends.check
  unfold Machine.jalrChecks
  dsimp only
  split
  · exact .bind Ends.check fun _ _ => .bind Ends.check fun _ _ => .bind Ends.check fun _ _ => last
  · exact last

theorem State.memWf.jumpReg {d a : BitVec 6} {imm : Word} (h : s.memWf) : OutWf (jumpReg s d a imm) :=
  h.run (h.opTo (fun _ _ k1 => .bind Ends.jalrChecks fun _ _ => k1) trivial)

theorem State.memWf.fetchBody : ∀ {n : Nat} {s : State} {pc : Word}, s.memWf →
    Ends Stop.memWf (fun r => r.1.memWf) (fetchBody s pc n)
  | 0, _, _, h => h
  | n + 1, _, _, h => by
    unfold Machine.fetchBody
    split
    · trivial
    · next e => exact .bind (State.memWf.fetchBody (h.fetch.ok e)) fun _ k => k

theorem State.memWf.bodyChecks {pc : Word} {n : Nat} (h : s.memWf) : Ends Stop.memWf State.memWf (bodyChecks s pc n) := by
  unfold Machine.bodyChecks
  dsimp only
  refine .bind h.fetchBody fun _ k1 => ?_
  split
  exacts [Ends.trap, k1]

theorem State.memWf.execRep {a : BitVec 6} {n : BitVec 4} {st : BitVec 5} (h : s.memWf) : OutWf (execRep a n st s) :=
  h.run (.bind (h.operands trivial) fun _ _ => .bind Ends.check fun _ _ => .bind h.bodyChecks fun _ k3 =>
    .ite k3.commit.jump k3.commit.setMe.jump)

end Sys2Proof.Machine
end

section
/-! Proofs. MemoryForm.Messages: what objects at their homes, messages and the device registers keep. -/

namespace Sys2Proof.Machine

variable {s : State}

theorem State.memWf.answer {n i : Nat} {a b : Word} (h : s.memWf) : (s.answer n i a b).memWf := h.setBerthAt

theorem State.memWf.amo {n : Nat} {l : Loc} {op : Nat} {w : Bool} {v e : Word} (h : s.memWf) :
    Ends (fun _ => True) (fun r => r.1.memWf) (s.amo n l op w v e) :=
  .bind .any fun _ _ => .ite h.takeHome.putHome.changed h.takeHome.putHome.changed

theorem State.memWf.red {n : Nat} {l : Loc} {op : Nat} {w : Bool} {v : Word} (h : s.memWf) :
    Ends (fun _ => True) State.memWf (s.red n l op w v) :=
  .ite (.bind .any fun _ _ => h.takeHome.putHome.changed) <| .bind h.amo fun _ k1 => k1

theorem State.memWf.granule {n : Nat} {l : Loc} (h : s.memWf) : Ends (fun _ => True) (fun r => r.1.memWf) (s.granule n l) :=
  .ite trivial <| .ite trivial h.takeHome.takeHome

theorem State.memWf.putWords {l : Loc} {x0 x1 : Word} {t : Nat} (h : s.memWf) : (s.putWords l x0 x1 t).memWf := h.putHome.putHome

theorem State.memWf.putGranule {l : Loc} {x0 x1 : Word} {t : Nat} (h : s.memWf) : (s.putGranule l x0 x1 t).memWf :=
  h.putWords.changed.changed

theorem State.memWf.grantNext {l : Loc} (h : s.memWf) : (s.grantNext l).memWf := by
  unfold State.grantNext
  split
  exacts [h, (State.memWf.answer h)]

theorem State.memWf.lrw {n : Nat} {l : Loc} {node berth wn wb ctx va size : Nat} (h : s.memWf) :
    Ends (fun _ => True) (fun r => r.1.memWf) (s.lrw n l node berth wn wb ctx va size) :=
  .bind h.granule fun _ k1 => .ite trivial <| .ite (State.memWf.ite k1 k1.putWords) <|
    .ite (State.memWf.ite k1 k1.putWords) (State.memWf.ite k1 k1.putWords)

theorem State.memWf.sch {n : Nat} {l : Loc} {node berth : Nat} {store : Bool} {v : Word} (h : s.memWf) :
    Ends (fun _ => True) (fun r => r.1.memWf) (s.sch n l node berth store v) :=
  .bind h.granule fun _ k1 => .ite (State.memWf.grantNext (.ite k1.putHome.changed k1)) k1

theorem State.memWf.loseThose {p : Resv → Bool} (h : s.memWf) : (s.loseThose p).memWf := by
  refine State.memWf.foldl ?_ fun _ _ k1 => k1.answer
  exact h

theorem State.memWf.loseAll {l : Loc} (h : s.memWf) : (s.loseAll l).memWf := h.loseThose

theorem State.memWf.wakeThose {st : Word} {p : Waiter → Bool} (h : s.memWf) : (s.wakeThose st p).memWf := by
  refine State.memWf.foldl ?_ fun _ _ k1 => k1.answer
  exact h

theorem State.memWf.wakeBarrier {l : Loc} {st : Word} (h : s.memWf) : (s.wakeBarrier l st).memWf := h.wakeThose

theorem State.memWf.endGranule {gran : Nat} (h : s.memWf) : (s.endGranule gran).memWf := h.loseThose.wakeThose

theorem State.memWf.killObject {l : Loc} {x0 x1 : Word} (h : s.memWf) : (s.killObject l x0 x1).memWf :=
  h.loseAll.wakeBarrier.putGranule

theorem State.memWf.putBarrier {l : Loc} {x0 x1 : Word} (h : s.memWf) : (s.putBarrier l x0 x1).memWf :=
  .ite h.putGranule.wakeBarrier h.putGranule

theorem State.memWf.joinBarrier {l : Loc} {x0 x1 : Word} {n i va : Nat} (h : s.memWf) : (s.joinBarrier l x0 x1 n i va).memWf :=
  h.putGranule

theorem State.memWf.waitPhase {l : Loc} {n i va p : Nat} (h : s.memWf) : (s.waitPhase l n i va p).1.memWf := by
  unfold State.waitPhase
  dsimp only
  split
  exacts [h, h.joinBarrier]

theorem State.memWf.barrier {n i va : Nat} {l : Loc} {op : Nat} {v : Word} (h : s.memWf) :
    Ends (fun _ => True) (fun r => r.1.memWf) (s.barrier n i va l op v) := by
  refine .bind h.granule fun _ k1 => .ite k1 <| .ite ?_ <| .ite (.ite k1.killObject trivial) ?_
  · split
    · exact .ite trivial k1.putGranule
    · exact .ite trivial k1.putBarrier
    · exact k1.waitPhase
    · exact .ite trivial k1.putBarrier.waitPhase
    · exact k1.putBarrier
    · exact k1.killObject
  · split
    exacts [k1.putGranule, k1, k1, k1, k1]

theorem State.memWf.subtractBytes {n : Nat} {l : Loc} {len : Nat} (h : s.memWf) : (s.subtractBytes n l len).memWf := by
  unfold State.subtractBytes
  split
  · next e => exact .ite (h.granule.ok e).putBarrier h
  · exact h

theorem State.memWf.registerWait {n i va : Nat} {l : Loc} {ne : Bool} {b : BitVec 32} (h : s.memWf) :
    (s.registerWait n i va l ne b).memWf :=
  (State.memWf.later h.readHome)

theorem State.memWf.testWait {n i : Nat} {x : BitVec 32} (h : s.memWf) : (s.testWait n i x).memWf := by
  unfold State.testWait
  split
  exacts [.ite h.unwait.answer h, h]

theorem State.memWf.poisonWait {w : Waiter} (h : s.memWf) : (s.poisonWait w).memWf := by
  refine .ite (State.memWf.answer (State.memWf.unwait (h.foldl fun _ _ k1 => ?_))) (h.foldl fun _ _ k1 => ?_)
  · split
    exacts [.ite k1.testWait k1, k1]
  · split
    exacts [.ite k1.testWait k1, k1]

theorem State.memWf.poisonWaits {l : Loc} {all : Bool} (h : s.memWf) : (s.poisonWaits l all).memWf :=
  h.foldl fun _ _ k1 => k1.poisonWait

theorem State.memWf.discHome {n : Nat} {l : Loc} (h : s.memWf) : (s.discHome n l).memWf := by
  unfold State.discHome
  dsimp only
  refine .ite (.ite ?_ h) (State.memWf.notify (.ite ?_ h))
  · split
    · next e => exact (h.granule.ok e).killObject
    · exact h.loseAll.wakeBarrier.putHome
  · split
    · next e => exact (h.granule.ok e).killObject
    · exact h.loseAll.wakeBarrier.putHome

theorem State.memWf.discWord {n : Nat} {l : Loc} (h : s.memWf) : (s.discWord n l).memWf :=
  .ite h <| .ite h.setCore h.setCore.discHome

theorem State.memWf.logWord {n ctx : Nat} {kern : Bool} {va : Nat} (h : s.memWf) :
    Ends (fun _ => True) (fun r => r.1.memWf) (s.logWord n ctx kern va) := by
  unfold State.logWord
  split
  exacts [trivial, .ite trivial <| .ite trivial h.readHome]

theorem State.memWf.writeSlot {n ctx : Nat} {kern : Bool} : ∀ {ws : List Word} {va : Nat} {s : State}, s.memWf →
    Ends (fun _ => True) State.memWf (s.writeSlot n ctx kern va ws)
  | [], _, _, h => h
  | _ :: _, _, _, h => .bind h.logWord fun _ k => .bind (State.memWf.writeSlot k) fun _ k1 => k1.writeHome

theorem State.memWf.appendLog {n ctx : Nat} {kern : Bool} {a segrec seg : Nat} {r : LogRec} (h : s.memWf) :
    Ends (fun _ => True) State.memWf (s.appendLog n ctx kern a segrec seg r) :=
  .bind h.logWord fun _ k1 => .bind k1.logWord fun _ k2 => .bind k2.logWord fun _ k3 => .bind k3.logWord fun _ k4 =>
    .ite k4.writeHome <| .bind k4.writeSlot fun _ k5 => k5.writeHome

theorem State.memWf.logaTarget {n : Nat} {l : Loc} (h : s.memWf) : Ends (fun _ => True) State.memWf (s.logaTarget n l) :=
  .bind .any fun _ _ => h.takeHome

theorem State.memWf.writeWords {s : State} {n : Nat} {l : Loc} {ws : List Word} (h : s.memWf) : (s.writeWords n l ws).memWf := by
  induction ws generalizing s l with
  | nil => exact h
  | cons _ _ ih => exact ih h.writeHome

theorem State.memWf.ringPut {n : Nat} {a : Arrival} (h : s.memWf) : (s.ringPut n a).memWf := h.writeWords.setCore

theorem State.memWf.countLost {n ctx : Nat} (h : s.memWf) : (s.countLost n ctx).memWf := h.writeHome

theorem State.memWf.msgbufPut {n ctx : Nat} {a : Arrival} (h : s.memWf) : (s.msgbufPut n ctx a).1.memWf := by
  unfold State.msgbufPut
  dsimp only
  split
  exacts [h.countLost, h.writeWords.writeHome]

theorem State.memWf.enqueue {n : Nat} {a : Arrival} (h : s.memWf) : (s.enqueue n a).memWf := by
  unfold State.enqueue
  split <;> exact h.setCore.wakeSleep

theorem State.memWf.holdFor {n : Nat} {a : Arrival} (h : s.memWf) : (s.holdFor n a).memWf := .ite h.setCore h

theorem State.memWf.overflow {s : State} {n : Nat} {a : Arrival} {raise : Bool} (h : s.memWf) : (s.overflow n a raise).memWf := by
  have put {c : Bool} : (if c then s.msgbufPut n a.ctx a else (s.ringPut n a, false)).1.memWf := by
    cases c
    exacts [h.ringPut, h.msgbufPut]
  exact .ite (State.memWf.ite put put.holdFor).raiseAbsent (.ite put put.holdFor)

theorem State.memWf.settle {n : Nat} {a : Arrival} (h : s.memWf) : (s.settle n a).memWf :=
  .ite (.ite h.countLost.raiseAbsent h.countLost) <| .ite h.msgbufPut <| .ite h.enqueue <|
    .ite (State.memWf.ite h.msgbufPut h.msgbufPut.holdFor).raiseAbsent <| .ite h.enqueue h.overflow

theorem State.memWf.moveEntries {n : Nat} {put : State → Arrival → State} (h : s.memWf)
    (k : ∀ (a : State) (a_1 : Arrival), a.memWf → (put a a_1).memWf) :
    (s.moveEntries n put).memWf :=
  (h.setCore.foldl fun _ _ k1 => k _ _ k1).foldl fun _ _ k1 => k1.foldl fun _ _ k2 => k _ _ k2

theorem State.memWf.countRefused {n : Nat} {l : Option Nat} (h : s.memWf) : (s.countRefused n l).memWf := by
  unfold State.countRefused
  split
  exacts [h.setCore, h]

theorem State.memWf.holdPacket {s : State} {n : Nat} {p : Packet} (h : s.memWf) : (s.holdPacket n p).memWf := by
  unfold State.holdPacket
  dsimp only
  split
  exacts [h, h.countSent.setCore]

theorem State.memWf.niTake {s : State} {n : Nat} {p : Packet} (h : s.memWf) : (s.niTake n p).memWf := by
  unfold State.niTake
  dsimp only
  split
  · exact h.findRank
  · exact h.findRank.holdPacket
  · split
    exacts [h.findRank.send, h.findRank.send]

theorem State.memWf.execSend {s : State} {a : BitVec 4} {b : BitVec 6} {u : BitVec 1} (h : s.memWf) :
    OutWf (execSend a b u s) := by
  refine h.run (.bind Ends.check fun _ _ => .bind Ends.nativeOnly fun _ _ => h.op (fun t vs k => ?_) trivial)
  generalize t.me.wait = w
  cases w with
  | done => exact k
  | bridge => exact k
  | _ =>
    dsimp only
    split
    · refine .bind Ends.check fun _ _ => ?_
      split
      exacts [k.send.setMe, k.send]
    · split
      · next e => exact k.niTake.of_eq e
      · next e => exact State.memWf.setMe (k.niTake.of_eq e)
      · trivial
      · next e => exact k.niTake.of_eq e

theorem State.memWf.popInbox (h : s.memWf) : s.popInbox.memWf := .ite h.setHere h.setHere

theorem State.memWf.recvOp {d : BitVec 4} {b : BitVec 6} {len : Nat} (h : s.memWf) : OutWf (recvOp s d b len) := by
  refine h.run (.bind Ends.nativeOnly fun _ _ => h.op (fun _ _ k2 => ?_) trivial)
  split
  exacts [k2, State.memWf.ite k2.popInbox.acquireHere k2.popInbox]

theorem State.memWf.execRecvnb {d : BitVec 4} {b : BitVec 6} (h : s.memWf) : OutWf (execRecvnb d b s) := by
  refine h.run (.bind Ends.nativeOnly fun _ _ => ?_)
  split
  · exact h.op (fun _ _ k2 => k2) trivial
  · exact h.op (fun _ _ k2 => State.memWf.ite k2.popInbox.acquireHere k2.popInbox) trivial

theorem Ends.entryLoad {va : Word} {o : Nat} : Ends Stop.memWf (fun _ => True) (entryLoad s va o) := by
  unfold Machine.entryLoad
  split
  exacts [Ends.trap, trivial]

theorem State.memWf.execInq {d a : BitVec 6} (h : s.memWf) : OutWf (execInq d a s) := by
  unfold Machine.execInq
  dsimp only
  refine h.run (.bind Ends.check fun _ _ => h.op (fun _ _ k2 => ?_) trivial)
  split
  · exact Ends.trap
  · exact .bind Ends.capChecks fun _ _ => .bind Ends.entryLoad fun _ _ => .ite k2 <| .ite k2 k2.enqueue

theorem State.memWf.execMigrate {a : BitVec 6} (h : s.memWf) : OutWf (execMigrate a s) := by
  refine h.run (.bind Ends.check fun _ _ => .bind Ends.nativeOnly fun _ _ => h.op (fun _ _ k3 => .bind Ends.capChecks fun _ _ =>
    ?_) trivial)
  split
  · exact .bind Ends.check fun _ _ => k3
  · refine .ite (.bind Ends.check fun _ _ => k3) <| .bind k3.windowCheck fun _ k5 => .bind Ends.check fun _ _ =>
      .bind k5.released fun _ _ => ?_
    split
    exacts [k5.commit.retire, k5]
  · exact Ends.trap

theorem State.memWf.execHome (h : s.memWf) : OutWf (execHome s) := h.run (.bind Ends.nativeOnly fun _ _ => h.retire)

theorem State.memWf.execRank {d : BitVec 6} (h : s.memWf) : OutWf (execRank d s) :=
  h.run (.bind Ends.nativeOnly fun _ _ => h.op (fun _ _ k2 => k2) trivial)

theorem State.memWf.execPortb {a b : BitVec 6} (h : s.memWf) : OutWf (execPortb a b s) := by
  refine h.run (.bind Ends.nativeOnly fun _ _ => h.op (fun _ _ k2 => ?_) trivial)
  split
  · exact Ends.trap
  · refine .bind Ends.check fun _ _ => .ite (.ite k2.setHere.keepBinds k2) ?_
    split
    · exact Ends.trap
    · exact .bind Ends.check fun _ _ => .ite (.ite k2.setHere.keepBinds k2) <| .bind Ends.check fun _ _ =>
        .ite k2.lookRank.setHere.keepBinds k2.lookRank

theorem State.memWf.execPortq {d a : BitVec 6} (h : s.memWf) : OutWf (execPortq d a s) := by
  refine h.run (.bind Ends.nativeOnly fun _ _ => h.op (fun _ _ k2 => ?_) trivial)
  split
  exacts [Ends.trap, k2.setHere]

theorem State.memWf.lmErase {s : State} {n : Nat} (h : s.memWf) : (s.lmErase n).memWf :=
  ⟨wf_filter _ h.1, wf_filter _ h.2⟩

theorem State.memWf.dropGroupTlb {g : Nat} (h : s.memWf) : (s.dropGroupTlb g).memWf := h

theorem State.memWf.kslotCmd {v : Word} (h : s.memWf) : (s.kslotCmd v).memWf := by
  refine .ite h ?_
  split
  · exact .ite h (State.memWf.later h)
  · exact .ite h (State.memWf.later h)
  · exact .ite h (State.memWf.later h)
  · exact .ite h (State.memWf.later h)
  · exact h

theorem State.memWf.nextColumn (h : s.memWf) : s.nextColumn.memWf := by
  unfold State.nextColumn
  split
  exacts [h, (State.memWf.later h)]

theorem State.memWf.l2Go {t : BitVec 8} (h : s.memWf) : (s.l2Go t).memWf := .ite h (State.memWf.nextColumn h)

theorem State.memWf.handshake {gs : List Nat} {ok : Group → Nat → Bool} {f : State → Nat → State} (h : s.memWf)
    (k : ∀ (a : State) (a_1 : Nat), a.memWf → (f a a_1).memWf) :
    (s.handshake gs ok f).memWf :=
  .ite (h.foldl fun _ _ k1 => k _ _ k1) (h.foldl fun _ _ k1 => k1.setGroup)

theorem State.memWf.quiesceWrite {v : Word} (h : s.memWf) : (s.quiesceWrite v).memWf :=
  h.handshake fun _ _ k1 => .ite (State.memWf.later k1) k1.setGroup.laterOnce

theorem State.memWf.gateWrite {v : Word} (h : s.memWf) : (s.gateWrite v).memWf :=
  h.handshake fun _ _ k1 => .ite k1.setGroup.later k1.setGroup

theorem State.memWf.railUp {g : Nat} (h : s.memWf) : (s.railUp g).memWf := by
  refine State.memWf.later (.ite h.setGroup.groupState (State.memWf.laterOnce ?_))
  exact h

theorem State.memWf.railField {g r : Nat} (h : s.memWf) : (s.railField g r).memWf :=
  .ite (h.foldl fun _ _ k1 => k1.setCore).dropGroupTlb.setGroup.groupState <| .ite (h.foldl fun _ _ k1 =>
    k1.lmErase.setCore).dropGroupTlb.setGroup.groupState h.railUp

theorem State.memWf.railWrite {v : Word} (h : s.memWf) : (s.railWrite v).memWf :=
  (h.foldl fun _ _ k1 => k1.setGroup).handshake fun _ _ k1 => k1.railField

theorem State.memWf.retWrite {v : Word} (h : s.memWf) : (s.retWrite v).memWf :=
  .ite h (h.handshake fun _ _ k1 => (State.memWf.laterOnce (State.memWf.later k1)))

theorem State.memWf.wakeMask {mask : BitVec 32} {src : BitVec 2} (h : s.memWf) : (s.wakeMask mask src).memWf := .ite h.wakeGroups h

theorem State.memWf.wakeAll {src : BitVec 2} (h : s.memWf) : (s.wakeAll src).memWf := .ite h.wakeGroups h

theorem State.memWf.wakeWrite {v : Word} {src : BitVec 2} (h : s.memWf) : (s.wakeWrite v src).memWf :=
  .ite (State.memWf.ite h h.wakeMask).wakeAll <| .ite h h.wakeMask

theorem State.memWf.armWrite {v : Word} (h : s.memWf) : (s.armWrite v).memWf := by
  refine State.memWf.foldl ?_ fun _ _ k1 => k1.packetTriggers
  exact h

theorem State.memWf.setDisp {isl : Nat} {d : Dispenser} (h : s.memWf) : (s.setDisp isl d).memWf := .ite h h

theorem State.memWf.poolWrite {isl g : Nat} {v : Word} (h : s.memWf) : (s.poolWrite isl g v).memWf :=
  h.setDisp.foldl fun _ _ k1 => .ite k1.setCore k1.setCore.later

theorem State.memWf.siltResume (h : s.memWf) : s.siltResume.memWf := .ite h h

theorem State.memWf.siltRelease (h : s.memWf) : s.siltRelease.memWf := h

theorem State.memWf.siltCtl {v : Word} (h : s.memWf) : (s.siltCtl v).memWf :=
  .ite (State.memWf.ite (State.memWf.ite h.frame.siltRelease h.frame).siltResume <|
    .ite h.frame.siltRelease h.frame).startFreeze <| .ite (State.memWf.ite h.frame.siltRelease h.frame).siltResume <|
    .ite h.frame.siltRelease h.frame

theorem State.memWf.portageGo {v : Word} (h : s.memWf) : (s.portageGo v).memWf := by
  refine .ite ?_ (State.memWf.later ?_)
  exacts [h.frame rfl rfl, h.frame rfl rfl]

theorem State.memWf.devSet {r : DevReg} {v : Word} (h : s.memWf) : (s.devSet r v).memWf := by
  unfold State.devSet
  split
  · exact h.kslotCmd
  · exact h.frame rfl rfl
  · exact h.frame rfl rfl
  · exact .ite h.l2Go (h.frame rfl rfl)
  · exact h.frame rfl rfl
  · exact h.frame rfl rfl
  · exact h.setDisp
  · exact .ite (State.memWf.ite h.setDisp.laterOnce h.setDisp).laterOnce <| .ite h.setDisp.laterOnce h.setDisp
  · exact h
  · exact h.poolWrite
  · exact h.setGroup
  · exact h.setGroup
  · exact h.quiesceWrite
  · exact h
  · exact h.retWrite
  · exact h.gateWrite
  · exact h.railWrite
  · refine .ite (State.memWf.later ?_) ?_
    exacts [h.frame rfl rfl, h.frame rfl rfl]
  · exact h.wakeWrite
  · exact h
  · exact h.armWrite
  · split
    exacts [h.frame rfl rfl, h]
  · split
    exacts [h.frame rfl rfl, h]
  · refine .ite h.portageGo <| .ite (State.memWf.later ?_) ?_
    exacts [h.frame rfl rfl, h.frame rfl rfl]
  · exact h.frame rfl rfl
  · exact h.frame rfl rfl
  · exact h
  · exact h.siltCtl
  · exact h.frame rfl rfl
  · exact h
  · exact h
  · exact .ite (h.frame rfl rfl) h

theorem Ends.devChecks {ea : Word} {off : Nat} {isStore : Bool} : Ends Stop.memWf (fun _ => True) (devChecks s ea off isStore) := by
  refine .bind Ends.check fun _ _ => .bind Ends.check fun _ _ => ?_
  split
  exacts [Ends.trap, .bind Ends.check fun _ _ => trivial]

theorem State.memWf.devLoad {ea : Word} {off : Nat} (h : s.memWf) : Ends Stop.memWf (fun r => r.1.memWf) (devLoad s ea off) :=
  .bind Ends.devChecks fun _ _ => State.memWf.ite h h

theorem State.memWf.devStore {ea : Word} {off : Nat} {v : Word} (h : s.memWf) : Ends Stop.memWf State.memWf (devStore s ea off v) :=
  .bind Ends.devChecks fun _ _ => h.devSet

end Sys2Proof.Machine
end

section
/-! Proofs. MemoryForm.Memory: what memory, synchronisation and copy instructions keep. -/

namespace Sys2Proof.Machine

variable {s : State}

theorem State.memWf.loadAny {a : Need} (h : s.memWf) : Ends Stop.memWf (fun r => r.1.memWf) (loadAny s a) := by
  unfold Machine.loadAny
  split
  · exact .ite (.bind Ends.capChecks fun _ _ => .bind h.devLoad fun _ k2 => k2) h.loadBytes
  · exact h.loadBytes

theorem State.memWf.storeAny {a : Need} {x : Nat} (h : s.memWf) : Ends Stop.memWf State.memWf (storeAny s a x) := by
  unfold Machine.storeAny
  split
  exacts [.ite (.bind Ends.capChecks fun _ _ => h.devStore) h.storeBytes, h.storeBytes]

theorem State.memWf.loadOp {d a : BitVec 6} {imm : Word} {n len : Nat} {f : Nat → Word} (h : s.memWf) :
    OutWf (loadOp s d a imm n len f) :=
  h.run (h.op (fun _ _ k1 => .bind k1.loadAny fun _ k2 => k2) trivial)

theorem State.memWf.storeOp {d a : BitVec 6} {imm : Word} {n len : Nat} (h : s.memWf) : OutWf (storeOp s d a imm n len) :=
  h.run (h.op (fun _ _ k1 => .bind k1.storeAny fun _ k2 => k2) trivial)

theorem State.memWf.execLdx {d a b : BitVec 6} {q : BitVec 2} (h : s.memWf) : OutWf (execLdx d a b q s) :=
  h.run (h.op (fun _ _ k1 => .bind k1.loadAny fun _ k2 => k2) trivial)

theorem State.memWf.execStx {d a b : BitVec 6} {q : BitVec 2} (h : s.memWf) : OutWf (execStx d a b q s) :=
  h.run (h.op (fun _ _ k1 => .bind k1.storeAny fun _ k2 => k2) trivial)

theorem State.memWf.execRld {d a : BitVec 6} {imm : BitVec 12} (h : s.memWf) : OutWf (execRld d a imm s) :=
  h.run (h.op (fun _ _ k1 => .bind k1.loadBytes fun _ k2 => k2) trivial)

theorem State.memWf.loadPair {n : Nat} {l : Loc} {may : Bool} (h : s.memWf) : (loadPair s n l may).1.memWf := h.loadWord.loadWord

theorem State.memWf.loadCap {a : Need} (h : s.memWf) : Ends Stop.memWf (fun r => r.1.memWf) (loadCap s a) := by
  unfold Machine.loadCap
  dsimp only
  refine .bind Ends.preChecks fun _ _ => .bind h.locate fun _ k2 => ?_
  split
  · refine .bind k2.loadCheck fun _ k3 => ?_
    split
    exacts [k3.loadPair, k3]
  · refine .ite (.bind k2.remoteAccess fun _ k3 => ?_) k2.migrateFor
    split
    exacts [k3, Ends.trap, Ends.trap, Ends.trap]
  · exact Ends.deviceTrap

theorem State.memWf.execLdc {d a : BitVec 6} {imm : BitVec 12} (h : s.memWf) : OutWf (execLdc d a imm s) :=
  h.run (h.op (fun _ _ k1 => .bind k1.loadCap fun _ k2 => k2) trivial)

theorem State.memWf.storeCap {a : Need} {x : GReg} (h : s.memWf) : Ends Stop.memWf State.memWf (storeCap s a x) := by
  unfold Machine.storeCap
  dsimp only
  refine .bind Ends.preChecks fun _ _ => .bind h.locate fun _ k2 => ?_
  split
  · refine .bind k2.storeCheck fun _ k3 => ?_
    split
    exacts [k3.storeWord.storeWord, k3]
  · refine .ite (.bind k2.remoteAccess fun _ k3 => ?_) k2.migrateFor
    split
    exacts [k3, Ends.trap, Ends.trap, Ends.trap]
  · exact Ends.deviceTrap

theorem State.memWf.execStc {d a : BitVec 6} {imm : BitVec 12} (h : s.memWf) : OutWf (execStc d a imm s) :=
  h.run (h.op (fun _ _ k1 => .bind k1.storeCap fun _ k2 => k2) trivial)

theorem State.memWf.discPages {kern : Bool} : ∀ {fuel va n : Nat} {s : State}, s.memWf →
    Ends Stop.memWf (fun r => r.1.memWf) (discPages kern s va n fuel)
  | 0, _, _, _, h => h
  | fuel + 1, va, n, s, h => by
    unfold Machine.discPages
    refine .ite h ?_
    dsimp only
    split
    · split
      · trivial
      · next e => exact .bind Ends.check fun _ _ => .bind (State.memWf.discPages (h.translate.ok e)) fun _ k => k
    · trivial
    · trivial
    · exact State.memWf.discPages h

theorem State.memWf.discPart {n va k : Nat} {l : Loc} (h : s.memWf) : (discPart s n va k l).memWf :=
  h.foldl fun _ _ k1 => k1.discWord

theorem State.memWf.discParts {s : State} {n : Nat} {l : List (Nat × Nat × Loc)} (h : s.memWf) : (discParts s n l).memWf := by
  induction l generalizing s with
  | nil => exact h
  | cons _ _ ih => exact ih h.discPart

theorem State.memWf.execDisc {a b : BitVec 6} (h : s.memWf) : OutWf (execDisc a b s) :=
  h.run (h.op (fun _ _ k1 => .ite k1.record <| .bind Ends.capChecks fun _ _ => .bind Ends.check fun _ _ =>
    .bind k1.discPages fun _ k4 => k4.discParts.record) trivial)

theorem Ends.atHome {α : Type} {p : α → Prop} {ea : Word} {l : Loc} {r : HomeM α} (h : Ends (fun _ => True) p r) :
    Ends Stop.memWf p (Machine.atHome ea l r) := by
  unfold Machine.atHome
  split
  exacts [h, trivial]

theorem State.memWf.homeOp {s : State} {a : Need} {gate : M Unit} {here : State → Loc → M HomeRes} {ev : Nat → BitVec 12 → Event}
    {baw : Option (Nat × Word)} (h : s.memWf) (k1 : Ends Stop.memWf (fun _ => True) gate)
    (k2 : ∀ t l, t.memWf → Ends Stop.memWf HomeRes.memWf (here t l)) :
    Ends Stop.memWf (fun r => r.1.memWf) (homeOp s a gate here ev baw) := by
  unfold Machine.homeOp
  generalize s.me.wait = w
  cases w with
  | done =>
    dsimp only
    split
    exacts [h, trivial, trivial, h]
  | none =>
    refine .bind Ends.preChecks fun _ _ => .bind h.locate fun r k => ?_
    dsimp only
    split
    · refine .bind k1 fun _ _ => .bind (k2 _ _ k) fun r k3 => ?_
      split
      exacts [k3, k3]
    · exact k
    · refine .bind k.windowCheck fun r k3 => .bind k1 fun _ _ => ?_
      split
      exacts [k3.setMe.later, k3]
    · trivial
  | _ => exact h

theorem State.memWf.amoOp {s : State} {d a b : BitVec 6} {q : BitVec 2} {o : Nat} {w : Bool} (h : s.memWf) :
    OutWf (amoOp s d a b q o w) := by
  refine h.run (h.op (fun _ _ k1 => .bind (k1.homeOp ?_ fun _ _ k2 => ?_) fun _ k2 => ?_) trivial)
  · split
    exacts [k1.released, trivial]
  · exact .bind (Ends.atHome k2.amo) fun _ k3 => k3
  · exact State.memWf.ite k2.acquireHere k2

theorem State.memWf.redOp {s : State} {a b : BitVec 6} {o : Nat} {w : Bool} (h : s.memWf) : OutWf (redOp s a b o w) :=
  h.run (h.op (fun _ _ k1 => .bind (k1.homeOp Ends.check fun _ _ k2 => .bind (Ends.atHome k2.red) fun _ k3 => k3)
    fun _ k2 => k2) trivial)

theorem State.memWf.lrwHere {t u : State} {l : Loc} {ea : Word} (_ : t.memWf) (h : u.memWf) :
    Ends Stop.memWf HomeRes.memWf (lrwHere t u l ea) := by
  refine .bind (Ends.atHome h.lrw) fun _ k => ?_
  dsimp only
  split
  exacts [k, k.setMe]

theorem State.memWf.execLrw {d a b : BitVec 6} (h : s.memWf) : OutWf (execLrw d a b s) :=
  h.run (h.op (fun _ _ k1 => .bind (k1.homeOp trivial fun _ _ k2 => k1.lrwHere k2) fun _ k2 => k2.acquireHere) trivial)

theorem State.memWf.schOp {t : State} {base : GReg} {a : BitVec 6} {store : Bool} {v : Word} (h : t.memWf) :
    Ends Stop.memWf (fun r => r.1.memWf) (schOp t base a store v) :=
  .bind (h.homeOp h.released fun _ _ k => .bind (Ends.atHome k.sch) fun _ k2 => k2) fun _ k1 => k1

theorem State.memWf.execSch {d a b : BitVec 6} (h : s.memWf) : OutWf (execSch d a b s) :=
  h.run (h.op (fun _ _ k1 => k1.schOp) trivial)

theorem State.memWf.execRelq {d a : BitVec 6} (h : s.memWf) : OutWf (execRelq d a s) :=
  h.run (h.op (fun _ _ k1 => k1.schOp) trivial)

theorem State.memWf.loadBlock {s : State} {a : Need} {caps : List Nat} {i0 : Nat} (h : s.memWf) :
    Ends Stop.memWf (fun r => r.1.memWf) (loadBlock s a caps i0) := by
  refine .bind Ends.capChecks fun _ _ => .bind h.locate fun _ k => ?_
  dsimp only
  split
  · exact .bind k.loadCheck fun _ k1 => k1.loadPieces
  · refine .bind k.remoteLoad fun _ k1 => ?_
    split
    · exact k1
    · refine .bind (p := fun r : State × List Bool => r.1.memWf) (Ends.foldlM k1 fun _ _ k2 => .bind k2.remoteAccess fun _ k3 => ?_)
        fun _ k2 => k2
      split
      exacts [k3, k3]
  · trivial

theorem State.memWf.logDesc {base : GReg} {code : Nat} (h : s.memWf) : Ends Stop.memWf (fun r => r.1.memWf) (logDesc s base code) :=
  .bind h.loadBlock fun _ k1 => .bind Ends.check fun _ _ => .bind Ends.check fun _ _ => .bind Ends.check fun _ _ =>
    .bind Ends.check fun _ _ => .bind Ends.check fun _ _ => .bind Ends.check fun _ _ => k1

theorem State.memWf.logaHere {u : State} {l : Loc} {ea : Word} {g : LogDesc} {r : LogRec} (h : u.memWf) :
    Ends Stop.memWf HomeRes.memWf (logaHere u l ea g r) := by
  refine .bind (Ends.atHome h.logaTarget) fun _ k1 => ?_
  split
  · next e => exact k1.appendLog.ok e
  · trivial
  · exact h.repeatLater

theorem State.memWf.execLoga {s : State} {d a b : BitVec 6} (h : s.memWf) : OutWf (execLoga d a b s) := by
  refine h.run (h.op (fun _ _ k1 => ?_) trivial)
  dsimp only
  split
  · exact .bind k1.logDesc fun _ k2 => .bind (k2.homeOp Ends.check fun _ _ k3 => k3.logaHere) fun _ k3 => k3.setMe
  · exact .after (.bind (k1.homeOp Ends.check fun _ _ k3 => k3.logaHere) fun _ k3 => k3.setMe)

theorem State.memWf.fenceOp {sc : BitVec 3} {rel acq : Bool} (h : s.memWf) : OutWf (fenceOp s sc rel acq) :=
  h.run (.ite h (State.memWf.ite h.acquireHere h).retire)

theorem State.memWf.waitHere {u : State} {l : Loc} {ea : Word} {ne : Bool} {b : BitVec 32} (h : u.memWf) :
    Ends Stop.memWf HomeRes.memWf (waitHere u l ea ne b) :=
  .ite Ends.trap <| .ite h.loadWord h.loadWord.registerWait

theorem State.memWf.waitOp {a b : BitVec 6} {ne : Bool} (h : s.memWf) : OutWf (waitOp s a b ne) :=
  h.run (h.op (fun _ _ k1 => .bind (k1.homeOp trivial fun _ _ k2 => k2.waitHere) fun _ k2 => .bind Ends.check fun _ _ =>
    k2.acquireHere) trivial)

theorem State.memWf.barHere {u : State} {l : Loc} {ea : Word} {o : Nat} {v : Word} {baw : Option Nat} (h : u.memWf) :
    Ends Stop.memWf HomeRes.memWf (barHere u l ea o v baw) := by
  refine .bind (Ends.atHome h.barrier) fun _ k1 => ?_
  dsimp only
  split
  exacts [k1, k1.setMe]

theorem State.memWf.barOp {t : State} {base : GReg} {a : BitVec 6} {o : Nat} {v : Word} {gate : M Unit} {baw : Option Nat}
    (h : t.memWf) (k : Ends Stop.memWf (fun _ => True) gate) :
    Ends Stop.memWf (fun r => r.1.memWf) (barOp t base a o v gate baw) :=
  .bind (h.homeOp (.bind k fun _ _ => .ite h.released trivial) fun _ _ k1 => k1.barHere) fun _ k1 => k1

theorem State.memWf.execBinit {a b : BitVec 6} (h : s.memWf) : OutWf (execBinit a b s) :=
  h.run (h.op (fun _ _ k1 => .bind (k1.barOp Ends.check) fun _ k2 => k2) trivial)

theorem State.memWf.execBarr {d a : BitVec 6} (h : s.memWf) : OutWf (execBarr d a s) :=
  h.run (h.op (fun _ _ k1 => .bind (k1.barOp trivial) fun _ k2 => k2) trivial)

theorem State.memWf.execBwait {d a b : BitVec 6} (h : s.memWf) : OutWf (execBwait d a b s) :=
  h.run (h.op (fun _ _ k1 => .bind (k1.barOp trivial) fun _ k2 => k2.acquireHere) trivial)

theorem State.memWf.execBaw {d a : BitVec 6} (h : s.memWf) : OutWf (execBaw d a s) :=
  h.run (h.op (fun _ _ k1 => .bind (k1.barOp trivial) fun _ k2 => k2.setMe.acquireHere) trivial)

theorem State.memWf.execBexp {a b : BitVec 6} (h : s.memWf) : OutWf (execBexp a b s) :=
  h.run (h.op (fun _ _ k1 => .bind (k1.barOp trivial) fun _ k2 => k2) trivial)

theorem State.memWf.execBkill {a : BitVec 6} (h : s.memWf) : OutWf (execBkill a s) :=
  h.run (h.op (fun _ _ k1 => .bind (k1.barOp trivial) fun _ k2 => k2) trivial)

theorem State.memWf.execBqry {d a : BitVec 6} (h : s.memWf) : OutWf (execBqry d a s) :=
  h.run (h.op (fun _ _ k1 => .bind (k1.barOp trivial) fun _ k2 => k2) trivial)

theorem Ends.dstChecks {s : State} {b : GReg} {code : Nat} : ∀ {l : List Seg},
    Ends Stop.memWf (fun _ => True) (dstChecks s b code l)
  | [] => trivial
  | _ :: _ => .bind Ends.capChecks fun _ _ => Ends.dstChecks

theorem State.memWf.barrierPlace {s : State} {aux : GReg} {code : Nat} (h : s.memWf) :
    Ends Stop.memWf (fun r => r.1.memWf) (barrierPlace s aux code) := by
  refine .bind Ends.preChecks fun _ _ => .bind h.locate fun _ k2 => ?_
  dsimp only
  split
  · exact .after (.bind (Ends.atHome k2.granule) fun _ k => k)
  · refine .bind k2.windowCheck fun _ k3 => ?_
    split
    · exact .after (.bind (Ends.atHome k3.lmPlace.granule) fun _ k => k)
    exacts [.stop k3.lmPlace.repeatLater, .stop k3.lmPlace.repeatLater, .stop k3.lmPlace]
  · exact .stop trivial

theorem State.memWf.copyRequest {kind : CopyKind} {q : BitVec 4} {vs : List Val} (h : s.memWf) :
    Ends Stop.memWf (fun r => r.1.memWf) (copyRequest s kind q vs) := by
  unfold Machine.copyRequest
  dsimp only
  refine .bind Ends.check fun _ _ => .ite (.bind Ends.capChecks fun _ _ => .bind Ends.check fun _ _ =>
    .bind Ends.dstChecks fun _ _ => ?_) <| .ite (.bind h.barrierPlace fun _ k2 => .ite (.bind Ends.check fun _ _ =>
    .bind Ends.preChecks fun _ _ => .bind k2.loadBlock fun _ k5 => k5) k2) <| .ite (.bind Ends.check fun _ _ =>
    .bind Ends.preChecks fun _ _ => .bind h.loadBlock fun _ k4 => k4) h
  split
  · exact .ite (.bind h.barrierPlace fun _ k5 => .ite (.bind Ends.check fun _ _ => .bind Ends.preChecks fun _ _ =>
      .bind k5.loadBlock fun _ k8 => k8) k5) <| .ite (.bind Ends.check fun _ _ => .bind Ends.preChecks fun _ _ =>
      .bind h.loadBlock fun _ k7 => k7) h
  · exact .stop trivial

theorem State.memWf.completeTag {n tag : Nat} (h : s.memWf) : (s.completeTag n tag).memWf := h.setCore.wakeSleep

theorem State.memWf.reveal {n : Nat} {e : CopyEntry} (h : s.memWf) : (s.reveal n e).memWf :=
  h.foldl fun _ _ k1 => .ite k1 k1.writeHome

theorem State.memWf.finishTo {s u : State} {n : Nat} {e : CopyEntry} {bar : Option Loc} (h : s.memWf)
    (k : s.finishTo n e bar = some u) : u.memWf := by
  have last {t : State} (ht : t.memWf) : (match bar with
      | some l => t.subtractBytes n l e.len
      | none => t).memWf := by
    split
    exacts [ht.subtractBytes, ht]
  unfold State.finishTo at k
  dsimp only at k
  split at k
  · cases k
  · next t _ sent =>
    have ht : t.memWf := by
      split at sent
      · split at sent
        · next e1 => cases sent; exact h.reveal.niTake.of_eq e1
        · next e1 => cases sent; exact h.reveal.niTake.of_eq e1
        · next e1 => cases sent; exact State.memWf.countRefused (h.reveal.niTake.of_eq e1)
        · cases sent
      · cases sent; exact h.reveal
    cases k
    exact last (.ite ht.setCore.record ht.setCore.record.completeTag)

theorem State.memWf.finishCopy {s u : State} {n : Nat} {e : CopyEntry} (h : s.memWf) (k : s.finishCopy n e = some u) :
    u.memWf := by
  unfold State.finishCopy at k
  split at k
  · exact h.finishTo k
  · split at k
    · exact h.finishTo k
    · cases k

theorem State.memWf.waitCopy {n : Nat} {e : CopyEntry} (h : s.memWf) : (s.waitCopy n e).memWf := by
  unfold State.waitCopy
  split
  exacts [h.repeatLater, h]

theorem State.memWf.copyEvent {n : Nat} {e : CopyEntry} (h : s.memWf) : (s.copyEvent n e).memWf := h.later

theorem State.memWf.accept {s : State} {e : CopyEntry} (h : s.memWf) : (s.accept e).memWf :=
  .ite (State.memWf.getD (fun _ k => h.setHere.record.setHere.finishCopy k) h.setHere.record.setHere.waitCopy.copyEvent)
    h.setHere.record.copyEvent

theorem State.memWf.copyOp {kind : CopyKind} {a : BitVec 4} {b : BitVec 6} (h : s.memWf) : OutWf (copyOp s kind a b) :=
  h.run (.bind Ends.nativeOnly fun _ _ => h.op (fun _ _ k2 => .bind k2.copyRequest fun _ k3 => .bind k2.released fun _ _ =>
    .ite k2 k3.accept) trivial)

theorem State.memWf.execCopynb {d : BitVec 6} {a : BitVec 4} {b : BitVec 6} (h : s.memWf) : OutWf (execCopynb d a b s) :=
  h.run (.bind Ends.nativeOnly fun _ _ => h.op (fun _ _ k2 => .bind k2.copyRequest fun _ k3 => .ite k2 <|
    .bind k2.released fun _ _ => k3.accept) trivial)

theorem State.memWf.copyPlace {n : Nat} {e : CopyEntry} {va : Nat} {wr : Bool} (h : s.memWf) : (s.copyPlace n e va wr).1.memWf := by
  unfold State.copyPlace
  split
  · split
    · exact h
    · next e2 =>
        split
        · split <;> exact h.translate.ok e2
        · split <;> exact h.translate.ok e2
  · exact h
  · exact h.lmPlace
  · exact h

theorem State.memWf.readSource {n : Nat} {e : CopyEntry} {va : Nat} (h : s.memWf) : (s.readSource n e va).1.memWf := by
  unfold State.readSource
  dsimp only
  split
  exacts [h.copyPlace, h.copyPlace, h.copyPlace.readWord]

theorem State.memWf.note {x : Xfer} {code off : Nat} (h : x.s.memWf) : (x.note code off).s.memWf := h

theorem State.memWf.copyWrite {n : Nat} {l : Loc} {v : Word} {t : Nat} (h : s.memWf) : (s.copyWrite n l v t).memWf :=
  .ite h.writeHome.poisonWaits h.writeHome

theorem State.memWf.readBytes {n : Nat} {e : CopyEntry} {a k : Nat} (h : s.memWf) : (s.readBytes n e a k).1.memWf := by
  unfold State.readBytes
  dsimp only
  split
  exacts [h.readSource, h.readSource.readSource]

theorem State.memWf.readParts {n : Nat} {e : CopyEntry} {a k : Nat} {more : Option (Nat × Nat)} (h : s.memWf) :
    (s.readParts n e a k more).1.memWf := by
  unfold State.readParts
  dsimp only
  split
  exacts [h.readBytes, h.readBytes.readBytes]

theorem State.memWf.noteSrc {x : Xfer} {r : SrcBytes} {off : Nat} (h : x.s.memWf) : (x.noteSrc r off).s.memWf := by
  unfold Xfer.noteSrc
  split
  exacts [h.note, h]

theorem State.memWf.word {x : Xfer} {n : Nat} {e : CopyEntry} {w b0 b1 a off : Nat} {more : Option (Nat × Nat)} {cap : Bool}
    (h : x.s.memWf) :
    (x.word n e w b0 b1 a off more cap).s.memWf := by
  unfold Xfer.word
  dsimp only
  split
  · exact h
  · exact h
  · exact h.copyPlace.readParts.noteSrc.note
  · split
    · exact h.copyPlace.readParts.noteSrc.note
    · split
      · split <;> exact h.copyPlace.readParts.copyWrite
      · exact h.copyPlace.readParts.copyWrite.noteSrc

theorem State.memWf.seg {n : Nat} {e : CopyEntry} {g : Seg} {mayCap : Bool} {fuel done : Nat} {x : Xfer} (h : x.s.memWf) :
    (x.seg n e g mayCap done fuel).s.memWf := by
  induction fuel generalizing x done with
  | zero => exact h
  | succ fuel ih =>
    unfold Xfer.seg
    split
    · exact h
    · extract_lets d k a w p cap more y
      split
      exacts [h.word, ih h.word]

theorem State.memWf.segs {n : Nat} {e : CopyEntry} {mayCap : Bool} : ∀ {l : List Seg} {x : Xfer}, x.s.memWf →
    (x.segs n e mayCap l).s.memWf
  | [], _, h => h
  | g :: gs, x, h => by
    unfold Xfer.segs
    dsimp only
    split
    · exact h.seg
    · exact State.memWf.segs h.seg

theorem State.memWf.transfer {n : Nat} {e : CopyEntry} (h : s.memWf) : (s.transfer n e).s.memWf := h.segs

theorem State.memWf.gather {n : Nat} {e : CopyEntry} : ∀ {fuel i : Nat} {s : State}, s.memWf → (s.gather n e i fuel).1.memWf
  | 0, _, _, h => h
  | fuel + 1, i, s, h => by
    unfold State.gather
    split
    · exact h
    · dsimp only
      split
      · exact h.readSource
      · exact State.memWf.gather h.readSource
      · exact State.memWf.gather h.readSource

theorem State.memWf.xferFill {n : Nat} {e : CopyEntry} {bs : Option (List Byte)} {fuel i : Nat} {x : Xfer} (h : x.s.memWf) :
    (x.fill n e bs i fuel).s.memWf := by
  induction fuel generalizing x i with
  | zero => exact h
  | succ fuel ih =>
    unfold Xfer.fill
    split
    · exact h
    · extract_lets d k
      split
      extract_lets y
      rename_i s1 p hp
      have hc : s1.memWf := State.memWf.of_pair h.copyPlace hp
      have hy : y.s.memWf := by
        unfold y
        split
        · exact hc.note
        · exact h
        · dsimp only
          split
          · exact hc.note
          · split
            exacts [hc.copyWrite, hc.copyWrite]
      split
      exacts [hy, ih hy]

theorem State.memWf.decrypt {n : Nat} {e : CopyEntry} (h : s.memWf) : (s.decrypt n e).s.memWf := by
  unfold State.decrypt
  dsimp only
  split
  · exact h
  · split
    · exact h
    · split
      · exact h
      · split
        · exact h
        · split
          · exact h
          · exact h.gather.xferFill
          · split
            exacts [h.gather.xferFill, h.gather.xferFill]

theorem State.memWf.moveBytes {n : Nat} {e : CopyEntry} (h : s.memWf) : (s.moveBytes n e).memWf := by
  unfold State.moveBytes
  dsimp only
  split
  · exact h.setCore.repeatLater.copyEvent
  · refine State.memWf.copyEvent (?_.setCore)
    split
    · exact h
    · split
      exacts [h.decrypt, h.transfer]

theorem State.memWf.copyStart {n : Nat} (h : s.memWf) : (s.copyStart n).memWf := by
  unfold State.copyStart
  dsimp only
  split
  · exact .ite h.later h
  · split
    exacts [(State.memWf.ite h h.drawn).setCore.later, (State.memWf.ite h h.drawn).moveBytes]

theorem State.memWf.copyComplete {s : State} {n tag : Nat} {merge : Bool} (h : s.memWf) : (s.copyComplete n tag merge).memWf := by
  unfold State.copyComplete
  split
  · exact h
  · exact .getD (fun _ k => h.finishCopy k) h.waitCopy.later

theorem State.memWf.execMerge {a b : BitVec 6} (h : s.memWf) : OutWf (execMerge a b s) :=
  h.run (.bind Ends.nativeOnly fun _ _ => h.op (fun _ _ k2 => .bind k2.logDesc fun _ k3 => .bind Ends.check fun _ _ =>
    .bind k2.released fun _ _ => .ite k2 k3.accept) trivial)

theorem State.memWf.fail {x : Pass} {off : Nat} (h : x.s.memWf) : (x.fail off).s.memWf := h

theorem State.memWf.stop {x : Pass} {r : LogStop} {f : Pass → Pass} (h : x.s.memWf) (k : ∀ (a : Pass), a.s.memWf → (f a).s.memWf) :
    (x.stop r f).s.memWf := by
  unfold Pass.stop
  split
  exacts [k _ h, h]

theorem State.memWf.passRead {x : Pass} {n : Nat} {e : CopyEntry} {k off : Nat} (h : x.s.memWf) : (x.read n e off k).1.s.memWf := by
  induction k generalizing x off with
  | zero => exact h
  | succ _ ih =>
    unfold Pass.read
    split
    · exact ih (h.stop fun _ k => k.fail)
    · next e => exact ih (h.logWord.ok e)

theorem State.memWf.write {x : Pass} {n : Nat} {e : CopyEntry} {off : Nat} {w : Word} (h : x.s.memWf) :
    (x.write n e off w).s.memWf := by
  unfold Pass.write
  split
  · exact h.stop fun _ k1 => k1.fail
  · next e1 => exact (h.logWord.ok e1).writeHome

theorem State.memWf.switch {x : Pass} {n : Nat} {e : CopyEntry} {seg : Nat} (h : x.s.memWf) : (x.switch n e seg).1.s.memWf := by
  unfold Pass.switch
  dsimp only
  split
  exacts [h.passRead, h.passRead.write]

theorem State.memWf.switchAll {x : Pass} {n : Nat} {e : CopyEntry} {l : List Nat} (h : x.s.memWf) : (x.switchAll n e l).1.s.memWf := by
  induction l generalizing x with
  | nil => exact h
  | cons _ _ ih => exact ih h.switch

theorem State.memWf.records {x : Pass} {n : Nat} {e : CopyEntry} {k off : Nat} (h : x.s.memWf) : (x.records n e off k).1.s.memWf := by
  induction k generalizing x off with
  | zero => exact h
  | succ _ ih => exact ih (h.passRead (k := 4))

theorem State.memWf.apply {x : Pass} {n : Nat} {e : CopyEntry} {r : LogRec} (h : x.s.memWf) : (x.apply n e r).s.memWf := by
  unfold Pass.apply
  dsimp only
  split
  · exact h.stop fun _ k1 => k1
  · split
    exacts [h, h.takeHome.putHome.changed]

theorem State.memWf.close {x : Pass} {n : Nat} {e : CopyEntry} {ovfl : Bool} {c : Closed} (h : x.s.memWf) :
    (x.close n e ovfl c).s.memWf := by
  unfold Pass.close
  extract_lets rec_ o y y1
  have hy : y.s.memWf := by
    unfold y
    split
    · exact h
    · exact List.foldlRecOn _ _ (motive := fun z : Pass => z.s.memWf) h.records fun _ hz _ _ => hz.apply
  have hr : (y1.read n e (o + 24) 1).1.s.memWf := (hy.write (x := y)).passRead
  dsimp only
  split
  exacts [hr.write, hr]

theorem State.memWf.mergePass {s : State} {n tag : Nat} (h : s.memWf) : (s.mergePass n tag).memWf := by
  unfold State.mergePass
  split
  · exact h
  · dsimp only
    split
    · exact h.repeatLater.later
    · refine (State.memWf.setCore ?_).later
      exact List.foldlRecOn _ _ (motive := fun z : Pass => z.s.memWf) (State.memWf.switchAll h) fun _ hz _ _ => hz.close

theorem State.memWf.tagWait {d a : BitVec 6} {len : Nat} {acq : Bool} {p : Word → Word → Bool} (h : s.memWf) :
    OutWf (tagWait s d a len acq p) :=
  h.run (.bind Ends.nativeOnly fun _ _ => h.op (fun _ _ k2 => .ite k2 <| .ite (State.memWf.ite k2.acquireHere k2) k2) trivial)

theorem State.memWf.tffOp {d a : BitVec 6} {len : Nat} {acq : Bool} (h : s.memWf) : OutWf (tffOp s d a len acq) := by
  refine h.run (.bind Ends.nativeOnly fun _ _ => h.op (fun _ _ k2 => .ite k2 ?_) trivial)
  split
  exacts [State.memWf.ite k2.setHere.acquireHere k2.setHere, k2]

theorem State.memWf.execTclr {a : BitVec 6} (h : s.memWf) : OutWf (execTclr a s) :=
  h.run (.bind Ends.nativeOnly fun _ _ => h.op (fun _ _ k2 => k2.setHere) trivial)

theorem State.memWf.execTget {d a : BitVec 6} (h : s.memWf) : OutWf (execTget d a s) :=
  h.run (.bind Ends.nativeOnly fun _ _ => h.op (fun _ _ k2 => .bind Ends.check fun _ _ => k2) trivial)

end Sys2Proof.Machine
end

section
/-! Proofs. MemoryForm.Tasks: what flags, launches and the matrix engine keep. -/

namespace Sys2Proof.Machine

variable {s : State}

theorem State.memWf.addFlags {fl : Nat} (h : s.memWf) : (s.addFlags fl).memWf := h.setMe

theorem State.memWf.tilEnd {t : State} {fl : Nat} (_h : s.memWf) (k : t.memWf) : Ends Stop.memWf State.memWf (tilEnd s t fl) :=
  .ite k k

theorem State.memWf.agentStore {ctx va : Nat} {v : Word} (h : s.memWf) : (s.agentStore ctx va v).memWf := by
  unfold State.agentStore
  split
  exacts [h, h.writeHome]

theorem State.memWf.setLaunch {isl : Nat} {l : Launch} (h : s.memWf) : (s.setLaunch isl l).memWf := h.setDisp

theorem State.memWf.endTask {isl slot i : Nat} {succs : List Nat} (h : s.memWf) : (s.endTask isl slot i succs).memWf := by
  unfold State.endTask
  split
  exacts [h, h.setLaunch.setDisp.later]

theorem State.memWf.failTask {isl slot i st : Nat} {succs : List Nat} (h : s.memWf) : (s.failTask isl slot i st succs).memWf := by
  unfold State.failTask
  split
  exacts [h, h.setLaunch.endTask]

theorem State.memWf.makeReady {isl slot i : Nat} (h : s.memWf) : (s.makeReady isl slot i).memWf := by
  unfold State.makeReady
  split
  · exact h
  · split
    exacts [.ite h.setDisp h.failTask, h.repeatLater, h]

theorem State.memWf.lateRecords {isl : Nat} (h : s.memWf) : (s.lateRecords isl).memWf :=
  h.foldl fun _ _ k1 => k1.foldl fun _ _ k2 => .ite k2.makeReady k2

theorem State.memWf.launch {isl ctx : Nat} {cap : GReg} {word : Word} (h : s.memWf) : (s.launch isl ctx cap word).1.memWf := by
  unfold State.launch
  dsimp only
  split
  · exact h
  · split
    · split
      · exact h
      · split
        · split
          exacts [h, (h.drawn.setDisp.foldl fun _ _ k1 => .ite k1.makeReady k1).laterOnce]
        · split
          exacts [h, (h.drawn.setDisp.foldl fun _ _ k1 => .ite k1.makeReady k1).laterOnce]
    · exact h

theorem State.memWf.decrement {ctx va : Nat} (h : s.memWf) : (s.decrement ctx va).1.memWf := by
  unfold State.decrement
  dsimp only
  split
  · exact h
  · split
    · exact h.takeHome
    · split
      · exact h.takeHome
      · split
        · split
          exacts [h.takeHome.writeHome.makeReady, h.takeHome.writeHome]
        · exact h.takeHome.writeHome

theorem State.memWf.decrements {isl slot i ctx : Nat} : ∀ {l : List Nat} {s : State}, s.memWf →
    (s.decrements isl slot i ctx l).memWf
  | [], _, h => h
  | _ :: _, _, h => by
    unfold State.decrements
    split
    · exact h.repeatLater.setDisp.later
    · refine State.memWf.decrements (.ite h.decrement ?_)
      split
      exacts [h.decrement.setLaunch, h.decrement]

theorem State.memWf.execDependencyDecrement {isl : BitVec 1} (h : s.memWf) : OutWf (execDependencyDecrement isl s) := by
  unfold Machine.execDependencyDecrement
  dsimp only
  split
  · exact h
  · split
    exacts [h.setDisp, h.setDisp.decrements]

theorem State.memWf.taskEnded {lslot va : Nat} (h : s.memWf) : (s.taskEnded lslot va).memWf := by
  unfold State.taskEnded
  dsimp only
  split
  · exact h
  · split
    · exact h
    · split
      exacts [.ite h.endTask h.setLaunch, h]

theorem State.memWf.rebind {n : Nat} (h : s.memWf) : (s.rebind n).memWf := by
  unfold State.rebind
  dsimp only
  split
  · split
    exacts [h.setCore.setDisp, h.setCore]
  · exact h

theorem State.memWf.rebindIdle {n : Nat} (h : s.memWf) : (s.rebindIdle n).memWf := .ite h.rebind h

theorem State.memWf.reserveHead {isl : Nat} {cs : List Cand} (h : s.memWf) : (s.reserveHead isl cs).memWf := by
  unfold State.reserveHead
  dsimp only
  split
  · exact h
  · refine .ite h ?_
    split
    exacts [h, h.setDisp]

theorem State.memWf.dispatch {isl : Nat} {c : Cand} {ns : List Nat} (h : s.memWf) : (s.dispatch isl c ns).memWf := by
  refine .ite h.repeatLater <| .ite h.failTask (State.memWf.record (h.setLaunch.foldl fun _ _ k1 => ?_))
  split
  exacts [k1.rebindIdle.setSched, k1]

theorem State.memWf.openSlot {s0 : State} {isl : Nat} (h : s0.memWf) : (s0.openSlot isl).memWf := h.lateRecords.setDisp

theorem State.memWf.fillSlot {isl : Nat} (h : s.memWf) : (s.fillSlot isl).memWf := by
  unfold State.fillSlot
  dsimp only
  split
  · exact h.openSlot.foldl fun _ _ k1 => k1.reserveHead
  · split
    · exact h.openSlot.foldl fun _ _ k1 => k1.reserveHead
    · split
      · exact h.openSlot.foldl fun _ _ k1 => k1.reserveHead
      · exact (h.openSlot.foldl fun _ _ k1 => k1.reserveHead).setDisp.drawn.dispatch

theorem State.memWf.execDispatchSlot {isl : BitVec 1} (h : s.memWf) : OutWf (execDispatchSlot isl s) :=
  State.memWf.ite h.fillSlot.laterOnce h

theorem State.memWf.execLaunchSweep {isl : BitVec 1} (h : s.memWf) : OutWf (execLaunchSweep isl s) :=
  State.memWf.ite h <| State.memWf.ite h.laterOnce (h.setDisp.foldl fun _ _ k1 => k1.laterOnce).laterOnce

theorem State.memWf.endLaunch {isl : Nat} {l : Launch} (h : s.memWf) : (s.endLaunch isl l).memWf := by
  refine State.memWf.record (State.memWf.setDisp (State.memWf.frame ?_))
  split
  exacts [h.agentStore.agentStore, h.agentStore]

theorem State.memWf.execPoolRebind {node : BitVec 12} (h : s.memWf) : OutWf (execPoolRebind node s) :=
  State.memWf.ite h <| State.memWf.ite h.rebind h.laterOnce

theorem State.memWf.execOccupancyWindow {isl : BitVec 1} (h : s.memWf) : OutWf (execOccupancyWindow isl s) := by
  refine State.memWf.ite (State.memWf.laterOnce (h.foldl fun _ _ k1 => k1.foldl fun _ _ k2 => ?_)) h
  split
  exacts [k2.setCore.laterOnce, k2]

theorem State.memWf.launchTriggers {q : Option Nat} (h : s.memWf) : (s.launchTriggers q).memWf := h.foldl fun _ _ k1 => k1.laterOnce

theorem State.memWf.execLaunch {s : State} {d a b : BitVec 6} (h : s.memWf) : OutWf (execLaunch d a b s) := by
  refine h.run (.bind Ends.nativeOnly fun _ _ => h.op (fun _ _ _ => .bind Ends.check fun _ _ => .bind Ends.check fun _ _ =>
    .bind Ends.preChecks fun _ _ => .bind (State.memWf.locate ‹_›) fun _ k => ?_) trivial)
  dsimp only
  split
  · exact .stop trivial
  · refine .bind (p := fun _ => True) (.bind k.windowCheck fun _ _ => trivial) fun _ _ => ?_
    split
    · exact k.launchTriggers.setMe
    · split
      exacts [k.repeatLater, .bind k.released fun _ _ => k.launch]
  · refine .after ?_
    split
    · exact k.launchTriggers.setMe
    · split
      exacts [k.repeatLater, .bind k.released fun _ _ => k.launch]

theorem State.memWf.execTexit {s : State} (h : s.memWf) : OutWf (execTexit s) := by
  refine h.run (.bind Ends.nativeOnly fun _ _ => .bind Ends.check fun _ _ => ?_)
  dsimp only
  split
  · exact h
  · refine .after (.bind h.released fun _ _ => ?_)
    change State.memWf _
    split
    exacts [h.record.setHere.taskEnded, h.record.setHere]

theorem State.memWf.execTyield (h : s.memWf) : OutWf (execTyield s) :=
  h.run (.bind Ends.nativeOnly fun _ _ => .bind Ends.check fun _ _ => .ite h.retire <|
    State.memWf.ite h.retire.setHere.takeEntry h.retire.setHere.takeEntry.stopBerth)

theorem State.memWf.execLbnd {a : BitVec 6} (h : s.memWf) : OutWf (execLbnd a s) :=
  h.run (.bind Ends.nativeOnly fun _ _ => .bind (h.op (fun _ _ k2 => k2.record) trivial) fun _ k2 => .ite k2 <|
    .ite k2.rebind.setMe k2.rebind)

theorem State.memWf.matWait {α : Type} {s : State} {ev : Option Event} {p : α → Prop} (h : s.memWf) :
    Ends Stop.memWf p (matWait s ev : M α) := by
  cases ev with
  | none => exact h.setHere
  | some _ => exact h.setHere.laterOnce

theorem State.memWf.matOrder (h : s.memWf) : Ends Stop.memWf (fun _ => True) (matOrder s) := .ite h trivial

theorem State.memWf.resolveHold {claims : Bool} (h : s.memWf) : Ends Stop.memWf (fun _ => True) (resolveHold s claims) :=
  .bind h.matOrder fun _ _ => .ite trivial <| .ite (.ite h.matWait h.setHere.setMe) <| .ite trivial <| .ite (.ite trivial <|
    .ite h.matWait trivial) <| .ite h.setHere.matWait h.matWait

theorem State.memWf.takeHold {x : Hold} (h : s.memWf) : (s.takeHold x).memWf := by
  unfold State.takeHold
  split
  exacts [h.setHere.setMe, h]

theorem State.memWf.setEngine {e : Engine} (h : s.memWf) : (s.setEngine e).memWf := h.setHere

theorem State.memWf.dropPending (h : s.memWf) : s.dropPending.memWf := by
  unfold State.dropPending
  split
  exacts [.ite h.setEngine.setMe.addFlags h.setEngine.setMe, h]

theorem State.memWf.freeIfEmpty (h : s.memWf) : s.freeIfEmpty.memWf := .ite h.setEngine.setMe h

theorem State.memWf.writeRegion {n base : Nat} {e : Engine} (h : s.memWf) : (s.writeRegion n base e).memWf := h.writeWords

theorem State.memWf.endPending (h : s.memWf) : s.endPending.memWf := by
  refine .ite h.dropPending ?_
  split
  · refine .ite ?_ h
    split
    · exact .ite (State.memWf.ite h h.writeRegion).setEngine.setMe.addFlags (State.memWf.ite h h.writeRegion).setEngine.setMe
    · exact h
  · exact h

theorem State.memWf.execEngineSpill {node : BitVec 12} (h : s.memWf) : OutWf (execEngineSpill node s) :=
  State.memWf.ite h (State.memWf.ite h h.writeRegion).setCore.settlePins

theorem State.memWf.execEngineReload {node : BitVec 12} (h : s.memWf) : OutWf (execEngineReload node s) := by
  unfold Machine.execEngineReload
  dsimp only
  split
  exacts [State.memWf.ite (State.memWf.ite h.laterOnce h) <| State.memWf.ite h.setCore.laterOnce h.setCore, h]

theorem State.memWf.tileHeader {code : BitVec 6} {base : GReg} {i0 : optParam Nat 0} (h : s.memWf) :
    Ends Stop.memWf (fun r => r.1.memWf) (tileHeader s code base i0) :=
  .bind Ends.preChecks fun _ _ => .bind h.loadBlock fun _ k2 => k2

theorem Ends.hdrCheck {p : Bool} {t : Tile} {reason : Nat} : Ends Stop.memWf (fun _ => True) (hdrCheck p t reason) := Ends.check

theorem Ends.tileCaps {kern : Bool} {t : Tile} : Ends Stop.memWf (fun _ => True) (tileCaps kern t) :=
  .bind Ends.check fun _ _ => Ends.check

theorem Ends.tileAligns {t : Tile} {w32 : Bool} : Ends Stop.memWf (fun _ => True) (tileAligns t w32) :=
  .bind Ends.check fun _ _ => Ends.check

theorem Ends.tileSlots {kern : Bool} {t : Tile} {w32 : Bool} : Ends Stop.memWf (fun _ => True) (tileSlots kern t w32) :=
  .bind Ends.tileCaps fun _ _ => Ends.tileAligns

theorem State.memWf.rangeChecksFor {s : State} {rd wr : Bool} {l : List Range} (h : s.memWf) :
    Ends Stop.memWf (fun r => r.1.memWf) (rangeChecksFor rd wr s l) := by
  induction l generalizing s with
  | nil => exact h
  | cons _ _ ih =>
    refine .bind Ends.capChecks fun _ _ => .bind h.locate fun _ k => ?_
    dsimp only
    split
    · exact .bind (ih k) fun _ k1 => k1
    all_goals trivial

theorem State.memWf.rangeChecks {wr : Bool} {rs : List Range} (h : s.memWf) :
    Ends Stop.memWf (fun r => r.1.memWf) (rangeChecks wr s rs) :=
  h.rangeChecksFor

theorem State.memWf.rangeLoads : ∀ {l : List (Range × List (Piece × Loc))} {s : State}, s.memWf →
    Ends Stop.memWf (fun r => r.1.memWf) (rangeLoads s l)
  | [], _, h => h
  | _ :: _, _, h => .bind h.loadCheck fun _ k => .bind (State.memWf.rangeLoads k.loadPieces) fun _ k1 => k1

theorem State.memWf.mmaTiles {a b : BitVec 6} {ha hb : GReg} (h : s.memWf) :
    Ends Stop.memWf (fun r => r.1.memWf) (mmaTiles s a b ha hb) :=
  .bind h.tileHeader fun _ k1 => .bind k1.tileHeader fun _ k2 => k2

theorem Ends.mmaHeader {t : Tile} : Ends Stop.memWf (fun _ => True) (mmaHeader t) :=
  .bind Ends.hdrCheck fun _ _ => .bind Ends.hdrCheck fun _ _ => .bind Ends.hdrCheck fun _ _ => Ends.hdrCheck

theorem Ends.mmaChecks {kern : Bool} {form : Nat} {x y : Tile} : Ends Stop.memWf (fun _ => True) (mmaChecks kern form x y) :=
  .bind Ends.mmaHeader fun _ _ => .bind Ends.mmaHeader fun _ _ => .bind Ends.hdrCheck fun _ _ => .bind Ends.hdrCheck fun _ _ =>
    .bind Ends.hdrCheck fun _ _ => .bind Ends.hdrCheck fun _ _ => .bind Ends.tileCaps fun _ _ => .bind Ends.tileCaps fun _ _ =>
    .bind Ends.tileAligns fun _ _ => Ends.tileAligns

theorem State.memWf.mmaHeaders {d : BitVec 2} {a b : BitVec 6} {ha hb : GReg} (h : s.memWf) :
    Ends Stop.memWf (fun r => r.1.memWf) (mmaHeaders s d a b ha hb) :=
  .bind h.mmaTiles fun _ k1 => .bind Ends.mmaChecks fun _ _ => k1

theorem State.memWf.mmaFetch {x y : Tile} {ra rb : Bool} {j0 : optParam Nat 0} (h : s.memWf) :
    Ends Stop.memWf (fun r => r.1.memWf) (mmaFetch s x y ra rb j0) :=
  .bind h.rangeChecks fun _ k1 => .bind k1.rangeChecks fun _ k2 => .bind k2.rangeLoads fun _ k3 => k3

theorem State.memWf.startFlight {n i d j0 : Nat} {bs : List MmaBlock} {til : Bool} {pins : List Nat}
    {gang : Option (Nat × List Nat)} (h : s.memWf) :
    (s.startFlight n i d j0 bs til pins gang).memWf :=
  h.drawn.setCore.setBerthAt.laterOnce

theorem State.memWf.beginMma {n i d : Nat} (h : s.memWf) : (s.beginMma n i d).1.memWf := by
  unfold State.beginMma
  dsimp only
  split
  · exact h.setCore
  · split
    exacts [h.setCore, h]

theorem State.memWf.localMma {d : BitVec 2} {a b : BitVec 6} {ha hb : GReg} (h : s.memWf) :
    Ends Stop.memWf State.memWf (localMma s d a b ha hb) :=
  .bind h.mmaHeaders fun _ k1 => .bind k1.mmaFetch fun _ k2 => k2.beginMma.startFlight

theorem State.memWf.gangIssue {d : BitVec 2} {a b : BitVec 6} {ha hb : GReg} (h : s.memWf) :
    Ends Stop.memWf (fun r => r.1.memWf) (gangIssue s d a b ha hb) := by
  unfold Machine.gangIssue
  dsimp only
  split
  · exact h
  · next e1 => exact h.mmaTiles.error e1
  · next e =>
      split
      · exact h.mmaTiles.ok e
      · exact .bind Ends.mmaChecks fun _ _ => .bind (h.mmaTiles.ok e).mmaFetch fun _ k2 => k2

theorem State.memWf.startMember {g : Gang} {n : Nat} {r : GangIssue} {issues : List (Nat × GangIssue)} (h : s.memWf) :
    (s.startMember g n r issues).memWf :=
  h.beginMma.startFlight.setBerthAt.foldl fun _ _ k1 => k1.inject

theorem State.memWf.decideStep {g : Gang} (h : s.memWf) : (s.decideStep g).memWf := by
  refine .ite h ?_
  split
  · exact h
  · refine h.foldl fun _ _ k1 => ?_
    split
    · exact k1.setBerthAt.settlePins
    · split
      exacts [k1.startMember, k1]

theorem State.memWf.failStep {g : Gang} (h : s.memWf) : (s.failStep g).memWf := by
  unfold State.failStep
  dsimp only
  refine h.foldl fun _ _ k1 => ?_
  split
  exacts [.ite k1.setCore.settlePins k1, k1]

theorem State.memWf.gangAgain {d : BitVec 2} {a b : BitVec 6} {ha hb : GReg} {g : Gang} {k : GangStep} (h : s.memWf) :
    Ends Stop.memWf State.memWf (gangAgain s d a b ha hb g k) := by
  unfold Machine.gangAgain
  dsimp only
  split
  · exact h.failStep
  · exact .bind h.mmaHeaders fun _ k1 => .bind k1.rangeChecks fun _ k2 => .bind Ends.hdrCheck fun _ _ => k2.beginMma.startFlight

theorem Ends.accCheck {x : Hold} {d : BitVec 2} : Ends Stop.memWf (fun _ => True) (accCheck s x d) := Ends.check

theorem State.memWf.leaveStep (h : s.memWf) : s.leaveStep.memWf := h.endPending.setMe

theorem State.memWf.mmaIssue {d : BitVec 2} {a b : BitVec 6} {ha hb : GReg} (h : s.memWf) :
    Ends Stop.memWf State.memWf (mmaIssue s d a b ha hb) := by
  unfold Machine.mmaIssue
  split
  · exact h.localMma
  · refine .ite h.localMma ?_
    split
    exacts [h.gangAgain, .bind (State.memWf.ite h.leaveStep h).gangIssue fun _ k1 => k1.setMe.decideStep]

theorem State.memWf.execMma {d : BitVec 2} {a b : BitVec 6} (h : s.memWf) : OutWf (execMma d a b s) := by
  refine h.run (.bind Ends.nativeOnly fun _ _ => ?_)
  split
  · exact .ite (.ite h <| .ite (.bind (h.operands trivial) fun _ _ =>
      (State.memWf.ite h.drawn.setEngine.addFlags h.drawn.setEngine).commit.retire) h.drawn) <| .bind h.resolveHold fun _ _ => h
  · exact h
  · exact .bind (h.operands trivial) fun _ _ => h.tilEnd h.addFlags.commit.retire
  · exact .bind (h.operands trivial) fun _ _ => .bind h.resolveHold fun _ _ => .bind Ends.accCheck fun _ _ =>
      .bind h.setEngine.mmaIssue fun _ k5 => k5

theorem State.memWf.execMmaComplete {node : BitVec 12} (h : s.memWf) : OutWf (execMmaComplete node s) := by
  unfold Machine.execMmaComplete
  dsimp only
  split
  · exact State.memWf.ite (State.memWf.ite h.laterOnce h.laterOnce) h
  · refine State.memWf.ite h.laterOnce ?_
    split
    · exact h.drawn.setCore.laterOnce
    · exact State.memWf.ite (State.memWf.ite (State.memWf.ite h.setCore.settlePins h.setCore.settlePins.answer).laterOnce <|
        State.memWf.ite h.setCore.settlePins h.setCore.settlePins.answer).setBerthAt <|
        State.memWf.ite (State.memWf.ite h.setCore.settlePins h.setCore.settlePins.answer).laterOnce <|
        State.memWf.ite h.setCore.settlePins h.setCore.settlePins.answer

theorem State.memWf.execMzero {d : BitVec 2} {f : BitVec 1} (h : s.memWf) : OutWf (execMzero d f s) :=
  h.run (.bind Ends.nativeOnly fun _ _ => .bind h.resolveHold fun _ _ => h.takeHold.dropPending.setEngine.retire)

theorem State.memWf.execMld {d : BitVec 2} {a : BitVec 6} {f : BitVec 1} (h : s.memWf) : OutWf (execMld d a f s) :=
  h.run (.bind Ends.nativeOnly fun _ _ => h.op (fun _ _ k2 => .bind k2.resolveHold fun _ _ => .bind k2.tileHeader fun _ k4 =>
    .bind Ends.hdrCheck fun _ _ => .bind Ends.hdrCheck fun _ _ => .bind Ends.hdrCheck fun _ _ => .bind Ends.hdrCheck fun _ _ =>
    .bind Ends.hdrCheck fun _ _ => .bind Ends.tileSlots fun _ _ => .bind k4.rangeChecks fun _ k11 =>
    .bind k11.rangeChecks fun _ k12 => .bind k12.rangeLoads fun _ k13 => k13.takeHold.dropPending.setEngine) trivial)

theorem State.memWf.storeRangeChecks : ∀ {l : List (Range × List (Piece × Loc))} {s : State}, s.memWf →
    Ends Stop.memWf State.memWf (storeRangeChecks s l)
  | [], _, h => h
  | _ :: _, _, h => .bind h.storeCheck fun _ k => State.memWf.storeRangeChecks k

theorem State.memWf.storeRanges {s : State} {val : Range → Nat} {l : List (Range × List (Piece × Loc))} (h : s.memWf) :
    (storeRanges val s l).memWf := by
  induction l generalizing s with
  | nil => exact h
  | cons _ _ ih => exact ih h.storePieces

theorem State.memWf.execMst {d : BitVec 2} {a : BitVec 6} {e : BitVec 1} (h : s.memWf) : OutWf (execMst d a e s) :=
  h.run (.bind Ends.nativeOnly fun _ _ => h.op (fun _ _ k2 => .bind k2.resolveHold fun _ _ => .bind Ends.accCheck fun _ _ =>
    .bind k2.tileHeader fun _ k5 => .bind Ends.hdrCheck fun _ _ => .bind Ends.hdrCheck fun _ _ => .bind Ends.hdrCheck fun _ _ =>
    .bind Ends.hdrCheck fun _ _ => .bind Ends.hdrCheck fun _ _ => .bind Ends.tileSlots fun _ _ => .bind k5.rangeChecks fun _ k12 =>
    .bind k12.rangeChecks fun _ k13 => .bind k13.storeRangeChecks fun _ k14 =>
    State.memWf.ite k14.storeRanges.dropPending.addFlags.setEngine.freeIfEmpty k14.storeRanges.dropPending.addFlags) trivial)

theorem State.memWf.markTil {k : Word} {e : Engine} (h : s.memWf) : (s.markTil k e).memWf := h

theorem State.memWf.storeWords {l : List (Piece × Loc)} {ws : List Word} (h : s.memWf) : (storeWords s l ws).memWf := h.storePieces

theorem State.memWf.saveRegion {n : Need} {ws : List Word} (h : s.memWf) : Ends Stop.memWf State.memWf (saveRegion s n ws) := by
  unfold Machine.saveRegion
  dsimp only
  refine .bind h.locate fun _ k1 => ?_
  split
  exacts [.bind k1.storeCheck fun _ k2 => k2.storeWords, k1.remoteStore, Ends.deviceTrap]

theorem State.memWf.regionChecks {n : Need} (h : s.memWf) : Ends Stop.memWf State.memWf (regionChecks s n) := by
  unfold Machine.regionChecks
  dsimp only
  refine .bind Ends.preChecks fun _ _ => .bind h.locate fun _ k2 => ?_
  split
  exacts [.ite k2.storeCheck k2.loadCheck, .bind k2.windowCheck fun _ k3 => k3, Ends.deviceTrap]

theorem State.memWf.stopSpilled {p : Spill} (h : s.memWf) : (s.stopSpilled p).memWf := by
  unfold State.stopSpilled
  split
  exacts [h.setHere, h]

theorem State.memWf.execMsave {d a : BitVec 6} (h : s.memWf) : OutWf (execMsave d a s) := by
  unfold Machine.execMsave
  dsimp only
  refine h.run (.bind Ends.nativeOnly fun _ _ => h.op (fun _ _ k2 => .bind k2.resolveHold fun _ _ =>
    .bind k2.regionChecks fun _ k4 => ?_) trivial)
  split
  · exact k4
  · exact .bind k4.saveRegion fun _ k5 => State.memWf.ite k5.markTil.setEngine.setMe k5.markTil.setEngine
  · split
    exacts [k4, .bind k4.saveRegion fun _ k5 => k5.markTil.stopSpilled.setEngine]

theorem State.memWf.loadRegion {s : State} {n : Need} (h : s.memWf) :
    Ends Stop.memWf (fun r => r.1.memWf) (loadRegion s n) := by
  refine .bind h.locate fun _ k => ?_
  dsimp only
  split
  · exact .bind (p := fun r : State × Nat => r.1.memWf) (.bind k.loadCheck fun _ k1 => k1.loadPieces) fun _ k1 => k1
  · exact .bind k.remoteLoad fun _ k1 => k1
  · exact .stop trivial

theorem State.memWf.execMrst {a b : BitVec 6} (h : s.memWf) : OutWf (execMrst a b s) :=
  h.run (.bind Ends.nativeOnly fun _ _ => h.op (fun _ _ k2 => .bind Ends.check fun _ _ => .bind k2.matOrder fun _ _ =>
    .ite k2.endPending <| .bind k2.regionChecks fun _ k5 => .ite k5.matWait <| .bind k5.loadRegion fun _ k6 =>
    .ite k6.endPending.setEngine <| State.memWf.ite k6.endPending.setEngine.setMe k6.endPending.setEngine.setHere) trivial)

theorem State.memWf.gangRound {g : Gang} (h : s.memWf) : (s.gangRound g).memWf := .ite (h.foldl fun _ _ k1 => k1.setBerthAt) h

theorem State.memWf.execGang {s : State} {d : BitVec 6} (h : s.memWf) : OutWf (execGang d s) := by
  refine h.run (.bind Ends.nativeOnly fun _ _ => h.op (fun t vs k => .bind k.matOrder fun _ _ => ?_) trivial)
  generalize t.me.wait = w
  split
  · split
    exacts [k.endPending, trivial]
  · cases w with
    | done => exact k.endPending
    | gang => exact k
    | _ => exact k.leaveStep.setMe.gangRound

theorem State.memWf.fillRanges {wr : Bool} : ∀ {l : List Range} {s : State}, s.memWf → (fillRanges s wr l).memWf
  | [], _, h => h
  | _ :: _, _, h => by
    unfold Machine.fillRanges
    split
    · next e => exact State.memWf.fillRanges ((h.rangeChecks.ok e).foldl fun _ _ k => k.foldl fun _ _ k1 => .ite k1 k1.fill)
    · exact h

theorem State.memWf.execMpf {a : BitVec 6} (h : s.memWf) : OutWf (execMpf a s) := by
  refine h.run (.bind Ends.nativeOnly fun _ _ => h.op (fun _ _ k2 => .bind k2.matOrder fun _ _ => .bind k2.tileHeader fun _ k4 =>
    .ite k4.endPending ?_) trivial)
  split
  exacts [k4.endPending, k4.endPending.fillRanges]

end Sys2Proof.Machine
end

section
/-! Proofs. MemoryForm.Sampling: what taps and sampling keep. -/

namespace Sys2Proof.Machine

variable {s : State}

theorem State.memWf.kernRead {va n : Nat} (h : s.memWf) : Ends Stop.memWf (fun r => r.1.memWf) (kernRead s va n) := by
  unfold Machine.kernRead
  dsimp only
  refine .bind h.placePieces fun _ k1 => ?_
  split
  exacts [Ends.trap, .bind k1.loadCheck fun _ k2 => k2.loadPieces]

theorem State.memWf.batchMap (h : s.memWf) : Ends Stop.memWf (fun r => r.1.memWf) (batchMap s) :=
  .ite (.bind h.kernRead fun _ k1 => k1) h

theorem State.memWf.probeRead {va n : Nat} (h : s.memWf) : Ends Stop.memWf (fun r => r.1.memWf) (probeRead s va n) := by
  unfold Machine.probeRead
  split
  exacts [h, .bind h.kernRead fun _ k1 => k1.setHere]

theorem State.memWf.mayForget (h : s.memWf) : s.mayForget.memWf := .ite h.drawn h.drawn.setHere

theorem State.memWf.probeEntries {i : Nat} : ∀ {l : List Nat} {s : State}, s.memWf →
    Ends Stop.memWf (fun r => r.1.memWf) (probeEntries s i l)
  | [], _, h => h
  | _ :: _, _, h => .bind h.probeRead fun _ k => .ite (State.memWf.probeEntries k)
    (.bind Ends.check fun _ _ => .bind (State.memWf.probeEntries k) fun _ k1 => k1)

theorem State.memWf.probeVectors {s : State} {cols : Nat} {steer : Bool} {l : List Probe} (h : s.memWf) :
    Ends Stop.memWf (fun r => r.1.memWf) (probeVectors cols steer s l) := by
  induction l generalizing s with
  | nil => exact h
  | cons _ _ ih =>
    refine .bind h.probeRead fun _ k => ?_
    dsimp only
    split
    · exact .bind k.probeRead fun _ k1 => .bind (ih k1) fun _ k2 => k2
    · exact .after (.bind (ih k) fun _ k2 => k2)

theorem State.memWf.tapChecks {a : BitVec 6} {ga : GReg} {i : Nat} {steer : Bool} (h : s.memWf) :
    Ends Stop.memWf (fun r => r.1.memWf) (tapChecks s a ga i steer) :=
  .bind h.tileHeader fun _ k1 => .bind Ends.hdrCheck fun _ _ => .bind Ends.hdrCheck fun _ _ => .bind Ends.hdrCheck fun _ _ =>
    .bind Ends.hdrCheck fun _ _ => .bind Ends.hdrCheck fun _ _ => .bind Ends.tileSlots fun _ _ => .bind k1.batchMap fun _ k8 =>
    .bind k8.mayForget.probeEntries fun _ k9 => .bind k9.probeVectors fun _ k10 => .bind k10.rangeChecksFor fun _ k11 => k11

theorem State.memWf.syncChecks : ∀ {l : List (Nat × List (Piece × Loc))} {s : State}, s.memWf →
    Ends Stop.memWf State.memWf (syncChecks s l)
  | [], _, h => h
  | _ :: _, _, h => .bind h.storeCheck fun _ k => State.memWf.syncChecks k

theorem State.memWf.execTap {d a b : BitVec 6} {s : State} (h : s.memWf) : OutWf (execTap d a b s) := by
  have last {t : State} {srcs : List Src} {dsts : List Dst} {xs : List Val} {b : Berth} {tr : Nat} {v : Word} (k : t.memWf) :
      Ends Stop.memWf State.memWf (if !hasRoom s [.g d] then .error (.wait s) else
        if tr = 0 then .ok (((t.setMe b).commit srcs dsts xs).retire 4)
        else .error (.keep (((t.setMe b).commit srcs dsts xs).retire 4) .taphit v)) :=
    .ite h (.ite k.setMe.commit.retire k.setMe.commit.retire)
  refine h.run (.bind Ends.nativeOnly fun _ _ => .bind (h.operands trivial) fun _ _ => ?_)
  dsimp only
  split
  · exact .bind (p := fun r : State × Nat × Nat × Nat => r.1.memWf)
      (.bind h.tapChecks fun _ k1 => .bind k1.rangeLoads fun _ k2 => k2) fun _ k => last k
  · exact .after (last h)

theorem State.memWf.execTsteer {a b : BitVec 6} (h : s.memWf) : OutWf (execTsteer a b s) :=
  h.run (.bind Ends.nativeOnly fun _ _ => h.op (fun _ _ k2 => .ite k2 <| .bind k2.tapChecks fun _ k3 =>
    .bind k3.rangeLoads fun _ k4 => .bind k4.syncChecks fun _ k5 => k5.foldl fun _ _ k6 => k6.storePieces) trivial)

theorem State.memWf.localBlock {a : Need} (h : s.memWf) : Ends Stop.memWf (fun r => r.1.memWf) (localBlock s a) := by
  unfold Machine.localBlock
  dsimp only
  refine .bind Ends.preChecks fun _ _ => .bind h.locate fun _ k2 => ?_
  split
  exacts [.bind k2.loadCheck fun _ k3 => k3.loadPieces, Ends.trap, Ends.deviceTrap]

theorem State.memWf.localPlaces {a : Need} (h : s.memWf) : Ends Stop.memWf (fun r => r.1.memWf) (localPlaces s a) := by
  unfold Machine.localPlaces
  dsimp only
  refine .bind Ends.preChecks fun _ _ => .bind h.locate fun _ k2 => ?_
  split
  exacts [k2, Ends.trap, Ends.deviceTrap]

theorem State.memWf.readBatch {p : Nat × Nat} {q : SampleIssue} (h : s.memWf) : (readBatch s p q).1.memWf := by
  unfold Machine.readBatch
  split
  · next e => exact h.frame.batchMap.ok e
  · exact h
  · exact h

theorem State.memWf.readSlice {q : SampleIssue} (h : s.memWf) : Ends Stop.memWf (fun r => r.1.memWf) (readSlice s q) :=
  .bind Ends.check fun _ _ => .ite h <| .bind h.localBlock fun _ k2 => k2

theorem State.memWf.sampleChecks {q : SampleIssue} (h : s.memWf) : Ends Stop.memWf (fun r => r.1.memWf) (sampleChecks s q) :=
  .bind Ends.check fun _ _ => .ite h h.readSlice

theorem State.memWf.checkMember {ms : List Member} {m : Member} (h : s.memWf) : (checkMember ms s m).1.memWf := by
  unfold Machine.checkMember
  split
  · exact h
  · exact h
  · split
    · next e2 => exact h.frame.sampleChecks.ok e2
    · exact h
    · exact h

theorem State.memWf.endMember {p : Nat × Nat} {r : Except (Cause × Word) (Word × Nat)} (h : s.memWf) : (s.endMember p r).memWf := by
  unfold State.endMember
  split <;> exact h.setBerthAt

theorem State.memWf.overMembers {α : Type} {f : State → α → State × Member} {s : State} {l : List α} (h : s.memWf)
    (hf : ∀ t x, t.memWf → (f t x).1.memWf) : (overMembers f s l).1.memWf := by
  induction l generalizing s with
  | nil => exact h
  | cons _ _ ih => exact ih (hf _ _ h)

theorem State.memWf.sampleStep (h : s.memWf) : s.sampleStep.memWf := by
  have read {q : List ((Nat × Nat) × SampleIssue)} : (Machine.overMembers (fun t x => Machine.readBatch t x.1 x.2) s q).1.memWf :=
    h.overMembers fun _ _ k => k.readBatch
  have ended {q : List ((Nat × Nat) × SampleIssue)} {bs ms : List Member} {f : State → Member → State} {n b : Nat}
      (hf : ∀ t m, t.memWf → (f t m).memWf) :
      (ms.foldl f { (Machine.overMembers (Machine.checkMember bs) (Machine.overMembers (fun t x =>
        Machine.readBatch t x.1 x.2) s q).1 bs).1 with
        cur := n, cb := b }).memWf :=
    (read.overMembers fun _ _ k => k.checkMember).frame.foldl hf
  unfold State.sampleStep
  dsimp only
  split
  · exact h
  · exact .ite h <| .ite (ended fun _ _ k => k.endMember) <| .ite (ended fun _ _ k => k.endMember) (ended fun _ _ k => k.endMember)

theorem State.memWf.sampleEnd {srcs : List Src} {d : BitVec 6} {v fl : Word} (h : s.memWf) :
    Ends Stop.memWf State.memWf (sampleEnd s srcs d v fl) :=
  .ite h.addFlags.commit.retire h

theorem State.memWf.sampleOp {srcs : List Src} {d : BitVec 6} {q : List Val → SampleIssue} (h : s.memWf) :
    OutWf (sampleOp s srcs d q) := by
  unfold Machine.sampleOp
  dsimp only
  refine h.run (.bind Ends.nativeOnly fun _ _ => ?_)
  split
  · exact h
  · exact h.sampleEnd
  · refine .bind (h.operands trivial) fun _ _ => ?_
    split
    exacts [h.setMe.sampleStep.sampleEnd, h.setMe.sampleStep, h.setMe.sampleStep]

theorem Ends.wellWord {p : Bool} {a : Word} : Ends Stop.memWf (fun _ => True) (wellWord p a) := Ends.check

theorem State.memWf.tableRead {t : GReg} {slot off n : Nat} (h : s.memWf) :
    Ends Stop.memWf (fun r => r.1.memWf) (tableRead s t slot off n) :=
  .bind h.localBlock fun _ k1 => k1

theorem State.memWf.gramBlock {code : BitVec 6} {g : GReg} (h : s.memWf) :
    Ends Stop.memWf (fun r => r.1.memWf) (gramBlock s code g) :=
  .bind h.localBlock fun _ k1 => .bind Ends.check fun _ _ => .bind Ends.wellWord fun _ _ => .bind Ends.wellWord fun _ _ => k1

theorem State.memWf.gramHeader {b : GramBlock} (h : s.memWf) : Ends Stop.memWf (fun r => r.1.memWf) (gramHeader s b) :=
  .bind h.tableRead fun _ k1 => .bind Ends.wellWord fun _ _ => .bind Ends.wellWord fun _ _ => .bind Ends.wellWord fun _ _ =>
    .bind Ends.wellWord fun _ _ => .bind Ends.wellWord fun _ _ => .bind Ends.wellWord fun _ _ => .bind Ends.wellWord fun _ _ =>
    .bind Ends.wellWord fun _ _ => k1

theorem State.memWf.read {g : Gram} {off n : Nat} (h : s.memWf) : Ends Stop.memWf (fun r => r.1.memWf) (g.read s off n) :=
  h.tableRead

theorem State.memWf.spelling {g : Gram} {t : Nat} (h : s.memWf) : Ends Stop.memWf (fun r => r.1.memWf) (g.spelling s t) :=
  .bind h.read fun _ k1 => .bind Ends.wellWord fun _ _ => k1

theorem Ends.state {g : Gram} {q : Nat × Nat} : Ends Stop.memWf (fun _ => True) (g.state q) := Ends.wellWord

theorem State.memWf.walkBytes {g : Gram} : ∀ {k : Nat} {st : List (Nat × Nat)} {d o : Nat} {s : State}, s.memWf →
    Ends Stop.memWf (fun r => r.1.memWf) (g.walkBytes s st d o k)
  | 0, _, _, _, _, h => h
  | k + 1, _, _, _, _, h => .ite h (.bind Ends.state fun _ _ => .bind h.read fun _ k => .bind k.read fun _ k1 =>
    .bind Ends.wellWord fun _ _ => by
      split
      · exact k1
      · exact .bind Ends.state fun _ _ => State.memWf.walkBytes k1
      · exact .ite k1 (.bind Ends.state fun _ _ => .bind Ends.state fun _ _ => State.memWf.walkBytes k1)
      · exact State.memWf.walkBytes k1)

theorem State.memWf.walk {g : Gram} {st : List (Nat × Nat)} {d t : Nat} (h : s.memWf) :
    Ends Stop.memWf (fun r => r.1.memWf) (g.walk s st d t) :=
  .ite h <| .ite h <| .bind h.spelling fun _ k1 => .ite k1 k1.walkBytes

theorem State.memWf.maskWords {g : Gram} {st : Nat} : ∀ {l : List Nat} {s : State}, s.memWf →
    Ends Stop.memWf (fun r => r.1.memWf) (g.maskWords st s l)
  | [], _, h => h
  | _ :: _, _, h => .bind h.read fun _ k => .bind (State.memWf.maskWords k) fun _ k1 => k1

theorem State.memWf.listed {s : State} {g : Gram} {b : GramBlock} {inSlice : Nat → Bool} {off k i : Nat} (h : s.memWf) :
    Ends Stop.memWf (fun r => r.1.memWf) (g.listed b inSlice off s i k) := by
  induction k generalizing s i with
  | zero => exact h
  | succ _ ih =>
    refine .bind h.read fun _ k => ?_
    dsimp only
    split
    · exact .bind k.walk fun _ k1 => .bind (ih k1) fun _ k2 => k2
    · exact .after (.bind (ih k) fun _ k2 => k2)

theorem State.memWf.allowedTokens {b : GramBlock} {g : Gram} {base count : Nat} (h : s.memWf) :
    Ends Stop.memWf (fun r => r.1.memWf) (allowedTokens s b g base count) :=
  .ite h <| .bind Ends.state fun _ _ => .bind h.maskWords fun _ k2 => .bind k2.read fun _ k3 => .bind Ends.wellWord fun _ _ =>
    .bind k3.listed fun _ k5 => k5

theorem State.memWf.execGrmask {d a b : BitVec 6} (h : s.memWf) : OutWf (execGrmask d a b s) :=
  h.run (.bind Ends.nativeOnly fun _ _ => h.op (fun _ _ k2 => .bind k2.gramBlock fun _ k3 => .bind k3.gramHeader fun _ k4 =>
    .bind k4.allowedTokens fun _ k5 => .ite k5 <| .bind k5.localPlaces fun _ k6 => .bind k6.storeCheck fun _ k7 =>
    k7.storePieces) trivial)

theorem State.memWf.execGrstep {d a b : BitVec 6} (h : s.memWf) : OutWf (execGrstep d a b s) := by
  unfold Machine.execGrstep
  dsimp only
  refine h.run (.bind Ends.nativeOnly fun _ _ => h.op (fun _ _ k2 => .bind k2.gramBlock fun _ k3 => .bind k3.gramHeader fun _ k4 =>
    .bind k4.walk fun _ k5 => ?_) trivial)
  split
  · exact k5
  · exact .bind k5.localPlaces fun _ k6 => .bind k6.syncChecks fun _ k7 => k7.foldl fun _ _ k8 => k8.storePieces

end Sys2Proof.Machine
end

section
/-! Proofs. MemoryForm.System: what system registers, traps and saves keep. -/

namespace Sys2Proof.Machine

variable {s : State}

theorem State.memWf.lmClear {n : Nat} (h : s.memWf) : (s.lmClear n).memWf :=
  (h.foldl fun _ _ k1 => k1.endGranule).lmErase.foldl fun _ _ k1 => k1.dropWaits.setBerthAt

theorem State.memWf.moveUrgent {n : Nat} (h : s.memWf) : (s.moveUrgent n).memWf := h.setCore.foldl fun _ _ k1 => k1.msgbufPut

theorem State.memWf.setCtx {n : Nat} {v : Word} (h : s.memWf) : Ends Stop.memWf State.memWf (s.setCtx n v) :=
  .ite h <| .bind Ends.check fun _ _ => (h.moveEntries fun _ _ k2 => k2.msgbufPut).moveUrgent.setCore.lmClear.loadBinds

theorem State.memWf.setRank {n : Nat} {v : Word} (h : s.memWf) : (s.setRank n v).memWf :=
  .ite h (h.moveEntries fun _ _ k1 => k1.overflow).setCore.loadBinds

theorem Ends.setOvf {c : Core} {v : Word} : Ends Stop.memWf (fun _ => True) (c.setOvf v) := .bind Ends.check fun _ _ => trivial

theorem Ends.setGeom {c : Core} {v : Word} {inGang : Bool} : Ends Stop.memWf (fun _ => True) (c.setGeom v inGang) :=
  .bind Ends.check fun _ _ => .bind Ends.check fun _ _ => trivial

theorem Ends.setPrio {b : Berth} {v : Word} : Ends Stop.memWf (fun _ => True) (b.setPrio v) := .bind Ends.check fun _ _ => trivial

theorem Ends.setMspill {b : Berth} {v : Word} : Ends Stop.memWf (fun _ => True) (b.setMspill v) :=
  .bind Ends.check fun _ _ => trivial

theorem State.memWf.anyOrder : ∀ {k : Nat} {l : List Nat} {s : State}, s.memWf → (State.anyOrder k l s).1.memWf
  | 0, _, _, h => h
  | k + 1, l, s, h => by
    unfold State.anyOrder
    split
    · exact h
    · exact State.memWf.anyOrder h.drawn

theorem State.memWf.setTags {s : State} {n : Nat} {v : Word} (h : s.memWf) : (s.setTags n v).memWf := by
  have tagged {k : Nat} {l : List Nat} {c : Core} : ((State.anyOrder k l s).1.setCore n c).memWf := h.anyOrder.setCore
  unfold State.setTags
  dsimp only
  split
  · refine State.memWf.wakeSleep ?_
    split
    exacts [tagged.wakeSleep, tagged]
  · split
    exacts [tagged.wakeSleep, tagged]

theorem State.memWf.setTvec {n : Nat} {v : Word} (h : s.memWf) : (s.setTvec n v).memWf := by
  refine h.setCore.foldl fun _ _ k1 => ?_
  split
  · next e => exact (k1.translate.ok e).setCore.iline.setCore
  · exact k1

theorem State.memWf.evictGuests {n : Nat} (h : s.memWf) : (s.evictGuests n).memWf :=
  h.foldl fun _ _ k1 => .ite k1 <| .ite k1.laterOnce k1.sendHome

theorem State.memWf.callBack {n : Nat} (h : s.memWf) : (s.callBack n).memWf := by
  unfold State.callBack
  split
  exacts [.ite h h.sendHome, h]

theorem State.memWf.recallAway {n : Nat} (h : s.memWf) : (s.recallAway n).memWf := .ite h.setCore.callBack h

theorem State.memWf.setRqstat {n : Nat} {v : Word} (h : s.memWf) : (s.setRqstat n v).memWf :=
  .ite (State.memWf.ite h.setSched.evictGuests h.setSched).recallAway <| .ite h.setSched.evictGuests h.setSched

theorem State.memWf.setRepeat {v : Word} (h : s.memWf) : (s.setRepeat v).memWf := h

theorem State.memWf.regSet {n i num : Nat} {v : Word} {inGang : Bool} (h : s.memWf) :
    Ends Stop.memWf State.memWf (s.regSet n i num v inGang) :=
  .ite h.setBerthAt <| .ite h.setBerthAt <| .ite h.setBerthAt <| .ite h.setBerthAt <| .ite h.setTvec <| .ite h.setCore <|
    .ite h.setCore <| .ite (State.memWf.ite h.setBerthAt h.setBerthAt.laterOnce) <| .ite h.setTags <|
    .ite (.bind Ends.setGeom fun _ _ => h.setCore) <| .ite (.bind Ends.setPrio fun _ _ => h.setBerthAt) <|
    .ite (.bind Ends.setMspill fun _ _ => h.setBerthAt) <| .ite h.setBerthAt <| .ite h.setBerthAt <| .ite h.setBerthAt <|
    .ite h.setCtx <| .ite h.setRank <| .ite h.setRepeat <| .ite h.setBerthAt <| .ite h.setBerthAt <| .ite h.setCore <|
    .ite h.setRqstat <| .ite h.setCore <| .ite (.bind Ends.setOvf fun _ _ => h.setCore) <| .ite h.setCore h

theorem Ends.regCheck {num : Nat} {rd wr : Bool} : Ends Stop.memWf (fun _ => True) (regCheck s num rd wr) := by
  unfold Machine.regCheck
  split
  exacts [Ends.trap, Ends.check]

theorem State.memWf.sysreg {d : BitVec 6} {n : BitVec 12} {rd wr : Bool} (h : s.memWf) : OutWf (sysreg s d n rd wr) :=
  h.run (.bind Ends.nativeOnly fun _ _ => h.op (fun _ _ k2 => .ite k2 <| .ite (.bind k2.regSet fun _ k3 =>
    State.memWf.ite k2.later k3) <| State.memWf.ite k2.later k2) Ends.regCheck)

theorem State.memWf.writeBy {s : State} {n : Nat} {r : M State} (h : s.memWf) (k : Ends Stop.memWf State.memWf r) :
    OutWf (writeBy s n r) := by
  unfold Machine.writeBy
  split
  exacts [k, h.enterOwn, h]

theorem State.memWf.execGeomWrite {node : BitVec 12} {berth : BitVec 2} {v : BitVec 64} (h : s.memWf) :
    OutWf (execGeomWrite node berth v s) := by
  unfold Machine.execGeomWrite
  dsimp only
  split
  · next e => exact h.regSet.ok e
  · exact State.memWf.ite h.enterOwn h.enterUser
  · exact h

theorem State.memWf.execRegisterWrite {s : State} {node : BitVec 12} {berth : BitVec 2} {r v : BitVec 64} (h : s.memWf) :
    OutWf (execRegisterWrite node berth r v s) := by
  unfold Machine.execRegisterWrite
  dsimp only
  split
  · split
    exacts [State.memWf.devSet h, h]
  · refine .ite h.again ?_
    split
    exacts [h.writeBy h.regSet, h.enterOwn, h.enterOwn]

theorem State.memWf.execTrap {a : BitVec 6} (h : s.memWf) : OutWf (execTrap a s) :=
  h.run (.bind (h.operands trivial) fun _ _ => Ends.trap)

theorem State.memWf.execOxw {a : BitVec 6} {n : BitVec 2} (h : s.memWf) : OutWf (execOxw a n s) :=
  h.run (h.op (fun _ _ k1 => k1.setMe) trivial)

theorem State.memWf.execTime {d : BitVec 6} (h : s.memWf) : OutWf (execTime d s) := h.run (h.op (fun _ _ k1 => k1) trivial)

theorem State.memWf.execSilt {a b : BitVec 6} (h : s.memWf) : OutWf (execSilt a b s) :=
  h.run (h.op (fun _ _ k1 => k1.record) trivial)

theorem State.memWf.startTask {n : Nat} {q0 entry : Word} {g2 g3 : GReg} (h : s.memWf) : (s.startTask n q0 entry g2 g3).memWf :=
  h.rebindIdle.setCore.keepBinds.dropILines

theorem Ends.startChecks {a : BitVec 4} {q : Word} : Ends Stop.memWf (fun _ => True) (startChecks s a q) :=
  .bind Ends.check fun _ _ => Ends.check

theorem Ends.eretChecks : Ends Stop.memWf (fun _ => True) (eretChecks s) := .ite Ends.check Ends.check

theorem State.memWf.execEret {a : BitVec 4} (h : s.memWf) : OutWf (execEret a s) :=
  h.run (.bind Ends.check fun _ _ => .bind (h.operands trivial) fun _ _ => .ite (.bind Ends.eretChecks fun _ _ => h.endEntry) <|
    .bind Ends.startChecks fun _ _ => .bind Ends.eretChecks fun _ _ => h.startTask.endEntry)

theorem State.memWf.execSleep {a : BitVec 6} (h : s.memWf) : OutWf (execSleep a s) := by
  refine h.run (.bind Ends.nativeOnly fun _ _ => .bind (h.operands trivial) fun _ _ => .ite h.commit.retire ?_)
  split
  exacts [h.commit.retire, .ite h.commit.retire h, State.memWf.ite h.setMe h.setMe.laterOnce]

theorem State.memWf.execSleepDeadline {node : BitVec 12} {berth : BitVec 2} (h : s.memWf) :
    OutWf (execSleepDeadline node berth s) := by
  unfold Machine.execSleepDeadline
  split
  exacts [State.memWf.ite h.wakeSleep <| State.memWf.ite h h.laterOnce, h]

theorem State.memWf.execRqpush {d : BitVec 6} {a : BitVec 4} (h : s.memWf) : OutWf (execRqpush d a s) :=
  h.run (.bind Ends.check fun _ _ => h.op (fun _ _ k2 => .ite k2 <| .ite k2 k2.rebindIdle.setSched) trivial)

theorem State.memWf.execRqpop {d : BitVec 4} (h : s.memWf) : OutWf (execRqpop d s) := by
  unfold Machine.execRqpop
  dsimp only
  refine h.run (.bind Ends.check fun _ _ => h.op (fun _ _ k2 => ?_) trivial)
  split
  exacts [k2.setHere, k2]

theorem State.memWf.execRqpeek {d : BitVec 6} (h : s.memWf) : OutWf (execRqpeek d s) :=
  h.run (.bind Ends.check fun _ _ => h.op (fun _ _ k2 => k2) trivial)

theorem State.memWf.dropCode {ctx n : Nat} (h : s.memWf) : (s.dropCode ctx n).memWf := .ite h.dropILines.setCore h.dropILines

theorem State.memWf.execIfence {sc : BitVec 3} (h : s.memWf) : OutWf (execIfence sc s) := by
  refine h.run ?_
  split
  exacts [h, h.retire, .ite h <| .ite h.dropCode.retire h.dropCode.setMe.later]

theorem State.memWf.execIfenceComplete {node : BitVec 12} {berth : BitVec 2} (h : s.memWf) :
    OutWf (execIfenceComplete node berth s) := by
  unfold Machine.execIfenceComplete
  dsimp only
  split
  exacts [(h.foldl fun _ _ k1 => k1.dropCode).answer, h]

theorem State.memWf.execTlbi {a b : BitVec 6} {f : BitVec 2} (h : s.memWf) : OutWf (execTlbi a b f s) :=
  h.run (.bind Ends.check fun _ _ => h.op (fun _ _ k2 => .bind Ends.check fun _ _ => .ite k2 k2.sendTlbi.record) trivial)

theorem State.memWf.grantLease {n i g rem : Nat} (h : s.memWf) : (s.grantLease n i g rem).memWf := h.setBerthAt.laterOnce

theorem State.memWf.execLease {d a : BitVec 6} (h : s.memWf) : OutWf (execLease d a s) :=
  h.run (.bind Ends.nativeOnly fun _ _ => h.op (fun _ _ k2 => .ite k2 <| .ite k2.setMe <| .ite k2 <|
    .ite k2 k2.grantLease.record) trivial)

theorem State.memWf.execLeaseExpire {node : BitVec 12} {berth : BitVec 2} (h : s.memWf) : OutWf (execLeaseExpire node berth s) :=
  State.memWf.ite h.setBerthAt.laterOnce h.setBerthAt

theorem State.memWf.storeArea {a : Need} {ws : List (Nat × Word)} (h : s.memWf) :
    Ends Stop.memWf State.memWf (storeArea s a ws) := by
  unfold Machine.storeArea
  dsimp only
  refine .bind Ends.preChecks fun _ _ => .bind h.locate fun _ k2 => ?_
  split
  exacts [.bind k2.storeCheck fun _ k3 => k3.storePieces, k2.remoteStore, Ends.deviceTrap]

theorem State.memWf.areaChecks {a : Need} {offs : List Nat} (h : s.memWf) :
    Ends Stop.memWf (fun _ => True) (areaChecks s a offs) := by
  unfold Machine.areaChecks
  dsimp only
  refine .bind Ends.preChecks fun _ _ => .bind h.locate fun _ k2 => ?_
  split
  · exact .bind k2.storeCheck fun _ _ => trivial
  · exact .bind k2.windowCheck fun _ _ => trivial
  · exact Ends.deviceTrap

theorem State.memWf.loadArea {a : Need} {offs : List Nat} (h : s.memWf) :
    Ends Stop.memWf (fun r => r.1.memWf) (loadArea s a offs) := by
  unfold Machine.loadArea
  dsimp only
  refine .bind Ends.preChecks fun _ _ => .bind h.locate fun _ k2 => ?_
  split
  · exact .bind k2.loadCheck fun _ k3 => k3.loadPieces
  · exact .bind k2.remoteLoad fun _ k3 => k3
  · exact Ends.deviceTrap

theorem State.memWf.keepThread {n ctx rank : Nat} {ea launch : Option Nat} {task : Nat} {g : Option Gang} (h : s.memWf) :
    (s.keepThread n ctx rank ea launch task g).memWf :=
  h

theorem State.memWf.freeSaved {ea sel : Nat} (h : s.memWf) : (s.freeSaved ea sel).memWf := h.keepThread.setHere.record

theorem State.memWf.execGsave {a b : BitVec 6} (h : s.memWf) : OutWf (execGsave a b s) :=
  h.run (.bind Ends.check fun _ _ => h.op (fun _ _ k2 => .bind Ends.check fun _ _ => .ite (.bind k2.areaChecks fun _ _ => k2) <|
    .bind k2.storeArea fun _ k4 => State.memWf.ite k4.freeSaved k4) trivial)

theorem State.memWf.takeThread {s : State} {ea : Nat} (h : s.memWf) : (s.takeThread ea).memWf := by
  unfold State.takeThread
  dsimp only
  refine State.memWf.setHere (State.memWf.rebindIdle ?_)
  split
  · exact .ite (State.memWf.later h) h
  · exact h

theorem State.memWf.armThread (h : s.memWf) : s.armThread.memWf :=
  .ite (State.memWf.ite h h.laterOnce).laterOnce <| .ite h h.laterOnce

theorem State.memWf.execGrst {a b : BitVec 6} (h : s.memWf) : OutWf (execGrst a b s) :=
  h.run (.bind Ends.check fun _ _ => h.op (fun _ _ k2 => .bind Ends.check fun _ _ => .bind k2.loadArea fun _ k4 =>
    .bind Ends.check fun _ _ => .bind Ends.check fun _ _ => .ite k2 <|
    .ite (State.memWf.ite k4 k4.takeThread).setHere.armThread (State.memWf.ite k4 k4.takeThread).setHere) trivial)

end Sys2Proof.Machine
end

section
/-! Proofs. MemoryForm.Network: what the network and the events at the homes keep. -/

namespace Sys2Proof.Machine

variable {s : State}

theorem State.memWf.arrival {e : Event} {src dst : BitVec 12} {vn : Nat} {f : State → Packet → State} (h : s.memWf)
    (k : ∀ (a : State) (a_1 : Packet), a.memWf → (f a a_1).memWf) :
    OutWf (arrival s e src dst vn f) := by
  unfold Machine.arrival
  split
  exacts [h, State.memWf.ite (State.memWf.ite h (k _ _ h)) h.again]

theorem State.memWf.execGangbArrive {src dst : BitVec 12} (h : s.memWf) : OutWf (execGangbArrive src dst s) := by
  refine h.arrival fun _ _ k1 => ?_
  split
  exacts [k1.setCore, k1]

theorem State.memWf.ack {p : Packet} (h : s.memWf) : (s.ack p).memWf := .ite h.send h

theorem State.memWf.countIn {n : Nat} {p : Packet} (h : s.memWf) : (s.countIn n p).memWf := by
  unfold State.countIn
  split
  exacts [.ite h h.setCore, h]

theorem State.memWf.waitAtNi {n : Nat} {p : Packet} (h : s.memWf) : (s.waitAtNi n p).memWf := h.setCore.packetTriggers.autoWake

theorem State.memWf.placePacket {n : Nat} {p : Packet} (h : s.memWf) : (s.placePacket n p).memWf := by
  unfold State.placePacket
  split
  exacts [h.countIn.settle, h.countIn.settle, h.countIn.settle, h.countIn.settle, h.countIn]

theorem State.memWf.takeMessage {p0 : Packet} (h : s.memWf) : (s.takeMessage p0).memWf := .ite h.ack.placePacket h.ack.waitAtNi

theorem State.memWf.execNmsgArrive {src dst : BitVec 12} (h : s.memWf) : OutWf (execNmsgArrive src dst s) :=
  h.arrival fun _ _ k1 => k1.takeMessage

theorem State.memWf.execUmsgArrive {src dst : BitVec 12} (h : s.memWf) : OutWf (execUmsgArrive src dst s) :=
  h.arrival fun _ _ k1 => k1.takeMessage

theorem State.memWf.execGportArrive {src dst : BitVec 12} (h : s.memWf) : OutWf (execGportArrive src dst s) :=
  h.arrival fun _ _ k1 => k1.takeMessage

theorem State.memWf.execVportArrive {src dst : BitVec 12} (h : s.memWf) : OutWf (execVportArrive src dst s) :=
  h.arrival fun _ _ k1 => k1.takeMessage

theorem State.memWf.popOut {n p : Nat} {lost : Bool} (h : s.memWf) : (s.popOut n p lost).memWf := h.setCore

theorem State.memWf.linkTake {n : Nat} {p : Packet} (h : s.memWf) : (s.linkTake n p).memWf := by
  unfold State.linkTake
  dsimp only
  refine .ite h.countIn ?_
  split
  exacts [h.countIn.setCore, h.countIn]

theorem State.memWf.sendOut {s : State} {n p : Nat} (h : s.memWf) : (s.sendOut n p).memWf := by
  unfold State.sendOut
  split
  · exact h
  · refine .ite (.ite h.countSent.popOut.setCore h.countSent.popOut.linkTake) ?_
    split
    · next e => exact State.memWf.popOut (h.niTake.of_eq e)
    · next e => exact State.memWf.popOut (h.niTake.of_eq e)
    · next e => exact (State.memWf.popOut (h.niTake.of_eq e)).countRefused
    · next e => exact State.memWf.later (h.niTake.of_eq e)

theorem State.memWf.serve {n : Nat} {q : RwReq} (h : s.memWf) : (s.serve n q).1.memWf := by
  unfold State.serve
  dsimp only
  split
  · split <;> exact h
  · split
    · exact h
    · split <;> exact h
  · split
    · exact h
    · split
      · exact h
      · split
        exacts [h.storeWord.storeWord, h.storeWord]

theorem State.memWf.respond {p : Packet} {berth : Nat} {r : RwRsp} (h : s.memWf) : (s.respond p berth r).memWf := h.send

theorem State.memWf.takeRequest {p : Packet} (h : s.memWf) : (s.takeRequest p).memWf := by
  unfold State.takeRequest
  split
  exacts [.ite h.waitAtNi <| .ite h.serve.respond h.respond.raiseAbsent, h]

theorem State.memWf.execRwreqArrive {src dst : BitVec 12} (h : s.memWf) : OutWf (execRwreqArrive src dst s) :=
  h.arrival fun _ _ k1 => k1.takeRequest

theorem State.memWf.takeResponse {p : Packet} (h : s.memWf) : (s.takeResponse p).memWf := by
  unfold State.takeResponse
  split
  exacts [.ite h.setCore <| .ite h.setCore.setBerthAt.later h.setCore.setBerthAt, h.setCore]

theorem State.memWf.execRwrspArrive {src dst : BitVec 12} (h : s.memWf) : OutWf (execRwrspArrive src dst s) :=
  h.arrival fun _ _ k1 => k1.takeResponse

theorem State.memWf.execRwreqRetry {node : BitVec 12} {berth : BitVec 2} (h : s.memWf) : OutWf (execRwreqRetry node berth s) :=
  State.memWf.ite h.setBerthAt h

theorem State.memWf.execDackArrive {node : BitVec 12} {epoch : BitVec 1} (h : s.memWf) : OutWf (execDackArrive node epoch s) := by
  unfold Machine.execDackArrive
  dsimp only
  split
  exacts [(State.memWf.setCore h), State.memWf.ite h.later h]

theorem State.memWf.execMrspArrive {node : BitVec 12} {berth : BitVec 2} (h : s.memWf) : OutWf (execMrspArrive node berth s) := by
  unfold Machine.execMrspArrive
  dsimp only
  split
  exacts [State.memWf.ite (State.memWf.ite (State.memWf.answer h) h) h.later, h]

theorem State.memWf.moveLease {native n : Nat} (h : s.memWf) : (s.moveLease native n).memWf :=
  .ite h <| .ite h.setBerthAt <| .ite h <| .ite h.setBerthAt h.setBerthAt

theorem State.memWf.arrived {n i : Nat} {t : Thread} (h : s.memWf) : (s.arrived n i t).memWf := h.moveLease.record.later

theorem State.memWf.putRecord {n ctx rank : Nat} {ws : List (Nat × Word)} (h : s.memWf) : (s.putRecord n ctx rank ws).memWf :=
  h.foldl fun _ _ k1 => k1.writeHome

theorem State.memWf.recordState {n ctx rank st : Nat} (h : s.memWf) : (s.recordState n ctx rank st).memWf := h.writeHome

theorem State.memWf.park {n ctx : Nat} {t : Thread} (h : s.memWf) : (s.park n ctx t).memWf :=
  h.putRecord.recordState.keepThread.setCore.raiseAbsent

theorem State.memWf.arriveHome {n ctx : Nat} {t : Thread} (h : s.memWf) : (s.arriveHome n ctx t).memWf :=
  .ite h.park h.setCore.arrived

theorem State.memWf.bounce {p : Packet} {t : Thread} (h : s.memWf) : (s.bounce p t).memWf := h.send

theorem State.memWf.placeGuest {n i : Nat} {t : Thread} (h : s.memWf) : (s.placeGuest n i t).memWf := h.setCore.arrived

theorem State.memWf.evictEarlier {s u : State} {n : Nat} (h : s.memWf) (k : s.evictEarlier n = some u) : u.memWf := by
  obtain ⟨-, e⟩ := Option.ite_none_left_eq_some.mp k
  cases e
  exact h.sendHome

theorem State.memWf.migIn {s u : State} {p : Packet} {t : Thread} (h : s.memWf) (k : s.migIn p t = some u) : u.memWf := by
  unfold State.migIn at k
  dsimp only at k
  split at k
  · cases k; exact h.arriveHome
  · split at k
    · cases k; exact h.bounce
    · split at k
      · cases k; exact h.bounce.raiseAbsent
      · split at k
        · cases k; exact h.arriveHome
        · split at k
          · cases k; exact h.placeGuest
          · obtain ⟨t1, e, rfl⟩ := Option.map_eq_some_iff.mp k
            exact (h.evictEarlier e).placeGuest

theorem State.memWf.takeMig {s : State} {e : Event} {p : Packet} (h : s.memWf) : (s.takeMig e p).memWf := by
  unfold State.takeMig
  split
  · refine .ite ?_ h.ack.waitAtNi
    split
    · next e1 => exact (h.migIn e1).ack
    · exact (State.memWf.later h)
  · exact h

theorem State.memWf.execMigArrive {src dst : BitVec 12} (h : s.memWf) : OutWf (execMigArrive src dst s) :=
  h.arrival fun _ _ k1 => k1.takeMig

theorem State.memWf.takeEvict {p : Packet} (h : s.memWf) : (s.takeEvict p).memWf := by
  unfold State.takeEvict
  split
  exacts [.ite h.arriveHome h.waitAtNi, h]

theorem State.memWf.execEvictArrive {src dst : BitVec 12} (h : s.memWf) : OutWf (execEvictArrive src dst s) :=
  h.arrival fun _ _ k1 => k1.takeEvict

theorem State.memWf.execMigDepart {node : BitVec 12} {berth : BitVec 2} {rank : BitVec 10} (h : s.memWf) :
    OutWf (execMigDepart node berth rank s) := by
  unfold Machine.execMigDepart
  dsimp only
  split
  exacts [State.memWf.ite h.findRank.sendAway h, h]

theorem State.memWf.execMigResume {node : BitVec 12} {berth : BitVec 2} (h : s.memWf) : OutWf (execMigResume node berth s) := by
  unfold Machine.execMigResume
  dsimp only
  split
  · refine State.memWf.ite h.later ?_
    split
    · exact State.memWf.ite h.setCore.setBerthAt.enterUser h.setCore.setBerthAt
    · exact State.memWf.ite h.setCore.setBerthAt.later h.setCore.setBerthAt
  · exact h

theorem State.memWf.execMigRetry {node : BitVec 12} (h : s.memWf) : OutWf (execMigRetry node s) := State.memWf.ite h.setBerthAt h

theorem State.memWf.deliver {s : State} {p : Packet} (h : s.memWf) : (s.deliver p).memWf := by
  unfold State.deliver
  dsimp only
  split
  · exact h.takeRequest
  · exact h.takeResponse
  · exact .ite h.setCore (.getD (fun _ k => h.migIn k) h.setCore)
  · exact h.takeEvict
  · exact h.placePacket

theorem State.memWf.deliverAll {n : Nat} (h : s.memWf) : (s.deliverAll n).memWf := (h.setCore.foldl fun _ _ k1 => k1.deliver)

theorem State.memWf.endResvs {n : Nat} {q : TlbiReq} (h : s.memWf) : (s.endResvs n q).memWf := by
  refine State.memWf.foldl (State.memWf.foldl ?_ fun _ _ k1 => k1.answer) fun _ _ k1 => k1.grantNext
  exact h

theorem State.memWf.refuseHeld {n : Nat} {p : Packet} (h : s.memWf) : (s.refuseHeld n p).memWf := by
  unfold State.refuseHeld
  split
  exacts [h.countIn.setBerthAt, h.countIn.setCore, h.countIn]

theorem State.memWf.unhold {n : Nat} {p : Packet} (h : s.memWf) : (s.unhold n p).memWf := by
  unfold State.unhold
  split
  exacts [.ite h.setBerthAt h, h]

theorem State.memWf.reread {n : Nat} {q : TlbiReq} (h : s.memWf) : (s.reread n q).memWf := by
  unfold State.reread
  dsimp only
  refine h.setCore.foldl fun _ _ k1 => ?_
  split
  exacts [k1.lookRank.unhold.depart, k1.lookRank.setCore, k1.lookRank.refuseHeld]

theorem State.memWf.dropEntries {n : Nat} {q : TlbiReq} (h : s.memWf) : (s.dropEntries n q).memWf := h

theorem State.memWf.dropFor {n : Nat} {q : TlbiReq} (h : s.memWf) : (s.dropFor n q).memWf := h.dropEntries.setCore.endResvs.reread

theorem State.memWf.waitAgain {w : Waiter} (h : s.memWf) : (s.waitAgain w).memWf := h.dropWaits.setBerthAt

theorem State.memWf.dropStale {n : Nat} (h : s.memWf) : (s.dropStale n).memWf := h.foldl fun _ _ k1 => k1.waitAgain

theorem State.memWf.ackTlbi {n id : Nat} (h : s.memWf) : (s.ackTlbi n id).memWf := .ite (State.memWf.laterOnce h) h

theorem State.memWf.execTlbiArrive {id : BitVec 16} {node : BitVec 12} (h : s.memWf) : OutWf (execTlbiArrive id node s) := by
  unfold Machine.execTlbiArrive
  split
  · exact h
  · refine State.memWf.ite h.again <| State.memWf.ite h.dropEntries.endResvs.reread.dropStale.ackTlbi ?_
    split
    exacts [h.dropFor.again, State.memWf.ite h.dropStale.ackTlbi h.again]

theorem State.memWf.homeAnswer {n i : Nat} {r : RwRsp} (h : s.memWf) : (s.homeAnswer n i r).memWf := by
  unfold State.homeAnswer
  dsimp only
  split
  exacts [h.setBerthAt.inject, h]

theorem State.memWf.homeAbsent {m n i ctx rank : Nat} (h : s.memWf) : (s.homeAbsent m n i ctx rank).memWf :=
  .ite h.raiseAbsent.setBerthAt.later h.raiseAbsent

theorem State.memWf.homeResult {s : State} {n i : Nat} {r : HomeM (State × Option (Word × Word))} (h : s.memWf)
    (k : Ends (fun _ => True) (fun r => r.1.memWf) r) : (s.homeResult n i r).memWf := by
  unfold State.homeResult
  split
  · exact State.memWf.homeAnswer k
  · exact k
  · exact h.homeAnswer

theorem State.memWf.atHomeOf {e : Event} {n i ctx rank : Nat} {l : Loc} {f : State → State} (h : s.memWf)
    (k : ∀ (a : State), a.memWf → (f a).memWf) :
    OutWf (atHomeOf s e n i ctx rank l f) :=
  State.memWf.ite (State.memWf.ite h.again <| State.memWf.ite h.autoWake.again <| State.memWf.ite (k _ h) h.homeAbsent) (k _ h)

theorem State.memWf.homeStep {e : Event} {node : BitVec 12} {berth : BitVec 2} {ctx kslot : BitVec 12} {addr : BitVec 64}
    {f : State → Loc → HomeM (State × Option (Word × Word))} (h : s.memWf) (k : ∀ (a : State) (a_1 : Loc), a.memWf → Ends (fun _ =>
    True) (fun r => r.1.memWf) (f a a_1)) :
    OutWf (homeStep s e node berth ctx kslot addr f) :=
  h.atHomeOf fun _ k1 => k1.homeResult (k _ _ k1)

theorem State.memWf.execHomeAmo {node : BitVec 12} {berth : BitVec 2} {ctx kslot : BitVec 12} {addr : BitVec 64} {op : BitVec 4}
    {w : BitVec 1} {v e : BitVec 64} (h : s.memWf) :
    OutWf (execHomeAmo node berth ctx kslot addr op w v e s) :=
  h.homeStep fun _ _ k1 => .bind k1.amo fun _ k2 => k2

theorem State.memWf.execHomeRed {node : BitVec 12} {berth : BitVec 2} {ctx kslot : BitVec 12} {addr : BitVec 64} {op : BitVec 4}
    {w : BitVec 1} {v : BitVec 64} (h : s.memWf) :
    OutWf (execHomeRed node berth ctx kslot addr op w v s) :=
  h.homeStep fun _ _ k1 => .bind k1.red fun _ k2 => k2

theorem State.memWf.execHomeLrw {node : BitVec 12} {berth : BitVec 2} {ctx kslot : BitVec 12} {addr va : BitVec 64} (h : s.memWf) :
    OutWf (execHomeLrw node berth ctx kslot addr va s) := by
  unfold Machine.execHomeLrw
  dsimp only
  refine h.homeStep fun _ _ k1 => .bind k1.lrw fun _ k2 => ?_
  split
  exacts [k2, k2.setBerthAt]

theorem State.memWf.execHomeSch {node : BitVec 12} {berth : BitVec 2} {ctx kslot : BitVec 12} {addr : BitVec 64} {st : BitVec 1}
    {v : BitVec 64} (h : s.memWf) :
    OutWf (execHomeSch node berth ctx kslot addr st v s) := by
  unfold Machine.execHomeSch
  exact h.homeStep fun _ _ k1 => .bind k1.sch fun _ k2 => k2

theorem State.memWf.execHomeBarrier {node : BitVec 12} {berth : BitVec 2} {ctx kslot : BitVec 12} {addr : BitVec 64}
    {op : BitVec 3} {v : BitVec 64} (h : s.memWf) :
    OutWf (execHomeBarrier node berth ctx kslot addr op v s) := by
  unfold Machine.execHomeBarrier
  dsimp only
  refine h.homeStep fun _ _ k1 => .bind k1.barrier fun _ k2 => ?_
  split
  exacts [k2, k2.setBerthAt]

theorem State.memWf.execHomeWaitRegister {node : BitVec 12} {berth : BitVec 2} {ctx kslot : BitVec 12} {addr : BitVec 64}
    {ne : BitVec 1} {v : BitVec 32} (h : s.memWf) :
    OutWf (execHomeWaitRegister node berth ctx kslot addr ne v s) := by
  unfold Machine.execHomeWaitRegister
  exact h.homeStep fun _ _ k1 => .ite trivial <| .ite k1.readHome k1.readHome.registerWait

theorem State.memWf.execHomeLoga {node : BitVec 12} {berth : BitVec 2} {ctx : BitVec 12} {kern : BitVec 1} {region : BitVec 64}
    {segrec : BitVec 32} {addr va : BitVec 64} {op : BitVec 2} {v : BitVec 32} {rank : BitVec 10} {seq : BitVec 16} (h : s.memWf) :
    OutWf (execHomeLoga node berth ctx kern region segrec addr va op v rank seq s) := by
  unfold Machine.execHomeLoga
  dsimp only
  refine h.atHomeOf fun _ k1 => ?_
  split
  · exact k1.homeAnswer
  · next e =>
      split
      · next e1 => exact ((k1.logaTarget.ok e).appendLog.ok e1).homeAnswer
      · exact k1.homeAnswer
      · exact k1.repeatLater.again

theorem State.memWf.execOwnershipRevoke {node : BitVec 12} {addr : BitVec 64} {fwd : BitVec 1} (h : s.memWf) :
    OutWf (execOwnershipRevoke node addr fwd s) :=
  State.memWf.ite (State.memWf.ite h.forward h.revoke) h

theorem State.memWf.execHomeWriteback {node : BitVec 12} {addr : BitVec 64} (h : s.memWf) : OutWf (execHomeWriteback node addr s) :=
  State.memWf.ite h h.evictLine

theorem State.memWf.execTlbWalk {node : BitVec 12} {va : BitVec 64} (h : s.memWf) : OutWf (execTlbWalk node va s) := by
  unfold Machine.execTlbWalk
  dsimp only
  split
  · next e => exact h.translate.ok e
  · exact h

theorem State.memWf.poisonHome {l : Loc} (h : s.memWf) : (s.poisonHome l).memWf := h.putHome.poisonWaits

theorem State.memWf.memoryError {n place : Nat} {l : Loc} {unc : Bool} (h : s.memWf) : (s.memoryError n place l unc).memWf := by
  refine .ite h.dropILines <| .ite h ?_
  split
  · exact .ite h.setCore h
  · exact h.setCore.poisonWaits
  · exact h.foldl fun _ _ k1 => k1.poisonHome
  · exact h.foldl fun _ _ k1 => k1.poisonHome
  · exact h.poisonHome
  · exact h.poisonHome
  · exact h

theorem State.memWf.kslotOver (h : s.memWf) : OutWf (kslotOver s) := h.later

theorem State.memWf.kslotStep {slot : BitVec 12} {t : State} (h : s.memWf) (k : t.memWf) : OutWf (kslotStep slot s t) :=
  .ite h k.kslotOver

theorem State.memWf.loadKey {n : Nat} (h : s.memWf) : (s.loadKey n).memWf := h

theorem State.memWf.dropLines {p : Nat → Nat → Bool} (h : s.memWf) : (s.dropLines p).memWf := h

theorem State.memWf.execKslotTagclr {s : State} (h : s.memWf) : OutWf (execKslotTagclr s) := by
  have back {l : List Nat} : (l.foldl State.l2WriteBack s).memWf := h.foldl fun _ _ k => k.l2WriteBack
  have ended {l m : List Nat} : (m.foldl State.endGranule (l.foldl State.l2WriteBack s)).memWf :=
    back.foldl fun _ _ k => k.endGranule
  exact State.memWf.kslotOver ⟨ended.left, wf_filter _ ended.right⟩

theorem State.memWf.purge {ctx : Nat} (h : s.memWf) : (s.purge ctx).memWf :=
  ((State.memWf.ite h ((h.foldl fun _ _ k1 => k1.writeBack).foldl fun _ _ k1 =>
    k1.l2WriteBack)).drawn.dropLines.foldl fun _ _ k1 => k1.dropILines)

theorem State.memWf.columnDone {c : Nat} {on : Bool} (h : s.memWf) : (s.columnDone c on).memWf :=
  .ite (State.memWf.nextColumn (.ite h h.l2Flush)) h

theorem State.memWf.execTimerExpire {node : BitVec 12} {berth : BitVec 2} (h : s.memWf) : OutWf (execTimerExpire node berth s) :=
  State.memWf.ite h <| State.memWf.ite (State.memWf.ite h h.wakeSleep) h.laterOnce

theorem State.memWf.execMachineEntry {node : BitVec 12} {reason : BitVec 2} (h : s.memWf) :
    OutWf (execMachineEntry node reason s) :=
  State.memWf.ite (State.memWf.ite h h.setCore.startFreeze).again h.enterMachine

theorem State.memWf.execLaunchEnd {isl : BitVec 1} {slot : BitVec 10} (h : s.memWf) : OutWf (execLaunchEnd isl slot s) := by
  unfold Machine.execLaunchEnd
  split
  · split
    exacts [h.repeatLater.later, h.endLaunch]
  · exact h

end Sys2Proof.Machine
end

section
/-! Proofs. MemoryForm.Devices: what power, moves between cards, the recorder and the host keep. -/

namespace Sys2Proof.Machine

variable {s : State}

theorem State.memWf.coreStart {n : Nat} (h : s.memWf) : (s.coreStart n).memWf := .ite h.setCore h

theorem State.memWf.execCoreStart {node : BitVec 12} (h : s.memWf) : OutWf (execCoreStart node s) :=
  State.memWf.ite h.coreStart.deliverAll h

theorem State.memWf.wakeCore {n : Nat} {src : Word} (h : s.memWf) : (s.wakeCore n src).memWf := h.setCore.wakeSleep

theorem State.memWf.dropCaches {n : Nat} (h : s.memWf) : (s.dropCaches n).memWf :=
  ((h.foldl fun _ _ k1 => k1.endPin).foldl fun _ _ k1 => k1.writeBack).setCore

theorem State.memWf.execRillCoreRet {node : BitVec 12} (h : s.memWf) : OutWf (execRillCoreRet node s) :=
  State.memWf.ite h.dropCaches.setCore h

theorem State.memWf.execRillCoreWake {node : BitVec 12} (h : s.memWf) : OutWf (execRillCoreWake node s) :=
  State.memWf.ite (State.memWf.setCore h) h

theorem State.memWf.pauseBerth {n i : Nat} (h : s.memWf) : (s.pauseBerth n i).memWf := .ite h h.stopBerth.setBerthAt

theorem State.memWf.quiesceCore {n : Nat} (h : s.memWf) : (s.quiesceCore n).memWf :=
  .ite h (h.setCore.evictGuests.recallAway.foldl fun _ _ k1 => k1.pauseBerth)

theorem State.memWf.execGroupQuiesce {g : BitVec 5} (h : s.memWf) : OutWf (execGroupQuiesce g s) :=
  State.memWf.ite h <| State.memWf.ite (State.memWf.ite (h.foldl fun _ _ k1 =>
    k1.quiesceCore).setGroup.later (h.foldl fun _ _ k1 => k1.quiesceCore).setGroup) (h.foldl fun _ _ k1 => k1.quiesceCore).later

theorem State.memWf.execGroupDrain {g : BitVec 5} (h : s.memWf) : OutWf (execGroupDrain g s) :=
  State.memWf.ite h <| State.memWf.ite (h.foldl fun _ _ k1 => k1.dropCaches).setGroup h.later

theorem State.memWf.execGretSaveRestore {g : BitVec 5} (h : s.memWf) : OutWf (execGretSaveRestore g s) :=
  h.foldl fun _ _ k1 => .ite k1.setCore k1

theorem State.memWf.execGretSaveDone (h : s.memWf) : OutWf (execGretSaveDone s) := State.memWf.ite h.later h

theorem State.memWf.openBridge {n : Nat} (h : s.memWf) : (s.openBridge n).memWf :=
  (h.setCore.foldl fun _ _ k1 => .ite k1.linkTake k1.inject).foldl fun _ _ k1 => .ite k1.answer k1

theorem State.memWf.loadTime (h : s.memWf) : s.loadTime.memWf := h.foldl fun _ _ k1 => k1

theorem State.memWf.bringUp (h : s.memWf) : s.bringUp.memWf := by
  refine .ite h (State.memWf.foldl ?_ fun _ _ k1 => k1.openBridge)
  exact (State.memWf.ite h.loadTime h).frame rfl rfl

theorem State.memWf.execTorrentLeaveOn (h : s.memWf) : OutWf (execTorrentLeaveOn s) :=
  State.memWf.ite h <| State.memWf.ite h.frame <| State.memWf.ite h.later <|
    State.memWf.ite (State.memWf.ite h.l2Flush.frame h.l2Flush.frame.frame).laterOnce <|
    State.memWf.ite h.l2Flush.frame h.l2Flush.frame.frame

theorem State.memWf.execDramSelfRefreshEnter (h : s.memWf) : OutWf (execDramSelfRefreshEnter s) :=
  State.memWf.ite (State.memWf.laterOnce h) h

theorem State.memWf.execDramSelfRefreshExit (h : s.memWf) : OutWf (execDramSelfRefreshExit s) :=
  State.memWf.ite (State.memWf.laterOnce h) h

theorem State.memWf.raiseCore {g : Nat} {src : Word} {n : Nat} (h : s.memWf) : (s.raiseCore g src n).memWf :=
  .ite (.ite h.coreStart h.setCore) h.wakeCore

theorem State.memWf.raiseGroup {g : Nat} {src : Word} (h : s.memWf) : (s.raiseGroup g src).memWf :=
  (h.foldl fun _ _ k1 => k1.raiseCore).setGroup.groupState.foldl fun _ _ k1 => k1.deliverAll

theorem State.memWf.execGroupResume {g : BitVec 5} (h : s.memWf) : OutWf (execGroupResume g s) :=
  State.memWf.ite h <| State.memWf.ite (State.memWf.later (State.memWf.laterOnce h)) h.raiseGroup

theorem State.memWf.execGroupWake {g : BitVec 5} (h : s.memWf) : OutWf (execGroupWake g s) :=
  State.memWf.ite h <| State.memWf.ite (State.memWf.later (State.memWf.laterOnce h)) <| State.memWf.ite h.later h.raiseGroup

theorem State.memWf.execRailOk {g : BitVec 5} (h : s.memWf) : OutWf (execRailOk g s) :=
  State.memWf.ite h <| State.memWf.ite (State.memWf.later (State.memWf.laterOnce h)) (State.memWf.ite h h.groupState).setGroup

theorem State.memWf.execCascadeFire {n : BitVec 4} (h : s.memWf) : OutWf (execCascadeFire n s) := by
  unfold Machine.execCascadeFire
  dsimp only
  split
  exacts [State.memWf.ite (State.memWf.wakeGroups h) h, h]

theorem State.memWf.putImage {n ctx rank off : Nat} {v : Word} {t : Nat} (h : s.memWf) : (s.putImage n ctx rank off v t).memWf :=
  h.writeHome

theorem State.memWf.saveLm {n ctx rank : Nat} (h : s.memWf) : (s.saveLm n ctx rank).memWf := h.foldl fun _ _ k1 => k1.putImage

theorem State.memWf.saveAccs {n ctx rank : Nat} (h : s.memWf) : (s.saveAccs n ctx rank).memWf := by
  unfold State.saveAccs
  split
  exacts [h.putRecord, h]

theorem State.memWf.saveRegs {n ctx rank : Nat} {lease : Word} (h : s.memWf) : (s.saveRegs n ctx rank lease).memWf :=
  .ite h.putRecord.keepThread h.putRecord

theorem State.memWf.saveG {n ctx rank off : Nat} {v sh : Word} {cap : Bool} (h : s.memWf) :
    (s.saveG n ctx rank off v sh cap).memWf :=
  h.putImage.putImage

theorem State.memWf.savePorts {n ctx rank : Nat} (h : s.memWf) : (s.savePorts n ctx rank).memWf :=
  ((h.foldl fun _ _ k1 => k1.foldl fun _ _ k2 => k2.saveG).foldl fun _ _ k1 => k1.foldl fun _ _ k2 => k2.putRecord).putRecord

theorem State.memWf.savePending {n ctx rank : Nat} (h : s.memWf) : (s.savePending n ctx rank).memWf :=
  ((h.foldl fun _ _ k1 => k1.putRecord).foldl fun _ _ k1 => k1.msgbufPut).putRecord

theorem State.memWf.saveReady {n ctx rank : Nat} (h : s.memWf) : (s.saveReady n ctx rank).memWf := by
  refine h.foldl fun _ _ k1 => ?_
  split
  exacts [k1.putRecord.saveG.saveG, k1.putRecord]

theorem State.memWf.saveRank {n : Nat} {lease : Word} (h : s.memWf) : (s.saveRank n lease).memWf :=
  h.saveLm.saveAccs.saveRegs.savePorts.saveReady.savePending.putRecord

theorem State.memWf.saveImage {n : Nat} (h : s.memWf) : (s.saveImage n).memWf := .ite h h.saveRank

theorem State.memWf.execGretSaveImage {g : BitVec 5} (h : s.memWf) : OutWf (execGretSaveImage g s) :=
  (h.foldl fun _ _ k1 => k1.saveImage).setGroup

theorem State.memWf.setPortage {p : Portage} (h : s.memWf) : (s.setPortage p).memWf := h

theorem State.memWf.endMove {err : Nat} (h : s.memWf) : (s.endMove err).memWf := by
  unfold State.endMove
  dsimp only
  refine ?_.setPortage
  split
  exacts [h.agentStore.agentStore.agentStore.agentStore, h.agentStore.agentStore.agentStore]

theorem State.memWf.moveTlbi (h : s.memWf) : s.moveTlbi.memWf := h.sendTlbi.setPortage

theorem State.memWf.freeBoundaries (h : s.memWf) : s.freeBoundaries.memWf := h.foldl fun _ _ k1 => .ite k1.setBerthAt k1

theorem State.memWf.execPortageAbort (h : s.memWf) : OutWf (execPortageAbort s) := State.memWf.ite h.freeBoundaries.endMove h

theorem State.memWf.execPortageTransit (h : s.memWf) : OutWf (execPortageTransit s) :=
  State.memWf.ite h <| State.memWf.ite h.later (h.foldl fun _ _ k1 => k1.writeHome).setPortage.moveTlbi.later

theorem State.memWf.moveOut {n : Nat} (h : s.memWf) : (s.moveOut n).memWf := h.saveRank.setCore.setPortage

theorem State.memWf.movePage {s : State} {src dst : Loc} (h : s.memWf) : (s.movePage src dst).memWf := by
  have word {t : State} {l : Loc} (k : t.memWf) :
      (if s.slotLoaded src.slot then t.readHome l else (t, 0, tagPoison)).1.memWf := by
    split
    exacts [k.readHome, k]
  exact h.foldl fun _ _ k => (word k).writeHome

theorem State.memWf.moveEntry {s u : State} {i : Nat} (h : s.memWf) (k : s.moveEntry i = some u) : u.memWf := by
  obtain ⟨-, e⟩ := Option.ite_none_right_eq_some.mp k
  exact Option.some.inj e ▸ State.memWf.writeHome h.movePage

theorem State.memWf.moveEntries' : ∀ {k i : Nat} {s : State}, s.memWf → (s.moveEntries' i k).1.memWf
  | 0, _, _, h => h
  | _ + 1, _, _, h => by
    unfold State.moveEntries'
    split
    · next e => exact State.memWf.moveEntries' (h.moveEntry e)
    · exact h

theorem State.memWf.execPortageCopy {s : State} (h : s.memWf) : OutWf (execPortageCopy s) := by
  have out {p : Portage} {l : List Nat} : (l.foldl State.moveOut (s.setPortage p)).memWf := h.setPortage.foldl fun _ _ k => k.moveOut
  have moved {c : Prop} {_ : Decidable c} {n : Nat} {p : Portage} {l : List Nat} :
      (if c then (l.foldl State.moveOut (s.setPortage p)).moveEntries' 0 n
        else (l.foldl State.moveOut (s.setPortage p), true)).1.memWf := by
    split
    exacts [out.moveEntries', out]
  refine State.memWf.ite h (.ite h.later ?_)
  dsimp only
  exact .ite moved.later moved.endMove

theorem State.memWf.tellKernel {ctx rank : Nat} (h : s.memWf) : (s.tellKernel ctx rank).memWf := by
  unfold State.tellKernel
  split
  exacts [h.inject, h]

theorem State.memWf.execPortageRelease (h : s.memWf) : OutWf (execPortageRelease s) := by
  unfold Machine.execPortageRelease
  split
  · exact State.memWf.ite (h.foldl fun _ _ k1 => k1.writeHome).setPortage.moveTlbi.later h.endMove
  · exact State.memWf.ite (h.foldl fun _ _ k1 => k1.tellKernel).endMove h.later
  · exact h

theorem State.memWf.execFreezeArrive {node : BitVec 12} (h : s.memWf) : OutWf (execFreezeArrive node s) := by
  unfold Machine.execFreezeArrive
  dsimp only
  split
  · exact h
  · exact (State.memWf.ite (State.memWf.ite h.frame h.frame.drawn).setCore.freezeAtMc (State.memWf.ite h.frame
      h.frame.drawn).setCore).laterOnce

theorem State.memWf.execSiltStop {node : BitVec 12} (h : s.memWf) : OutWf (execSiltStop node s) := by
  unfold Machine.execSiltStop
  dsimp only
  split
  exacts [State.memWf.ite h.setCore h.later, h]

theorem State.memWf.putPool : ∀ {n off : Nat} {l : List Byte} {s : State}, s.memWf → (s.putPool off l n).memWf
  | 0, _, _, _, h => h
  | _ + 1, _, _, _, h => .ite h (State.memWf.putPool h.writeHome)

theorem State.memWf.execCapsuleBuild (h : s.memWf) : OutWf (execCapsuleBuild s) :=
  State.memWf.ite h <| State.memWf.ite h.later h.drawn.putPool

theorem State.memWf.mailboxWrite {o : Nat} {x : List Byte} (h : s.memWf) : (s.mailboxWrite o x).memWf := .ite (State.memWf.later h) h

theorem State.memWf.result {r : Nat} (h : s.memWf) : (s.result r).memWf := h

theorem State.memWf.command {e : Event} {always : Bool} {f : State → State} (h : s.memWf)
    (k : ∀ (a : State), a.memWf → (f a).memWf) :
    OutWf (command s e always f) :=
  State.memWf.ite h.later <| State.memWf.ite h.result (k _ h)

theorem State.memWf.execMailboxBadCommand {cmd : BitVec 8} (h : s.memWf) : OutWf (execMailboxBadCommand cmd s) :=
  h.command fun _ k1 => k1.result

theorem State.memWf.execCapsuleRead {off len : BitVec 64} (h : s.memWf) : OutWf (execCapsuleRead off len s) :=
  h.command fun _ k1 => .ite (State.memWf.result k1) k1.result

theorem State.memWf.execCapsuleRelease (h : s.memWf) : OutWf (execCapsuleRelease s) := h.command fun _ k1 => k1.siltRelease.result

theorem State.memWf.execQueueBase {off n : BitVec 64} (h : s.memWf) : OutWf (execQueueBase off n s) :=
  h.command fun _ k1 => .ite k1.result (State.memWf.laterOnce (State.memWf.result k1))

theorem State.memWf.execKeyBind {arg : BitVec 64} (h : s.memWf) : OutWf (execKeyBind arg s) := by
  refine h.command fun _ k1 => ?_
  split
  exacts [.ite k1.result (State.memWf.result k1), k1.result]

theorem State.memWf.execWindowSet {ctx vb : BitVec 64} (h : s.memWf) : OutWf (execWindowSet ctx vb s) :=
  h.command fun _ k1 => .ite k1.result <| .ite k1.drawn.result (State.memWf.result k1)

theorem State.memWf.hostLoad {s : State} {l : List (Piece × Loc)} (h : s.memWf) : (s.hostLoad l).1.memWf := by
  induction l generalizing s with
  | nil => exact h
  | cons _ _ ih => exact ih h.readHome

theorem State.memWf.hostStore {s : State} {l : List (Piece × Loc)} {x : Nat} (h : s.memWf) : (s.hostStore l x).memWf := by
  induction l generalizing s x with
  | nil => exact h
  | cons _ _ ih => exact ih h.readHome.writeHome

theorem State.memWf.execHostRead {off : BitVec 64} {n : BitVec 7} (h : s.memWf) : OutWf (execHostRead off n s) := by
  refine State.memWf.ite h <| State.memWf.ite h <| State.memWf.ite h ?_
  split
  · exact h
  · split
    exacts [h, h.drawn.hostLoad]

theorem State.memWf.execHostWrite {off : BitVec 64} {n : BitVec 4} {v : BitVec 64} (h : s.memWf) :
    OutWf (execHostWrite off n v s) := by
  refine State.memWf.ite h.drawn <| State.memWf.ite h.drawn.mailboxWrite ?_
  split
  · exact h.drawn
  · split
    exacts [h.drawn, State.memWf.ite h.drawn h.drawn.hostStore]

theorem State.memWf.submit {q : Nat × Nat × GReg × Word} (h : s.memWf) : (s.submit q).memWf := by
  refine .ite h.launchTriggers.frame.laterOnce ?_
  split
  · next e => exact (h.launch.of_pair e).frame rfl rfl
  · next e => exact (h.launch.of_pair e).frame.laterOnce

theorem State.memWf.execHostSubmission {s : State} (h : s.memWf) : OutWf (execHostSubmission s) := by
  unfold Machine.execHostSubmission
  change State.memWf _
  split
  · exact h
  · extract_lets at_
    split
    rename_i s1 head _ e1
    have h1 : s1.memWf := State.memWf.of_pair h.readWord e1
    split
    rename_i s2 tail _ e2
    have h2 : s2.memWf := State.memWf.of_pair h1.readWord e2
    refine .ite h2.later ?_
    extract_lets e
    split
    rename_i s3 ws e3
    have h3 : s3.memWf := by
      refine State.memWf.of_pair ?_ e3
      exact List.foldlRecOn _ _ (motive := fun r : State × List Word => r.1.memWf) h2 fun _ k _ _ => k.readWord
    refine State.memWf.later (State.memWf.writeHome ?_)
    split
    exacts [h3.submit, h3]

theorem State.memWf.execHostSubmissionRetry (h : s.memWf) : OutWf (execHostSubmissionRetry s) := by
  unfold Machine.execHostSubmissionRetry
  split
  exacts [h.submit, h]

theorem State.memWf.spdmStep {s : State} {code : Nat} {ok : Spdm → Bool} {f : Spdm → Spdm} {answer : Spdm → List Byte}
    (h : s.memWf) : OutWf (Machine.spdm s code ok f answer) :=
  State.memWf.ite h h

theorem State.memWf.execTdispMessage {m : BitVec 2} (h : s.memWf) : OutWf (execTdispMessage m s) := by
  refine State.memWf.ite h ?_
  split
  exacts [h, h, h, h]

theorem State.memWf.dropPeer {p : Packet} (h : s.memWf) : (s.dropPeer p).memWf := by
  unfold State.dropPeer
  split
  exacts [.ite h.drawn.setCore h.drawn, h.drawn]

theorem State.memWf.execLinkDown {l : BitVec 1} (h : s.memWf) : OutWf (execLinkDown l s) := by
  refine State.memWf.foldl ?_ fun _ _ k1 => k1.dropPeer
  exact h

theorem State.memWf.execRutuquaPairing {l : BitVec 1} (h : s.memWf) : OutWf (execRutuquaPairing l s) := by
  refine State.memWf.ite h ?_
  split
  exacts [(State.memWf.later h), h, h]

theorem State.memWf.warmReset {s : State} (h : s.memWf) : s.warmReset.memWf := ⟨wf_filter _ h.1, wf_filter _ h.2⟩

theorem State.memWf.setBoot {s : State} {b : Nat} (h : s.memWf) : ({ s with boot := b } : State).memWf := h

theorem State.memWf.bootUp {s : State} (h : s.memWf) : s.bootUp.memWf := by
  have keyed {key : List Byte} : ({ s with idKey := key } : State).memWf := h
  unfold State.bootUp
  split
  · exact h
  · exact .ite keyed.coreStart.setBoot keyed.setBoot
  · exact State.memWf.setBoot (h.foldl fun _ _ k1 => k1.coreStart)
  · exact h

end Sys2Proof.Machine
end

section
/-! Proofs. MemoryForm.Vector: what the vector instructions keep. -/

namespace Sys2Proof.Machine

variable {s : State}

theorem State.memWf.lanewise {d : BitVec 5} {srcs : List Src} {k : BitVec 2} {w n : Nat} {f : List Val → Nat → Nat × Nat}
    (h : s.memWf) :
    OutWf (lanewise s d srcs k w n f) :=
  h.run (.bind (h.operands trivial) fun _ _ => .ite (h.tilEnd h.addFlags.commit.retire) h)

theorem State.memWf.intLanes {d a b : BitVec 5} {t k : BitVec 2} {f : {n : Nat} → BitVec n → BitVec n → BitVec n} (h : s.memWf) :
    OutWf (intLanes s d a b t k f) :=
  h.lanewise

theorem State.memWf.satLanes {d a b : BitVec 5} {t k : BitVec 2} {f : Int → Int → Int} (h : s.memWf) :
    OutWf (satLanes s d a b t k f) :=
  h.lanewise

theorem State.memWf.floatLanes2 {d a b : BitVec 5} {t k : BitVec 2} {f : Fmt → Nat → Nat → Nat → Nat × Nat} (h : s.memWf) :
    OutWf (floatLanes2 s d a b t k f) :=
  h.lanewise

theorem State.memWf.floatLanes1 {d a : BitVec 5} {t k : BitVec 2} {f : Fmt → Nat → Nat → Nat × Nat} (h : s.memWf) :
    OutWf (floatLanes1 s d a t k f) :=
  h.lanewise

theorem State.memWf.fmaLanes {d a b : BitVec 5} {t k : BitVec 2} {f : Fmt → Nat → Nat → Nat → Nat → Nat × Nat} (h : s.memWf) :
    OutWf (fmaLanes s d a b t k f) :=
  h.lanewise

theorem State.memWf.maskCmp {d : BitVec 2} {a b : BitVec 5} {k : BitVec 2} {w n : Nat} {f : Nat → Nat → Bool × Nat} (h : s.memWf) :
    OutWf (maskCmp s d a b k w n f) :=
  h.run (h.op (fun _ _ k1 => k1.addFlags) trivial)

theorem State.memWf.cmpLanes {d : BitVec 2} {a b : BitVec 5} {t : BitVec 3} {k : BitVec 2} {fop : Nat} {f : Int → Int → Bool}
    (h : s.memWf) :
    OutWf (cmpLanes s d a b t k fop f) := by
  unfold Machine.cmpLanes
  exact h.maskCmp

theorem State.memWf.execVcvts {d a : BitVec 5} {f : BitVec 4} {t k : BitVec 2} (h : s.memWf) : OutWf (execVcvts d a f t k s) :=
  h.run (h.op (fun _ _ k1 => k1.addFlags) trivial)

theorem State.memWf.reduce {d a : BitVec 5} {k : BitVec 2} {w n : Nat} {f : List (Option Nat) → Nat × Nat} (h : s.memWf) :
    OutWf (reduce s d a k w n f) :=
  h.run (h.op (fun _ _ k1 => k1.addFlags) trivial)

theorem State.memWf.reduceLanes {d a : BitVec 5} {t : BitVec 3} {k : BitVec 2} {wide : Bool} {f : Int → Int → Int}
    {g : Fmt → Nat → Nat → Nat × Nat} (h : s.memWf) :
    OutWf (reduceLanes s d a t k wide f g) :=
  h.reduce

theorem State.memWf.permute {d a : BitVec 5} {t : BitVec 3} {f : Nat → Nat → Option Nat} (h : s.memWf) :
    OutWf (permute s d a t f) :=
  h.pureOp

theorem Ends.rspVal {r : RwRsp} {rank : Nat} {ea : Word} : Ends Stop.memWf (fun _ => True) (rspVal r rank ea) := by
  unfold Machine.rspVal
  split
  exacts [trivial, Ends.trap, Ends.trap, Ends.trap]

theorem State.memWf.loadRemote {a : Need} {k off : Nat} {done : Remotes} (h : s.memWf) :
    Ends Stop.memWf (fun r => r.1.memWf) (loadRemote s a k off done) :=
  .ite h <| .bind h.remoteAccess fun _ k1 => .bind Ends.rspVal fun _ _ => k1

theorem State.memWf.checkRemote {a : Need} {k _off : Nat} {done : Remotes} (h : s.memWf) :
    Ends Stop.memWf (fun r => r.1.memWf) (checkRemote s a k _off done) :=
  .bind h.windowCheck fun _ k1 => k1

theorem State.memWf.elemChecks {s : State} {isLoad moves : Bool} {mk : Nat → Need}
    {go : Nat → State → Need → Nat → Nat → Remotes → M (State × Remotes)} {is : List Nat} {done : Remotes} (h : s.memWf)
    (hgo : ∀ i t a r off d, t.memWf → Ends Stop.memWf (fun r => r.1.memWf) (go i t a r off d)) :
    Ends Stop.memWf (fun r => r.1.memWf) (elemChecks isLoad moves mk go s done is) := by
  induction is generalizing s done with
  | nil => exact h
  | cons i _ ih =>
    refine .bind Ends.preChecks fun _ _ => .bind h.locate fun _ k => ?_
    dsimp only
    split
    · split
      · exact .bind k.loadCheck fun _ k1 => .after (.bind (ih k1) fun _ k2 => k2)
      · exact .bind k.storeCheck fun _ k1 => .after (.bind (ih k1) fun _ k2 => k2)
    · split
      · exact .bind k.migrateFor fun _ k1 => .bind (ih k1) fun _ k2 => k2
      · exact .bind (hgo _ _ _ _ _ _ k) fun _ k1 => .bind (ih k1) fun _ k2 => k2
    · exact .stop trivial

theorem State.memWf.loadElems {n : Nat} {rem : Remotes} : ∀ {l : List Elem} {s : State}, s.memWf →
    (loadElems n rem s l).1.memWf
  | [], _, h => h
  | e :: _, _, h => by
    unfold Machine.loadElems
    split
    · exact State.memWf.loadElems h
    · exact State.memWf.loadElems h.loadPieces
    · exact State.memWf.loadElems h

theorem State.memWf.storeLocalElems {n : Nat} {data : Nat → Nat} {es : List Elem} (h : s.memWf) :
    (storeLocalElems n data s es).memWf :=
  h.foldl fun _ _ k1 => k1.storeView.storeWord

theorem State.memWf.storeRemote : ∀ {l : List RemoteWord} {i : Nat} {s : State}, s.memWf →
    Ends Stop.memWf State.memWf (storeRemote s i l)
  | [], _, _, h => h
  | _ :: _, _, _, h => .bind h.remoteAccess fun _ k => .bind Ends.rspVal fun _ _ => State.memWf.storeRemote k

theorem Ends.baseCheck {kern : Bool} {b : GReg} {code : Nat} : Ends Stop.memWf (fun _ => True) (baseCheck kern b code) :=
  .ite trivial <| .bind Ends.check fun _ _ => Ends.check

theorem State.memWf.vecLoad {d a : BitVec 5} {srcs : List Src} {t : BitVec 3} {k : BitVec 2} {moves : Bool}
    {off : List Val → Nat → Word} (h : s.memWf) :
    OutWf (vecLoad s d a srcs t k moves off) :=
  h.run (h.op (fun _ _ k1 => .bind Ends.baseCheck fun _ _ => .bind (k1.elemChecks fun _ _ _ _ _ _ k3 => k3.loadRemote) fun _ k3 =>
    k3.loadElems) trivial)

theorem State.memWf.vecStore {d a : BitVec 5} {srcs : List Src} {t : BitVec 3} {k : BitVec 2} {moves : Bool}
    {off : List Val → Nat → Word} (h : s.memWf) :
    OutWf (vecStore s d a srcs t k moves off) :=
  h.run (h.op (fun _ _ k1 => .bind Ends.baseCheck fun _ _ => .bind (k1.elemChecks fun _ _ _ _ _ _ k3 => k3.checkRemote) fun _ k3 =>
    .bind k3.storeRemote fun _ k4 => k4.storeLocalElems) trivial)

end Sys2Proof.Machine
end

section
/-! Proofs. MemoryForm.Step: every instruction, every event and every step keep the canonical form of memory (O57). -/

namespace Sys2Proof.Machine

variable {s : State}

/-- Every instruction and every event keeps the canonical form: one proof for each, in the order of the arms of `exec`. -/
theorem State.memWf.exec {i : Instr} (h : s.memWf) : OutWf (exec i s) := by
  unfold Machine.exec
  split
  exacts [h.gg, h.gg, h.alu, h.alu, h.alu, h.alu, h.alu, h.alu, h.alu, h.alu, h.alu, h.alu, h.alu, h.alu, h.alu, h.alu, h.alu,
    h.alu, h.alu, h.alu, h.alu, h.alu, h.alu, h.alu, h.alu1, h.alu1, h.alu1, h.alu1, h.alu1, h.gg, h.gg, h.g1, h.alui, h.alui,
    h.alui, h.shifti, h.shifti, h.shifti, h.alui, h.alui, h.pureOp, h.pureOp, h.branch, h.branch, h.branch, h.branch, h.branch,
    h.branch, h.onTag, h.execDbnz, h.execJal, h.jumpReg, h.execRep, h.execCsetb, h.execCsetbx, h.execCandp, h.execCseta,
    h.execCgetb, h.execCgett, h.execCgetp, h.execCtod, h.onTag, h.gclr, h.pureOp, h.loadOp, h.loadOp, h.loadOp, h.loadOp, h.loadOp,
    h.loadOp, h.loadOp, h.execLdc, h.storeOp, h.storeOp, h.storeOp, h.storeOp, h.execStc, h.execRld, h.execLdx, h.execStx,
    h.execDisc, h.amoOp, h.amoOp, h.amoOp, h.amoOp, h.amoOp, h.amoOp, h.amoOp, h.amoOp, h.amoOp, h.amoOp, h.amoOp, h.amoOp, h.amoOp,
    h.amoOp, h.amoOp, h.amoOp, h.amoOp, h.amoOp, h.amoOp, h.amoOp, h.redOp, h.redOp, h.redOp, h.redOp, h.redOp, h.redOp, h.redOp,
    h.redOp, h.redOp, h.execLrw, h.execSch, h.execRelq, h.execLoga, h.execMerge, h.fenceOp, h.fenceOp, h.fenceOp, h.fenceOp,
    h.waitOp, h.waitOp, h.execBinit, h.execBarr, h.execBwait, h.execBaw, h.execBexp, h.execBkill, h.execBqry, h.copyOp,
    h.execCopynb, h.copyOp, h.copyOp, h.tagWait, h.tagWait, h.tffOp, h.execTclr, h.execTget, h.execSend, h.recvOp, h.execRecvnb,
    h.execInq, h.execMigrate, h.execHome, h.execRank, h.execPortb, h.execPortq, h.execLaunch, h.execTexit, h.execTyield, h.execLbnd,
    h.intLanes, h.intLanes, h.intLanes, h.intLanes, h.intLanes, h.intLanes, h.intLanes, h.intLanes, h.intLanes, h.intLanes,
    h.intLanes, h.satLanes, h.satLanes, h.lanewise, h.floatLanes2, h.floatLanes2, h.floatLanes2, h.floatLanes2, h.floatLanes2,
    h.floatLanes2, h.floatLanes1, h.floatLanes1, h.floatLanes1, h.floatLanes1, h.floatLanes1, h.floatLanes1, h.floatLanes1,
    h.fmaLanes, h.fmaLanes, h.fmaLanes, h.lanewise, h.cmpLanes, h.cmpLanes, h.cmpLanes, h.cmpLanes, h.maskCmp, h.maskCmp,
    h.lanewise, h.execVcvts, h.reduceLanes, h.reduceLanes, h.reduceLanes, h.lanewise, h.permute, h.lanewise, h.pureOp, h.pureOp,
    h.permute, h.vecLoad, h.vecStore, h.vecLoad, h.vecStore, h.vecLoad, h.vecStore, h.lanewise, h.lanewise, h.pureOp, h.pureOp,
    h.pureOp, h.pureOp, h.pureOp, h.pureOp, h.execMma, h.execMzero, h.execMld, h.execMst, h.execMsave, h.execMrst, h.execGang,
    h.execMpf, h.sampleOp, h.sampleOp, h.sampleOp, h.sampleOp, h.execGrmask, h.execGrstep, h.execTap, h.execTsteer, h.execTrap,
    h.execEret, h.sysreg, h.sysreg, h.sysreg, h.execOxw, h.execSleep, h.execTime, h.execRqpush, h.execRqpop, h.execRqpeek,
    h.execGsave, h.execGrst, h.execIfence, h.execTlbi, h.run Ends.trap, h.execSilt, h.execLease, h.g1, h.gg, h.gg, h.alu, h.alu,
    h.alu, h.g1, h.pureOp, h.shifti, h.shifti, h.shifti, h.loadOp, h.storeOp, h.loadOp, h.storeOp, h.branch, h.branch, h.jump,
    h.jumpReg, h.jumpReg, h.recvOp, h.tffOp, h.tagWait, h.gclr, h.writeBy h.setCtx, h.setRank, h.setCore, h.writeBy h.regSet,
    h.setTvec, h.setCore, h.setCore, h.setRepeat, h.writeBy h.regSet, h.writeBy h.regSet, h.execGeomWrite, h.setTags, h.recallAway,
    h.evictGuests, h.execRegisterWrite, h.kslotStep h.loadKey, h.kslotStep h.frame.frame, h.execKslotTagclr, h.kslotStep h.purge,
    h.frame, h.l2Go, h.columnDone, h.columnDone, State.memWf.ite h h.fill, h.storeWord, h.execOwnershipRevoke, h.execHomeWriteback,
    h.execHomeAmo, h.execHomeRed, h.execHomeLoga, h.execHomeLrw, h.execHomeSch, h.execHomeBarrier, h.execHomeWaitRegister,
    h.testWait, h.discHome, h.execTlbWalk, h.memoryError.recordFor, h.execNmsgArrive, h.execUmsgArrive, h.execGportArrive,
    h.execVportArrive, h.sendOut, h.execRwreqArrive, h.execRwrspArrive, h.execRwreqRetry, h.execDackArrive, h.execGangbArrive,
    h.execMigDepart, h.execMigArrive, h.execMigResume, h.execMigRetry, h.execEvictArrive, h.execTlbiArrive, h.frame,
    h.execIfenceComplete, h.copyStart, h.copyComplete, h.mergePass, h.copyComplete, h.execEngineSpill, h.execEngineReload,
    h.execTimerExpire, h.takeEntry, h.execMachineEntry, h.execCoreStart, h.execDispatchSlot, h.execDependencyDecrement,
    h.execLaunchSweep, h.execLaunchEnd, h.execOccupancyWindow, h.execPoolRebind, h.execGroupQuiesce, h.execGroupDrain,
    h.execGroupResume, h.setGroup, h.execGretSaveImage, h.execGretSaveRestore, h.execGretSaveDone, h.gateWrite, h.railWrite,
    h.execRailOk, h.wakeMask, h.wakeAll, h.frame, h.armWrite, h.execCascadeFire, h.execGroupWake, h.bringUp, h.execTorrentLeaveOn,
    h.execDramSelfRefreshEnter, h.execDramSelfRefreshExit, h.execRillCoreRet, h.execRillCoreWake, h.execLeaseExpire, h.portageGo,
    h.execPortageAbort, h.execPortageTransit, h.execPortageCopy, h.execPortageRelease, h.startFreeze, h.siltResume, h.siltRelease,
    h.execFreezeArrive, h.execSiltStop, h.execCapsuleBuild, h.execCapsuleRead, h.execCapsuleRelease, h.execQueueBase, h.execKeyBind,
    h.execWindowSet, h.execMailboxBadCommand, h.execHostSubmission, h.execHostSubmissionRetry, h.execHostRead, h.execHostWrite,
    h.spdmStep, h.spdmStep, h.spdmStep, h.spdmStep, h.spdmStep, h.spdmStep, h.spdmStep, h.drawn.spdmStep, h.spdmStep, h.spdmStep,
    State.memWf.ite h.frame h, h.execLinkDown, reset_memWf.frame, h.warmReset, h.execSleepDeadline, h.execMrspArrive,
    h.execMmaComplete, h.setGroup, h.setGroup, h.execRutuquaPairing, h.execTdispMessage]

theorem State.memWf.tick (h : s.memWf) : s.tick.memWf := h

theorem OutWf.tickOut {o : Out} (h : OutWf o) : OutWf (tickOut o) := by
  unfold Machine.tickOut
  split
  exacts [State.memWf.tick h, trivial, trivial]

theorem State.memWf.takeEvent {i : Nat} (h : s.memWf) : (s.takeEvent i).memWf := h

theorem State.memWf.turn {n i : Nat} (h : s.memWf) : (s.turn n i).memWf := h

theorem State.memWf.issue {w : Nat} (h : s.memWf) : OutWf (issue w s) := by
  unfold Machine.issue
  split
  exacts [h.takeSync, .ite (.ite h.exec h.takeSync) h.exec]

theorem State.memWf.fetchIssue (h : s.memWf) : OutWf (fetchIssue s) := by
  unfold Machine.fetchIssue
  split
  · exact h.takeSync
  · split
    · exact h.issue
    · split
      · exact h.takeSync
      · next e2 => exact (h.fetch.ok e2).setMe.issue

theorem State.memWf.reachStop {n : Nat} (h : s.memWf) : (s.reachStop n).memWf := .ite h.setCore h

theorem State.memWf.runBerth {n i : Nat} (h : s.memWf) : OutWf (runBerth s n i) := by
  refine .ite ?_ h.turn.fetchIssue
  split
  · next e => exact (h.turn.fetchIssue.next e).reachStop
  · trivial
  · trivial

theorem State.memWf.moverStep {m : Mover} (h : s.memWf) : OutWf (moverStep s m) := by
  unfold Machine.moverStep
  split
  · exact h.bootUp
  · exact h.takeEvent.exec
  · exact h.exec
  · exact h.runBerth
  · exact h.callBack
  · exact .ite h.exec h
  · exact .ite h h.exec
  · exact State.memWf.ite (h.foldl fun _ _ k1 => k1.packetTriggers) h

theorem State.memWf.step (h : s.memWf) : OutWf (step s) := by
  unfold Machine.step
  split
  exacts [OutWf.tickOut h, OutWf.tickOut h.moverStep]

/-- Settles O57: every function that a step is made of keeps the form, and only the few that write bytes or tags have more to
show than that they leave them alone. -/
theorem stepKeepsMemory : Obligations.StepKeepsMemory := fun _ _ h e => h.step.next e

end Sys2Proof.Machine
end
section
/-! Proofs. The checks of an access that come first (R28, R29, R32): what they answer, and that loads and stores make them before
anything else (O9). -/

namespace Sys2Proof.Machine

open Sys2Proof.Claims

/-- What stops a computation stops what it begins. -/
theorem bind_of_error {α β : Type} {x : M α} {e : Stop} (h : x = .error e) (f : α → M β) : (x >>= f) = .error e := by
  rw [h]
  rfl

/-! ## Checks 2 to 5 -/

section
variable {kern : Bool} {a : Need} (hk : kern = false ∨ a.base.tag = .cap)
include hk

/-- User code and a CAP base meet checks 2 to 5. -/
theorem capChecks_of_checked : capChecks kern a = (do
    check (a.base.tag = .cap) .captag (w64 a.code)
    check (capWell a.base.sh) .captag (w64 a.code)
    check (capL a.base.sh ≠ 0 && capBase a.base.val a.base.sh ≤ a.ea.toNat &&
      ((a.ea.toNat + a.n : Nat) : Int) ≤ capTop a.base.val a.base.sh) .capbounds a.ea
    check (hasPerm a.base.sh a.perms) .capperm a.ea) := by
  have hc : ¬ (kern && a.base.tag ≠ .cap) = true := by
    rcases hk with h | h <;> simp [h]
  exact if_neg hc

theorem capChecks_captag (h : a.base.tag ≠ .cap ∨ capWell a.base.sh = false) :
    capChecks kern a = .error (.trap .captag (w64 a.code)) := by
  rw [capChecks_of_checked hk]
  by_cases ht : a.base.tag = .cap
  · have hw := h.resolve_left (not_not_intro ht)
    simp [ht, hw, check, trap, bind, Except.bind]
  · simp [ht, check, trap, bind, Except.bind]

theorem capChecks_capbounds (ht : a.base.tag = .cap) (hw : capWell a.base.sh = true)
    (h : ¬ (capL a.base.sh ≠ 0 ∧ capBase a.base.val a.base.sh ≤ a.ea.toNat ∧
      (a.ea.toNat : Int) + a.n ≤ capTop a.base.val a.base.sh)) :
    capChecks kern a = .error (.trap .capbounds a.ea) := by
  have hb : (capL a.base.sh ≠ 0 && capBase a.base.val a.base.sh ≤ a.ea.toNat &&
      ((a.ea.toNat + a.n : Nat) : Int) ≤ capTop a.base.val a.base.sh) = false := by
    simpa [and_assoc] using h
  rw [capChecks_of_checked hk, hb]
  simp [ht, hw, check, trap, bind, Except.bind]

theorem capChecks_capperm (ht : a.base.tag = .cap) (hw : capWell a.base.sh = true)
    (h : capL a.base.sh ≠ 0 ∧ capBase a.base.val a.base.sh ≤ a.ea.toNat ∧
      (a.ea.toNat : Int) + a.n ≤ capTop a.base.val a.base.sh) (hp : hasPerm a.base.sh a.perms = false) :
    capChecks kern a = .error (.trap .capperm a.ea) := by
  have hb : (capL a.base.sh ≠ 0 && capBase a.base.val a.base.sh ≤ a.ea.toNat &&
      ((a.ea.toNat + a.n : Nat) : Int) ≤ capTop a.base.val a.base.sh) = true := by
    simpa [and_assoc] using h
  rw [capChecks_of_checked hk, hb]
  simp [ht, hw, hp, check, trap, bind, Except.bind]

end

/-! ## Loads and stores make them first -/

section
variable {s : State} {a : Need} {e : Stop} (h : capChecks s.kern a = .error e)
include h

theorem preChecks_error : preChecks s.kern a = .error e := bind_of_error h _

theorem loadAny_error : loadAny s a = .error e := by
  have hb : loadBytes s a false = .error e := bind_of_error (preChecks_error h) _
  unfold loadAny
  split
  · split
    · exact bind_of_error h _
    · exact hb
  · exact hb

theorem storeAny_error (x : Nat) : storeAny s a x = .error e := by
  have hb : storeBytes s a false x = .error e := bind_of_error (preChecks_error h) _
  unfold storeAny
  split
  · split
    · exact bind_of_error h _
    · exact hb
  · exact hb

end

/-- The same for an instruction that goes on at the next one. -/
theorem op_trap {s : State} {srcs : List Src} {dsts : List Dst} {len : Nat} {f : State → List Val → M (State × List Val)}
    (h : s.ready srcs dsts = true) {c : Cause} {v : Word} (hf : f s (s.readSrcs srcs []) = .error (.trap c v)) :
    run s (op s srcs dsts len f) = .next (s.takeSync c v) :=
  opTo_trap h (bind_of_error hf _)

theorem loadOp_trap {s : State} {d a : BitVec 6} {imm : Word} {n len : Nat} {f : Nat → Word} {c : Cause} {v : Word}
    (h : s.ready [.g a] [.g d] = true)
    (hc : capChecks s.kern (loadAt (s.gv [.g a] 0) a.toNat ((s.gv [.g a] 0).val + imm) n) = .error (.trap c v)) :
    loadOp s d a imm n len f = .next (s.takeSync c v) :=
  op_trap h (bind_of_error (loadAny_error hc) _)

theorem storeOp_trap {s : State} {d a : BitVec 6} {imm : Word} {n len : Nat} {c : Cause} {v : Word}
    (h : s.ready [.g a, .g d] [] = true)
    (hc : capChecks s.kern (storeAt (s.gv [.g a, .g d] 0) a.toNat ((s.gv [.g a, .g d] 0).val + imm) n) = .error (.trap c v)) :
    storeOp s d a imm n len = .next (s.takeSync c v) :=
  op_trap h (bind_of_error (storeAny_error hc _) _)

/-! ## The statement -/

theorem loadOp_of_loadOps {e : (BitVec 6 → BitVec 6 → BitVec 12 → Instr) × Nat × (Nat → Word)} (he : e ∈ loadOps)
    (s : State) (d a : BitVec 6) (imm : BitVec 12) :
    ∃ f, exec (e.1 d a imm) s = loadOp s d a (imm.signExtend 64) e.2.1 4 f := by
  simp only [loadOps, List.mem_cons, List.not_mem_nil, or_false] at he
  rcases he with rfl | rfl | rfl | rfl | rfl | rfl | rfl <;> exact ⟨_, rfl⟩

theorem storeOp_of_storeOps {e : (BitVec 6 → BitVec 6 → BitVec 12 → Instr) × Nat} (he : e ∈ storeOps)
    (s : State) (d a : BitVec 6) (imm : BitVec 12) :
    exec (e.1 d a imm) s = storeOp s d a (imm.signExtend 64) e.2 4 := by
  simp only [storeOps, List.mem_cons, List.not_mem_nil, or_false] at he
  rcases he with rfl | rfl | rfl | rfl <;> rfl

/-- A thread that meets the checks: user code, or an access through a CAP base. -/
theorem kern_false_or_cap {s : State} {b : GReg} (h : s.cb ≠ 0 ∨ b.tag = .cap) : s.kern = false ∨ b.tag = .cap :=
  h.imp_left fun hc => decide_eq_false hc

/-- Settles O9: each trap is the first check that fails, and a load or store makes the checks before it looks at memory. -/
theorem accessChecks : Obligations.AccessChecks := by
  intro s d a imm
  refine ⟨fun hr e he hk => ?_, fun hr e he hk => ?_⟩
  · obtain ⟨f, hx⟩ := loadOp_of_loadOps he s d a imm
    have hk := kern_false_or_cap hk
    rw [hx]
    exact ⟨fun h => loadOp_trap hr (capChecks_captag hk h), fun ht hw h => loadOp_trap hr (capChecks_capbounds hk ht hw h),
      fun ht hw h hp => loadOp_trap hr (capChecks_capperm hk ht hw h hp)⟩
  · have hk := kern_false_or_cap hk
    rw [storeOp_of_storeOps he]
    exact ⟨fun h => storeOp_trap hr (capChecks_captag hk h), fun ht hw h => storeOp_trap hr (capChecks_capbounds hk ht hw h),
      fun ht hw h hp => storeOp_trap hr (capChecks_capperm hk ht hw h hp)⟩

end Sys2Proof.Machine
end

section
/-! Proofs. KSLOT_PURGE of a state that lists a node twice (O43). -/

namespace Sys2Proof.Machine

/-- A state that lists node 1 twice: by the second entry its instruction cache holds a line of context 1, which is not locked. -/
def twiceListed : State :=
  { State.reset with cores := [(1, Core.reset), (1, { Core.reset with icache := [⟨0, 1, 0, [], [], false⟩] })] }

/-- PURGE of context 1 goes through the node's first entry each time, and the line of the second one stays, whether or not dirty words
are written back first: there are none. -/
theorem purge_twiceListed : ((twiceListed.purge 1).cores.any fun p => p.2.icache.any fun w => !w.locked && w.ctx == 1) = true := by
  unfold State.purge
  dsimp only
  split
  · decide +kernel
  · decide +kernel

theorem exec_kslotPurge_one (s : State) : exec (.kslotPurge 1) s = kslotOver (s.purge 1) := rfl

theorem cores_of_kslotOver {s t : State} (h : kslotOver s = .next t) : t.cores = s.cores := by
  unfold kslotOver at h
  cases h
  rfl

/-- Refutes O43: the clause on KSLOT_PURGE asks every entry of `cores` to lose the context's lines of the instruction cache. The model
drops them node by node, each time in the node's first entry, so in a state that lists a node twice, `twiceListed`, the second entry
keeps its line. -/
theorem not_cachesKeysAndColumns : ¬ Obligations.CachesKeysAndColumns := by
  rintro ⟨-, hkeys, -⟩
  obtain ⟨-, -, -, -, -, hpurge, -⟩ := hkeys twiceListed 1
  obtain ⟨t, ht, -, -, hlines, -⟩ := hpurge (by decide)
  rw [exec_kslotPurge_one] at ht
  have hkept := purge_twiceListed
  rw [← cores_of_kslotOver ht] at hkept
  simp only [List.any_eq_true, Bool.and_eq_true, Bool.not_eq_true', beq_iff_eq] at hkept
  obtain ⟨p, hp, w, hw, hfree, hctx⟩ := hkept
  exact (hlines p hp).1 w hw hfree hctx

end Sys2Proof.Machine
end

section
/-! Proofs. Words of the executing core's LM and of its L1: what a store of a word changes, and what a load finds of it (R60, R63). -/

namespace Sys2Proof.Machine

/-! ## What a changed word sets off -/

/-- What a changed word sets off is in the agenda alone. -/
theorem changed_eq (s : State) (l : Loc) (v : Word) : ∃ a, s.changed l v = { s with agenda := a } := by
  unfold State.changed State.notify State.testCascades
  dsimp only
  split
  · split
    · exact ⟨_, rfl⟩
    · exact ⟨_, rfl⟩
  · split
    · exact ⟨s.agenda, rfl⟩
    · exact ⟨_, rfl⟩

section
variable (s : State) (l : Loc) (v : Word)

@[simp] theorem mem_changed : (s.changed l v).mem = s.mem := by obtain ⟨a, h⟩ := changed_eq s l v; rw [h]
@[simp] theorem tags_changed : (s.changed l v).tags = s.tags := by obtain ⟨a, h⟩ := changed_eq s l v; rw [h]
@[simp] theorem cores_changed : (s.changed l v).cores = s.cores := by obtain ⟨a, h⟩ := changed_eq s l v; rw [h]
@[simp] theorem core_changed (n : Nat) : (s.changed l v).core n = s.core n := by obtain ⟨a, h⟩ := changed_eq s l v; rw [h]; rfl

end

/-! ## Words of an LM -/

theorem inRind_of_invalid {s : State} (h : s.silt.valid = false) (key : Nat) : s.inRind key = false := by
  simp [State.inRind, h]

theorem l2Fetch_of_ne_dram {s : State} {l : Loc} (h : l.kind ≠ .dram) : s.l2Fetch l = s := if_neg h

theorem claim_of_ne_pool {s : State} {l : Loc} (h : l.kind ≠ .pool) : s.claim l = s := by simp [State.claim, h]

theorem homeWord_lm (s : State) {l : Loc} (hl : l.kind = .lm) :
    s.homeWord l = (w64 (mgetN s.mem (l.key / 8 * 8) 8), (mget s.tags (l.key / 8)).toNat) := by
  simp [State.homeWord, hl]

section
variable {s : State} (hs : s.silt.valid = false) {l : Loc} (hl : l.kind = .lm)
include hs hl

theorem putHome_lm (v : Word) (t : Nat) : s.putHome l v t =
    { s with mem := mputN s.mem (l.key / 8 * 8) 8 v.toNat, tags := mput s.tags (l.key / 8) (BitVec.ofNat 8 t) } := by
  simp [State.putHome, State.putLow, inRind_of_invalid hs, l2Fetch_of_ne_dram, claim_of_ne_pool, hl]

theorem storeWord_lm (n : Nat) (v : Word) (t : Nat) : s.storeWord n l v t =
    ({ s with mem := mputN s.mem (l.key / 8 * 8) 8 v.toNat,
              tags := mput s.tags (l.key / 8) (BitVec.ofNat 8 t) } : State).changed l v := by
  rw [← putHome_lm hs hl]
  exact if_pos hl

theorem homeWord_storeWord_lm (hw : s.memWf) (n : Nat) (v : Word) {t : Nat} (ht : t < 4) :
    (s.storeWord n l v t).homeWord l = (v, t) := by
  obtain ⟨hmem, htags⟩ := hw
  rw [storeWord_lm hs hl, homeWord_lm _ hl, mem_changed, tags_changed, mgetN_mputN 8 _ _ hmem, mget_mput htags, if_pos rfl]
  have hv : w64 (v.toNat % 256 ^ 8) = v := by
    apply BitVec.eq_of_toNat_eq
    simp [w64, Nat.mod_eq_of_lt v.isLt]
  rw [hv, BitVec.toNat_ofNat, Nat.mod_eq_of_lt (by omega)]

end

/-! ## A word that a core has stored -/

theorem loadRaw_lm (s : State) (n : Nat) {l : Loc} (h : l.kind = .lm) : s.loadRaw n l = (s, s.homeWord l) := if_pos h

/-- Outside LM the core's L1 owns the word after the store as OD. -/
theorem l1At_storeWord (s : State) (n : Nat) {l : Loc} (v : Word) (t : Nat) (h : l.kind ≠ .lm) :
    ((s.storeWord n l v t).core n).l1At l = some ⟨l.key / 8, l.ctx, l.slot, .od, v, t, false, false⟩ := by
  unfold State.storeWord
  rw [if_neg h]
  simp [Core.l1At, Core.l1Put, L1Word.is]

theorem loadRaw_of_owned {s : State} {n : Nat} {l : Loc} {w : L1Word} (h : l.kind ≠ .lm) (hw : (s.core n).l1At l = some w)
    (ho : w.owned = true) : s.loadRaw n l = (s, w.val, w.tag) := by
  unfold State.loadRaw
  rw [if_neg h, hw]
  exact if_pos ho

theorem loadRaw_storeWord {s : State} (hw : s.memWf) (hs : s.silt.valid = false) (n : Nat) (l : Loc) (v : Word) {t : Nat}
    (ht : t < 4) : ((s.storeWord n l v t).loadRaw n l).2 = (v, t) := by
  by_cases hl : l.kind = .lm
  · rw [loadRaw_lm _ n hl]
    exact homeWord_storeWord_lm hs hl hw n v ht
  · rw [loadRaw_of_owned hl (l1At_storeWord s n v t hl) rfl]

theorem storeThenLoad : Sys2Proof.Claims.StoreThenLoad := fun s n l v t hw hs ht =>
  ⟨loadRaw_storeWord hw hs n l v ht, fun hl => by rw [l1At_storeWord s n v t hl]; rfl⟩

end Sys2Proof.Machine
end

section
/-! Proofs. Numbers and their bytes in memory (R3), and the bytes of a piece within its word (R20, R22). -/

namespace Sys2Proof.Machine

/-! ## Digits to base 256 -/

section
variable {A Z o i : Nat}

/-- A low byte of a number does not depend on its high part. -/
theorem byte_low (h : i < o) : (A + 256 ^ o * Z) / 256 ^ i % 256 = A / 256 ^ i % 256 := by
  obtain ⟨k, rfl⟩ : ∃ k, o = i + (k + 1) := ⟨o - i - 1, by omega⟩
  have e : A + 256 ^ (i + (k + 1)) * Z = A + 256 ^ i * (256 * (256 ^ k * Z)) := by ring
  rw [e, Nat.add_mul_div_left _ _ (by positivity), Nat.add_mul_mod_self_left]

/-- A high byte of a number is a byte of its high part. -/
theorem byte_high (hA : A < 256 ^ o) (h : o ≤ i) : (A + 256 ^ o * Z) / 256 ^ i = Z / 256 ^ (i - o) := by
  obtain ⟨k, rfl⟩ : ∃ k, i = o + k := ⟨i - o, by omega⟩
  rw [Nat.pow_add, ← Nat.div_div_eq_div_mul, Nat.add_mul_div_left _ _ (by positivity), Nat.div_eq_of_lt hA, Nat.zero_add,
    Nat.add_sub_cancel_left]

end

/-- The low `n` bytes of a number have its bytes. -/
theorem byte_mod {x n i : Nat} (h : i < n) : x % 256 ^ n / 256 ^ i % 256 = x / 256 ^ i % 256 := by
  conv_rhs => rw [← Nat.mod_add_div x (256 ^ n)]
  exact (byte_low h).symm

/-! ## Numbers in memory -/

theorem mgetN_lt (m : Memory) : ∀ (n a : Nat), mgetN m a n < 256 ^ n
  | 0, _ => Nat.one_pos
  | n + 1, a => by
    have h := mgetN_lt m n (a + 1)
    have hb := (mget m a).isLt
    rw [mgetN, Nat.pow_succ]
    omega

theorem mgetN_add (m : Memory) : ∀ (i a j : Nat), mgetN m a (i + j) = mgetN m a i + 256 ^ i * mgetN m (a + i) j
  | 0, a, j => by simp [mgetN]
  | i + 1, a, j => by
    have e : a + 1 + i = a + (i + 1) := by omega
    rw [show i + 1 + j = i + j + 1 by omega, mgetN, mgetN, mgetN_add m i (a + 1) j, e]
    ring

/-- Bytes within a number that memory holds. -/
theorem mgetN_div_mod (m : Memory) (a : Nat) {o k n : Nat} (h : o + k ≤ n) :
    mgetN m a n / 256 ^ o % 256 ^ k = mgetN m (a + o) k := by
  obtain ⟨r, rfl⟩ : ∃ r, n = o + (k + r) := ⟨n - o - k, by omega⟩
  rw [mgetN_add, mgetN_add m k, Nat.add_mul_div_left _ _ (by positivity), Nat.div_eq_of_lt (mgetN_lt m o a), Nat.zero_add,
    Nat.add_mul_mod_self_left, Nat.mod_eq_of_lt (mgetN_lt m k _)]

theorem mget_eq_byte (m : Memory) (a : Nat) {i n : Nat} (h : i < n) : mget m (a + i) = BitVec.ofNat 8 (mgetN m a n / 256 ^ i) := by
  apply BitVec.eq_of_toNat_eq
  have e := mgetN_div_mod m a (k := 1) (show i + 1 ≤ n by omega)
  rw [Nat.pow_one] at e
  rw [BitVec.toNat_ofNat, e]
  simp [mgetN]

/-- A byte of a number that has been written. -/
theorem mget_mputN_inside {m : Memory} (hm : m.wf = true) (a x : Nat) {i n : Nat} (h : i < n) :
    mget (mputN m a n x) (a + i) = BitVec.ofNat 8 (x / 256 ^ i) := by
  rw [mget_eq_byte _ a h, mgetN_mputN n a x hm]
  apply BitVec.eq_of_toNat_eq
  rw [BitVec.toNat_ofNat, BitVec.toNat_ofNat, byte_mod h]

/-! ## The bytes of a piece -/

theorem toNat_word (m : Memory) (a : Nat) : (w64 (mgetN m a 8)).toNat = mgetN m a 8 :=
  (BitVec.toNat_ofNat _ _).trans (Nat.mod_eq_of_lt (mgetN_lt m 8 a))

/-- The value of a word in memory, read within one of its pieces. -/
theorem pieceOf_word (m : Memory) {p : Piece} {key : Nat} (hp : key % 8 = p.va % 8) (hn : p.va % 8 + p.n ≤ 8) :
    pieceOf p (w64 (mgetN m (key / 8 * 8) 8)) = mgetN m key p.n := by
  have hk : key / 8 * 8 + p.va % 8 = key := by omega
  unfold pieceOf
  rw [toNat_word, Nat.pow_mul, Nat.pow_mul]
  exact (mgetN_div_mod m (key / 8 * 8) hn).trans (by rw [hk])

section
variable {p : Piece} {old : Word} {t x i : Nat} (hi : i < 8)
include hi

/-- What a merge of a piece is: the low bytes of the word, the piece's own, the word's high ones. -/
theorem byte_mergePiece (ht : t ≠ tagPoison) : (mergePiece p old t x).toNat / 256 ^ i % 256 =
    if p.va % 8 ≤ i ∧ i < p.va % 8 + p.n then x / 256 ^ (i - p.va % 8) % 256 else old.toNat / 256 ^ i % 256 := by
  have hx : x % 256 ^ p.n < 256 ^ p.n := Nat.mod_lt _ (by positivity)
  generalize ho : p.va % 8 = o
  generalize hC : old.toNat / 256 ^ o / 256 ^ p.n = C
  generalize hB : old.toNat / 256 ^ o % 256 ^ p.n = B
  generalize hA : old.toNat % 256 ^ o = A
  have hAlt : A < 256 ^ o := hA ▸ Nat.mod_lt _ (by positivity)
  have hBlt : B < 256 ^ p.n := hB ▸ Nat.mod_lt _ (by positivity)
  have hold : old.toNat = A + 256 ^ o * (B + 256 ^ p.n * C) := by rw [← hA, ← hB, ← hC, Nat.mod_add_div, Nat.mod_add_div]
  have hm : (mergePiece p old t x).toNat % 256 ^ 8 = (A + 256 ^ o * (x % 256 ^ p.n + 256 ^ p.n * C)) % 256 ^ 8 := by
    unfold mergePiece w64
    rw [if_neg ht, BitVec.toNat_ofNat, ho, Nat.pow_mul, Nat.pow_mul]
    show (old.toNat - old.toNat / 256 ^ o % 256 ^ p.n * 256 ^ o + x % 256 ^ p.n * 256 ^ o) % 256 ^ 8 % 256 ^ 8 = _
    rw [Nat.mod_mod, hB, hold]
    congr 1
    have e : A + 256 ^ o * (B + 256 ^ p.n * C) = B * 256 ^ o + (A + 256 ^ o * (256 ^ p.n * C)) := by ring
    rw [e, Nat.add_sub_cancel_left]
    ring
  rw [← byte_mod hi, hm, byte_mod hi, hold]
  split
  · next h => rw [byte_high hAlt h.1, byte_low (by omega), byte_mod (by omega)]
  · next h =>
    by_cases hlt : i < o
    · rw [byte_low hlt, byte_low hlt]
    · rw [byte_high hAlt (by omega), byte_high hAlt (by omega), byte_high hx (by omega), byte_high hBlt (by omega)]

/-- The piece's own bytes are stored also in a POISON word. -/
theorem byte_mergePiece_own (h : p.va % 8 ≤ i ∧ i < p.va % 8 + p.n) :
    (mergePiece p old t x).toNat / 256 ^ i % 256 = x / 256 ^ (i - p.va % 8) % 256 := by
  by_cases ht : t = tagPoison
  · have e : mergePiece p old t x = mergePiece p 0 tagData x := by
      unfold mergePiece
      rw [if_pos ht, if_neg (by decide)]
      rfl
    rw [e, byte_mergePiece hi (by decide), if_pos h]
  · rw [byte_mergePiece hi ht, if_pos h]

end

end Sys2Proof.Machine
end

section
/-! Proofs. Accesses in an LM: the pieces that a word of an LM serves, the bytes that a load of them gives and a store of them
replaces (R14, R20, R21). -/

namespace Sys2Proof.Machine

/-! ## A piece of a word of an LM -/

theorem storeView_lm (s : State) (n : Nat) {l : Loc} (h : l.kind = .lm) : s.storeView n l = (s, s.homeWord l) := if_pos h

theorem loadWord_lm (s : State) (n : Nat) {l : Loc} (h : l.kind = .lm) :
    (s.loadWord n l).1 = s ∧ (s.loadWord n l).2.1 = (s.homeWord l).1 ∧
      ((s.homeWord l).2 ≠ tagPoison → (s.loadWord n l).2.2 ≠ tagPoison) := by
  have hp : l.partner.kind = .lm := by unfold Loc.partner; split <;> exact h
  unfold State.loadWord
  rw [loadRaw_lm s n h]
  dsimp only
  split
  · rw [loadRaw_lm s n hp]
    refine ⟨rfl, rfl, fun _ => ?_⟩
    dsimp only
    split <;> decide
  · exact ⟨rfl, rfl, id⟩

/-- The state after a piece has been stored in a word of an LM. -/
def State.storePieceLm (s : State) (n : Nat) (p : Piece) (l : Loc) (x : Nat) : State :=
  s.storeWord n l (mergePiece p (s.homeWord l).1 (s.homeWord l).2 x) tagData

theorem storePieces_cons_lm (s : State) (n : Nat) (p : Piece) {l : Loc} (r : List (Piece × Loc)) (x : Nat) (h : l.kind = .lm) :
    storePieces n s ((p, l) :: r) x = storePieces n (s.storePieceLm n p l x) r (x / 2 ^ (8 * p.n)) := by
  rw [storePieces, storeView_lm s n h]
  rfl

section
variable {s : State} (hs : s.silt.valid = false) {l : Loc} (hl : l.kind = .lm) {p : Piece} (n x : Nat)
include hs hl

theorem storePieceLm_eq : ∃ a, s.storePieceLm n p l x =
    { s with mem := mputN s.mem (l.key / 8 * 8) 8 (mergePiece p (s.homeWord l).1 (s.homeWord l).2 x).toNat,
             tags := mput s.tags (l.key / 8) 0, agenda := a } := by
  unfold State.storePieceLm
  rw [storeWord_lm hs hl]
  exact changed_eq _ _ _

theorem silt_storePieceLm : (s.storePieceLm n p l x).silt = s.silt := by
  obtain ⟨a, e⟩ := storePieceLm_eq hs hl (p := p) n x
  rw [e]

theorem cores_storePieceLm : (s.storePieceLm n p l x).cores = s.cores := by
  obtain ⟨a, e⟩ := storePieceLm_eq hs hl (p := p) n x
  rw [e]

variable (hw : s.memWf)
include hw

theorem memWf_storePieceLm : (s.storePieceLm n p l x).memWf := by
  obtain ⟨a, e⟩ := storePieceLm_eq hs hl (p := p) n x
  obtain ⟨hmem, htags⟩ := hw
  rw [e]
  exact ⟨wf_mputN 8 _ _ hmem, wf_mput _ _ htags⟩

theorem tags_storePieceLm (k : Nat) :
    mget (s.storePieceLm n p l x).tags k = if k = l.key / 8 then 0 else mget s.tags k := by
  obtain ⟨a, e⟩ := storePieceLm_eq hs hl (p := p) n x
  rw [e]
  exact mget_mput hw.2 _ _ _

theorem mem_storePieceLm_outside {c : Nat} (h : c / 8 ≠ l.key / 8) : mget (s.storePieceLm n p l x).mem c = mget s.mem c := by
  obtain ⟨a, e⟩ := storePieceLm_eq hs hl (p := p) n x
  rw [e]
  exact mget_mputN_outside 8 _ _ _ hw.1 (by omega)

/-- A byte of the word that holds the piece. -/
theorem mem_storePieceLm_word {i : Nat} (hi : i < 8) : mget (s.storePieceLm n p l x).mem (l.key / 8 * 8 + i) =
    BitVec.ofNat 8 ((mergePiece p (s.homeWord l).1 (s.homeWord l).2 x).toNat / 256 ^ i) := by
  obtain ⟨a, e⟩ := storePieceLm_eq hs hl (p := p) n x
  rw [e]
  exact mget_mputN_inside hw.1 _ _ hi

variable (hk : l.key % 8 = p.va % 8)
include hk

theorem mem_storePieceLm_own (hn : p.va % 8 + p.n ≤ 8) {i : Nat} (hi : i < p.n) :
    mget (s.storePieceLm n p l x).mem (l.key + i) = BitVec.ofNat 8 (x / 256 ^ i) := by
  have e : l.key + i = l.key / 8 * 8 + (p.va % 8 + i) := by omega
  rw [e, mem_storePieceLm_word hs hl n x hw (by omega)]
  apply BitVec.eq_of_toNat_eq
  rw [BitVec.toNat_ofNat, BitVec.toNat_ofNat]
  have h := byte_mergePiece_own (p := p) (old := (s.homeWord l).1) (t := (s.homeWord l).2) (x := x) (i := p.va % 8 + i)
    (by omega) (by omega)
  rwa [Nat.add_sub_cancel_left] at h

/-- The bytes beside the piece stay, but in a POISON word. -/
theorem mem_storePieceLm_beside {c : Nat} (hc : c < l.key ∨ l.key + p.n ≤ c)
    (ht : (mget s.tags (l.key / 8)).toNat = tagPoison → c / 8 ≠ l.key / 8) :
    mget (s.storePieceLm n p l x).mem c = mget s.mem c := by
  by_cases hq : c / 8 = l.key / 8
  · obtain ⟨i, hi, rfl⟩ : ∃ i, i < 8 ∧ c = l.key / 8 * 8 + i := ⟨c % 8, by omega, by omega⟩
    have htag : (s.homeWord l).2 ≠ tagPoison := by
      rw [homeWord_lm s hl]
      exact fun h => ht h hq
    rw [mem_storePieceLm_word hs hl n x hw hi, mget_eq_byte s.mem _ hi]
    apply BitVec.eq_of_toNat_eq
    rw [BitVec.toNat_ofNat, BitVec.toNat_ofNat]
    refine (byte_mergePiece hi htag).trans ?_
    rw [if_neg (by omega), homeWord_lm s hl, toNat_word]
  · exact mem_storePieceLm_outside hs hl n x hw hq

end

end Sys2Proof.Machine
end

section
/-! Proofs. Accesses of kernel code in the addresses of its own LM (R14, R15): they pass their checks, and reach that LM piece by
piece. -/

namespace Sys2Proof.Machine

open Sys2Proof.Claims

/-! ## The pieces of an access -/

theorem pieces_zero (va fuel : Nat) : pieces va 0 fuel = [] := by
  cases fuel <;> rfl

theorem pieces_succ (va fuel : Nat) {n : Nat} (h : n ≠ 0) : pieces va n (fuel + 1) =
    ⟨va, min n (8 - va % 8)⟩ :: pieces (va + min n (8 - va % 8)) (n - min n (8 - va % 8)) fuel := if_neg h

theorem mem_pieces {p : Piece} : ∀ {fuel va n : Nat}, p ∈ pieces va n fuel →
    va ≤ p.va ∧ p.va + p.n ≤ va + n ∧ 0 < p.n ∧ p.va % 8 + p.n ≤ 8
  | 0, _, _, h => by cases h
  | fuel + 1, va, n, h => by
    by_cases hn : n = 0
    · rw [hn, pieces_zero] at h
      cases h
    · rw [pieces_succ va fuel hn] at h
      rcases List.mem_cons.mp h with rfl | h
      · dsimp only
        omega
      · obtain ⟨h1, h2, h3, h4⟩ := mem_pieces h
        omega

/-! ## Places of the addresses of an LM -/

/-- The place in a core's LM of an address from `aliasBase` on. -/
def aliasLoc (node va : Nat) : Loc := lmLoc node (va - aliasBase)

/-- Pieces from `aliasBase` on, with their places. -/
def aliasPieces (node : Nat) (ps : List Piece) : List (Piece × Loc) := ps.map fun p => (p, aliasLoc node p.va)

theorem place_alias {va : Nat} (h : aliasBase ≤ va) (h' : va < aliasBase + lmSize) : place va = .alias_ (va - aliasBase) := by
  unfold place aliasBase windowBase lmSize at *
  rw [if_neg (by omega), if_neg (by simp; omega), if_pos (by simp; omega)]

theorem key_aliasLoc_add (node : Nat) {va : Nat} (k : Nat) (h : aliasBase ≤ va) :
    (aliasLoc node (va + k)).key = (aliasLoc node va).key + k := by
  unfold aliasLoc lmLoc lmKey aliasBase at *
  dsimp only
  omega

theorem key_aliasLoc_mod (node : Nat) {va : Nat} (h : aliasBase ≤ va) : (aliasLoc node va).key % 8 = va % 8 := by
  unfold aliasLoc lmLoc lmKey aliasBase at *
  dsimp only
  omega

theorem placePieces_alias (n ctx : Nat) (kern : Bool) (a : Need) (s : State) : ∀ {ps : List Piece},
    (∀ p ∈ ps, aliasBase ≤ p.va ∧ p.va < aliasBase + lmSize) → placePieces n ctx kern a s ps = .ok (s, aliasPieces n ps)
  | [], _ => rfl
  | p :: r, h => by
    obtain ⟨h1, h2⟩ := h p (List.mem_cons_self ..)
    unfold placePieces
    rw [place_alias h1 h2, placePieces_alias n ctx kern a s fun q hq => h q (List.mem_cons_of_mem _ hq)]
    rfl

/-- An access of kernel code from `aliasBase` on that names no CAP base passes checks 2 to 9. -/
theorem reach_alias {s : State} {a : Need} (hk : s.kern = true) (hb : a.base.tag ≠ .cap) (ha : a.align = 0) (hn : 0 < a.n)
    (h : aliasBase ≤ a.ea.toNat) (h' : a.ea.toNat + a.n ≤ aliasBase + lmSize) :
    s.reach a = some (s, aliasPieces s.cur (pieces a.ea.toNat a.n a.n)) := by
  have hpre : preChecks s.kern a = .ok () := by simp [preChecks, capChecks, check, hk, hb, ha, bind, Except.bind]
  have hloc : locate s a = .ok (s, .here (aliasPieces s.cur (pieces a.ea.toNat a.n a.n))) := by
    have hps : ∀ p ∈ pieces a.ea.toNat a.n a.n, aliasBase ≤ p.va ∧ p.va < aliasBase + lmSize := fun p hp => by
      obtain ⟨h1, h2, h3, -⟩ := mem_pieces hp
      omega
    have hlt : a.ea.toNat < 2 ^ 48 := by
      unfold aliasBase lmSize at h'
      omega
    unfold locate
    dsimp only
    rw [place_alias h (by omega)]
    dsimp only
    rw [placePieces_alias _ _ _ _ _ hps]
    simp only [check, hlt, decide_true, if_true]
    rfl
  unfold State.reach
  rw [hpre, hloc]

/-! ## Loads and stores of them -/

theorem loadCheck_alias {s : State} {node : Nat} : ∀ {fuel va n : Nat}, n ≤ fuel → aliasBase ≤ va →
    (∀ i < n, (mget s.tags (((aliasLoc node va).key + i) / 8)).toNat ≠ tagPoison) →
    loadCheck node s (aliasPieces node (pieces va n fuel)) = .ok s
  | 0, _, _, _, _, _ => rfl
  | fuel + 1, va, n, hf, hv, ht => by
    by_cases hn : n = 0
    · rw [hn, pieces_zero]
      rfl
    · rw [pieces_succ va fuel hn]
      have hrest := loadCheck_alias (s := s) (node := node) (fuel := fuel) (va := va + min n (8 - va % 8))
        (n := n - min n (8 - va % 8)) (by omega) (by omega) fun i hi => by
          rw [key_aliasLoc_add node _ hv, Nat.add_assoc]
          exact ht _ (by omega)
      obtain ⟨h1, -, h3⟩ := loadWord_lm s node (l := aliasLoc node va) rfl
      have h0 := ht 0 (by omega)
      rw [Nat.add_zero] at h0
      have htag := h3 (by rwa [homeWord_lm s rfl])
      show loadCheck node s ((_, aliasLoc node va) :: aliasPieces node (pieces _ _ fuel)) = _
      unfold loadCheck
      simp only [h1, check, htag, ne_eq, not_false_eq_true, decide_true, if_true]
      exact hrest

theorem loadPieces_alias {s : State} {node : Nat} : ∀ {fuel va n : Nat}, n ≤ fuel → aliasBase ≤ va →
    loadPieces node s (aliasPieces node (pieces va n fuel)) = (s, mgetN s.mem (aliasLoc node va).key n)
  | 0, _, n, hf, _ => by
    obtain rfl : n = 0 := by omega
    rfl
  | fuel + 1, va, n, hf, hv => by
    by_cases hn : n = 0
    · rw [hn, pieces_zero]
      rfl
    · rw [pieces_succ va fuel hn]
      generalize hk : min n (8 - va % 8) = k
      have hrest := loadPieces_alias (s := s) (node := node) (fuel := fuel) (va := va + k) (n := n - k) (by omega) (by omega)
      obtain ⟨h1, h2, -⟩ := loadWord_lm s node (l := aliasLoc node va) rfl
      have hpiece := pieceOf_word s.mem (p := ⟨va, k⟩) (key_aliasLoc_mod node hv) (by dsimp only; omega)
      show loadPieces node s ((_, aliasLoc node va) :: aliasPieces node (pieces _ _ fuel)) = _
      unfold loadPieces
      simp only [h1, h2, hrest]
      rw [homeWord_lm s rfl, hpiece, key_aliasLoc_add node k hv, Nat.pow_mul]
      have e := mgetN_add s.mem k (aliasLoc node va).key (n - k)
      rw [show k + (n - k) = n by omega] at e
      exact congrArg (Prod.mk s) e.symm

theorem storeCheck_alias {s : State} {node : Nat} : ∀ {fuel va n : Nat}, n ≤ fuel → aliasBase ≤ va →
    (∀ i < n, (mget s.tags (((aliasLoc node va).key + i) / 8)).toNat ≠ tagSync) →
    storeCheck node s (aliasPieces node (pieces va n fuel)) = .ok s
  | 0, _, _, _, _, _ => rfl
  | fuel + 1, va, n, hf, hv, ht => by
    by_cases hn : n = 0
    · rw [hn, pieces_zero]
      rfl
    · rw [pieces_succ va fuel hn]
      have hrest := storeCheck_alias (s := s) (node := node) (fuel := fuel) (va := va + min n (8 - va % 8))
        (n := n - min n (8 - va % 8)) (by omega) (by omega) fun i hi => by
          rw [key_aliasLoc_add node _ hv, Nat.add_assoc]
          exact ht _ (by omega)
      have h0 := ht 0 (by omega)
      rw [Nat.add_zero] at h0
      have htag : (s.homeWord (aliasLoc node va)).2 ≠ tagSync := by rwa [homeWord_lm s rfl]
      have hpin : s.pinsOwn (aliasLoc node va) = false := rfl
      show storeCheck node s ((_, aliasLoc node va) :: aliasPieces node (pieces _ _ fuel)) = _
      unfold storeCheck
      rw [storeView_lm s node rfl]
      simp only [check, htag, hpin, ne_eq, not_false_eq_true, decide_true, if_true]
      exact hrest

/-- A store of `n` bytes in an LM: memory holds the number's bytes from `key` on and is else as before, and the words stored to
are DATA. -/
structure StoredAt (s t : State) (key n x : Nat) : Prop where
  own : ∀ i < n, mget t.mem (key + i) = BitVec.ofNat 8 (x / 256 ^ i)
  beside : ∀ c, c < key ∨ key + n ≤ c → mget t.mem c = mget s.mem c
  tags : ∀ i < n, mget t.tags ((key + i) / 8) = 0
  others : ∀ k, (∀ i < n, k ≠ (key + i) / 8) → mget t.tags k = mget s.tags k
  cores : t.cores = s.cores

theorem storePieces_alias {node : Nat} : ∀ {fuel va n : Nat} {s : State} {x : Nat}, n ≤ fuel → aliasBase ≤ va →
    s.memWf → s.silt.valid = false →
    (∀ i < n, (mget s.tags (((aliasLoc node va).key + i) / 8)).toNat ≠ tagPoison) →
    StoredAt s (storePieces node s (aliasPieces node (pieces va n fuel)) x) (aliasLoc node va).key n x
  | 0, _, n, s, x, hf, _, _, _, _ => by
    obtain rfl : n = 0 := by omega
    exact ⟨by omega, fun _ _ => rfl, by omega, fun _ _ => rfl, rfl⟩
  | fuel + 1, va, n, s, x, hf, hv, hw, hs, ht => by
    by_cases hn : n = 0
    · rw [hn, pieces_zero]
      exact ⟨by omega, fun _ _ => rfl, by omega, fun _ _ => rfl, rfl⟩
    · rw [pieces_succ va fuel hn]
      generalize hk : min n (8 - va % 8) = k
      have hmod := key_aliasLoc_mod node hv
      have hkey := key_aliasLoc_add node k hv
      have hin : va % 8 + k ≤ 8 := by omega
      have hrest := storePieces_alias (node := node) (fuel := fuel) (va := va + k) (n := n - k)
        (s := s.storePieceLm node ⟨va, k⟩ (aliasLoc node va) x) (x := x / 256 ^ k) (by omega) (by omega)
        (memWf_storePieceLm hs rfl node x hw) (by rw [silt_storePieceLm hs rfl]; exact hs) fun i hi => by
          rw [tags_storePieceLm hs rfl node x hw]
          split
          · decide
          · rw [hkey, Nat.add_assoc]
            exact ht _ (by omega)
      show StoredAt s (storePieces node s ((⟨va, k⟩, aliasLoc node va) :: aliasPieces node (pieces (va + k) (n - k) fuel)) x) _ n x
      rw [storePieces_cons_lm _ _ _ _ _ rfl, show 2 ^ (8 * k) = 256 ^ k from Nat.pow_mul 2 8 k]
      obtain ⟨hown, hbeside, htags, hothers, hcores⟩ := hrest
      rw [hkey] at hown hbeside htags hothers
      have h0 := ht 0 (by omega)
      rw [Nat.add_zero] at h0
      refine ⟨fun i hi => ?_, fun c hc => ?_, fun i hi => ?_, fun w hne => ?_, ?_⟩
      · by_cases hik : i < k
        · rw [hbeside _ (by omega)]
          exact mem_storePieceLm_own hs rfl node x hw hmod hin hik
        · have h := hown (i - k) (by omega)
          rw [show (aliasLoc node va).key + k + (i - k) = (aliasLoc node va).key + i by omega, Nat.div_div_eq_div_mul,
            ← Nat.pow_add, show k + (i - k) = i by omega] at h
          exact h
      · rw [hbeside c (by omega)]
        exact mem_storePieceLm_beside hs rfl node x hw hmod (by dsimp only; omega) fun h => absurd h h0
      · by_cases hik : i < k
        · have hword : ((aliasLoc node va).key + i) / 8 = (aliasLoc node va).key / 8 := by omega
          rw [hword, hothers _ fun j hj => by omega, tags_storePieceLm hs rfl node x hw, if_pos rfl]
        · have h := htags (i - k) (by omega)
          rwa [show (aliasLoc node va).key + k + (i - k) = (aliasLoc node va).key + i by omega] at h
      · have hne0 := hne 0 (by omega)
        rw [Nat.add_zero] at hne0
        rw [hothers w fun j hj => by rw [Nat.add_assoc]; exact hne _ (by omega), tags_storePieceLm hs rfl node x hw, if_neg hne0]
      · rw [hcores]
        exact cores_storePieceLm hs rfl node x

/-! ## The statement -/

theorem aliasBytes : AliasBytes := by
  intro s off n b code x hw hs hk hb hn hoff
  have hea : (BitVec.ofNat 64 (0xF80000000000 + off)).toNat = aliasBase + off := by
    rw [BitVec.toNat_ofNat]
    exact Nat.mod_eq_of_lt (by omega)
  have hkey : (aliasLoc s.cur (aliasBase + off)).key = 2 ^ 49 + s.cur * 2 ^ 17 + off := by
    unfold aliasLoc
    rw [Nat.add_sub_cancel_left]
    rfl
  have hbound : aliasBase + off + n ≤ aliasBase + lmSize := by
    unfold lmSize
    omega
  refine ⟨fun ht => ?_, fun ht => ?_⟩
  · have hreach := reach_alias (a := loadAt b code (BitVec.ofNat 64 (0xF80000000000 + off)) n) hk hb rfl hn
      (hea.symm ▸ Nat.le_add_right ..) (hea.symm ▸ hbound)
    rw [← hkey] at ht ⊢
    refine ⟨s, ?_, rfl⟩
    unfold State.loads State.readable
    rw [hreach]
    dsimp only [loadAt]
    rw [hea, loadCheck_alias (Nat.le_refl n) (Nat.le_add_right ..) ht]
    exact congrArg some (loadPieces_alias (Nat.le_refl n) (Nat.le_add_right ..))
  · have hreach := reach_alias (a := storeAt b code (BitVec.ofNat 64 (0xF80000000000 + off)) n) hk hb rfl hn
      (hea.symm ▸ Nat.le_add_right ..) (hea.symm ▸ hbound)
    rw [← hkey] at ht ⊢
    have hstored := storePieces_alias (node := s.cur) (x := x) (Nat.le_refl n) (Nat.le_add_right aliasBase off) hw hs
      fun i hi => (ht i hi).2
    obtain ⟨hown, hbeside, htags, -, hcores⟩ := hstored
    refine ⟨_, ?_, hown, hbeside, htags, hcores⟩
    unfold State.stores State.writable
    rw [hreach]
    dsimp only [storeAt]
    rw [hea, storeCheck_alias (Nat.le_refl n) (Nat.le_add_right ..) fun i hi => (ht i hi).1]
    rfl

end Sys2Proof.Machine
end

section
/-! Proofs. The place of an access (R32, R42): translation changes a core's micro-TLB, the group TLB and the walk cache, and no thread, no
memory and no other core. -/

namespace Sys2Proof.Machine

/-! ## Translation -/

/-- The second state has the memory, the cores and the executing berth of the first. -/
structure State.Beside (s t : State) : Prop where
  cur : t.cur = s.cur
  cb : t.cb = s.cb
  mem : t.mem = s.mem
  tags : t.tags = s.tags
  silt : t.silt = s.silt
  cores : t.cores = s.cores

theorem State.Beside.refl (s : State) : s.Beside s := ⟨rfl, rfl, rfl, rfl, rfl, rfl⟩

theorem State.Beside.trans {s t u : State} (h : s.Beside t) (k : t.Beside u) : s.Beside u :=
  ⟨k.cur.trans h.cur, k.cb.trans h.cb, k.mem.trans h.mem, k.tags.trans h.tags, k.silt.trans h.silt, k.cores.trans h.cores⟩

theorem beside_drawn (s : State) : s.Beside s.drawn := ⟨rfl, rfl, rfl, rfl, rfl, rfl⟩

theorem beside_laterOnce (s : State) (e : Event) : s.Beside (s.laterOnce e) := by
  unfold State.laterOnce
  split
  · exact .refl s
  · exact ⟨rfl, rfl, rfl, rfl, rfl, rfl⟩

theorem beside_dramExit (s : State) : s.Beside s.dramExit := by
  unfold State.dramExit
  split
  · exact (show s.Beside { s with dramsr := false } from ⟨rfl, rfl, rfl, rfl, rfl, rfl⟩).trans (beside_laterOnce _ _)
  · exact .refl s

theorem beside_roomIn {α : Type} (s : State) (k : Nat) (l : List α) : s.Beside (s.roomIn k l).1 := by
  unfold State.roomIn
  split
  · exact .refl s
  · exact beside_drawn s

theorem beside_cacheWalk (s : State) (k : Nat) (es : List WalkEntry) : s.Beside (s.cacheWalk k es) :=
  List.foldlRecOn es _ (motive := s.Beside) (.refl s) fun t ht x _ => by
    split
    · exact ht
    · exact (ht.trans (beside_roomIn t 256 _)).trans ⟨rfl, rfl, rfl, rfl, rfl, rfl⟩

theorem beside_fillGroup (s : State) (n : Nat) (t : Tlb) : s.Beside (s.fillGroup n t) :=
  (beside_roomIn s 8 _).trans ⟨rfl, rfl, rfl, rfl, rfl, rfl⟩

/-- The second state is the first one after translations of a core `n`: of the cores only `n` has changed, in its micro-TLB. -/
structure State.Translated (n : Nat) (s t : State) : Prop where
  cur : t.cur = s.cur
  cb : t.cb = s.cb
  mem : t.mem = s.mem
  tags : t.tags = s.tags
  silt : t.silt = s.silt
  others : ∀ k, k ≠ n → t.core k = s.core k
  own : ∃ l, t.core n = { s.core n with tlb := l }

theorem State.Beside.translated {s t : State} (h : s.Beside t) (n : Nat) : s.Translated n t := by
  have hc (k : Nat) : t.core k = s.core k := by rw [State.core, State.core, h.cores]
  exact ⟨h.cur, h.cb, h.mem, h.tags, h.silt, fun k _ => hc k, _, hc n⟩

theorem State.Translated.trans {n : Nat} {s t u : State} (h : s.Translated n t) (k : t.Translated n u) : s.Translated n u := by
  obtain ⟨l, hl⟩ := h.own
  obtain ⟨m, hm⟩ := k.own
  exact ⟨k.cur.trans h.cur, k.cb.trans h.cb, k.mem.trans h.mem, k.tags.trans h.tags, k.silt.trans h.silt,
    fun i hi => (k.others i hi).trans (h.others i hi), m, by rw [hm, hl]⟩

theorem translated_fillMicro (s : State) (n : Nat) (t : Tlb) : s.Translated n (s.fillMicro n t) := by
  exact ((beside_roomIn s 32 (s.core n).tlb).translated n).trans
    ⟨rfl, rfl, rfl, rfl, rfl, fun k hk => core_setCore_other _ _ hk, _, core_setCore _ _ _⟩

theorem translated_lookTlb (s : State) (n ctx va : Nat) :
    Ends (fun _ => True) (fun r => s.Translated n r.1) (s.lookTlb n ctx va) := by
  unfold State.lookTlb
  split
  · exact (State.Beside.refl s).translated n
  · split
    · exact translated_fillMicro s n _
    · split
      · trivial
      · exact ((((beside_drawn s).trans (beside_dramExit _)).trans (beside_cacheWalk _ _ _)).trans
          (beside_fillGroup _ _ _)).translated n |>.trans (translated_fillMicro _ n _)

theorem translated_translate (s : State) (n ctx va : Nat) :
    Ends (fun _ => True) (fun r => s.Translated n r.1) (s.translate n ctx va) := by
  unfold State.translate
  split
  · trivial
  · next e => exact .ite trivial ((translated_lookTlb s n ctx va).ok e)

/-! ## Pieces and their places -/

/-- Pieces `ps` with their places: one in an LM has the address's offset in its word. -/
def Placed (ps : List Piece) (l : List (Piece × Loc)) : Prop :=
  l.map (·.1) = ps ∧ ∀ p ∈ l, p.2.kind = .lm → p.2.key % 8 = p.1.va % 8

theorem Placed.nil : Placed [] [] := ⟨rfl, fun _ h => by cases h⟩

theorem Placed.cons {p : Piece} {k : Loc} {ps : List Piece} {l : List (Piece × Loc)} (h : Placed ps l)
    (hk : k.kind = .lm → k.key % 8 = p.va % 8) : Placed (p :: ps) ((p, k) :: l) := by
  obtain ⟨h1, h2⟩ := h
  refine ⟨congrArg _ h1, fun q hq => ?_⟩
  rcases List.mem_cons.mp hq with rfl | hq
  · exact hk
  · exact h2 q hq

theorem kind_loc_ne_lm (l : Tlb) (va : Nat) : (l.loc va).kind ≠ .lm := by
  unfold Tlb.loc physLoc
  dsimp only
  split <;> simp

theorem place_window_mod {va r off : Nat} (h : place va = .window r off) : off % 8 = va % 8 := by
  unfold place at h
  split_ifs at h
  cases h
  omega

theorem place_alias_mod {va off : Nat} (h : place va = .alias_ off) : off % 8 = va % 8 := by
  unfold place at h
  split_ifs at h with h1 h2 h3 h4
  · have e := Place.alias_.inj h
    have hb : aliasBase ≤ va := of_decide_eq_true (Bool.and_eq_true_iff.mp h4).1
    unfold aliasBase at e hb
    omega

theorem key_lmLoc_mod (n : Nat) {off va : Nat} (h : off % 8 = va % 8) : (lmLoc n off).key % 8 = va % 8 := by
  unfold lmLoc lmKey
  dsimp only
  omega

theorem placed_placePieces {n ctx : Nat} {kern : Bool} {a : Need} : ∀ {ps : List Piece} {s : State},
    Ends (fun _ => True) (fun r => s.Translated n r.1 ∧ Placed ps r.2) (placePieces n ctx kern a s ps)
  | [], s => ⟨(State.Beside.refl s).translated n, .nil⟩
  | p :: ps, s => by
    unfold placePieces
    split
    · split
      · trivial
      · next e =>
        have ht := (translated_translate s n ctx p.va).ok e
        exact .bind .any fun _ _ => .bind placed_placePieces fun _ k =>
          ⟨ht.trans k.1, k.2.cons fun h => absurd h (kind_loc_ne_lm _ _)⟩
    · next e => exact .bind placed_placePieces fun _ k => ⟨k.1, k.2.cons fun _ => key_lmLoc_mod n (place_alias_mod e)⟩
    · next e => exact .bind placed_placePieces fun _ k => ⟨k.1, k.2.cons fun _ => key_lmLoc_mod n (place_window_mod e)⟩
    · trivial

/-- What an access reaches: the state after translation, and its pieces with their places. -/
theorem placed_of_reach {s u : State} {a : Need} {l : List (Piece × Loc)} (h : s.reach a = some (u, l)) :
    s.Translated s.cur u ∧ Placed (pieces a.ea.toNat a.n a.n) l := by
  have hp := placed_placePieces (n := s.cur) (ctx := s.here.ctxid) (kern := s.kern) (a := a) (s := s)
    (ps := pieces a.ea.toNat a.n a.n)
  have hloc : Ends (fun _ => True) (fun r => ∀ l, r.2 = .here l → s.Translated s.cur r.1 ∧ Placed (pieces a.ea.toNat a.n a.n) l)
      (locate s a) := by
    have here (x : M (State × List (Piece × Loc)))
        (h : Ends (fun _ => True) (fun r => s.Translated s.cur r.1 ∧ Placed (pieces a.ea.toNat a.n a.n) r.2) x) :
        Ends (fun _ => True) (fun r => ∀ l, r.2 = .here l → s.Translated s.cur r.1 ∧ Placed (pieces a.ea.toNat a.n a.n) l)
          (do let (t, l) ← x; (.ok (t, .here l) : M (State × Where))) :=
      h.bind fun r k l e => by cases e; exact k
    unfold locate
    refine .bind .any fun _ _ => ?_
    split
    · exact fun l e => by cases e
    · refine .ite (here _ hp) ?_
      dsimp only
      split
      · trivial
      · exact fun l e => by cases e
    · exact here _ hp
  unfold State.reach at h
  split at h
  · cases h
  · split at h
    · next e =>
      cases h
      exact hloc.ok e _ rfl
    · cases h

end Sys2Proof.Machine
end

section
/-! Proofs. Stores that meet no other copy and need no other line's place (R63, R64, R69): what they leave alone. -/

namespace Sys2Proof.Machine

/-! ## A store's way is clear -/

/-- The different lines of an L1 in the set of a line. -/
def Core.ways (c : Core) (line : Nat) : List Nat := ((c.l1.map (·.word / 8)).filter fun k => k % 1024 = line % 1024).eraseDups

/-- No core owns a word, its line has room in the L1 of the core `n` with `i` lines to come, and in the L2 with `j`; a pool line is the
place's own. -/
structure State.Open (s : State) (n : Nat) (l : Loc) (i j : Nat) : Prop where
  unowned : s.ownersOf (l.key / 8) = []
  ways : l.key / 64 ∈ (s.core n).ways (l.key / 64) ∨ ((s.core n).ways (l.key / 64)).length + i ≤ 8
  pool : l.kind = .pool → alGet s.owners (l.key / 64) = some (l.ctx, l.slot)
  l2 : l.kind = .dram → s.tstate = 2 → (s.l2At (l.key / 64)).any (·.is l) = true ∨
    s.l2At (l.key / 64) = none ∧ (s.l2Set (l.key / 64)).length + j ≤ 16

/-- A core holds the line of a place under no other context or key slot. -/
def Core.Lone (c : Core) (l : Loc) : Prop := ∀ w ∈ c.l1, w.word / 8 = l.key / 64 → w.ctx = l.ctx ∧ w.slot = l.slot

/-- A core's store to a place meets no other copy: the core owns the word, or nobody does and there is room. -/
structure State.Clear (s : State) (n : Nat) (l : Loc) (i j : Nat) : Prop where
  lone : (s.core n).Lone l
  held : ((s.core n).l1At l).any (·.owned) = true ∨ s.Open n l i j

/-- No line more than 16 stands in a set of the L2: a place that has its way clear with 17 lines to come has its line there. -/
def settled : Nat := 17

theorem clear_of_sole {s : State} {l : Loc} (h : s.sole l = true) : s.Clear s.cur l 2 2 := by
  unfold State.sole at h
  simp only [Bool.and_eq_true, Bool.or_eq_true, List.all_eq_true, decide_eq_true_eq, List.isEmpty_iff, List.contains_iff_mem,
    Option.isNone_iff_eq_none] at h
  obtain ⟨hl, hh⟩ := h
  refine ⟨fun w hw e => (hl w hw).resolve_left (not_not_intro e), hh.imp_right ?_⟩
  rintro ⟨⟨⟨hu, hw⟩, hp⟩, h2⟩
  refine ⟨hu, hw.imp_right fun h => Nat.add_le_of_le_sub (by omega) (by exact Nat.le_of_lt_succ h),
    fun hk => hp.resolve_left (not_not_intro hk), fun hk ht => ?_⟩
  rcases h2 with ((h | h) | h) | h
  · exact absurd hk h
  · exact absurd ht h
  · exact .inl h
  · exact .inr ⟨h.1, by omega⟩

theorem State.Clear.mono {s : State} {n : Nat} {l : Loc} {i j i' j' : Nat} (h : s.Clear n l i j) (hi : i' ≤ i) (hj : j' ≤ j) :
    s.Clear n l i' j' := by
  refine ⟨h.lone, h.held.imp_right fun ⟨hu, hw, hp, h2⟩ => ⟨hu, hw.imp_right fun h => by omega, hp, fun hk ht => ?_⟩⟩
  exact (h2 hk ht).imp_right fun h => ⟨h.1, by omega⟩

/-! ## The word as the store finds it -/

/-- The second state is the first one, but that the L2 may have taken the line of a place, which it did not hold. -/
structure State.Filled (l : Loc) (s t : State) : Prop where
  beside : s.Beside t
  owners : t.owners = s.owners
  tstate : t.tstate = s.tstate
  l2On : t.l2On = s.l2On
  l2 : t.l2 = s.l2 ∨ s.l2At (l.key / 64) = none ∧ ∃ x : L2Line, x.unit = l.key / 64 ∧ x.is l = true ∧ t.l2 = x :: s.l2

theorem State.Filled.refl (l : Loc) (s : State) : s.Filled l s := ⟨.refl s, rfl, rfl, rfl, .inl rfl⟩

theorem filled_dramExit (l : Loc) (s : State) : s.Filled l s.dramExit := by
  refine ⟨beside_dramExit s, ?_, ?_, ?_, .inl ?_⟩ <;>
  · unfold State.dramExit State.laterOnce
    split
    · split <;> rfl
    · rfl

theorem State.Beside.core {s t : State} (h : s.Beside t) (n : Nat) : t.core n = s.core n := by
  rw [State.core, State.core, h.cores]

theorem State.Beside.ownersOf {s t : State} (h : s.Beside t) (w : Nat) : t.ownersOf w = s.ownersOf w := by
  rw [State.ownersOf, State.ownersOf, h.cores]

/-- What a fill of a clear place's line leaves. -/
theorem filled_l2Fetch {s : State} {n : Nat} {l : Loc} {i j : Nat} (h : s.Open n l i j) (hj : 0 < j) :
    s.Filled l (s.l2Fetch l) := by
  unfold State.l2Fetch
  dsimp only
  split
  · next hk =>
    split
    · next ht =>
      rcases h.l2 hk ht with h2 | ⟨h2, hlen⟩
      · split
        · next e =>
          rw [e, Option.any_some] at h2
          rw [if_pos h2]
          exact .refl l s
        · next e =>
          rw [e] at h2
          cases h2
      · rw [h2]
        have hroom : s.l2Room (l.key / 64) = s := if_pos (by omega)
        dsimp only
        rw [hroom]
        exact ⟨⟨rfl, rfl, rfl, rfl, rfl, rfl⟩, rfl, rfl, rfl, .inr ⟨h2, _, rfl, by simp [L2Line.is], rfl⟩⟩
    · exact filled_dramExit l s
  · exact .refl l s

theorem storeView_of_owned {s : State} {n : Nat} {l : Loc} (hl : l.kind ≠ .lm) (h : ((s.core n).l1At l).any (·.owned) = true) :
    (s.storeView n l).1 = s := by
  unfold State.storeView
  rw [if_neg hl]
  split
  · next e =>
    rw [e, Option.any_some] at h
    rw [if_pos h]
  · next e =>
    rw [e] at h
    cases h

theorem storeView_of_unowned {s : State} {n : Nat} {l : Loc} (hl : l.kind ≠ .lm)
    (h : ((s.core n).l1At l).any (·.owned) ≠ true) (hu : s.ownersOf (l.key / 8) = []) :
    (s.storeView n l).1 = s.l2Fetch l := by
  have hr : (s.readHome l).1 = s.l2Fetch l := by
    have hf : s.forward (l.key / 8) = s := by
      unfold State.forward
      rw [hu]
      rfl
    unfold State.readHome
    rw [if_neg hl, hf]
  unfold State.storeView
  rw [if_neg hl]
  split
  · next e =>
    rw [e, Option.any_some] at h
    rw [if_neg h]
    exact hr
  · exact hr

theorem filled_storeView {s : State} {n : Nat} {l : Loc} {i j : Nat} (hl : l.kind ≠ .lm) (h : s.Clear n l i j) (hj : 0 < j) :
    s.Filled l (s.storeView n l).1 := by
  by_cases ho : ((s.core n).l1At l).any (·.owned) = true
  · rw [storeView_of_owned hl ho]
    exact .refl l s
  · have hop := h.held.resolve_left ho
    rw [storeView_of_unowned hl ho hop.unowned]
    exact filled_l2Fetch hop hj

/-! ## A way stays clear -/

/-- Two places in one line are of one context and key slot. -/
def Loc.Agrees (l m : Loc) : Prop := l.key / 64 = m.key / 64 → l.ctx = m.ctx ∧ l.slot = m.slot

theorem L2Line.is_of_agrees {x : L2Line} {l m : Loc} (h : x.is l = true) (hlm : l.Agrees m) (e : l.key / 64 = m.key / 64) :
    x.is m = true := by
  obtain ⟨h1, h2⟩ := hlm e
  unfold L2Line.is at h ⊢
  rwa [← h1, ← h2]

/-- A fill for one place leaves the way to another clear, with one line less to come. -/
theorem State.Filled.clear {s t : State} {l m : Loc} {n i j j' : Nat} (h : s.Filled l t) (hlm : l.Agrees m) (hm : s.Clear n m i j')
    (hj : j < j' ∨ settled ≤ j') : t.Clear n m i j := by
  obtain ⟨hb, ho, hts, hon, hl2⟩ := h
  obtain ⟨hlone, hheld⟩ := hm
  refine ⟨by rw [hb.core]; exact hlone, ?_⟩
  rw [hb.core]
  refine hheld.imp_right fun ⟨hu, hw, hp, h2⟩ => ⟨by rw [hb.ownersOf]; exact hu, by rw [hb.core]; exact hw, by rw [ho]; exact hp,
    fun hk ht => ?_⟩
  have hslice (pa : Nat) : t.slice pa = s.slice pa := by rw [State.slice, State.slice, hon]
  rw [hts] at ht
  have h2 := h2 hk ht
  have hset : (s.l2Set (m.key / 64)).length + j' ≤ 16 → j < j' := fun hle => hj.resolve_right fun hge => by
    unfold settled at hge
    omega
  rcases hl2 with e | ⟨hnone, x, hx, hxl, e⟩
  · unfold State.l2At State.l2Set at h2 hset ⊢
    simp only [hslice, e]
    exact h2.imp_right fun h => ⟨h.1, by have hlt := hset h.2; omega⟩
  · by_cases hlm' : l.key / 64 = m.key / 64
    · left
      unfold State.l2At
      rw [e, List.find?_cons_of_pos (by simp [hx, hlm'])]
      exact L2Line.is_of_agrees hxl hlm hlm'
    · have hat : t.l2At (m.key / 64) = s.l2At (m.key / 64) := by
        unfold State.l2At
        rw [e, List.find?_cons_of_neg (by simp [hx, hlm'])]
      have hlen : (t.l2Set (m.key / 64)).length ≤ (s.l2Set (m.key / 64)).length + 1 := by
        unfold State.l2Set
        simp only [hslice, e, List.filter_cons]
        split <;> simp
      rw [hat]
      exact h2.imp_right fun h => ⟨h.1, by have hlt := hset h.2; omega⟩

/-- The line that a store has looked at stands in the L2, where it needs it. -/
theorem clear_storeView {s : State} {n : Nat} {l : Loc} {i j : Nat} (hl : l.kind ≠ .lm) (h : s.Clear n l i j) (hj : 0 < j) :
    (s.storeView n l).1.Clear n l i settled := by
  have hf := filled_storeView hl h hj
  by_cases ho : ((s.core n).l1At l).any (·.owned) = true
  · rw [storeView_of_owned hl ho]
    exact ⟨h.lone, .inl ho⟩
  · have hop := h.held.resolve_left ho
    obtain ⟨hlone, hheld⟩ := hf.clear (l := l) (m := l) (fun _ => ⟨rfl, rfl⟩) h (j := j - 1) (.inl (by omega))
    refine ⟨hlone, hheld.imp_right fun ⟨hu, hw, hp, _⟩ => ⟨hu, hw, hp, fun hk ht => .inl ?_⟩⟩
    rw [hf.tstate] at ht
    rw [storeView_of_unowned hl ho hop.unowned]
    have h2 := hop.l2 hk ht
    unfold State.l2Fetch
    rw [if_pos hk, if_pos ht]
    rcases h2 with h2 | ⟨h2, hlen⟩
    · split
      · next e =>
        rw [e, Option.any_some] at h2
        rw [if_pos h2, e]
        exact h2
      · next e =>
        rw [e] at h2
        cases h2
    · rw [h2]
      simp [State.l2At, State.l2Fill, L2Line.is]

end Sys2Proof.Machine
end

section
/-! Proofs. The frame of a store (R63, R21, R22; O10). -/

namespace Sys2Proof.Machine

/-! ## The store of a word whose way is clear -/

theorem dropOthers_of_lone {s : State} {n : Nat} {l : Loc} (h : (s.core n).Lone l) : s.dropOthers n l = s := by
  refine if_neg ?_
  simp only [List.any_eq_true, Bool.and_eq_true, decide_eq_true_eq, Bool.not_eq_true', Bool.and_eq_false_iff, decide_eq_false_iff_not,
    not_exists, not_and, not_or, not_not]
  exact fun w hw e => h w hw e

theorem register_of_open {s : State} {n : Nat} {l : Loc} {i j : Nat} (h : s.Open n l i j) : s.register l = s := by
  have hall : s.revokeAll (l.key / 8) = s := by
    unfold State.revokeAll
    rw [h.unowned]
    rfl
  have hfor : s.revokeFor l = s := by
    refine (if_neg ?_).trans hall
    by_cases hp : l.kind = .pool
    · simp [h.pool hp]
    · simp [hp]
  have hclaim : s.claim l = s := by
    refine if_pos ?_
    by_cases hp : l.kind = .pool
    · simp [h.pool hp]
    · simp [hp]
  unfold State.register
  dsimp only
  rw [hfor, hclaim]
  exact ite_self s

/-- The word that a store leaves in an L1. -/
def storedWord (l : Loc) (v : Word) (t : Nat) : L1Word := ⟨l.key / 8, l.ctx, l.slot, .od, v, t, false, false⟩

theorem storeWord_of_clear {s : State} {n : Nat} {l : Loc} {i j : Nat} (hl : l.kind ≠ .lm)
    (h : s.Clear n l i j) (hi : 0 < i) (v : Word) (t : Nat) :
    s.storeWord n l v t = (s.setCore n ((s.core n).l1Put (storedWord l v t))).changed l v := by
  unfold State.storeWord
  rw [if_neg hl]
  dsimp only
  rw [dropOthers_of_lone h.lone]
  rcases h.held with ho | hop
  · split
    · next e =>
      rw [e, Option.any_some] at ho
      rw [if_pos ho]
      rfl
    · next e =>
      rw [e] at ho
      cases ho
  · have hroom : s.l1Room n (l.key / 64) = s := by
      refine if_pos ?_
      have hw := hop.ways
      unfold Core.ways at hw
      simp only [Bool.or_eq_true, List.contains_iff_mem, decide_eq_true_eq]
      exact hw.imp_right fun h => by omega
    rw [register_of_open hop, hroom]
    split
    · rw [ite_self]
      rfl
    · rfl

/-! ## The L1 after it -/

theorem l1At_l1Put_other {c : Core} {l k : Loc} (v : Word) (t : Nat) (h : l.key / 8 ≠ k.key / 8) :
    (c.l1Put (storedWord l v t)).l1At k = c.l1At k := by
  unfold Core.l1At Core.l1Put
  dsimp only
  rw [List.find?_cons_of_neg (by simp [L1Word.is, storedWord, h]), List.find?_filter]
  congr 1
  funext w
  by_cases hw : w.is k = true
  · have hne : w.word ≠ (storedWord l v t).word := by
      unfold L1Word.is at hw
      simp only [Bool.and_eq_true, decide_eq_true_eq] at hw
      rw [hw.1.1]
      exact Ne.symm h
    simp [hw, hne]
  · simp [hw]

theorem lone_l1Put {c : Core} {l m : Loc} (v : Word) (t : Nat) (hlm : l.Agrees m) (h : c.Lone m) :
    (c.l1Put (storedWord l v t)).Lone m := by
  intro w hw e
  rcases List.mem_cons.mp hw with rfl | hw
  · exact hlm (by simp only [storedWord] at e; omega)
  · exact h w (List.mem_of_mem_filter hw) e

theorem any_owned_l1Put {c : Core} {l m : Loc} (v : Word) (t : Nat) (h : l.key / 8 ≠ m.key / 8)
    (hc : (c.l1.any fun w => w.word = m.key / 8 && w.owned) = false) :
    ((c.l1Put (storedWord l v t)).l1.any fun w => w.word = m.key / 8 && w.owned) = false := by
  simp only [List.any_eq_false] at hc ⊢
  intro w hw
  rcases List.mem_cons.mp hw with rfl | hw
  · simp [storedWord, h]
  · exact hc w (List.mem_of_mem_filter hw)

theorem mem_alSet {α : Type} {p : Nat × α} {n : Nat} {x : α} : ∀ {l : List (Nat × α)}, p ∈ alSet l n x → p = (n, x) ∨ p ∈ l
  | [], h => .inl (List.mem_singleton.mp h)
  | (k, v) :: r, h => by
    unfold alSet at h
    split_ifs at h with h1 h2
    · exact (List.mem_cons.mp h).imp_right fun h => List.mem_cons_of_mem _ h
    · exact List.mem_cons.mp h
    · rcases List.mem_cons.mp h with h | h
      · exact .inr (h ▸ List.mem_cons_self ..)
      · exact (mem_alSet h).imp_right fun h => List.mem_cons_of_mem _ h

theorem mem_of_alGet {α : Type} {n : Nat} {x : α} : ∀ {l : List (Nat × α)}, alGet l n = some x → (n, x) ∈ l
  | (k, v) :: r, h => by
    unfold alGet at h
    split_ifs at h with h1
    · cases h
      rw [h1]
      exact List.mem_cons_self ..
    · exact List.mem_cons_of_mem _ (mem_of_alGet h)

theorem ownersOf_eq_nil {s : State} {w : Nat} :
    s.ownersOf w = [] ↔ ∀ p ∈ s.cores, (p.2.l1.any fun x => x.word = w && x.owned) = false := by
  unfold State.ownersOf
  rw [List.map_eq_nil_iff, List.filter_eq_nil_iff]
  simp only [Bool.not_eq_true]

/-- A word that no core owns is not in the L1 of any one as its own. -/
theorem core_unowned {s : State} {w : Nat} (h : s.ownersOf w = []) (n : Nat) :
    ((s.core n).l1.any fun x => x.word = w && x.owned) = false := by
  unfold State.core
  cases e : alGet s.cores n with
  | none => rfl
  | some c => exact ownersOf_eq_nil.mp h (n, c) (mem_of_alGet e)

theorem mem_ways {c : Core} {k line : Nat} : k ∈ c.ways line ↔ (∃ w ∈ c.l1, w.word / 8 = k) ∧ k % 1024 = line % 1024 := by
  simp [Core.ways, List.mem_eraseDups]

theorem nodup_eraseDups : ∀ l : List Nat, l.eraseDups.Nodup
  | [] => List.nodup_nil
  | a :: r => by
    rw [List.eraseDups_cons, List.nodup_cons]
    exact ⟨by simp [List.mem_eraseDups], nodup_eraseDups _⟩
  termination_by l => l.length
  decreasing_by exact Nat.lt_succ_of_le (List.length_filter_le ..)

section
variable {c : Core} {l : Loc} (v : Word) (t line : Nat)

theorem mem_ways_l1Put (h : line ∈ c.ways line) : line ∈ (c.l1Put (storedWord l v t)).ways line := by
  obtain ⟨⟨w, hw, e⟩, -⟩ := mem_ways.mp h
  refine mem_ways.mpr ⟨?_, rfl⟩
  by_cases hs : w.word = (storedWord l v t).word
  · exact ⟨_, List.mem_cons_self .., by rw [← hs, e]⟩
  · exact ⟨w, List.mem_cons_of_mem _ (List.mem_filter.mpr ⟨hw, by simpa using hs⟩), e⟩

theorem length_ways_l1Put : ((c.l1Put (storedWord l v t)).ways line).length ≤ (c.ways line).length + 1 := by
  refine ((nodup_eraseDups _).subperm (l₂ := (storedWord l v t).word / 8 :: c.ways line) fun k hk => ?_).length_le
  obtain ⟨⟨w, hw, e⟩, hset⟩ := mem_ways.mp hk
  rcases List.mem_cons.mp hw with rfl | hw
  · exact e ▸ List.mem_cons_self ..
  · exact List.mem_cons_of_mem _ (mem_ways.mpr ⟨⟨w, List.mem_of_mem_filter hw, e⟩, hset⟩)

end

/-- The store of a word leaves the way to a word of another place clear, with one line less to come in the L1. -/
theorem clear_storedWord {s : State} {n : Nat} {l m : Loc} {i j : Nat} (v : Word) (t : Nat) (hlm : l.Agrees m)
    (h : l.key / 8 ≠ m.key / 8) (hm : s.Clear n m (i + 1) j) :
    ((s.setCore n ((s.core n).l1Put (storedWord l v t))).changed l v).Clear n m i j := by
  obtain ⟨a, e⟩ := changed_eq (s.setCore n ((s.core n).l1Put (storedWord l v t))) l v
  have hcore : (({ s.setCore n ((s.core n).l1Put (storedWord l v t)) with agenda := a } : State).core n) =
    (s.core n).l1Put (storedWord l v t) := core_setCore _ _ _
  rw [e]
  refine ⟨by rw [hcore]; exact lone_l1Put v t hlm hm.lone, ?_⟩
  rw [hcore, l1At_l1Put_other v t h]
  refine hm.held.imp_right fun ⟨hu, hw, hp, h2⟩ => ⟨?_, ?_, hp, h2⟩
  · refine ownersOf_eq_nil.mpr fun p hp => ?_
    rcases mem_alSet hp with rfl | hp
    · exact any_owned_l1Put v t h (core_unowned hu n)
    · exact ownersOf_eq_nil.mp hu p hp
  · rw [hcore]
    rcases hw with hw | hw
    · exact .inl (mem_ways_l1Put v t _ hw)
    · have hlen := length_ways_l1Put (c := s.core n) (l := l) v t (m.key / 64)
      exact .inr (by omega)

/-! ## The check of a store's words -/

theorem storeCheck_cons {n : Nat} {s u : State} {p : Piece} {l : Loc} {r : List (Piece × Loc)}
    (h : storeCheck n s ((p, l) :: r) = .ok u) : storeCheck n (s.storeView n l).1 r = .ok u := by
  unfold storeCheck at h
  generalize s.storeView n l = q at h ⊢
  obtain ⟨t, v, g⟩ := q
  dsimp only at h ⊢
  by_cases hg : g = tagSync
  · simp [check, hg, trap, bind, Except.bind] at h
  · by_cases hp : s.pinsOwn l = true
    · simp [check, hg, hp, bind, Except.bind] at h
    · simpa [check, hg, hp, bind, Except.bind] using h

/-- After the check of a store whose way is clear, each line that it needs stands in the L2. -/
theorem clear_storeCheck {n i : Nat} : ∀ {r : List (Piece × Loc)} {s u : State}, (∀ p ∈ r, ∀ q ∈ r, p.2.Agrees q.2) →
    (∀ p ∈ r, p.2.kind ≠ .lm → s.Clear n p.2 i r.length) → storeCheck n s r = .ok u →
    s.Beside u ∧ (∀ m, (∀ p ∈ r, p.2.Agrees m) → s.Clear n m i settled → u.Clear n m i settled) ∧
      ∀ p ∈ r, p.2.kind ≠ .lm → u.Clear n p.2 i settled
  | [], s, u, _, _, h => by
    cases h
    exact ⟨.refl s, fun _ _ h => h, fun _ hp => by cases hp⟩
  | (p, l) :: r, s, u, ha, hc, h => by
    have hhead := List.mem_cons_self (a := (p, l)) (l := r)
    have htail (q : Piece × Loc) (hq : q ∈ r) := List.mem_cons_of_mem (p, l) hq
    have h := storeCheck_cons h
    by_cases hl : l.kind = .lm
    · rw [storeView_lm s n hl] at h
      obtain ⟨hb, hkeep, hrest⟩ := clear_storeCheck (fun p hp q hq => ha p (htail p hp) q (htail q hq))
        (fun q hq hk => (hc q (htail q hq) hk).mono (Nat.le_refl i) (Nat.le_succ _)) h
      refine ⟨hb, fun m hm => hkeep m fun q hq => hm q (htail q hq), fun q hq hk => ?_⟩
      rcases List.mem_cons.mp hq with rfl | hq
      · exact absurd hl hk
      · exact hrest q hq hk
    · have hf := filled_storeView hl (hc _ hhead hl) (Nat.succ_pos _)
      obtain ⟨hb, hkeep, hrest⟩ := clear_storeCheck (fun p hp q hq => ha p (htail p hp) q (htail q hq))
        (fun q hq hk => hf.clear (ha _ hhead q (htail q hq)) (hc q (htail q hq) hk) (.inl (Nat.lt_succ_self _))) h
      refine ⟨hf.beside.trans hb, fun m hm hk => hkeep m (fun q hq => hm q (htail q hq)) ?_, fun q hq hk => ?_⟩
      · exact hf.clear (hm _ hhead) hk (.inr (Nat.le_refl _))
      · rcases List.mem_cons.mp hq with rfl | hq
        · exact hkeep _ (fun q hq => ha q (htail q hq) _ hhead) (clear_storeView hl (hc _ hhead hl) (Nat.succ_pos _))
        · exact hrest q hq hk

/-! ## The store of a piece -/

/-- The state after a piece has been stored. -/
def State.storePiece (s : State) (n : Nat) (p : Piece) (l : Loc) (x : Nat) : State :=
  (s.storeView n l).1.storeWord n l (mergePiece p (s.storeView n l).2.1 (s.storeView n l).2.2 x) tagData

theorem storePieces_cons (s : State) (n : Nat) (p : Piece) (l : Loc) (r : List (Piece × Loc)) (x : Nat) :
    storePieces n s ((p, l) :: r) x = storePieces n (s.storePiece n p l x) r (x / 2 ^ (8 * p.n)) := rfl

theorem storePiece_lm (s : State) (n : Nat) (p : Piece) {l : Loc} (x : Nat) (hl : l.kind = .lm) :
    s.storePiece n p l x = s.storePieceLm n p l x := by
  unfold State.storePiece
  rw [storeView_lm s n hl]
  rfl

/-- A byte is none of those that a piece stored in an LM may change. -/
def Spared (s : State) (c : Nat) (q : Piece × Loc) : Prop :=
  q.2.kind = .lm → (c < q.2.key ∨ q.2.key + q.1.n ≤ c) ∧ ((mget s.tags (q.2.key / 8)).toNat = 3 → c / 8 ≠ q.2.key / 8)

/-- What a store of pieces keeps. -/
structure Kept (n : Nat) (s t : State) (l : List (Piece × Loc)) : Prop where
  cur : t.cur = s.cur
  cb : t.cb = s.cb
  mem : ∀ c, (∀ q ∈ l, Spared s c q) → mget t.mem c = mget s.mem c
  tags : ∀ k, (∀ q ∈ l, q.2.key / 8 ≠ k) → mget t.tags k = mget s.tags k
  l1 : ∀ k, (∀ q ∈ l, q.2.key / 8 ≠ k.key / 8) → (t.core n).l1At k = (s.core n).l1At k
  others : ∀ m, m ≠ n → t.core m = s.core m
  berths : ∀ i, (t.core n).berth i = (s.core n).berth i

/-- What a store of pieces keeps, the store of the first one and of the others keep. -/
theorem Kept.cons {n : Nat} {s t u : State} {q : Piece × Loc} {r : List (Piece × Loc)} (h : Kept n s t [q]) (k : Kept n t u r)
    (hne : ∀ p ∈ r, q.2.key / 8 ≠ p.2.key / 8) : Kept n s u (q :: r) := by
  obtain ⟨hcur, hcb, hmem, htags, hl1, hothers, hberths⟩ := h
  obtain ⟨kcur, kcb, kmem, ktags, kl1, kothers, kberths⟩ := k
  refine ⟨kcur.trans hcur, kcb.trans hcb, fun c hc => ?_, fun w hw => ?_, fun w hw => ?_,
    fun m hm => (kothers m hm).trans (hothers m hm), fun i => (kberths i).trans (hberths i)⟩
  · rw [List.forall_mem_cons] at hc
    refine (kmem c fun p hp hk => ?_).trans (hmem c (List.forall_mem_singleton.mpr hc.1))
    rw [htags _ (List.forall_mem_singleton.mpr (hne p hp))]
    exact hc.2 p hp hk
  · rw [List.forall_mem_cons] at hw
    exact (ktags w hw.2).trans (htags w (List.forall_mem_singleton.mpr hw.1))
  · rw [List.forall_mem_cons] at hw
    exact (kl1 w hw.2).trans (hl1 w (List.forall_mem_singleton.mpr hw.1))

section
variable {s : State} {l : Loc} {p : Piece} (n x : Nat)

section
variable (hs : s.silt.valid = false) (hl : l.kind = .lm)
include hs hl

theorem kept_storePiece_lm (hw : s.memWf) (hk : l.key % 8 = p.va % 8) : Kept n s (s.storePiece n p l x) [(p, l)] := by
  rw [storePiece_lm _ n p x hl]
  obtain ⟨a, e⟩ := storePieceLm_eq hs hl (p := p) n x
  have hcore (m : Nat) : (s.storePieceLm n p l x).core m = s.core m := by
    rw [State.core, State.core, cores_storePieceLm hs hl]
  refine ⟨by rw [e], by rw [e], fun c hc => ?_, fun k hne => ?_, fun k _ => by rw [hcore], fun m _ => hcore m,
    fun i => by rw [hcore]⟩
  · obtain ⟨h1, h2⟩ := List.forall_mem_singleton.mp hc hl
    exact mem_storePieceLm_beside hs hl n x hw hk h1 h2
  · rw [tags_storePieceLm hs hl n x hw, if_neg (Ne.symm (hne (p, l) (List.mem_singleton_self _)))]

theorem clear_storePiece_lm {m : Loc} {i j : Nat} (hm : s.Clear n m i j) : (s.storePiece n p l x).Clear n m i j := by
  rw [storePiece_lm _ n p x hl]
  obtain ⟨a, e⟩ := storePieceLm_eq hs hl (p := p) n x
  rw [e]
  exact ⟨hm.lone, hm.held.imp_right fun ⟨hu, hw, hp, h2⟩ => ⟨hu, hw, hp, h2⟩⟩

end

section
variable {i : Nat} (hl : l.kind ≠ .lm) (hc : s.Clear n l (i + 1) settled)
include hl hc

theorem storePiece_eq : ∃ v, s.storePiece n p l x =
    ((s.storeView n l).1.setCore n (((s.storeView n l).1.core n).l1Put (storedWord l v tagData))).changed l v := by
  exact ⟨_, storeWord_of_clear hl (clear_storeView hl hc (by decide)) (Nat.succ_pos i) _ _⟩

theorem kept_storePiece : Kept n s (s.storePiece n p l x) [(p, l)] := by
  have hb := (filled_storeView hl hc (by decide)).beside
  obtain ⟨v, e⟩ := storePiece_eq (p := p) n x hl hc
  obtain ⟨a, ea⟩ := changed_eq ((s.storeView n l).1.setCore n (((s.storeView n l).1.core n).l1Put (storedWord l v tagData))) l v
  rw [ea] at e
  have hcore : (s.storePiece n p l x).core n = (s.core n).l1Put (storedWord l v tagData) := by
    rw [e, ← hb.core]
    exact core_setCore _ _ _
  refine ⟨by rw [e]; exact hb.cur, by rw [e]; exact hb.cb, fun c _ => by rw [e]; exact congrArg (mget · c) hb.mem,
    fun k _ => by rw [e]; exact congrArg (mget · k) hb.tags, fun k hk => ?_, fun m hm => ?_, fun i => ?_⟩
  · rw [hcore]
    exact l1At_l1Put_other v _ (hk (p, l) (List.mem_singleton_self _))
  · rw [e, ← hb.core]
    exact core_setCore_other _ _ hm
  · rw [hcore]
    rfl

theorem clear_storePiece {m : Loc} (hlm : l.Agrees m) (hne : l.key / 8 ≠ m.key / 8) (hm : s.Clear n m (i + 1) settled) :
    (s.storePiece n p l x).Clear n m i settled := by
  obtain ⟨v, e⟩ := storePiece_eq (p := p) n x hl hc
  rw [e]
  exact clear_storedWord v _ hlm hne ((filled_storeView hl hc (by decide)).clear hlm hm (.inr (Nat.le_refl _)))

end

theorem silt_storePiece (hs : s.silt.valid = false) {i : Nat} (hc : l.kind ≠ .lm → s.Clear n l (i + 1) settled) :
    (s.storePiece n p l x).silt.valid = false := by
  by_cases hl : l.kind = .lm
  · rw [storePiece_lm _ n p x hl, silt_storePieceLm hs hl]
    exact hs
  · have hb := (filled_storeView hl (hc hl) (by decide)).beside
    obtain ⟨v, e⟩ := storePiece_eq (p := p) n x hl (hc hl)
    obtain ⟨a, ea⟩ := changed_eq ((s.storeView n l).1.setCore n (((s.storeView n l).1.core n).l1Put (storedWord l v tagData))) l v
    rw [e, ea]
    exact hb.silt ▸ hs

end

theorem kept_storePieces {n : Nat} : ∀ {r : List (Piece × Loc)} {s : State} {x : Nat}, s.memWf → s.silt.valid = false →
    (∀ q ∈ r, q.2.kind = .lm → q.2.key % 8 = q.1.va % 8) → (r.map fun q => q.2.key / 8).Nodup →
    (∀ p ∈ r, ∀ q ∈ r, p.2.Agrees q.2) → (∀ q ∈ r, q.2.kind ≠ .lm → s.Clear n q.2 r.length settled) →
    Kept n s (storePieces n s r x) r
  | [], s, x, _, _, _, _, _, _ => ⟨rfl, rfl, fun _ _ => rfl, fun _ _ => rfl, fun _ _ => rfl, fun _ _ => rfl, fun _ => rfl⟩
  | (p, l) :: r, s, x, hw, hs, hmod, hnd, ha, hc => by
    have hhead := List.mem_cons_self (a := (p, l)) (l := r)
    have htail (q : Piece × Loc) (hq : q ∈ r) := List.mem_cons_of_mem (p, l) hq
    rw [List.map_cons, List.nodup_cons] at hnd
    have hne (q : Piece × Loc) (hq : q ∈ r) : l.key / 8 ≠ q.2.key / 8 := fun e =>
      hnd.1 (e ▸ List.mem_map_of_mem (f := fun q : Piece × Loc => q.2.key / 8) hq)
    have hfirst : Kept n s (s.storePiece n p l x) [(p, l)] := by
      by_cases hl : l.kind = .lm
      · exact kept_storePiece_lm n x hs hl hw (hmod _ hhead hl)
      · exact kept_storePiece n x hl (hc _ hhead hl)
    have hclear (q : Piece × Loc) (hq : q ∈ r) (hk : q.2.kind ≠ .lm) : (s.storePiece n p l x).Clear n q.2 r.length settled := by
      have hcq := hc q (htail q hq) hk
      by_cases hl : l.kind = .lm
      · exact clear_storePiece_lm n x hs hl (hcq.mono (Nat.le_succ _) (Nat.le_refl _))
      · exact clear_storePiece n x hl (hc _ hhead hl) (ha _ hhead q (htail q hq)) (hne q hq) hcq
    rw [storePieces_cons]
    exact hfirst.cons (kept_storePieces hw.storeView.storeWord (silt_storePiece n x hs (hc _ hhead))
      (fun q hq => hmod q (htail q hq)) hnd.2 (fun p hp q hq => ha p (htail p hp) q (htail q hq)) hclear) hne

/-! ## The statement -/

theorem length_pieces_le {va n fuel : Nat} (h : n ≤ 8) : (pieces va n fuel).length ≤ 2 := by
  have one (va n fuel : Nat) (h : n ≤ 8 - va % 8) : (pieces va n fuel).length ≤ 1 := by
    cases fuel with
    | zero => exact Nat.zero_le _
    | succ fuel =>
      by_cases hn : n = 0
      · rw [hn, pieces_zero]
        exact Nat.zero_le _
      · rw [pieces_succ va fuel hn, Nat.min_eq_left h, Nat.sub_self, pieces_zero]
        exact Nat.le_refl _
  cases fuel with
  | zero => exact Nat.zero_le _
  | succ fuel =>
    by_cases hn : n = 0
    · rw [hn, pieces_zero]
      exact Nat.zero_le _
    · rw [pieces_succ va fuel hn]
      exact Nat.succ_le_succ (one _ _ _ (by omega))

theorem storeFrame : Sys2Proof.Claims.StoreFrame := by
  intro s t u a l x hw hs hn hreach hnd ha hsole hst
  obtain ⟨htr, hfst, hmod⟩ := placed_of_reach hreach
  have hlen : l.length ≤ 2 := by
    rw [← List.length_map (f := (·.1)), hfst]
    exact length_pieces_le hn
  unfold State.stores State.writable at hst
  rw [hreach] at hst
  dsimp only at hst
  cases e : storeCheck u.cur u l with
  | error c =>
    rw [e] at hst
    cases hst
  | ok w =>
    rw [e] at hst
    obtain rfl := Option.some.inj hst
    obtain ⟨hb, -, hclear⟩ := clear_storeCheck ha (fun p hp hk => (clear_of_sole (hsole p hp hk)).mono hlen hlen) e
    have hcur : w.cur = u.cur := hb.cur
    have hk := kept_storePieces (n := w.cur) (s := w) (x := x) (r := l) ⟨hb.mem ▸ htr.mem ▸ hw.1, hb.tags ▸ htr.tags ▸ hw.2⟩
      (hb.silt ▸ htr.silt ▸ hs) hmod hnd ha fun p hp hk => hcur ▸ hclear p hp hk
    dsimp only
    obtain ⟨kcur, kcb, kmem, -, kl1, kothers, kberths⟩ := hk
    have hme : (storePieces w.cur w l x).me = s.me := by
      obtain ⟨tlb, htlb⟩ := htr.own
      unfold State.me State.here
      rw [kcb, kcur, kberths, hb.core, hb.cb, htr.cb, hb.cur, htr.cur, htlb]
      rfl
    refine ⟨fun c hc => ?_, fun k hk => ?_, fun n hn => ?_, by rw [hme], by rw [hme], by rw [hme], by rw [hme]⟩
    · rw [kmem c fun p hp hl => by rw [hb.tags, htr.tags]; exact hc p hp hl, hb.mem, htr.mem]
    · unfold State.here
      rw [kcur, kl1 k hk, hb.core, hb.cur]
    · rw [kothers n (by rw [hb.cur, htr.cur]; exact hn), hb.core, htr.others n hn]

/-- Settles O10: the bytes of the LM by its own addresses, the frame of a store, and a load after it. -/
theorem localMemory : Obligations.LocalMemory := ⟨aliasBytes, storeFrame, storeThenLoad⟩

end Sys2Proof.Machine
end

section
/-! Proofs. What taking a word to its home leaves of the threads and the reservations (R64, R77): of a thread only its wait may change. -/

namespace Sys2Proof.Machine

/-! ## Threads that go on -/

/-- Each berth of a core is the same, but for what it waits for. -/
def Core.Threads (c c' : Core) : Prop := ∀ i, ∃ w, c'.berth i = { c.berth i with wait := w }

theorem Core.Threads.of_eq {c c' : Core} (h : ∀ i, c'.berth i = c.berth i) : c.Threads c' := fun i => ⟨_, h i⟩

theorem Core.Threads.trans {a b c : Core} (h : a.Threads b) (k : b.Threads c) : a.Threads c := fun i => by
  obtain ⟨w, hw⟩ := h i
  obtain ⟨x, hx⟩ := k i
  exact ⟨x, by rw [hx, hw]⟩

/-- The second state has the threads of the first, but for their waits, and its reservations. -/
structure State.Threads (s t : State) : Prop where
  cur : t.cur = s.cur
  cb : t.cb = s.cb
  resv : t.resv = s.resv
  cores : ∀ n, (s.core n).Threads (t.core n)

theorem threads_of_cores {s t : State} (hcur : t.cur = s.cur) (hcb : t.cb = s.cb) (hresv : t.resv = s.resv)
    (h : t.cores = s.cores) : s.Threads t :=
  ⟨hcur, hcb, hresv, fun n => .of_eq fun i => by rw [State.core, State.core, h]⟩

theorem State.Threads.refl (s : State) : s.Threads s := threads_of_cores rfl rfl rfl rfl

theorem State.Threads.trans {s t u : State} (h : s.Threads t) (k : t.Threads u) : s.Threads u :=
  ⟨k.cur.trans h.cur, k.cb.trans h.cb, k.resv.trans h.resv, fun n => (h.cores n).trans (k.cores n)⟩

theorem threads_setCore {s : State} {n : Nat} {c : Core} (h : (s.core n).Threads c) : s.Threads (s.setCore n c) :=
  ⟨rfl, rfl, rfl, fun k => by
    by_cases hk : k = n
    · subst hk
      rw [core_setCore]
      exact h
    · rw [core_setCore_other s c hk]
      exact .of_eq fun _ => rfl⟩

/-- A core's L1 may change: its threads are as before. -/
theorem threads_setL1 (s : State) (n : Nat) (l : List L1Word) : s.Threads (s.setCore n { s.core n with l1 := l }) :=
  threads_setCore (.of_eq fun i => by
    match i with
    | 0 => rfl
    | 1 => rfl
    | 2 => rfl
    | _ + 3 => rfl)

theorem threads_foldl {ι : Type} {f : State → ι → State} (h : ∀ (t : State) i, t.Threads (f t i)) (l : List ι) (s : State) :
    s.Threads (l.foldl f s) :=
  List.foldlRecOn l f (motive := s.Threads) (.refl s) fun t ht i _ => ht.trans (h t i)

/-- What the executing thread keeps. -/
theorem State.Threads.me {s t : State} (h : s.Threads t) : ∃ w, t.me = { s.me with wait := w } := by
  obtain ⟨w, hw⟩ := h.cores s.cur s.cb
  refine ⟨w, ?_⟩
  unfold State.me State.here
  rw [h.cur, h.cb, hw]

theorem State.Threads.ident {s t : State} (h : s.Threads t) : t.ident = s.ident := by
  obtain ⟨w, hw⟩ := h.me
  unfold State.ident
  rw [h.cur, h.cb, hw]

/-! ## Words at their homes -/

theorem threads_settlePins (s : State) (n : Nat) : s.Threads (s.settlePins n) := by
  unfold State.settlePins
  dsimp only
  split
  · exact (threads_setL1 s n _).trans (threads_of_cores rfl rfl rfl rfl)
  · exact .refl s

theorem threads_endPin (s : State) (n line : Nat) : s.Threads (s.endPin n line) := by
  unfold State.endPin
  dsimp only
  split
  · refine State.Threads.trans (threads_setCore fun i => ?_) (threads_settlePins _ n)
    match i with
    | 0 => exact ⟨_, rfl⟩
    | 1 => exact ⟨_, rfl⟩
    | 2 => exact ⟨_, rfl⟩
    | _ + 3 => exact ⟨_, rfl⟩
  · exact .refl s

theorem threads_putBlock (s : State) (b slot x : Nat) : s.Threads (s.putBlock b slot x) := by
  unfold State.putBlock
  split
  · exact .refl s
  · exact threads_of_cores rfl rfl rfl rfl

theorem threads_l2Evict (s : State) (unit : Nat) : s.Threads (s.l2Evict unit) := by
  have hback : s.Threads (s.l2WriteBack unit) := by
    unfold State.l2WriteBack
    split
    · split
      · exact (threads_foldl (fun t j => threads_putBlock t _ _ _) _ s).trans (threads_of_cores rfl rfl rfl rfl)
      · exact .refl s
    · exact .refl s
  exact hback.trans (threads_of_cores rfl rfl rfl rfl)

theorem threads_claim (s : State) (l : Loc) : s.Threads (s.claim l) := by
  unfold State.claim
  dsimp only
  split
  · exact .refl s
  · exact threads_of_cores rfl rfl rfl rfl

theorem threads_putLow (s : State) (l : Loc) (v : Word) (t : Nat) : s.Threads (s.putLow l v t) := by
  unfold State.putLow
  dsimp only
  split
  · exact .refl s
  · split
    · split
      · exact threads_of_cores rfl rfl rfl rfl
      · exact ((threads_l2Evict s _).trans (threads_putBlock _ _ _ _)).trans (threads_of_cores rfl rfl rfl rfl)
    · exact (threads_claim s l).trans (threads_of_cores rfl rfl rfl rfl)

theorem threads_revokeBy {put : State → Loc → Word → Nat → State} (hput : ∀ (t : State) l v g, t.Threads (put t l v g)) (s : State)
    (n word : Nat) : s.Threads (s.revokeBy put n word) := by
  unfold State.revokeBy
  dsimp only
  split
  · exact ((threads_endPin s n _).trans (hput _ _ _ _)).trans (threads_setL1 _ n _)
  · exact (threads_endPin s n _).trans (threads_setL1 _ n _)

theorem threads_revokeUnit (s : State) (unit : Nat) : s.Threads (s.revokeUnit unit) :=
  threads_foldl (fun _ _ => threads_foldl (fun t n => threads_revokeBy threads_putLow t n _) _ _) _ s

theorem threads_l2Leave (s : State) (unit : Nat) : s.Threads (s.l2Leave unit) :=
  (threads_revokeUnit s unit).trans (threads_l2Evict _ unit)

theorem threads_l2Room (s : State) (unit : Nat) : s.Threads (s.l2Room unit) := by
  unfold State.l2Room
  dsimp only
  split
  · exact .refl s
  · split
    · exact (show s.Threads s.drawn from threads_of_cores rfl rfl rfl rfl).trans (threads_l2Leave _ _)
    · exact .refl s

theorem threads_l2Fill (s : State) (l : Loc) : s.Threads (s.l2Fill l) := threads_of_cores rfl rfl rfl rfl

theorem threads_dramExit (s : State) : s.Threads s.dramExit := by
  unfold State.dramExit State.laterOnce
  split
  · split <;> exact threads_of_cores rfl rfl rfl rfl
  · exact .refl s

theorem threads_l2Fetch (s : State) (l : Loc) : s.Threads (s.l2Fetch l) := by
  unfold State.l2Fetch
  dsimp only
  split
  · split
    · split
      · split
        · exact .refl s
        · exact (threads_l2Leave s _).trans (threads_l2Fill _ l)
      · exact (threads_l2Room s _).trans (threads_l2Fill _ l)
    · exact threads_dramExit s
  · exact .refl s

theorem threads_putHome (s : State) (l : Loc) (v : Word) (t : Nat) : s.Threads (s.putHome l v t) := by
  unfold State.putHome
  split
  · exact .refl s
  · exact (threads_l2Fetch s l).trans (threads_putLow _ l v t)

theorem threads_revokeFor (s : State) (l : Loc) : s.Threads (s.revokeFor l) := by
  unfold State.revokeFor
  split
  · exact threads_revokeUnit s _
  · exact threads_foldl (fun t n => threads_revokeBy threads_putHome t n _) _ s

theorem threads_dropOwn (s : State) (n word : Nat) : s.Threads (s.dropOwn n word) := by
  unfold State.dropOwn
  split
  · exact threads_setL1 s n _
  · exact .refl s

theorem threads_takeHome (s : State) (n : Nat) (l : Loc) : s.Threads (s.takeHome n l) := by
  unfold State.takeHome
  split
  · exact .refl s
  · exact ((threads_revokeFor s l).trans (threads_dropOwn _ n _)).trans (threads_l2Fetch _ l)

theorem threads_putWords (s : State) (l : Loc) (x0 x1 : Word) (t : Nat) : s.Threads (s.putWords l x0 x1 t) :=
  (threads_putHome s l x0 t).trans (threads_putHome _ _ x1 t)

theorem threads_changed (s : State) (l : Loc) (v : Word) : s.Threads (s.changed l v) := by
  obtain ⟨a, e⟩ := changed_eq s l v
  rw [e]
  exact threads_of_cores rfl rfl rfl rfl

/-! ## Granules -/

theorem threads_of_granule {s t : State} {n : Nat} {l : Loc} {x0 x1 : Word} {obj : Bool}
    (h : s.granule n l = .ok (t, x0, x1, obj)) : s.Threads t := by
  unfold State.granule at h
  dsimp only at h
  split_ifs at h
  cases h
  exact (threads_takeHome s n l).trans (threads_takeHome _ n _)

end Sys2Proof.Machine
end

section
/-! Proofs. Reservations: LRW, SCH and RELQ of granules of the core's own memory, and the loss of reservations (R154 to R157; O13). -/

namespace Sys2Proof.Machine

open Sys2Proof.Claims

/-! ## Operations at a home of the core's own -/

/-- The executing thread of a state that an access has reached. -/
theorem State.Translated.threads {s u : State} (h : s.Translated s.cur u) : u.cur = s.cur ∧ u.cb = s.cb ∧ u.me = s.me := by
  obtain ⟨l, hl⟩ := h.own
  refine ⟨h.cur, h.cb, ?_⟩
  unfold State.me State.here
  rw [h.cur, h.cb, hl]
  generalize s.cb = i
  match i with
  | 0 => rfl
  | 1 => rfl
  | 2 => rfl
  | _ + 3 => rfl

theorem reach_of_homeAt {s u : State} {a : Need} {k : Loc} (h : s.homeAt a = some (u, k)) :
    s.me.wait = .none ∧ ∃ p r, s.reach a = some (u, (p, k) :: r) := by
  unfold State.homeAt at h
  split at h
  · next t p l r hw hr =>
    cases h
    exact ⟨hw, p, r, hr⟩
  · cases h

theorem me_of_homeAt {s u : State} {a : Need} {k : Loc} (h : s.homeAt a = some (u, k)) :
    u.cur = s.cur ∧ u.cb = s.cb ∧ u.me = s.me := by
  obtain ⟨-, p, r, hr⟩ := reach_of_homeAt h
  exact (placed_of_reach hr).1.threads

theorem ident_of_homeAt {s u : State} {a : Need} {k : Loc} (h : s.homeAt a = some (u, k)) : u.ident = s.ident := by
  obtain ⟨hcur, hcb, hme⟩ := me_of_homeAt h
  unfold State.ident
  rw [hcur, hcb, hme]

/-- An operation at a home of the core's own, past its gate, is what it does there. -/
theorem homeOp_here {s u : State} {a : Need} {k : Loc} (h : s.homeAt a = some (u, k)) {gate : M Unit} (hg : gate = .ok ())
    (here : State → Loc → M HomeRes) (ev : Nat → BitVec 12 → Event) :
    homeOp s a gate here ev = (do
      let r ← here u k
      match r with
      | .done t x y => .ok (t, x, y)
      | .waits t => .error (.wait t)) := by
  obtain ⟨hw, p, r, hr⟩ := reach_of_homeAt h
  unfold State.reach at hr
  split at hr
  · cases hr
  · next hpre =>
    split at hr
    · next hloc =>
      cases hr
      unfold homeOp
      rw [hw]
      dsimp only
      rw [hpre, hloc, hg]
      rfl
    · cases hr

/-- An instruction whose own part waits goes on later. -/
theorem op_wait {s : State} {srcs : List Src} {dsts : List Dst} {len : Nat} {f : State → List Val → M (State × List Val)}
    (h : s.ready srcs dsts = true) {t : State} (hf : f s (s.readSrcs srcs []) = .error (.wait t)) :
    run s (op s srcs dsts len f) = .next t := by
  unfold op opTo
  rw [operands_ready h]
  simp only [bind, Except.bind, hf]
  rfl

/-! ## LRW (R154, R157) -/

/-- A granule at its home as LRW takes it: a DATA granule has become an object. -/
def State.reservable (w : State) (k : Loc) (x0 : Word) (obj : Bool) : State :=
  if obj then w else w.putWords k x0 0xA000000000000000 2

theorem threads_reservable (w : State) (k : Loc) (x0 : Word) (obj : Bool) : w.Threads (w.reservable k x0 obj) := by
  unfold State.reservable
  split
  · exact .refl w
  · exact threads_putWords w k x0 _ 2

theorem granule_of_granuleAt {u : State} {k : Loc} {r : State × Word × Word × Bool} (h : u.granuleAt k = some r) :
    u.granule u.cur k = .ok r := by
  unfold State.granuleAt at h
  split at h
  · next e =>
    cases h
    exact e
  · cases h

/-- What LRW enters at the home. -/
def lrwEntry (k : Loc) (me : Nat × Nat) (free : Bool) (wn wb ctx va size : Nat) : Resv :=
  ⟨k.key, me.1, me.2, free, wn, wb, ctx, k.slot, va, size⟩

section
variable {u w : State} {k : Loc} {x0 x1 : Word} {obj : Bool} (hg : u.granuleAt k = some (w, x0, x1, obj))
  (hobj : obj = true → getF x1 60 4 = 0xA) (me : Nat × Nat) (wn wb ctx va size : Nat)
include hg hobj

/-- LRW at the home of a granule that may be reserved, by the reservations that stand there. -/
theorem lrw_eq : u.lrw u.cur k me.1 me.2 wn wb ctx va size =
    let t := w.reservable k x0 obj
    if (t.resv.any fun r => (r.node = me.1 && r.berth = me.2) && r.on k && r.holds) = true then .ok (t, some (x0, 0))
    else if (8 ≤ t.resv.countP (fun r => r.node = me.1 && r.berth = me.2) ||
        64 ≤ t.resv.countP (fun r => t.homeId r.gran = t.homeId k.key)) = true then .ok (t, some (0, 2))
    else
      let free := !t.resv.any fun r => r.on k && r.holds
      .ok ({ t with resv := t.resv ++ [lrwEntry k me free wn wb ctx va size] }, if free then some (x0, 0) else none) := by
  have hkind : (obj && objKind x1 ≠ kindResv) = false := by
    cases obj with
    | false => rfl
    | true => simp [objKind, kindResv, hobj rfl]
  unfold State.lrw
  rw [granule_of_granuleAt hg]
  simp only [bind, Except.bind, hkind]
  rfl

end

/-- What a computation gives, the next one takes. -/
theorem bind_of_ok {α β : Type} {x : M α} {a : α} (h : x = .ok a) (f : α → M β) : (x >>= f) = f a := by
  rw [h]
  rfl

/-- LRW of the executing thread at the home of a granule. -/
def State.lrwOf (s u : State) (k : Loc) (ea : Word) : HomeM (State × LrwAns) :=
  u.lrw u.cur k s.ident.1 s.ident.2 s.cur s.cb s.here.ctxid ea.toNat (u.recordSize ea.toNat)

section
variable {s u t : State} {d a b : BitVec 6} {k : Loc} (hr : s.ready [.g a] [.g d, .g b] = true)
  (hat : s.homeAt (updateAt (s.gv [.g a] 0) a.toNat 16 35 true) = some (u, k))
include hr hat

theorem exec_lrw_done {v st : Word} (h : s.lrwOf u k (s.wv [.g a] 0) = .ok (t, some (v, st))) :
    exec (.lrw d a b) s = .next (t.acquireHere.finish [.g a] [.g d, .g b] [.data v, .data st] 4) := by
  have hh : lrwHere s u k (s.wv [.g a] 0) = .ok (.done t v st) := by
    unfold State.lrwOf at h
    unfold lrwHere
    rw [h]
    rfl
  exact op_ready hr ((bind_of_ok ((homeOp_here hat rfl _ _).trans (bind_of_ok hh _)) _).trans rfl)

theorem exec_lrw_waits (h : s.lrwOf u k (s.wv [.g a] 0) = .ok (t, none)) :
    exec (.lrw d a b) s = .next (t.setMe { t.me with wait := .lrw k.key }) := by
  have hh : lrwHere s u k (s.wv [.g a] 0) = .ok (.waits (t.setMe { t.me with wait := .lrw k.key })) := by
    unfold State.lrwOf at h
    unfold lrwHere
    rw [h]
    rfl
  exact op_wait hr (bind_of_error ((homeOp_here hat rfl _ _).trans (bind_of_ok hh _)) _)

end

section
variable {s u w : State} {d a b : BitVec 6} {k : Loc} {x0 x1 : Word} {obj : Bool} (hr : s.ready [.g a] [.g d, .g b] = true)
  (hat : s.homeAt (updateAt (s.gv [.g a] 0) a.toNat 16 35 true) = some (u, k))
  (hg : u.granuleAt k = some (w, x0, x1, obj)) (hobj : obj = true → getF x1 60 4 = 0xA)
include hr hat hg hobj

/-- LRW of the holder. -/
theorem lrw_of_held (h : ∃ r ∈ (w.reservable k x0 obj).resv, r.on k = true ∧ r.holds = true ∧ (r.node, r.berth) = u.ident) :
    exec (.lrw d a b) s =
      .next ((w.reservable k x0 obj).acquireHere.finish [.g a] [.g d, .g b] [.data x0, .data 0] 4) := by
  refine exec_lrw_done hr hat ((lrw_eq hg hobj _ _ _ _ _ _).trans (if_pos ?_))
  obtain ⟨r, hm, hon, hh, hid⟩ := h
  rw [ident_of_homeAt hat] at hid
  simp only [List.any_eq_true, Bool.and_eq_true, decide_eq_true_eq]
  exact ⟨r, hm, ⟨⟨congrArg Prod.fst hid, congrArg Prod.snd hid⟩, hon⟩, hh⟩

variable (hnot : ¬ ∃ r ∈ (w.reservable k x0 obj).resv, r.on k = true ∧ r.holds = true ∧ (r.node, r.berth) = u.ident)
include hnot

omit hr in
/-- LRW of a thread that does not hold the reservation. -/
theorem lrwOf_of_not_held : s.lrwOf u k (s.wv [.g a] 0) =
    let t := w.reservable k x0 obj
    if 8 ≤ t.resv.countP (fun r => r.node = u.ident.1 && r.berth = u.ident.2) ∨
        64 ≤ t.resv.countP (fun r => t.homeId r.gran = t.homeId k.key) then .ok (t, some (0, 2))
    else
      let free := !t.resv.any fun r => r.on k && r.holds
      .ok ({ t with resv := t.resv ++ [lrwEntry k u.ident free s.cur s.cb s.here.ctxid (s.wv [.g a] 0).toNat
        (u.recordSize (s.wv [.g a] 0).toNat)] }, if free then some (x0, 0) else none) := by
  refine (lrw_eq hg hobj _ _ _ _ _ _).trans ((if_neg ?_).trans ?_)
  · intro h
    simp only [List.any_eq_true, Bool.and_eq_true, decide_eq_true_eq] at h
    obtain ⟨r, hm, ⟨⟨hn, hb⟩, hon⟩, hh⟩ := h
    exact hnot ⟨r, hm, hon, hh, by rw [ident_of_homeAt hat, hn, hb]⟩
  · rw [ident_of_homeAt hat]
    simp only [Bool.or_eq_true, decide_eq_true_eq]

/-- LRW with too many reservations, of the thread or at the home. -/
theorem lrw_of_full (h : 8 ≤ (w.reservable k x0 obj).resv.countP (fun r => r.node = u.ident.1 && r.berth = u.ident.2) ∨
      64 ≤ (w.reservable k x0 obj).resv.countP
        (fun r => (w.reservable k x0 obj).homeId r.gran = (w.reservable k x0 obj).homeId k.key)) :
    exec (.lrw d a b) s =
      .next ((w.reservable k x0 obj).acquireHere.finish [.g a] [.g d, .g b] [.data 0, .data 2] 4) :=
  exec_lrw_done hr hat ((lrwOf_of_not_held hat hg hobj hnot).trans (if_pos h))

variable (h8 : (w.reservable k x0 obj).resv.countP (fun r => r.node = u.ident.1 && r.berth = u.ident.2) < 8)
  (h64 : (w.reservable k x0 obj).resv.countP
    (fun r => (w.reservable k x0 obj).homeId r.gran = (w.reservable k x0 obj).homeId k.key) < 64)
include h8 h64

/-- LRW of a granule that no thread holds. -/
theorem lrw_of_free (h : ∀ r ∈ (w.reservable k x0 obj).resv, r.on k = true → r.holds = false) :
    ∃ z : State, exec (.lrw d a b) s = .next (z.acquireHere.finish [.g a] [.g d, .g b] [.data x0, .data 0] 4) ∧
      z.mem = (w.reservable k x0 obj).mem ∧ z.tags = (w.reservable k x0 obj).tags ∧
      ∃ r ∈ z.resv, r.gran = k.key ∧ r.holds = true ∧ (r.node, r.berth) = u.ident := by
  have hfree : ((w.reservable k x0 obj).resv.any fun r => r.on k && r.holds) = false := by
    simp only [List.any_eq_false, Bool.and_eq_true, not_and, Bool.not_eq_true]
    exact h
  have he := (lrwOf_of_not_held hat hg hobj hnot).trans (if_neg (not_or.mpr ⟨Nat.not_le.mpr h8, Nat.not_le.mpr h64⟩))
  dsimp only at he
  rw [hfree] at he
  exact ⟨_, exec_lrw_done hr hat he, rfl, rfl, _, List.mem_append_right _ (List.mem_singleton_self _), rfl, rfl, rfl⟩

/-- LRW of a granule that another thread holds. -/
theorem lrw_of_taken (h : ∃ r ∈ (w.reservable k x0 obj).resv, r.on k = true ∧ r.holds = true) :
    ∃ z : State, exec (.lrw d a b) s = .next z ∧ z.me.wait = .lrw k.key ∧ z.me.pc = s.me.pc ∧
      ∃ r ∈ z.resv, r.gran = k.key ∧ r.holds = false ∧ (r.node, r.berth) = u.ident := by
  have htaken : ((w.reservable k x0 obj).resv.any fun r => r.on k && r.holds) = true := by
    obtain ⟨r, hm, hon, hh⟩ := h
    exact List.any_eq_true.mpr ⟨r, hm, by rw [hon, hh]; rfl⟩
  have he := (lrwOf_of_not_held hat hg hobj hnot).trans (if_neg (not_or.mpr ⟨Nat.not_le.mpr h8, Nat.not_le.mpr h64⟩))
  dsimp only at he
  rw [htaken] at he
  refine ⟨_, exec_lrw_waits hr hat he, by rw [me_setMe], ?_, _, List.mem_append_right _ (List.mem_singleton_self _), rfl, rfl, rfl⟩
  obtain ⟨x, hx⟩ := ((threads_of_granule (granule_of_granuleAt hg)).trans (threads_reservable w k x0 obj)).me
  have hme : (w.reservable k x0 obj).me.pc = s.me.pc := by
    rw [hx, (me_of_homeAt hat).2.2]
  rw [me_setMe]
  exact hme

end

end Sys2Proof.Machine
end

section
/-! Proofs. The end of reservations: RELQ, SCH, and their loss (R155, R156; O13). -/

namespace Sys2Proof.Machine

open Sys2Proof.Claims

/-! ## The loss of reservations (R156) -/

/-- The answer to a queued LRW whose reservation is lost. -/
def State.answerLost (s : State) (r : Resv) : State := s.answer r.waitNode r.waitBerth 0 1

/-- What such answers leave. -/
theorem answersLost_keep (l : List Resv) (s : State) :
    let t := l.foldl State.answerLost s
    t.mem = s.mem ∧ t.tags = s.tags ∧ t.resv = s.resv :=
  ⟨foldl_keeps State.mem (f := State.answerLost) (fun _ _ => rfl) l s,
    foldl_keeps State.tags (f := State.answerLost) (fun _ _ => rfl) l s,
    foldl_keeps State.resv (f := State.answerLost) (fun _ _ => rfl) l s⟩

theorem berth_setBerth_or (c : Core) (i j : Nat) (b : Berth) :
    (c.setBerth i b).berth j = b ∨ (c.setBerth i b).berth j = c.berth j := by
  unfold Core.setBerth Core.berth
  split <;> split <;> simp

theorem wait_answer_same (s : State) (n i : Nat) (a b : Word) : ((s.answer n i a b).berthAt n i).wait = .done a b := by
  unfold State.answer State.setBerthAt State.berthAt
  rw [core_setCore, berth_setBerth]

/-- An answer with the same result changes nothing for a thread that has one. -/
theorem wait_answer_again {s : State} {n i : Nat} (m j : Nat) {a b : Word} (h : (s.berthAt n i).wait = .done a b) :
    ((s.answer m j a b).berthAt n i).wait = .done a b := by
  unfold State.answer State.setBerthAt State.berthAt at *
  by_cases hn : n = m
  · subst hn
    rw [core_setCore]
    rcases berth_setBerth_or (s.core n) j i { (s.core n).berth j with wait := .done a b } with e | e
    · rw [e]
    · rw [e]
      exact h
  · rw [core_setCore_other _ _ hn]
    exact h

/-- When the reservations on a granule are lost, none is left, and every queued LRW is over. -/
theorem loseAll_spec (s : State) (k : Loc) :
    let t := s.loseAll k
    t.mem = s.mem ∧ t.tags = s.tags ∧ (∀ r ∈ t.resv, r.on k = false) ∧ (∀ r ∈ s.resv, r.on k = false → r ∈ t.resv) ∧
      ∀ r ∈ s.resv, r.on k = true → r.holds = false → (t.berthAt r.waitNode r.waitBerth).wait = .done 0 1 := by
  obtain ⟨hmem, htags, hresv⟩ :=
    answersLost_keep (s.resv.filter fun r => r.on k && !r.holds) { s with resv := s.resv.filter fun r => !r.on k }
  refine ⟨hmem, htags, fun r hr => ?_, fun r hr hon => ?_, fun r hr hon hh => ?_⟩
  · have hr := hresv ▸ hr
    simpa using (List.mem_filter.mp hr).2
  · have hin : r ∈ s.resv.filter fun r => !r.on k := List.mem_filter.mpr ⟨hr, by rw [hon]; rfl⟩
    exact hresv ▸ hin
  · exact foldl_reaches (P := fun t => (t.berthAt r.waitNode r.waitBerth).wait = .done 0 1) (i := r)
      (fun t => wait_answer_same t _ _ 0 1) (fun t q ht => wait_answer_again _ _ ht)
      (List.mem_filter.mpr ⟨hr, by simp [hon, hh]⟩) _

/-! ## SCH and RELQ (R155) -/

/-- A reservation that a thread holds on a granule. -/
def heldBy (me : Nat × Nat) (k : Loc) (r : Resv) : Bool := r.node = me.1 && r.berth = me.2 && r.on k && r.holds

theorem heldBy_iff {me : Nat × Nat} {k : Loc} {r : Resv} :
    heldBy me k r = true ↔ (r.node, r.berth) = me ∧ r.on k = true ∧ r.holds = true := by
  obtain ⟨n, b⟩ := me
  simp only [heldBy, Bool.and_eq_true, decide_eq_true_eq, Prod.mk.injEq, and_assoc]

/-- The state after the holder's reservation on a granule has gone, its queue's head having got the next. -/
def State.passOn (s : State) (me : Nat × Nat) (k : Loc) : State :=
  { s with resv := s.resv.filter fun r => !heldBy me k r }.grantNext k

theorem mem_grantNext (s : State) (k : Loc) : (s.grantNext k).mem = s.mem := by
  unfold State.grantNext
  split <;> rfl

/-- A reservation that stands after the grant stood before, or is a queued one that has been granted. -/
theorem resv_grantNext {s : State} {k : Loc} {r : Resv} (h : r ∈ (s.grantNext k).resv) :
    r ∈ s.resv ∨ ∃ q ∈ s.resv, q.holds = false ∧ { q with holds := true } = r := by
  unfold State.grantNext at h
  split at h
  · exact .inl h
  · next q hq =>
    obtain ⟨p, hp, e⟩ := List.mem_map.mp h
    split at e
    · next hpq =>
      subst hpq
      have hfound := List.find?_some hq
      simp only [Bool.and_eq_true, Bool.not_eq_true'] at hfound
      exact .inr ⟨p, hp, hfound.2, e⟩
    · exact .inl (e ▸ hp)

theorem mem_passOn (s : State) (me : Nat × Nat) (k : Loc) : (s.passOn me k).mem = s.mem := mem_grantNext _ k

/-- Of the reservations that the holder had, none is left but one of its own that it had queued. -/
theorem resv_passOn {s : State} {me : Nat × Nat} {k : Loc} {r : Resv} (h : r ∈ (s.passOn me k).resv) :
    heldBy me k r = false ∨ ∃ q ∈ s.resv, q.holds = false ∧ { q with holds := true } = r := by
  rcases resv_grantNext h with h | ⟨q, hq, hh, e⟩
  · exact .inl (by simpa using (List.mem_filter.mp h).2)
  · exact .inr ⟨q, (List.mem_filter.mp hq).1, hh, e⟩

/-- SCH or RELQ at the home of a granule. -/
theorem sch_eq {u w : State} {k : Loc} {x0 x1 : Word} {obj : Bool} (hg : u.granuleAt k = some (w, x0, x1, obj))
    (me : Nat × Nat) (store : Bool) (v : Word) : u.sch u.cur k me.1 me.2 store v =
      if w.resv.any (heldBy me k) = true then
        .ok ((if store then (w.putHome k v tagSync).changed k v else w).passOn me k, 0)
      else .ok (w, 1) := by
  unfold State.sch
  rw [granule_of_granuleAt hg]
  rfl

section
variable {s u w : State} {base : GReg} {a : BitVec 6} {k : Loc} {x0 x1 : Word} {obj : Bool} {v : Word} (store : Bool)
  (hat : s.homeAt (updateAt base a.toNat 16 35 true) = some (u, k)) (hg : u.granuleAt k = some (w, x0, x1, obj))
  (hopen : s.sendsOpen 6 = false)
include hat hg hopen

omit hg in
/-- SCH and RELQ are what they do at the home. -/
theorem schOp_eq {t : State} {st : Word} (h : u.sch u.cur k s.ident.1 s.ident.2 store v = .ok (t, st)) :
    schOp s base a store v = .ok (t, [.data st]) := by
  have hgate : released s scDevice = .ok () := if_neg (by
    show ¬ s.sendsOpen 6 = true
    rw [hopen]
    exact Bool.false_ne_true)
  have hh : (do
      let (u1, st) ← atHome base.val k (u.sch u.cur k s.ident.1 s.ident.2 store v)
      (.ok (.done u1 st 0) : M HomeRes)) = .ok (.done t st 0) := by
    rw [h]
    rfl
  exact (bind_of_ok ((homeOp_here hat hgate _ _).trans (bind_of_ok hh _)) _).trans rfl

theorem schOp_of_held (h : ∃ r ∈ w.resv, (r.node, r.berth) = u.ident ∧ r.on k = true ∧ r.holds = true) :
    schOp s base a store v =
      .ok ((if store then (w.putHome k v tagSync).changed k v else w).passOn u.ident k, [.data 0]) := by
  refine schOp_eq store hat hopen ((sch_eq hg s.ident store v).trans ?_)
  rw [← ident_of_homeAt hat]
  refine if_pos (List.any_eq_true.mpr ?_)
  obtain ⟨r, hr, hm⟩ := h
  exact ⟨r, hr, heldBy_iff.mpr hm⟩

theorem schOp_of_not_held (h : ∀ r ∈ w.resv, ¬ ((r.node, r.berth) = u.ident ∧ r.on k = true ∧ r.holds = true)) :
    schOp s base a store v = .ok (w, [.data 1]) := by
  refine schOp_eq store hat hopen ((sch_eq hg s.ident store v).trans (if_neg fun hany => ?_))
  obtain ⟨r, hr, hm⟩ := List.any_eq_true.mp hany
  rw [← ident_of_homeAt hat] at hm
  exact h r hr (heldBy_iff.mp hm)

end

/-! ## The statement -/

/-- Settles O13: LRW by the reservations that stand at the home, their loss, and SCH and RELQ by whether the thread holds one. -/
theorem reservationsComplete : Obligations.ReservationsComplete := by
  unfold Obligations.ReservationsComplete
  refine ⟨?_, ?_, fun s k => ?_, ?_⟩
  · intro s u w d a b k x0 x1 obj hr hat hg hobj t h8 h64
    refine ⟨fun h => ?_, fun h hne => ?_⟩
    · exact lrw_of_free hr hat hg hobj (fun ⟨r, hm, hon, hh, _⟩ => Bool.false_ne_true ((h r hm hon).symm.trans hh)) h8 h64 h
    · exact lrw_of_taken hr hat hg hobj (fun ⟨r, hm, _, _, hid⟩ => hne r hm hid) h8 h64 h
  · intro s u w d a b k x0 x1 obj hr hat hg hobj t held
    exact ⟨fun h => lrw_of_held hr hat hg hobj h, fun hnot h => lrw_of_full hr hat hg hobj hnot h⟩
  · obtain ⟨hmem, htags, hnone, hkept, hover⟩ := loseAll_spec s k
    exact ⟨hmem, htags, hnone, hkept, fun r hr hon hh _ => hover r hr hon hh⟩
  · intro s u w d a b k x0 x1 obj hg hopen mine
    refine ⟨fun hr hat => ⟨fun h => ?_, fun h => ?_⟩, fun hr hat => ⟨fun h => ?_, fun h => ?_⟩⟩
    · refine ⟨_, op_ready hr (schOp_of_held true hat hg hopen h), fun r hr => ?_, ?_⟩
      · refine (resv_passOn hr).imp (fun hf hm => ?_) fun hq => ?_
        · rw [heldBy_iff.mpr hm] at hf
          cases hf
        · have e : ((w.putHome k (s.wv [.g a, .g b] 1) tagSync).changed k (s.wv [.g a, .g b] 1)).resv = w.resv :=
            ((threads_putHome w k _ _).trans (threads_changed _ _ _)).resv
          exact e ▸ hq
      · exact (mem_passOn _ _ _).trans (mem_changed _ _ _)
    · exact op_ready hr (schOp_of_not_held true hat hg hopen h)
    · exact ⟨_, op_ready hr (schOp_of_held false hat hg hopen h), mem_passOn _ _ _⟩
    · exact op_ready hr (schOp_of_not_held false hat hg hopen h)

end Sys2Proof.Machine
end

section
/-! Proofs. The end of a sync object at its home: barriers and reservations that storing a word keeps, and a discard (R80, R151, R156,
R170). -/

namespace Sys2Proof.Machine

/-! ## Barriers that storing a word keeps -/

section
variable (s : State)

@[simp] theorem barriers_settlePins (n : Nat) : (s.settlePins n).barriers = s.barriers := by
  unfold State.settlePins
  dsimp only
  split <;> rfl

@[simp] theorem barriers_endPin (n line : Nat) : (s.endPin n line).barriers = s.barriers := by
  unfold State.endPin
  dsimp only
  split
  · exact barriers_settlePins _ n
  · rfl

@[simp] theorem barriers_putBlock (b slot x : Nat) : (s.putBlock b slot x).barriers = s.barriers := by
  unfold State.putBlock
  split <;> rfl

@[simp] theorem barriers_l2Evict (unit : Nat) : (s.l2Evict unit).barriers = s.barriers := by
  show (s.l2WriteBack unit).barriers = _
  unfold State.l2WriteBack
  split
  · split
    · exact foldl_keeps State.barriers (fun t _ => barriers_putBlock t _ _ _) _ s
    · rfl
  · rfl

@[simp] theorem barriers_claim (l : Loc) : (s.claim l).barriers = s.barriers := by
  unfold State.claim
  dsimp only
  split <;> rfl

@[simp] theorem barriers_putLow (l : Loc) (v : Word) (t : Nat) : (s.putLow l v t).barriers = s.barriers := by
  unfold State.putLow
  dsimp only
  split
  · rfl
  · split
    · split
      · rfl
      · exact (barriers_putBlock _ _ _ _).trans (barriers_l2Evict s _)
    · exact barriers_claim s l

@[simp] theorem barriers_revokeLow (n word : Nat) : (s.revokeBy State.putLow n word).barriers = s.barriers := by
  unfold State.revokeBy
  dsimp only
  split <;> simp

@[simp] theorem barriers_l2Leave (unit : Nat) : (s.l2Leave unit).barriers = s.barriers :=
  (barriers_l2Evict _ unit).trans
    (foldl_keeps State.barriers (fun t _ => foldl_keeps State.barriers (fun u n => barriers_revokeLow u n _) _ t) _ s)

@[simp] theorem barriers_l2Room (unit : Nat) : (s.l2Room unit).barriers = s.barriers := by
  unfold State.l2Room
  dsimp only
  split
  · rfl
  · split
    · exact barriers_l2Leave _ _
    · rfl

@[simp] theorem barriers_l2Fill (l : Loc) : (s.l2Fill l).barriers = s.barriers := rfl

@[simp] theorem barriers_dramExit : s.dramExit.barriers = s.barriers := by
  unfold State.dramExit State.laterOnce
  split
  · split <;> rfl
  · rfl

@[simp] theorem barriers_l2Fetch (l : Loc) : (s.l2Fetch l).barriers = s.barriers := by
  unfold State.l2Fetch
  dsimp only
  split
  · split
    · split
      · split
        · rfl
        · exact (barriers_l2Fill _ l).trans (barriers_l2Leave s _)
      · exact (barriers_l2Fill _ l).trans (barriers_l2Room s _)
    · exact barriers_dramExit s
  · rfl

@[simp] theorem barriers_putHome (l : Loc) (v : Word) (t : Nat) : (s.putHome l v t).barriers = s.barriers := by
  unfold State.putHome
  split
  · rfl
  · exact (barriers_putLow _ l v t).trans (barriers_l2Fetch s l)

@[simp] theorem barriers_changed (l : Loc) (v : Word) : (s.changed l v).barriers = s.barriers := by
  obtain ⟨a, h⟩ := changed_eq s l v
  rw [h]

end

/-! ## Places without an object -/

/-- No thread waits at a barrier of a granule, and none has it reserved. -/
structure State.Unused (s : State) (g : Loc) : Prop where
  barriers : ∀ w ∈ s.barriers, ¬ (w.addr = g.key ∧ w.sees g = true)
  resv : ∀ r ∈ s.resv, r.on g = false

theorem State.Unused.of_eq {s t : State} {g : Loc} (h : s.Unused g) (hb : t.barriers = s.barriers) (hr : t.resv = s.resv) :
    t.Unused g := ⟨hb ▸ h.barriers, hr ▸ h.resv⟩

theorem State.Unused.putHome {s : State} {g : Loc} (h : s.Unused g) (l : Loc) (v : Word) (t : Nat) : (s.putHome l v t).Unused g :=
  h.of_eq (barriers_putHome s l v t) (threads_putHome s l v t).resv

theorem State.Unused.changed {s : State} {g : Loc} (h : s.Unused g) (l : Loc) (v : Word) : (s.changed l v).Unused g :=
  h.of_eq (barriers_changed s l v) (threads_changed s l v).resv

/-- The answer to a thread that has waited at a barrier. -/
def State.answerWoken (st : Word) (s : State) (w : Waiter) : State := s.answer w.node w.berth st 0

theorem wakeThose_keeps (s : State) (st : Word) (p : Waiter → Bool) :
    (s.wakeThose st p).barriers = s.barriers.filter (fun w => !p w) ∧ (s.wakeThose st p).resv = s.resv :=
  ⟨foldl_keeps State.barriers (f := State.answerWoken st) (fun _ _ => rfl) _ _,
    foldl_keeps State.resv (f := State.answerWoken st) (fun _ _ => rfl) _ _⟩

/-- The end of an object's reservations and waits leaves its granule unused. -/
theorem unused_of_ended (s : State) (g : Loc) (st : Word) : ((s.loseAll g).wakeBarrier g st).Unused g := by
  obtain ⟨hb, hr⟩ := wakeThose_keeps (s.loseAll g) st fun w => w.addr = g.key && w.sees g
  obtain ⟨-, -, hnone, -⟩ := loseAll_spec s g
  refine ⟨fun w hw hg => ?_, fun r hm => hnone r (hr ▸ hm)⟩
  have hw := (List.mem_filter.mp (hb ▸ hw)).2
  simp [hg.1, hg.2] at hw

theorem unused_killObject (s : State) (g : Loc) (x0 x1 : Word) : (s.killObject g x0 x1).Unused g :=
  ((((unused_of_ended s g 1).putHome g x0 _).putHome _ x1 _).changed g x0).changed _ x1

/-! ## A discard at its home (R80, R82) -/

/-- What a discard at its home leaves, before a waiting core is sent the word's value. -/
def State.discEnded (s : State) (n : Nat) (l : Loc) : State :=
  if (s.homeWord l).2 = tagSync then
    let g : Loc := { l with key := l.key / 16 * 16 }
    match s.granule n g with
    | .ok (t, x0, x1, _) => t.killObject g x0 x1
    | .error _ => ((s.loseAll g).wakeBarrier g 1).putHome l (s.homeWord l).1 tagData
  else s

theorem discHome_eq (s : State) (n : Nat) (l : Loc) : s.discHome n l =
    if (s.discEnded n l).words.isEmpty then s.discEnded n l
    else (s.discEnded n l).notify l ((s.discEnded n l).homeWord l).1 := rfl

theorem discHome_of_not_sync {s : State} (n : Nat) {l : Loc} (h : (s.homeWord l).2 ≠ 2) (hw : s.words = []) :
    s.discHome n l = s := by
  have he : s.discEnded n l = s := if_neg h
  rw [discHome_eq, he, hw]
  rfl

theorem unused_discHome_of_sync {s : State} (n : Nat) {l : Loc} (h : (s.homeWord l).2 = 2) :
    (s.discHome n l).Unused { l with key := l.key / 16 * 16 } := by
  have he : (s.discEnded n l).Unused { l with key := l.key / 16 * 16 } := by
    unfold State.discEnded
    rw [if_pos (show (s.homeWord l).2 = tagSync from h)]
    dsimp only
    split
    · exact unused_killObject _ _ _ _
    · exact (unused_of_ended s _ 1).putHome l _ _
  rw [discHome_eq]
  split
  · exact he
  · exact he.of_eq rfl rfl

end Sys2Proof.Machine
end

section
/-! Proofs. Operations that reach their homes: what they do there, and the answer that travels back (R111, R133, R151 to R175; O44). -/

namespace Sys2Proof.Machine

open Sys2Proof.Claims

/-! ## The way to a home, and back -/

@[simp] theorem berthAt_setBerthAt_same (s : State) (n i : Nat) (b : Berth) : (s.setBerthAt n i b).berthAt n i = b := by
  unfold State.setBerthAt State.berthAt
  rw [core_setCore, berth_setBerth]

@[simp] theorem warr_setWarr_false (b : Berth) : (b.setWarr false).warr = false := by
  simp [Berth.warr, Berth.setWarr, setF, bitOf, b2n]

theorem atHomeOf_eq {s : State} {n ctx rank : Nat} {l : Loc} (h : reachesHome s n ctx rank l) (e : Event) (i : Nat)
    (f : State → State) : atHomeOf s e n i ctx rank l f = .next (f s) := by
  unfold atHomeOf
  by_cases hl : l.kind = .lm
  · obtain ⟨hopen, hup, hheld⟩ := h.resolve_left (not_not_intro hl)
    have hway : (isRill n && !isRill (lmNode l.key) && !s.bridge) = false := by
      rcases hopen with h | h | h <;> simp [h]
    simp [hl, hway, hup, hheld]
  · rw [if_neg hl]

theorem homeAnswer_eq {s : State} {n i m : Nat} {o : Option (Nat × Word)} (h : (s.berthAt n i).wait = .home o m) (r : RwRsp) :
    s.homeAnswer n i r = (s.setBerthAt n i { s.berthAt n i with rsp := [r] }).inject
      { src := m, dst := n, ctx := (s.core n).ctxid, ranked := false, drank := 0, srank := 0, epoch := false, launch := none
        body := .mrsp i } := by
  unfold State.homeAnswer
  dsimp only
  rw [h]

/-- The answer stands with the berth, which waits for its response. -/
theorem homeAnswer_stands {s : State} {n i : Nat} (h : (s.berthAt n i).wait.isHome = true) (r : RwRsp) :
    let t := s.homeAnswer n i r
    (t.berthAt n i).rsp = [r] ∧ (t.berthAt n i).wait = (s.berthAt n i).wait ∧ t.mem = s.mem ∧
      .mrspArrive (BitVec.ofNat 12 n) (BitVec.ofNat 2 i) ∈ t.agenda := by
  obtain ⟨o, m, hw⟩ : ∃ o m, (s.berthAt n i).wait = .home o m := by
    unfold Wait.isHome at h
    split at h
    · next o m e => exact ⟨o, m, e⟩
    · cases h
  have hb : (s.homeAnswer n i r).berthAt n i = { s.berthAt n i with rsp := [r] } := by
    rw [homeAnswer_eq hw]
    exact berthAt_setBerthAt_same s n i _
  refine ⟨by rw [hb], by rw [hb], by rw [homeAnswer_eq hw]; rfl, ?_⟩
  rw [homeAnswer_eq hw]
  exact List.mem_append_right _ (List.mem_singleton_self _)

/-! ## What the operations compute (R289, R290) -/

section
variable {n : Nat} (old v e : BitVec n)

theorem amoNew_min : amoNew 4 old v e = if v.toInt < old.toInt then v else old := by simp [amoNew, BitVec.slt]
theorem amoNew_max : amoNew 5 old v e = if old.toInt < v.toInt then v else old := by simp [amoNew, BitVec.slt]
theorem amoNew_minu : amoNew 6 old v e = if v.toNat < old.toNat then v else old := by simp [amoNew, BitVec.ult]
theorem amoNew_maxu : amoNew 7 old v e = if old.toNat < v.toNat then v else old := by simp [amoNew, BitVec.ult]

end

/-- The FN of an AMO is its place in the table, at both widths. -/
theorem amoNew_amoOps : ∀ {k : Nat} (h : k < amoOps.length),
    (∀ x v e, amoNew k x v e = amoOps[k].2.2.1 x v) ∧ ∀ x v e, amoNew k x v e = amoOps[k].2.2.2 x v
  | 0, _ => ⟨fun _ _ _ => rfl, fun _ _ _ => rfl⟩
  | 1, _ => ⟨fun _ _ _ => rfl, fun _ _ _ => rfl⟩
  | 2, _ => ⟨fun _ _ _ => rfl, fun _ _ _ => rfl⟩
  | 3, _ => ⟨fun _ _ _ => rfl, fun _ _ _ => rfl⟩
  | 4, _ => ⟨amoNew_min, amoNew_min⟩
  | 5, _ => ⟨amoNew_max, amoNew_max⟩
  | 6, _ => ⟨amoNew_minu, amoNew_minu⟩
  | 7, _ => ⟨amoNew_maxu, amoNew_maxu⟩
  | 8, _ => ⟨fun _ _ _ => rfl, fun _ _ _ => rfl⟩
  | _ + 9, h => absurd h (by simp [amoOps])

/-- A RED computes what the AMO of its FN does. -/
theorem amoNew_redOps : ∀ {k : Nat} (h : k < redOps.length),
    (∀ x v e, amoNew k x v e = redOps[k].2.1 x v) ∧ ∀ x v e, amoNew k x v e = redOps[k].2.2 x v
  | 0, _ => amoNew_amoOps (k := 0) (by decide)
  | 1, _ => amoNew_amoOps (k := 1) (by decide)
  | 2, _ => amoNew_amoOps (k := 2) (by decide)
  | 3, _ => amoNew_amoOps (k := 3) (by decide)
  | 4, _ => amoNew_amoOps (k := 4) (by decide)
  | 5, _ => amoNew_amoOps (k := 5) (by decide)
  | 6, _ => amoNew_amoOps (k := 6) (by decide)
  | 7, _ => amoNew_amoOps (k := 7) (by decide)
  | _ + 8, h => absurd h (by simp [redOps])

theorem toNat_amoFn {k : Nat} (h : k < amoOps.length) : (BitVec.ofNat 4 k).toNat = k :=
  Nat.mod_eq_of_lt (Nat.lt_trans h (by decide))

theorem toNat_redFn {k : Nat} (h : k < redOps.length) : (BitVec.ofNat 4 k).toNat = k :=
  Nat.mod_eq_of_lt (Nat.lt_trans h (by decide))

/-- No RED of the table is RFADD. -/
theorem redFn_ne {k : Nat} (h : k < redOps.length) : (BitVec.ofNat 4 k).toNat ≠ 8 := by
  rw [toNat_redFn h]
  exact Nat.ne_of_lt h

theorem getLsbD_halfMask (i : Nat) : (BitVec.ofNat 64 (2 ^ 32 - 1)).getLsbD i = decide (i < 32) := by
  rw [BitVec.getLsbD_ofNat, Nat.testBit_two_pow_sub_one, ← Bool.decide_and, decide_eq_decide]
  omega

/-- A 32-bit field written over the low half, or over the high one, of a word. -/
theorem setF_half (x : Word) (v : BitVec 32) :
    setF x 0 32 v.toNat = (x >>> 32 <<< 32) ||| v.setWidth 64 ∧
      setF x 32 32 v.toNat = (v.setWidth 64 <<< 32) ||| (x.setWidth 32).setWidth 64 := by
  have hv : BitVec.ofNat 64 (v.toNat % 2 ^ 32) = v.setWidth 64 := by rw [Nat.mod_eq_of_lt v.isLt, BitVec.ofNat_toNat]
  unfold setF
  rw [hv]
  refine ⟨BitVec.eq_of_getLsbD_eq fun i hi => ?_, BitVec.eq_of_getLsbD_eq fun i hi => ?_⟩ <;>
    simp only [BitVec.getLsbD_or, BitVec.getLsbD_and, BitVec.getLsbD_not, BitVec.getLsbD_shiftLeft, getLsbD_halfMask,
      BitVec.getLsbD_setWidth, BitVec.getLsbD_ushiftRight, hi]
  · by_cases h : i < 32
    · simp [h, hi]
    · simp [h, hi, show 32 + (i - 32) = i by omega]
  · by_cases h : i < 32
    · simp [h, hi]
    · simp [h, hi, show i - 32 < 32 by omega]

theorem setHalf_eq (x : Word) {l : Loc} (h : l.key % 4 = 0) (v : BitVec 32) : setHalf x (l.key % 8) v = withHalf x l v := by
  unfold setHalf withHalf
  split
  · rw [show l.key % 8 = 0 by omega]
    exact (setF_half x v).1
  · rw [show l.key % 8 = 4 by omega]
    exact (setF_half x v).2

/-! ## Updates at a home (R133, R158, R159) -/

theorem updateCheck_ok {tag : Nat} (ht : tag < 2) (a : Nat) : updateCheck tag a = .ok () := by
  unfold updateCheck tagSync tagPoison
  rw [if_neg (by omega), if_neg (by omega)]

theorem updateCheck_refused {tag : Nat} (ht : tag = 2 ∨ tag = 3) (a : Nat) :
    updateCheck tag a = .error (if tag = 2 then .syncstore else .poison, a) := by
  rcases ht with rfl | rfl <;> rfl

section
variable {s : State} {n : Nat} {l : Loc} {x : Word} {tag : Nat} (hx : (s.takeHome n l).homeWord l = (x, tag))
include hx

section
variable (ht : tag < 2)
include ht

theorem amo_word (op : Nat) (v e : Word) :
    s.amo n l op false v e = .ok (updated (s.takeHome n l) l (amoNew op x v e), x) := by
  unfold State.amo
  simp only [hx, updateCheck_ok ht, bind, Except.bind]
  rfl

variable (hk : l.key % 4 = 0)
include hk

theorem amo_half (op : Nat) (v e : Word) : s.amo n l op true v e =
    .ok (updated (s.takeHome n l) l (withHalf x l (amoNew op (halfOf x l) (v.setWidth 32) (e.setWidth 32))),
      (halfOf x l).signExtend 64) := by
  unfold State.amo
  simp only [hx, updateCheck_ok ht, bind, Except.bind, setHalf_eq x hk]
  rfl

theorem red_fadd (w : Bool) (v : Word) : s.red n l 8 w v = .ok (updated (s.takeHome n l) l
    (withHalf x l (BitVec.ofNat 32 (fpAdd fp32 rmRNE (halfOf x l).toNat (v.toNat % 2 ^ 32)).1))) := by
  unfold State.red
  simp only [hx, updateCheck_ok ht, bind, Except.bind, setHalf_eq x hk]
  rfl

end

theorem amo_refused (ht : tag = 2 ∨ tag = 3) (op : Nat) (w : Bool) (v e : Word) :
    s.amo n l op w v e = .error (if tag = 2 then .syncstore else .poison, l.key / 8 * 8) := by
  unfold State.amo
  simp only [hx, updateCheck_refused ht, bind, Except.bind]

theorem red_refused (ht : tag = 2 ∨ tag = 3) (op : Nat) (w : Bool) (v : Word) :
    s.red n l op w v = .error (if tag = 2 then .syncstore else .poison, l.key / 8 * 8) := by
  unfold State.red
  split
  · simp only [hx, updateCheck_refused ht, bind, Except.bind]
  · rw [amo_refused hx ht]
    rfl

end

/-- A RED but RFADD is the AMO of its FN, whose old value nobody takes. -/
theorem red_of_amo {s t : State} {n op : Nat} {l : Loc} {w : Bool} {v y : Word} (hop : op ≠ 8)
    (h : s.amo n l op w v 0 = .ok (t, y)) : s.red n l op w v = .ok t := by
  unfold State.red
  rw [if_neg hop, h]
  rfl

/-! ## The steps at the homes -/

section
variable {s : State} {node : BitVec 12} {b : BitVec 2} {ctx ks : BitVec 12} {addr v e : Word} {op : BitVec 4} {o : BitVec 3}
  {w : BitVec 1} {c : BitVec 32}

theorem exec_homeAmo_eq : exec (.homeAmo node b ctx ks addr op w v e) s = execHomeAmo node b ctx ks addr op w v e s := rfl

theorem exec_homeRed_eq : exec (.homeRed node b ctx ks addr op w v) s = execHomeRed node b ctx ks addr op w v s := rfl

theorem exec_homeLrw_eq : exec (.homeLrw node b ctx ks addr v) s = execHomeLrw node b ctx ks addr v s := rfl

theorem exec_homeSch_eq : exec (.homeSch node b ctx ks addr w v) s = execHomeSch node b ctx ks addr w v s := rfl

theorem exec_homeBarrier_eq : exec (.homeBarrier node b ctx ks addr o v) s = execHomeBarrier node b ctx ks addr o v s := rfl

theorem exec_homeWaitRegister_eq :
    exec (.homeWaitRegister node b ctx ks addr w c) s = execHomeWaitRegister node b ctx ks addr w c s := rfl

end

theorem home_bind_ok {α β : Type} {x : HomeM α} {a : α} (h : x = .ok a) (f : α → HomeM β) : (x >>= f) = f a := by
  rw [h]
  rfl

theorem home_bind_error {α β : Type} {x : HomeM α} {c : Cause × Nat} (h : x = .error c) (f : α → HomeM β) :
    (x >>= f) = .error c := by
  rw [h]
  rfl

section
variable {s t : State} {node : BitVec 12} {b : BitVec 2} {ctx ks : BitVec 12} {addr : Word} {l : Loc}
  (hl : l = keyLoc addr.toNat ctx.toNat ks.toNat) (hr : reachesHome s node.toNat ctx.toNat ks.toNat l)
include hl hr

section
variable {e : Event} {f : State → Loc → HomeM (State × Option (Word × Word))}

theorem homeStep_eq : homeStep s e node b ctx ks addr f = .next (s.homeResult node.toNat b.toNat (f s l)) := by
  subst hl
  unfold homeStep
  dsimp only
  exact atHomeOf_eq hr e _ _

theorem homeStep_ok {x y : Word} (h : f s l = .ok (t, some (x, y))) :
    homeStep s e node b ctx ks addr f = .next (t.homeAnswer node.toNat b.toNat (.ok x y false)) := by
  rw [homeStep_eq hl hr, h]
  rfl

theorem homeStep_stays (h : f s l = .ok (t, none)) : homeStep s e node b ctx ks addr f = .next t := by
  rw [homeStep_eq hl hr, h]
  rfl

theorem homeStep_refused {c : Cause} {k : Nat} (h : f s l = .error (c, k)) :
    homeStep s e node b ctx ks addr f = .next (s.homeAnswer node.toNat b.toNat (.refused c k)) := by
  rw [homeStep_eq hl hr, h]
  rfl

end

/-! ## AMOs and REDs -/

section
variable {op : BitVec 4} {w : BitVec 1} {v e x : Word}

theorem exec_homeAmo (h : s.amo node.toNat l op.toNat (w = 1) v e = .ok (t, x)) :
    exec (.homeAmo node b ctx ks addr op w v e) s = .next (t.homeAnswer node.toNat b.toNat (.ok x 0 false)) :=
  exec_homeAmo_eq.trans (homeStep_ok hl hr (home_bind_ok h _))

theorem exec_homeRed (h : s.red node.toNat l op.toNat (w = 1) v = .ok t) :
    exec (.homeRed node b ctx ks addr op w v) s = .next (t.homeAnswer node.toNat b.toNat (.ok 0 0 false)) :=
  exec_homeRed_eq.trans (homeStep_ok hl hr (home_bind_ok h _))

variable {tag : Nat} (hx : (s.takeHome node.toNat l).homeWord l = (x, tag))
include hx

section
variable (ht : tag < 2)
include ht

theorem exec_homeAmo_word : exec (.homeAmo node b ctx ks addr op 0 v e) s =
    .next ((updated (s.takeHome node.toNat l) l (amoNew op.toNat x v e)).homeAnswer node.toNat b.toNat (.ok x 0 false)) :=
  exec_homeAmo hl hr (amo_word hx ht _ v e)

theorem exec_homeRed_word (hop : op.toNat ≠ 8) : exec (.homeRed node b ctx ks addr op 0 v) s =
    .next ((updated (s.takeHome node.toNat l) l (amoNew op.toNat x v 0)).homeAnswer node.toNat b.toNat (.ok 0 0 false)) :=
  exec_homeRed hl hr (red_of_amo hop (amo_word hx ht _ v 0))

variable (hk : l.key % 4 = 0)
include hk

theorem exec_homeAmo_half : exec (.homeAmo node b ctx ks addr op 1 v e) s =
    .next ((updated (s.takeHome node.toNat l) l
      (withHalf x l (amoNew op.toNat (halfOf x l) (v.setWidth 32) (e.setWidth 32)))).homeAnswer node.toNat b.toNat
        (.ok ((halfOf x l).signExtend 64) 0 false)) :=
  exec_homeAmo hl hr (amo_half hx ht hk _ v e)

theorem exec_homeRed_half (hop : op.toNat ≠ 8) : exec (.homeRed node b ctx ks addr op 1 v) s =
    .next ((updated (s.takeHome node.toNat l) l
      (withHalf x l (amoNew op.toNat (halfOf x l) (v.setWidth 32) 0))).homeAnswer node.toNat b.toNat (.ok 0 0 false)) :=
  exec_homeRed hl hr (red_of_amo hop (amo_half hx ht hk _ v 0))

end

theorem exec_homeAmo_refused (ht : tag = 2 ∨ tag = 3) : exec (.homeAmo node b ctx ks addr op w v e) s =
    .next (s.homeAnswer node.toNat b.toNat (.refused (if tag = 2 then .syncstore else .poison) (l.key / 8 * 8))) :=
  exec_homeAmo_eq.trans (homeStep_refused hl hr (home_bind_error (amo_refused hx ht _ _ v e) _))

theorem exec_homeRed_refused (ht : tag = 2 ∨ tag = 3) : exec (.homeRed node b ctx ks addr op w v) s =
    .next (s.homeAnswer node.toNat b.toNat (.refused (if tag = 2 then .syncstore else .poison) (l.key / 8 * 8))) :=
  exec_homeRed_eq.trans (homeStep_refused hl hr (home_bind_error (red_refused hx ht _ _ v) _))

end

/-! ## Reservations and barriers (R154 to R157, R168 to R173) -/

/-- LRW at the home, as HOME_LRW calls it. -/
def State.lrwAt (s : State) (node : BitVec 12) (b : BitVec 2) (ctx : BitVec 12) (va : Word) (l : Loc) : HomeM (State × LrwAns) :=
  s.lrw node.toNat l (s.identAt node.toNat b.toNat).1 (s.identAt node.toNat b.toNat).2 node.toNat b.toNat ctx.toNat va.toNat 0

section
variable {va : Word}

theorem exec_homeLrw_ok {r : Word × Word} (h : s.lrwAt node b ctx va l = .ok (t, some r)) :
    exec (.homeLrw node b ctx ks addr va) s = .next (t.homeAnswer node.toNat b.toNat (.ok r.1 r.2 false)) := by
  rw [exec_homeLrw_eq]
  unfold execHomeLrw
  exact homeStep_ok hl hr (home_bind_ok h _)

theorem exec_homeLrw_queued (h : s.lrwAt node b ctx va l = .ok (t, none)) : exec (.homeLrw node b ctx ks addr va) s =
    .next (t.setBerthAt node.toNat b.toNat { t.berthAt node.toNat b.toNat with wait := .lrw l.key }) := by
  rw [exec_homeLrw_eq]
  unfold execHomeLrw
  exact homeStep_stays hl hr (home_bind_ok h _)

theorem exec_homeLrw_refused {c : Cause} {k : Nat} (h : s.lrwAt node b ctx va l = .error (c, k)) :
    exec (.homeLrw node b ctx ks addr va) s = .next (s.homeAnswer node.toNat b.toNat (.refused c k)) := by
  rw [exec_homeLrw_eq]
  unfold execHomeLrw
  exact homeStep_refused hl hr (home_bind_error h _)

end

/-- SCH or RELQ at the home, as HOME_SCH calls it. -/
def State.schAt (s : State) (node : BitVec 12) (b : BitVec 2) (st : BitVec 1) (v : Word) (l : Loc) : HomeM (State × Word) :=
  s.sch node.toNat l (s.identAt node.toNat b.toNat).1 (s.identAt node.toNat b.toNat).2 (st = 1) v

section
variable {st : BitVec 1} {v : Word}

theorem exec_homeSch_ok {r : Word} (h : s.schAt node b st v l = .ok (t, r)) :
    exec (.homeSch node b ctx ks addr st v) s = .next (t.homeAnswer node.toNat b.toNat (.ok r 0 false)) := by
  rw [exec_homeSch_eq]
  unfold execHomeSch
  exact homeStep_ok hl hr (home_bind_ok h _)

theorem exec_homeSch_refused {c : Cause} {k : Nat} (h : s.schAt node b st v l = .error (c, k)) :
    exec (.homeSch node b ctx ks addr st v) s = .next (s.homeAnswer node.toNat b.toNat (.refused c k)) := by
  rw [exec_homeSch_eq]
  unfold execHomeSch
  exact homeStep_refused hl hr (home_bind_error h _)

end

section
variable {o : BitVec 3} {v : Word}

theorem exec_homeBarrier_val {r : Word} (h : s.barrier node.toNat b.toNat (l.nameBy ks.toNat) l o.toNat v = .ok (t, .val r)) :
    exec (.homeBarrier node b ctx ks addr o v) s = .next (t.homeAnswer node.toNat b.toNat (.ok r 0 false)) := by
  rw [exec_homeBarrier_eq]
  unfold execHomeBarrier
  exact homeStep_ok hl hr (home_bind_ok h _)

theorem exec_homeBarrier_refused {c : Cause} {k : Nat}
    (h : s.barrier node.toNat b.toNat (l.nameBy ks.toNat) l o.toNat v = .error (c, k)) :
    exec (.homeBarrier node b ctx ks addr o v) s = .next (s.homeAnswer node.toNat b.toNat (.refused c k)) := by
  rw [exec_homeBarrier_eq]
  unfold execHomeBarrier
  exact homeStep_refused hl hr (home_bind_error h _)

/-- A thread that a barrier keeps waits there: a BAW that has arrived before as BWAIT, its WARR cleared, a BAW with its phase. -/
theorem exec_homeBarrier_waits {p : Word}
    (h : s.barrier node.toNat b.toNat (l.nameBy ks.toNat) l o.toNat v = .ok (t, .waits p)) :
    ∃ z : State, exec (.homeBarrier node b ctx ks addr o v) s = .next z ∧ z.mem = t.mem ∧
      (∀ y m, (t.berthAt node.toNat b.toNat).wait = .home (some y) m →
        (z.berthAt node.toNat b.toNat).wait = .barrier l.key (some y) ∧ (z.berthAt node.toNat b.toNat).warr = false) ∧
      ((∀ y m, (t.berthAt node.toNat b.toNat).wait ≠ .home (some y) m) →
        (z.berthAt node.toNat b.toNat).wait = .barrier l.key (if o.toNat = 3 then some (v.toNat, p) else none)) := by
  rw [exec_homeBarrier_eq]
  unfold execHomeBarrier
  refine ⟨_, homeStep_stays hl hr (home_bind_ok h _), rfl, fun y m hw => ?_, fun hw => ?_⟩
  · rw [berthAt_setBerthAt_same, hw]
    exact ⟨rfl, warr_setWarr_false _⟩
  · rw [berthAt_setBerthAt_same]
    split
    · next y m e => exact absurd e (hw y m)
    · have ho : o = 3 ↔ o.toNat = 3 := by rw [← BitVec.toNat_inj]; rfl
      simp only [ho]

end

/-! ## Waiting for a word (R174) -/

section
variable {y : Word} {g : Nat} {ne : BitVec 1} {c : BitVec 32} (hread : s.readHome l = (t, y, g))
include hread

theorem exec_homeWaitRegister_poison (hg : g = 3) : exec (.homeWaitRegister node b ctx ks addr ne c) s =
    .next (s.homeAnswer node.toNat b.toNat (.refused .poison (l.key / 8 * 8))) := by
  rw [exec_homeWaitRegister_eq]
  unfold execHomeWaitRegister
  refine homeStep_refused hl hr ?_
  rw [hread]
  exact if_pos hg

variable (hg : g ≠ 3)
include hg

theorem exec_homeWaitRegister_passes (h : waitPasses (ne = 1) (halfOf y l) c = true) :
    exec (.homeWaitRegister node b ctx ks addr ne c) s = .next (t.homeAnswer node.toNat b.toNat (.ok 0 0 false)) := by
  rw [exec_homeWaitRegister_eq]
  unfold execHomeWaitRegister
  refine homeStep_ok hl hr ?_
  rw [hread]
  exact (if_neg hg).trans (if_pos h)

theorem exec_homeWaitRegister_waits (h : waitPasses (ne = 1) (halfOf y l) c = false) :
    exec (.homeWaitRegister node b ctx ks addr ne c) s =
      .next (t.registerWait node.toNat b.toNat (l.nameBy ks.toNat) l (ne = 1) c) := by
  rw [exec_homeWaitRegister_eq]
  unfold execHomeWaitRegister
  refine homeStep_stays hl hr ?_
  rw [hread]
  exact (if_neg hg).trans (if_neg (Bool.eq_false_iff.mp h))

end

end

theorem registerWait_spec (s : State) (n i va : Nat) (l : Loc) (ne : Bool) (c : BitVec 32) :
    let z := s.registerWait n i va l ne c
    (z.berthAt n i).wait = .word l.key ne c ∧ ⟨l.key, n, i, l.ctx, l.slot, va⟩ ∈ z.words :=
  ⟨congrArg Berth.wait (berthAt_setBerthAt_same (s.readHome l).1 n i _), List.mem_append_right _ (List.mem_singleton_self _)⟩

/-! ## Log records (R165) -/

/-- What LOGA does at the home of its target: the check there, then `log`; while the record cannot be written it is as `stay` says. -/
def State.logaHere (s : State) (n i : Nat) (l : Loc) (log : State → LogM State) (stay : LmWait → State) : State :=
  match s.logaTarget n l with
  | .error (c, k) => s.homeAnswer n i (.refused c k)
  | .ok t =>
    match log t with
    | .ok u => u.homeAnswer n i (.ok 0 0 false)
    | .error (.bad c, k) => s.homeAnswer n i (.failed c (w64 k))
    | .error (.wait m, _) => stay m

section
variable {s t : State} {n i : Nat} {l : Loc} {log : State → LogM State} {stay : LmWait → State} {c : Cause} {k : Nat}

theorem logaHere_refused (h : s.logaTarget n l = .error (c, k)) :
    s.logaHere n i l log stay = s.homeAnswer n i (.refused c k) := by
  unfold State.logaHere
  rw [h]

variable (h : s.logaTarget n l = .ok t)
include h

theorem logaHere_done {u : State} (hlog : log t = .ok u) : s.logaHere n i l log stay = u.homeAnswer n i (.ok 0 0 false) := by
  unfold State.logaHere
  simp only [h, hlog]

theorem logaHere_failed (hlog : log t = .error (.bad c, k)) :
    s.logaHere n i l log stay = s.homeAnswer n i (.failed c (w64 k)) := by
  unfold State.logaHere
  simp only [h, hlog]

theorem logaHere_waits {m : LmWait} (hlog : log t = .error (.wait m, k)) : s.logaHere n i l log stay = stay m := by
  unfold State.logaHere
  simp only [h, hlog]

end

/-- HOME_LOGA of a target in the window of a rank. -/
theorem exec_homeLoga {s : State} {node : BitVec 12} {b : BitVec 2} {ctx : BitVec 12} {kern : BitVec 1} {region addr va : Word}
    {seg : BitVec 32} {o : BitVec 2} {v : BitVec 32} {rk : BitVec 10} {seq : BitVec 16} {r k : Nat}
    (hva : place va.toNat = .window r k) (hr : reachesHome s node.toNat ctx.toNat r (keyLoc addr.toNat ctx.toNat 0)) :
    exec (.homeLoga node b ctx kern region seg addr va o v rk seq) s =
      .next (s.logaHere node.toNat b.toNat (keyLoc addr.toNat ctx.toNat 0)
        (fun t => t.appendLog node.toNat ctx.toNat (kern = 1) region.toNat seg.toNat (logSeg (keyLoc addr.toNat ctx.toNat 0))
          ⟨o.toNat, va.toNat, v.toNat, rk.toNat, seq.toNat⟩)
        fun m => (s.repeatLater ctx.toNat m).again (.homeLoga node b ctx kern region seg addr va o v rk seq)) := by
  show execHomeLoga node b ctx kern region seg addr va o v rk seq s = _
  unfold execHomeLoga
  rw [hva]
  exact atHomeOf_eq hr _ _ _

/-! ## The values that reach a waiting thread (R174) -/

section
variable {s : State} {n i k : Nat} {ne : Bool} {c x : BitVec 32} (hw : (s.berthAt n i).wait = .word k ne c)
include hw

theorem testWait_of_passes (h : waitPasses ne x c = true) : s.testWait n i x = (s.unwait n i).answer n i 0 0 := by
  unfold State.testWait
  rw [hw]
  exact if_pos h

theorem testWait_of_not_passes (h : waitPasses ne x c = false) : s.testWait n i x = s := by
  unfold State.testWait
  rw [hw]
  exact if_neg (Bool.eq_false_iff.mp h)

end

/-! ## The statement -/

/-- Settles O44: each operation by what it does at its home, LOGA by what stops its record, then answers, values sent and discards. -/
theorem homeOperationsComplete : Obligations.HomeOperationsComplete := by
  unfold Obligations.HomeOperationsComplete
  refine ⟨?_, ?_, fun s n i r h => homeAnswer_stands h r, ?_, ?_⟩
  · intro s node b ctx ks addr v e x tag n i l hr
    refine ⟨?_, ?_, fun t r h => ?_, fun t h => ?_, fun t r st h => ?_, fun t r o h => ?_, fun t p o h => ?_, fun c k o h => ?_,
      fun c k st h => ?_, fun t y ne c h => ?_, fun t y g ne c h hg => ⟨fun hp => ?_, fun hp => ?_⟩, fun c k h => ?_⟩
    · rintro u rfl hx ht
      refine ⟨fun k h => ?_, exec_homeAmo_word rfl hr hx ht, fun k h => ?_, fun hk => ⟨fun k h => ?_,
        exec_homeAmo_half rfl hr hx ht hk, fun k h => ?_, exec_homeRed rfl hr (red_fadd hx ht hk _ v)⟩⟩
      · rw [exec_homeAmo_word rfl hr hx ht, toNat_amoFn h, (amoNew_amoOps h).1]
      · rw [exec_homeRed_word rfl hr hx ht (redFn_ne h), toNat_redFn h, (amoNew_redOps h).1]
      · rw [exec_homeAmo_half rfl hr hx ht hk, toNat_amoFn h, (amoNew_amoOps h).2]
      · rw [exec_homeRed_half rfl hr hx ht hk (redFn_ne h), toNat_redFn h, (amoNew_redOps h).2]
    · rintro u k w rfl hx ht
      exact ⟨exec_homeAmo_refused rfl hr hx ht, exec_homeRed_refused rfl hr hx ht⟩
    · exact exec_homeLrw_ok rfl hr h
    · exact ⟨_, exec_homeLrw_queued rfl hr h, congrArg Berth.wait (berthAt_setBerthAt_same t n i _), rfl⟩
    · exact exec_homeSch_ok rfl hr h
    · exact exec_homeBarrier_val rfl hr h
    · exact exec_homeBarrier_waits rfl hr h
    · exact exec_homeBarrier_refused rfl hr h
    · exact exec_homeSch_refused rfl hr h
    · exact exec_homeWaitRegister_poison rfl hr h rfl
    · exact exec_homeWaitRegister_passes rfl hr h hg hp
    · exact ⟨_, exec_homeWaitRegister_waits rfl hr h hg hp, registerWait_spec t _ _ _ _ _ _⟩
    · exact exec_homeLrw_refused rfl hr h
  · intro s t1 node b ctx kern region addr va seg o v rk seq r k n l i log hva hr
    have hexec := exec_homeLoga (b := b) (kern := kern) (region := region) (seg := seg) (o := o) (v := v) (rk := rk) (seq := seq)
      hva hr
    refine ⟨fun c a h => hexec.trans (congrArg Host.Outcome.next (logaHere_refused h)),
      fun h => ⟨fun t2 hl => ?_, fun c a hl => ?_, fun m a hl => ?_⟩⟩
    · refine hexec.trans (congrArg Host.Outcome.next (logaHere_done h ?_))
      exact hl
    · refine hexec.trans (congrArg Host.Outcome.next (logaHere_failed h ?_))
      exact hl
    · refine hexec.trans (congrArg Host.Outcome.next (logaHere_waits (k := a) h ?_))
      exact hl
  · intro s node b k ne c x hw
    refine ⟨fun h => ⟨_, congrArg Host.Outcome.next (testWait_of_passes hw h), wait_answer_same _ _ _ 0 0, rfl⟩, fun h => ?_⟩
    exact congrArg Host.Outcome.next (testWait_of_not_passes hw h)
  · intro s node ctx ks addr l
    refine ⟨fun h hw => congrArg Host.Outcome.next (discHome_of_not_sync _ h hw), fun h => ⟨_, rfl, ?_⟩⟩
    have hu := unused_discHome_of_sync node.toNat h
    exact ⟨hu.barriers, hu.resv⟩

end Sys2Proof.Machine
end

section
/-! Proofs. The packet that arrives (R97, R98, R474), and a state whose list of cores is out of order (O46). -/

namespace Sys2Proof.Machine

open Sys2Proof.Claims

/-! ## The packet that arrives -/

/-- A packet that arrives came from `src` to `dst`. -/
theorem ends_of_arrives {s : State} {src dst : BitVec 12} {p : Packet} (h : arrives s p src dst) :
    p.src = src.toNat ∧ p.dst = dst.toNat := by
  have hp := List.find?_some h.1
  simp only [Bool.and_eq_true, decide_eq_true_eq] at hp
  exact hp.1

/-- The arrival of the oldest packet of its flow takes it off the network and does what its kind asks for. -/
theorem arrival_of_arrives {s : State} {src dst : BitVec 12} {p : Packet} (h : arrives s p src dst) {e : Event} {vn : Nat}
    (he : p.event = e) (hvn : p.body.vn = vn) (f : State → Packet → State) :
    arrival s e src dst vn f = .next (f (without s p) p) := by
  have hlink : s.refusedPeer p = false := by
    unfold State.refusedPeer State.linkUp
    cases hl : isLink p.src
    · rfl
    · rw [h.2 hl]
      rfl
  unfold arrival
  rw [← hvn, h.1]
  dsimp only
  rw [if_pos he, if_neg (by rw [hlink]; exact Bool.false_ne_true)]
  rfl

/-! ## A message at a core that is listed out of order -/

/-- A core whose L1 owns the first word of context 0's header, with a value of its own (R63, R195). -/
def headerOwner (v : Word) : Core := { Core.reset with power := .run, l1 := [⟨0, 0, 0, .od, v, 0, false, false⟩] }

/-- A message for rank 0 of context 0, from node 0x801 to node 0x800. -/
def messageIn : Packet :=
  { src := 0x801, dst := 0x800, ctx := 0, ranked := true, drank := 0, srank := 0, epoch := false, launch := none
    body := .nmsg ⟨0, 0, 0, 0, 0, 0, 0x801, 0, 0, false, 0⟩ }

/-- A state that lists node 0x801 before node 0x800. Both own the header's word, node 0x801 with reserved bits that are not 0. -/
def outOfOrder : State :=
  { State.reset with cores := [(0x801, headerOwner 0x4000000000000000), (0x800, headerOwner 0)], net := [messageIn] }

theorem arrives_outOfOrder : arrives outOfOrder messageIn 0x801 0x800 := by
  refine ⟨?_, fun h => ?_⟩
  · decide +kernel
  · cases h

/-- A read of the header's word takes the copy of the owner that is listed last: that of node 0x800, and the context is usable. -/
theorem usable_outOfOrder : outOfOrder.headerOk 0 = true := by decide +kernel

/-- The acknowledgement lists node 0x800 anew, before node 0x801, whose copy of the word is now taken last: the context is unusable,
and the message enters no queue. -/
theorem inbox_outOfOrder : (((without outOfOrder messageIn).takeMessage messageIn).core 0x800).inbox = [] := by decide +kernel

/-- Refutes O46: the clause on an NMSG for the resident rank of a usable context asks for it in the inbox. In a state that lists its
cores out of order, `outOfOrder`, the acknowledgement that goes out first changes in which order two owners of the context's header
write it back, and after it the context is found unusable: the message is discarded. -/
theorem not_arrivals : ¬ Obligations.Arrivals := by
  rintro ⟨⟨-, hmessages⟩, -, -⟩
  obtain ⟨hnmsg, -⟩ := hmessages outOfOrder 0x801 0x800 messageIn arrives_outOfOrder
  obtain ⟨hplaced, -⟩ := hnmsg _ rfl
  obtain ⟨t, ht, -, hinbox⟩ := hplaced ⟨usable_outOfOrder, by decide +kernel, rfl, rfl, rfl⟩ (by decide)
  have hexec : exec (.nmsgArrive 0x801 0x800) outOfOrder = .next ((without outOfOrder messageIn).takeMessage messageIn) :=
    arrival_of_arrives arrives_outOfOrder rfl rfl State.takeMessage
  rw [hexec] at ht
  cases ht
  rw [show (0x800 : BitVec 12).toNat = 0x800 from rfl, inbox_outOfOrder] at hinbox
  cases hinbox

end Sys2Proof.Machine
end

section
/-! Proofs. Steps of a fold that meet an index, and events that are added to the agenda. -/

namespace Sys2Proof.Machine

/-- What the steps at other indices keep until a fold meets `i`, the step at `i` turns into what every step keeps from then on. -/
theorem foldl_meets {ι : Type} [DecidableEq ι] {A P : State → Prop} {f : State → ι → State} {i : ι}
    (before : ∀ t j, j ≠ i → A t → A (f t j)) (own : ∀ t, A t → P (f t i)) (after : ∀ t j, P t → P (f t j)) {l : List ι}
    (hi : i ∈ l) {s : State} (hs : A s) : P (l.foldl f s) := by
  induction l generalizing s with
  | nil => cases hi
  | cons j r ih =>
    by_cases hj : j = i
    · subst hj
      exact List.foldlRecOn r f (motive := P) (own s hs) fun t ht k _ => after t k ht
    · exact ih ((List.mem_cons.mp hi).resolve_left (Ne.symm hj)) (before s j hj hs)

theorem laterOnce_eq (s : State) (e : Event) : ∃ a, s.laterOnce e = { s with agenda := a } ∧ s.agenda ⊆ a := by
  unfold State.laterOnce
  split
  · exact ⟨_, rfl, List.Subset.refl _⟩
  · exact ⟨_, rfl, List.subset_append_left _ _⟩

theorem agenda_subset_laterOnce (s : State) (e : Event) : s.agenda ⊆ (s.laterOnce e).agenda := by
  obtain ⟨a, h, hsub⟩ := laterOnce_eq s e
  rw [h]
  exact hsub

/-- Triggers that a packet fires are added to the agenda, and nothing else changes. -/
theorem packetTriggers_eq (s : State) (p : Packet) : ∃ a, s.packetTriggers p = { s with agenda := a } ∧ s.agenda ⊆ a := by
  unfold State.packetTriggers
  refine List.foldlRecOn _ _ (motive := fun t => ∃ a, t = { s with agenda := a } ∧ s.agenda ⊆ a) ⟨_, rfl, List.Subset.refl _⟩ ?_
  rintro t ⟨a, rfl, ha⟩ i -
  obtain ⟨b, hb, hab⟩ := laterOnce_eq { s with agenda := a } (.cascadeFire (BitVec.ofNat 4 i))
  exact ⟨b, hb, List.Subset.trans ha hab⟩

theorem agenda_subset_record (s : State) (n cls typ : Nat) (p : Word) : s.agenda ⊆ (s.record n cls typ p).agenda := by
  unfold State.record State.recordFor
  dsimp only
  split
  · exact List.subset_append_left _ _
  · exact List.Subset.refl _

/-- A record is a core's ring's alone. -/
theorem core_record (s : State) (n cls typ : Nat) (p : Word) (k : Nat) :
    ∃ r, (s.record n cls typ p).core k = { s.core k with ring := r } := by
  unfold State.record State.recordFor
  dsimp only
  split
  · by_cases hk : k = n
    · subst hk
      exact ⟨_, core_setCore s k _⟩
    · exact ⟨_, core_setCore_other s _ hk⟩
  · exact ⟨_, rfl⟩

end Sys2Proof.Machine
end

section
/-! Proofs. WAKE writes and cascade triggers (R446, R449, R450, R451). -/

namespace Sys2Proof.Machine

/-! ## What a wake leaves -/

/-- What waking groups leaves as it is, but for WAKE_SRC, which its first step alone writes. -/
def State.wakeView (s : State) : Memory × Word × BitVec 17 × Vector Cascade 16 := (s.mem, s.wakeSrc, s.arm, s.cascades)

theorem wakeView_laterOnce (s : State) (e : Event) : (s.laterOnce e).wakeView = s.wakeView := by
  obtain ⟨a, h, -⟩ := laterOnce_eq s e
  rw [h]
  rfl

theorem wakeView_record (s : State) (n cls typ : Nat) (p : Word) : (s.record n cls typ p).wakeView = s.wakeView := by
  unfold State.record State.recordFor
  dsimp only
  split <;> rfl

/-- A group's new STATE has been written and recorded (R459). -/
def State.stateRecorded (s : State) (g st : Nat) : State :=
  (s.setGroup g { s.group g with state := st }).record mcNode 3 1 (w64 (g * 2 ^ 8 + (s.group g).state * 4 + st))

/-- A change of STATE changes nothing, or is recorded; the last group's may ask the island to leave ON, or end its NAP (R444). -/
theorem groupState_cases (s : State) (g st : Nat) :
    s.groupState g st = s ∨ s.groupState g st = s.stateRecorded g st ∨
      s.groupState g st = { s.stateRecorded g st with tbusy := true }.laterOnce .torrentLeaveOn ∨
      (s.stateRecorded g st).tstate = 1 ∧ ∃ c, s.groupState g st = { s.stateRecorded g st with tstate := 0, cores := c } := by
  unfold State.groupState
  dsimp only
  split
  · exact .inl rfl
  · split
    · exact .inr (.inr (.inl rfl))
    · split
      · next h => exact .inr (.inr (.inr ⟨of_decide_eq_true ((Bool.and_eq_true _ _).mp h).1, _, rfl⟩))
      · exact .inr (.inl rfl)

theorem wakeView_stateRecorded (s : State) (g st : Nat) : (s.stateRecorded g st).wakeView = s.wakeView :=
  wakeView_record _ mcNode 3 1 _

theorem wakeView_groupState (s : State) (g st : Nat) : (s.groupState g st).wakeView = s.wakeView := by
  rcases groupState_cases s g st with h | h | h | ⟨-, c, h⟩ <;> rw [h]
  · exact wakeView_stateRecorded s g st
  · exact (wakeView_laterOnce _ _).trans (wakeView_stateRecorded s g st)
  · exact wakeView_stateRecorded s g st

theorem agenda_subset_groupState (s : State) (g st : Nat) : s.agenda ⊆ (s.groupState g st).agenda := by
  have hrecorded : s.agenda ⊆ (s.stateRecorded g st).agenda :=
    agenda_subset_record (s.setGroup g { s.group g with state := st }) mcNode 3 1 _
  rcases groupState_cases s g st with h | h | h | ⟨-, c, h⟩ <;> rw [h]
  · exact List.Subset.refl _
  · exact hrecorded
  · exact List.Subset.trans hrecorded (agenda_subset_laterOnce { s.stateRecorded g st with tbusy := true } _)
  · exact hrecorded

/-! ## One group, and several -/

/-- The record of a group that is to come up: the sources are noted, and a drain that nothing has followed is taken back (R449). -/
def State.wakeMarked (bits : Word) (s : State) (g : Nat) : State :=
  let x := s.group g
  s.setGroup g { x with wakeBy := x.wakeBy ||| bits, drained := x.drained && (x.saved || s.retSave) }

/-- The wake of one group; one that is ON and not asked to quiesce has nothing to come up for. -/
def State.wakeGroup (bits : Word) (s : State) (g : Nat) : State :=
  if (s.group g).state = 0 && !(s.group g).quiesce then s
  else
    (if (s.group g).state = 0 then s.wakeMarked bits g else (s.wakeMarked bits g).groupState g 3).laterOnce
      (.groupWake (BitVec.ofNat 5 g))

/-- The part before the groups of a wake are looked at: WAKE_SRC has the sources, and the island is asked for. -/
def State.wakeCalled (s : State) (gs : List Nat) (bits : Word) : State :=
  let t : State := { s with wakeSrc := s.wakeSrc ||| bits }
  if t.tstate ≠ 2 && !gs.isEmpty then { t with tbusy := true }.laterOnce .torrentBringUp else t

theorem wakeGroups_eq (s : State) (gs : List Nat) (bits : Word) :
    s.wakeGroups gs bits = gs.foldl (State.wakeGroup bits) (s.wakeCalled gs bits) := rfl

theorem wakeView_wakeGroup (bits : Word) (s : State) (g : Nat) : (s.wakeGroup bits g).wakeView = s.wakeView := by
  unfold State.wakeGroup
  split
  · rfl
  · rw [wakeView_laterOnce]
    split
    · rfl
    · exact wakeView_groupState _ _ _

theorem agenda_subset_wakeGroup (bits : Word) (s : State) (g : Nat) : s.agenda ⊆ (s.wakeGroup bits g).agenda := by
  unfold State.wakeGroup
  split
  · exact List.Subset.refl _
  · refine List.Subset.trans ?_ (agenda_subset_laterOnce _ _)
    split
    · exact List.Subset.refl _
    · exact agenda_subset_groupState (s.wakeMarked bits g) g 3

theorem group_wakeGroup_other (bits : Word) (s : State) {g k : Nat} (h : k ≠ g) : (s.wakeGroup bits g).group k = s.group k := by
  unfold State.wakeGroup
  split
  · rfl
  · rw [group_congr (groups_laterOnce _ _)]
    split
    · exact group_setGroup_other s _ h
    · exact (group_groupState_other _ 3 h).trans (group_setGroup_other s _ h)

/-- A group that is not ON, or is asked to quiesce, is to come up. -/
theorem groupWake_mem_wakeGroup (bits : Word) {s : State} {g : Nat} (h : (s.group g).quiesce = true ∨ (s.group g).state ≠ 0) :
    .groupWake (BitVec.ofNat 5 g) ∈ (s.wakeGroup bits g).agenda := by
  unfold State.wakeGroup
  rw [if_neg]
  · exact mem_agenda_laterOnce _ _
  · rcases h with h | h <;> simp [h]

theorem wakeView_wakeGroups (s : State) (gs : List Nat) (bits : Word) :
    (s.wakeGroups gs bits).wakeView = { s with wakeSrc := s.wakeSrc ||| bits }.wakeView := by
  rw [wakeGroups_eq, foldl_keeps State.wakeView (wakeView_wakeGroup bits)]
  unfold State.wakeCalled
  dsimp only
  split
  · exact wakeView_laterOnce _ _
  · rfl

theorem groups_wakeCalled (s : State) (gs : List Nat) (bits : Word) : (s.wakeCalled gs bits).groups = s.groups := by
  unfold State.wakeCalled
  dsimp only
  split
  · exact groups_laterOnce _ _
  · rfl

/-- A wake of groups adds its sources to WAKE_SRC, leaves memory as it is and schedules each group that it names and that is down. -/
theorem wakeGroups_spec (s : State) (gs : List Nat) (bits : Word) :
    (s.wakeGroups gs bits).wakeSrc = (s.wakeSrc ||| bits) ∧ (s.wakeGroups gs bits).mem = s.mem ∧
      ∀ g ∈ gs, (s.group g).quiesce = true ∨ (s.group g).state ≠ 0 →
        .groupWake (BitVec.ofNat 5 g) ∈ (s.wakeGroups gs bits).agenda := by
  have hv := wakeView_wakeGroups s gs bits
  refine ⟨congrArg (·.2.1) hv, congrArg (·.1) hv, fun g hg hdown => ?_⟩
  rw [wakeGroups_eq]
  refine foldl_meets (A := fun t => (t.group g).quiesce = true ∨ (t.group g).state ≠ 0) (fun t j hj ht => ?_)
    (fun t ht => groupWake_mem_wakeGroup bits ht) (fun t j ht => agenda_subset_wakeGroup bits t j ht) hg ?_
  · rwa [group_wakeGroup_other bits t (Ne.symm hj)]
  · rwa [group_congr (groups_wakeCalled s gs bits)]

/-! ## WAKE (R446, R450) -/

theorem wakeBit_toNat (src : BitVec 2) :
    wakeBit src.toNat = if src = 0 then 0x40000 else if src = 1 then 0x20000 else 0x10000 := by
  revert src
  decide

theorem wakeAllowed_iff (s : State) (src : BitVec 2) : s.wakeAllowed src = true ↔ src ≠ 0 ∨ s.arm.getLsbD 16 = true := by
  unfold State.wakeAllowed
  rw [Bool.or_eq_true, decide_eq_true_eq]

/-- A write of WAKE by a host without HOSTEN does nothing; another sets its source and schedules the groups that it names. -/
theorem wakeWrites_steps (s : State) (mask : BitVec 32) (src : BitVec 2) :
    let bit : Word := if src = 0 then 0x40000 else if src = 1 then 0x20000 else 0x10000
    (src = 0 → s.arm.getLsbD 16 = false → exec (.wakeGmask mask src) s = .next s ∧ exec (.wakeTon src) s = .next s) ∧
    (src ≠ 0 ∨ s.arm.getLsbD 16 = true →
      (∃ t : State, exec (.wakeGmask mask src) s = .next t ∧ t.wakeSrc = (s.wakeSrc ||| bit) ∧ t.mem = s.mem ∧
        ∀ g < 32, mask.getLsbD g = true → ((s.group g).quiesce = true ∨ (s.group g).state ≠ 0) →
          .groupWake (BitVec.ofNat 5 g) ∈ t.agenda) ∧
      ∃ t : State, exec (.wakeTon src) s = .next t ∧ t.wakeSrc = (s.wakeSrc ||| bit) ∧ t.mem = s.mem ∧
        ∀ g < 32, ((s.group g).quiesce = true ∨ (s.group g).state ≠ 0) → .groupWake (BitVec.ofNat 5 g) ∈ t.agenda) := by
  intro bit
  have hmask : exec (.wakeGmask mask src) s =
      .next (if s.wakeAllowed src then s.wakeGroups (maskGroups mask.toNat) (wakeBit src.toNat) else s) := rfl
  have hton : exec (.wakeTon src) s =
      .next (if s.wakeAllowed src then s.wakeGroups (List.range 32) (wakeBit src.toNat) else s) := rfl
  have hbit : wakeBit src.toNat = bit := wakeBit_toNat src
  rw [hmask, hton, hbit]
  refine ⟨fun h0 harm => ?_, fun h => ?_⟩
  · have hno : ¬ s.wakeAllowed src = true := by
      rw [wakeAllowed_iff, harm]
      exact fun h => h.elim (· h0) Bool.false_ne_true
    rw [if_neg hno, if_neg hno]
    exact ⟨rfl, rfl⟩
  · have hyes : s.wakeAllowed src = true := (wakeAllowed_iff s src).mpr h
    rw [if_pos hyes, if_pos hyes]
    obtain ⟨m1, m2, m3⟩ := wakeGroups_spec s (maskGroups mask.toNat) bit
    obtain ⟨a1, a2, a3⟩ := wakeGroups_spec s (List.range 32) bit
    refine ⟨⟨_, rfl, m1, m2, fun g hg hm => m3 g ?_⟩, _, rfl, a1, a2, fun g hg => a3 g (List.mem_range.mpr hg)⟩
    exact List.mem_filter.mpr ⟨List.mem_range.mpr hg, hm⟩

/-! ## Cascade triggers (R451) -/

theorem armWrite_steps (s : State) (v : BitVec 64) :
    ∃ t : State, exec (.wakeArmWrite v) s = .next t ∧ t.arm = v.setWidth 17 ∧ t.mem = s.mem ∧ t.cascades = s.cascades := by
  have hview (t : State) (p : Packet) : (t.packetTriggers p).wakeView = t.wakeView := by
    obtain ⟨a, h, -⟩ := packetTriggers_eq t p
    rw [h]
    rfl
  have hv : (s.armWrite v).wakeView = { s with arm := v.setWidth 17 }.wakeView :=
    foldl_keeps State.wakeView hview _ _
  exact ⟨s.armWrite v, rfl, congrArg (·.2.2.1) hv, congrArg (·.1) hv, congrArg (·.2.2.2) hv⟩

/-- The trigger `n` is disarmed. -/
theorem getLsbD_disarm (a : BitVec 17) (n : BitVec 4) : (a &&& ~~~(BitVec.ofNat 17 (2 ^ n.toNat))).getLsbD n.toNat = false := by
  have hn : n.toNat < 17 := by omega
  have hbit : (BitVec.ofNat 17 (2 ^ n.toNat)).getLsbD n.toNat = true := by
    rw [BitVec.getLsbD_ofNat, Nat.testBit_two_pow_self, decide_eq_true hn]
    rfl
  rw [BitVec.getLsbD_and, BitVec.getLsbD_not, hbit]
  exact (congrArg _ (Bool.and_false _)).trans (Bool.and_false _)

/-- The trigger `n`, whose entry is `x`, is disarmed and has fired. -/
def State.triggerFired (s : State) (n : Nat) (x : Cascade) : State :=
  { s with arm := s.arm &&& ~~~(BitVec.ofNat 17 (2 ^ n)), cascades := s.cascades.setIfInBounds n { x with fired := true } }

theorem cascadeFire_steps (s : State) (n : BitVec 4) :
    (s.arm.getLsbD n.toNat = false → exec (.cascadeFire n) s = .next s) ∧
    (s.arm.getLsbD n.toNat = true → ∃ t : State, exec (.cascadeFire n) s = .next t ∧ t.arm.getLsbD n.toNat = false ∧
      (∀ x, t.cascades[n.toNat]? = some x → x.fired = true) ∧ t.wakeSrc = (s.wakeSrc ||| BitVec.ofNat 64 (2 ^ n.toNat))) := by
  have hget : s.cascades[n.toNat]? = some s.cascades[n.toNat] := Vector.getElem?_eq_getElem n.isLt
  let u := s.triggerFired n.toNat s.cascades[n.toNat]
  let gs := if s.cascades[n.toNat].ton then List.range 32 else maskGroups s.cascades[n.toNat].gmask.toNat
  have hexec : exec (.cascadeFire n) s =
      .next (if s.arm.getLsbD n.toNat then u.wakeGroups gs (w64 (2 ^ n.toNat)) else s) := by
    show execCascadeFire n s = _
    unfold execCascadeFire
    dsimp only
    rw [hget]
    rfl
  have hview := wakeView_wakeGroups u gs (w64 (2 ^ n.toNat))
  have hcascades : (u.wakeGroups gs (w64 (2 ^ n.toNat))).cascades = u.cascades := congrArg (·.2.2.2) hview
  have harm : (u.wakeGroups gs (w64 (2 ^ n.toNat))).arm = u.arm := congrArg (·.2.2.1) hview
  rw [hexec]
  refine ⟨fun h => by rw [if_neg (by rw [h]; exact Bool.false_ne_true)], fun h => ?_⟩
  rw [if_pos h]
  refine ⟨_, rfl, ?_, fun x hx => ?_, congrArg (·.2.1) hview⟩
  · rw [harm]
    exact getLsbD_disarm s.arm n
  · rw [hcascades] at hx
    have hfired : u.cascades[n.toNat]? = some { s.cascades[n.toNat] with fired := true } :=
      Vector.getElem?_setIfInBounds_self_of_lt n.isLt
    rw [← Option.some.inj (hfired.symm.trans hx)]

end Sys2Proof.Machine
end

section
/-! Proofs. Groups come up (R448, R449). -/

namespace Sys2Proof.Machine

open Sys2Proof.Claims

/-! ## A change of STATE while the island is ON -/

theorem tstate_record (s : State) (n cls typ : Nat) (p : Word) : (s.record n cls typ p).tstate = s.tstate := by
  unfold State.record State.recordFor
  dsimp only
  split <;> rfl

/-- While the island is ON, a change of STATE leaves it ON, and of a core it writes the ring alone. -/
theorem groupState_of_on {s : State} (h : s.tstate = 2) (g st : Nat) :
    (s.groupState g st).tstate = 2 ∧ ∀ k, ∃ r, (s.groupState g st).core k = { s.core k with ring := r } := by
  have hon : (s.stateRecorded g st).tstate = 2 := (tstate_record _ mcNode 3 1 _).trans h
  have hcore (k : Nat) : ∃ r, (s.stateRecorded g st).core k = { s.core k with ring := r } :=
    core_record (s.setGroup g { s.group g with state := st }) mcNode 3 1 _ k
  rcases groupState_cases s g st with e | e | e | ⟨h1, -⟩
  · rw [e]
    exact ⟨h, fun k => ⟨_, rfl⟩⟩
  · rw [e]
    exact ⟨hon, hcore⟩
  · obtain ⟨a, ha, -⟩ := laterOnce_eq { s.stateRecorded g st with tbusy := true } .torrentLeaveOn
    rw [e, ha]
    exact ⟨hon, hcore⟩
  · rw [hon] at h1
    cases h1

/-! ## A core that comes up -/

theorem wakeSleep_cases (s : State) (n i : Nat) : s.wakeSleep n i = s ∨ ∃ b, s.wakeSleep n i = s.setBerthAt n i b := by
  unfold State.wakeSleep
  split
  · exact .inr ⟨_, rfl⟩
  · exact .inl rfl

theorem core_wakeSleep_other (s : State) {n k : Nat} (i : Nat) (h : k ≠ n) : (s.wakeSleep n i).core k = s.core k := by
  rcases wakeSleep_cases s n i with e | ⟨b, e⟩ <;> rw [e]
  exact core_setCore_other s _ h

theorem core_wakeSleep_same (s : State) (n : Nat) : ∃ b, (s.wakeSleep n 0).core n = { s.core n with b0 := b } := by
  rcases wakeSleep_cases s n 0 with e | ⟨b, e⟩ <;> rw [e]
  · exact ⟨_, rfl⟩
  · exact ⟨b, core_setCore s n _⟩

theorem core_raiseCore_other (s : State) (g : Nat) (src : Word) {n k : Nat} (h : k ≠ n) :
    (s.raiseCore g src n).core k = s.core k := by
  unfold State.raiseCore
  dsimp only
  split
  · split
    · exact core_coreStart_other s h
    · exact core_setCore_other s _ h
  · exact (core_wakeSleep_other _ 0 h).trans (core_setCore_other s _ h)

/-- A core that comes up is in RUN; what waited at its NI waits still. -/
theorem core_raiseCore_same (s : State) (g : Nat) (src : Word) (n : Nat) :
    ((s.raiseCore g src n).core n).power = .run ∧ ((s.raiseCore g src n).core n).atNi = (s.core n).atNi := by
  unfold State.raiseCore
  dsimp only
  split
  · next hoff =>
    split
    · rw [core_coreStart_same, started_of_off (eq_of_beq hoff)]
      exact ⟨rfl, rfl⟩
    · rw [core_setCore]
      exact ⟨rfl, rfl⟩
  · unfold State.wakeCore
    dsimp only
    obtain ⟨b, hb⟩ := core_wakeSleep_same (s.setCore n { s.core n with
      power := .run, stoppedBy := false, noguest := false, wakeSrc := some ((s.core n).wakeSrc.getD 0 ||| src) }) n
    rw [hb, core_setCore]
    exact ⟨rfl, rfl⟩

theorem tstate_raiseCore (s : State) (g : Nat) (src : Word) (n : Nat) : (s.raiseCore g src n).tstate = s.tstate := by
  unfold State.raiseCore
  dsimp only
  split
  · split
    · unfold State.coreStart
      dsimp only
      split <;> rfl
    · rfl
  · unfold State.wakeCore
    dsimp only
    rcases wakeSleep_cases (s.setCore n { s.core n with
      power := .run, stoppedBy := false, noguest := false, wakeSrc := some ((s.core n).wakeSrc.getD 0 ||| src) }) n 0 with
      e | ⟨b, e⟩ <;> rw [e] <;> rfl

theorem atNi_raiseCore (s : State) (g : Nat) (src : Word) (n k : Nat) :
    ((s.raiseCore g src n).core k).atNi = (s.core k).atNi := by
  by_cases h : k = n
  · subst h
    exact (core_raiseCore_same s g src k).2
  · rw [core_raiseCore_other s g src h]

theorem power_raiseCore_of_run {s : State} {k : Nat} (h : (s.core k).power = .run) (g : Nat) (src : Word) (n : Nat) :
    ((s.raiseCore g src n).core k).power = .run := by
  by_cases hk : k = n
  · subst hk
    exact (core_raiseCore_same s g src k).1
  · rwa [core_raiseCore_other s g src hk]

/-! ## A group that comes up -/

/-- Where nothing waits at a core's NI, nothing is handled there. -/
theorem deliverAll_of_empty {s : State} {n : Nat} (h : (s.core n).atNi = []) :
    (s.deliverAll n).groups = s.groups ∧ (s.deliverAll n).tstate = s.tstate ∧ ∀ k, (s.deliverAll n).core k = s.core k := by
  have hc : { s.core n with atNi := [] } = s.core n := by rw [← h]
  unfold State.deliverAll
  dsimp only
  rw [h, List.foldl_nil, core_setCore, hc]
  refine ⟨rfl, rfl, fun k => ?_⟩
  show ((s.setCore n (s.core n)).setCore n (s.core n)).core k = s.core k
  by_cases hk : k = n
  · subst hk
    exact core_setCore _ _ _
  · rw [core_setCore_other _ _ hk, core_setCore_other _ _ hk]

theorem foldl_deliverAll_of_empty {l : List Nat} {s : State} (h : ∀ n ∈ l, (s.core n).atNi = []) :
    (l.foldl State.deliverAll s).groups = s.groups ∧ (l.foldl State.deliverAll s).tstate = s.tstate ∧
      ∀ k, (l.foldl State.deliverAll s).core k = s.core k := by
  refine List.foldlRecOn l State.deliverAll
    (motive := fun t => t.groups = s.groups ∧ t.tstate = s.tstate ∧ ∀ k, t.core k = s.core k) ⟨rfl, rfl, fun _ => rfl⟩ ?_
  rintro t ⟨hg, ht, hc⟩ n hn
  obtain ⟨dg, dt, dc⟩ := deliverAll_of_empty (s := t) (n := n) (by rw [hc]; exact h n hn)
  exact ⟨dg.trans hg, dt.trans ht, fun k => (dc k).trans (hc k)⟩

/-- A group is up: ON, asked for nothing, with its clocks and its rail, each of its cores in RUN, and the island ON. -/
def State.groupUp (t : State) (g : Nat) : Prop :=
  (t.group g).state = 0 ∧ (t.group g).quiesce = false ∧ (t.group g).gate = false ∧ (t.group g).rail = 2 ∧ t.tstate = 2 ∧
    ∀ n ∈ groupNodes g, (t.core n).power = .run

/-- The cores of a group have come up. -/
def State.coresRaised (s : State) (g : Nat) (src : Word) : State := (groupNodes g).foldl (fun t n => t.raiseCore g src n) s

/-- The record of a group that comes up. -/
def Group.raised (x : Group) : Group :=
  { x with
    quiesce := false, quiesced := false, drained := false, saved := false, img := false, gate := false, rail := 2
    railok := true, wakeBy := 0 }

/-- A group whose cores have come up is ON; what waited at its NIs is yet to be handled. -/
def State.groupOn (u : State) (g : Nat) : State := (u.setGroup g (u.group g).raised).groupState g 0

theorem raiseGroup_eq (s : State) (g : Nat) (src : Word) :
    s.raiseGroup g src = (groupNodes g).foldl State.deliverAll ((s.coresRaised g src).groupOn g) := rfl

theorem coresRaised_spec (s : State) (g : Nat) (src : Word) :
    (s.coresRaised g src).tstate = s.tstate ∧ (∀ n ∈ groupNodes g, ((s.coresRaised g src).core n).power = .run) ∧
      ∀ n, ((s.coresRaised g src).core n).atNi = (s.core n).atNi :=
  ⟨foldl_keeps State.tstate (fun t k => tstate_raiseCore t g src k) _ s,
    fun n hn => foldl_reaches (P := fun t => (t.core n).power = .run) (fun t => (core_raiseCore_same t g src n).1)
      (fun _ k ht => power_raiseCore_of_run ht g src k) hn s,
    fun n => foldl_keeps (fun t => (t.core n).atNi) (fun t k => atNi_raiseCore t g src k n) _ s⟩

/-- Once its cores are in RUN and nothing waits at their NIs, a group that is set ON is up. -/
theorem groupUp_of_running {u : State} {g : Nat} (hg : g < 32) (hon : u.tstate = 2)
    (hpower : ∀ n ∈ groupNodes g, (u.core n).power = .run) (hni : noneWaits u g) :
    ((groupNodes g).foldl State.deliverAll (u.groupOn g)).groupUp g := by
  obtain ⟨von, vcore⟩ := groupState_of_on (s := u.setGroup g (u.group g).raised) hon g 0
  have hgroup : (u.groupOn g).group g = { (u.group g).raised with state := 0 } := by
    unfold State.groupOn
    rw [group_groupState_same _ 0 hg, group_setGroup_same _ _ hg]
  have hempty : ∀ n ∈ groupNodes g, ((u.groupOn g).core n).atNi = [] := fun n hn => by
    obtain ⟨r, hr⟩ := vcore n
    exact (congrArg Core.atNi hr).trans (hni n hn)
  obtain ⟨dg, dt, dc⟩ := foldl_deliverAll_of_empty hempty
  unfold State.groupUp
  rw [group_congr dg, hgroup, dt]
  refine ⟨rfl, rfl, rfl, rfl, von, fun n hn => ?_⟩
  obtain ⟨r, hr⟩ := vcore n
  rw [dc]
  exact (congrArg Core.power hr).trans (hpower n hn)

theorem groupUp_raiseGroup {s : State} {g : Nat} (hg : g < 32) (hon : s.tstate = 2) (hni : noneWaits s g) (src : Word) :
    (s.raiseGroup g src).groupUp g := by
  obtain ⟨htstate, hpower, hatNi⟩ := coresRaised_spec s g src
  rw [raiseGroup_eq]
  exact groupUp_of_running hg (htstate.trans hon) hpower fun n hn => (hatNi n).trans (hni n hn)

/-- The island is brought up first, and a step of a group follows. -/
theorem bringUp_first (s : State) (e : Event) : let t := ({ s with tbusy := true }.laterOnce .torrentBringUp).later e
    t.tbusy = true ∧ t.cores = s.cores ∧ t.mem = s.mem ∧ .torrentBringUp ∈ t.agenda ∧ e ∈ t.agenda := by
  refine ⟨?_, ?_, ?_, mem_agenda_later_of_mem _ (mem_agenda_laterOnce _ _), mem_agenda_later _ _⟩
  · rw [tbusy_later, tbusy_laterOnce]
  · rw [cores_later, cores_laterOnce]
  · rw [mem_later, mem_laterOnce]

/-- GROUP_RESUME and GROUP_WAKE of a group at whose NIs nothing waits. -/
theorem groupComesUp (s : State) (g : BitVec 5) (hni : noneWaits s g.toNat) :
    let up (t : State) : Prop := (t.group g.toNat).state = 0 ∧ (t.group g.toNat).quiesce = false ∧ (t.group g.toNat).gate = false ∧
      (t.group g.toNat).rail = 2 ∧ t.tstate = 2 ∧ ∀ n ∈ groupNodes g.toNat, (t.core n).power = .run
    ((s.group g.toNat).quiesce = true → exec (.groupResume g) s = .next s) ∧
    ((s.group g.toNat).quiesce = false → s.tstate = 2 → ∃ t : State, exec (.groupResume g) s = .next t ∧ up t) ∧
    ((s.group g.toNat).quiesce = false → s.tstate ≠ 2 → ∃ t : State, exec (.groupResume g) s = .next t ∧ t.tbusy = true ∧
      t.cores = s.cores ∧ t.mem = s.mem ∧ .torrentBringUp ∈ t.agenda ∧ .groupResume g ∈ t.agenda) ∧
    ((s.group g.toNat).wakeBy ≠ 0 → s.tstate = 2 → s.inStep g.toNat = false → ∃ t : State, exec (.groupWake g) s = .next t ∧ up t) ∧
    ((s.group g.toNat).wakeBy ≠ 0 → s.tstate = 2 → s.inStep g.toNat = true →
      exec (.groupWake g) s = .next (s.later (.groupWake g))) ∧
    ((s.group g.toNat).wakeBy ≠ 0 → s.tstate ≠ 2 →
      ∃ t : State, exec (.groupWake g) s = .next t ∧ .torrentBringUp ∈ t.agenda ∧ .groupWake g ∈ t.agenda) := by
  intro up
  have hresume : exec (.groupResume g) s = .next (if (s.group g.toNat).quiesce then s
    else if s.tstate ≠ 2 then ({ s with tbusy := true }.laterOnce .torrentBringUp).later (.groupResume g)
    else s.raiseGroup g.toNat 0) := rfl
  have hwake : exec (.groupWake g) s = .next (if (s.group g.toNat).wakeBy = 0 then s
    else if s.tstate ≠ 2 then ({ s with tbusy := true }.laterOnce .torrentBringUp).later (.groupWake g)
    else if s.inStep g.toNat then s.later (.groupWake g)
    else s.raiseGroup g.toNat (s.group g.toNat).wakeBy) := rfl
  rw [hresume, hwake]
  refine ⟨fun hq => by rw [if_pos hq], fun hq hon => ?_, fun hq hoff => ?_, fun hw hon hi => ?_, fun hw hon hi => ?_,
    fun hw hoff => ?_⟩
  · rw [if_neg (ne_true_of_eq_false hq), if_neg (not_not_intro hon)]
    exact ⟨_, rfl, groupUp_raiseGroup g.isLt hon hni 0⟩
  · rw [if_neg (ne_true_of_eq_false hq), if_pos hoff]
    exact ⟨_, rfl, bringUp_first s _⟩
  · rw [if_neg hw, if_neg (not_not_intro hon), if_neg (ne_true_of_eq_false hi)]
    exact ⟨_, rfl, groupUp_raiseGroup g.isLt hon hni _⟩
  · rw [if_neg hw, if_neg (not_not_intro hon), if_pos hi]
  · rw [if_neg hw, if_pos hoff]
    obtain ⟨-, -, -, hbring, hthen⟩ := bringUp_first s (.groupWake g)
    exact ⟨_, rfl, hbring, hthen⟩

end Sys2Proof.Machine
end

section
/-! Proofs. The island: TORRENT_BRING_UP, TORRENT_LEAVE_ON and DRAM's self-refresh (R76, R92, R120, R444). -/

namespace Sys2Proof.Machine

/-! ## The time load (R120) -/

/-- A time load changes the time-base copies of Torrent's groups alone. -/
theorem loadTime_eq (s : State) : ∃ k c, s.loadTime = { s with skew := k, freeCtr := c } ∧ alGet k 32 = alGet s.skew 32 := by
  unfold State.loadTime
  refine List.foldlRecOn (List.range 32) _
    (motive := fun t : State => ∃ k c, t = { s with skew := k, freeCtr := c } ∧ alGet k 32 = alGet s.skew 32) ⟨_, _, rfl, rfl⟩ ?_
  rintro t ⟨k, c, rfl, hk⟩ g hg
  refine ⟨_, _, rfl, (alGet_alSet_other _ _ ?_).trans hk⟩
  exact Nat.ne_of_gt (List.mem_range.mp hg)

/-! ## The hold buffer of a Rill NI (R92) -/

/-- What the opening of a bridge leaves as it is. -/
def State.bridgeView (s : State) : Nat × Bool × Bool × Word × List (Nat × Nat) × Vector LinkState 2 :=
  (s.tstate, s.bridge, s.dramsr, s.time, s.skew, s.links)

/-- A packet of the hold buffer leaves: to its link, or into the network. -/
def State.letOut (n : Nat) (s : State) (p : Packet) : State := if isLink p.dst then s.linkTake n p else s.inject p

/-- An instruction that waited for the bridge goes on. -/
def State.bridgeOver (n : Nat) (s : State) (i : Nat) : State := if (s.berthAt n i).wait = .bridge then s.answer n i 0 0 else s

theorem openBridge_eq (s : State) (n : Nat) : s.openBridge n = [0, 1, 2, 3].foldl (State.bridgeOver n)
    ((s.core n).bridgeHeld.foldl (State.letOut n) (s.setCore n { s.core n with bridgeHeld := [] })) := rfl

/-- The received packets of a core may be counted: nothing else changes. -/
theorem countIn_cases (s : State) (n : Nat) (p : Packet) :
    s.countIn n p = s ∨ ∃ l, s.countIn n p = s.setCore n { s.core n with received := l } := by
  unfold State.countIn
  split
  · dsimp only
    split
    · exact .inl rfl
    · exact .inr ⟨_, rfl⟩
  · exact .inl rfl

/-- What a packet that leaves the hold buffer of core `n` changes: counters and ports of that core, the network and the peer's queue. -/
structure State.LetOut (n : Nat) (s t : State) : Prop where
  view : t.bridgeView = s.bridgeView
  other : ∀ k, k ≠ n → t.core k = s.core k
  held : (t.core n).bridgeHeld = (s.core n).bridgeHeld
  net : s.net ⊆ t.net
  peerOut : s.peerOut ⊆ t.peerOut

theorem State.LetOut.refl (n : Nat) (s : State) : s.LetOut n s :=
  ⟨rfl, fun _ _ => rfl, rfl, List.Subset.refl _, List.Subset.refl _⟩

theorem State.LetOut.trans {n : Nat} {s t u : State} (h : s.LetOut n t) (k : t.LetOut n u) : s.LetOut n u :=
  ⟨k.view.trans h.view, fun m hm => (k.other m hm).trans (h.other m hm), k.held.trans h.held, List.Subset.trans h.net k.net,
    List.Subset.trans h.peerOut k.peerOut⟩

theorem letOut_foldl {ι : Type} {n : Nat} {f : State → ι → State} (h : ∀ t i, State.LetOut n t (f t i)) (l : List ι) (s : State) :
    s.LetOut n (l.foldl f s) :=
  List.foldlRecOn l f (motive := s.LetOut n) (.refl n s) fun t ht i _ => ht.trans (h t i)

theorem letOut_setCore {s : State} {n : Nat} {c : Core} (h : c.bridgeHeld = (s.core n).bridgeHeld) : s.LetOut n (s.setCore n c) :=
  ⟨rfl, fun _ hk => core_setCore_other s c hk, by rw [core_setCore, h], List.Subset.refl _, List.Subset.refl _⟩

theorem letOut_countIn (s : State) (n : Nat) (p : Packet) : s.LetOut n (s.countIn n p) := by
  rcases countIn_cases s n p with h | ⟨l, h⟩ <;> rw [h]
  · exact .refl n s
  · exact letOut_setCore rfl

theorem bridgeHeld_setPort (c : Core) (q : Nat) (x : Port) : (c.setPort q x).bridgeHeld = c.bridgeHeld := by
  unfold Core.setPort
  split <;> rfl

theorem letOut_linkTake (s : State) (n : Nat) (p : Packet) : s.LetOut n (s.linkTake n p) := by
  refine (letOut_countIn s n p).trans ?_
  unfold State.linkTake
  dsimp only
  split
  · exact ⟨rfl, fun _ _ => rfl, rfl, List.Subset.refl _, List.subset_append_left _ _⟩
  · split
    · exact letOut_setCore (bridgeHeld_setPort _ _ _)
    · exact .refl n _

theorem letOut_letOut (n : Nat) (s : State) (p : Packet) : s.LetOut n (s.letOut n p) := by
  unfold State.letOut
  split
  · exact letOut_linkTake s n p
  · exact ⟨rfl, fun _ _ => rfl, rfl, List.subset_append_left _ _, List.Subset.refl _⟩

theorem letOut_bridgeOver (n : Nat) (s : State) (i : Nat) : s.LetOut n (s.bridgeOver n i) := by
  unfold State.bridgeOver
  split
  · exact letOut_setCore (bridgeHeld_setBerth _ _ _)
  · exact .refl n s

/-- Where a packet of the hold buffer is once it has left: in the peer's queue, if its link carries packets, or in the network with
the time of that moment. -/
def State.hasLeft (s t : State) (p : Packet) : Prop :=
  if isLink p.dst then (s.linkUp (p.dst - 0x450) = true → p ∈ t.peerOut) else isRill p.src = true → p.leaving (s.timeAt p.src) ∈ t.net

theorem hasLeft_letOut (n : Nat) (s : State) (p : Packet) : s.hasLeft (s.letOut n p) p := by
  unfold State.hasLeft State.letOut
  split
  · intro hup
    unfold State.linkTake
    dsimp only
    rw [if_pos]
    · exact List.mem_append_right _ (List.mem_singleton_self p)
    · exact hup
  · exact fun _ => List.mem_append_right _ (List.mem_singleton_self _)

/-- The place where a packet has left to depends on the time base of Rill and the links alone. -/
theorem hasLeft_mono {s s' t t' : State} {p : Packet} (h : s'.hasLeft t p) (htime : s'.time = s.time)
    (hskew : alGet s'.skew 32 = alGet s.skew 32) (hlinks : s'.links = s.links) (hnet : t.net ⊆ t'.net)
    (hpeer : t.peerOut ⊆ t'.peerOut) : s.hasLeft t' p := by
  have hup (l : Nat) : s'.linkUp l = s.linkUp l := by unfold State.linkUp; rw [hlinks]
  unfold State.hasLeft at h ⊢
  split
  · next hl =>
    rw [if_pos hl, hup] at h
    exact fun hu => hpeer (h hu)
  · next hl =>
    rw [if_neg hl] at h
    intro hr
    have hrouter : routerOf p.src = 32 := if_pos hr
    have htimeAt : s'.timeAt p.src = s.timeAt p.src := by
      unfold State.timeAt
      rw [hrouter, htime, hskew]
    exact hnet (htimeAt ▸ h hr)

/-! ## The bridge opens -/

/-- The opening of the bridge at core `n` empties its hold buffer; each packet of it has left. -/
structure State.Opened (n : Nat) (s t : State) : Prop where
  view : t.bridgeView = s.bridgeView
  other : ∀ k, k ≠ n → t.core k = s.core k
  empty : (t.core n).bridgeHeld = []
  net : s.net ⊆ t.net
  peerOut : s.peerOut ⊆ t.peerOut
  left : ∀ p ∈ (s.core n).bridgeHeld, s.hasLeft t p

theorem opened_openBridge (s : State) (n : Nat) : s.Opened n (s.openBridge n) := by
  let u := s.setCore n { s.core n with bridgeHeld := [] }
  have hout : u.LetOut n ((s.core n).bridgeHeld.foldl (State.letOut n) u) := letOut_foldl (letOut_letOut n) _ u
  have hover := letOut_foldl (letOut_bridgeOver n) [0, 1, 2, 3] ((s.core n).bridgeHeld.foldl (State.letOut n) u)
  have h := hout.trans hover
  rw [openBridge_eq]
  refine ⟨h.view, fun k hk => (h.other k hk).trans (core_setCore_other s _ hk), ?_, h.net, h.peerOut, fun p hp => ?_⟩
  · rw [h.held, core_setCore]
  · have hleft : s.hasLeft ((s.core n).bridgeHeld.foldl (State.letOut n) u) p := by
      refine foldl_meets (A := fun t => t.bridgeView = s.bridgeView) (P := fun t => s.hasLeft t p)
        (fun t q _ ht => (letOut_letOut n t q).view.trans ht) (fun t ht => ?_) (fun t q ht => ?_) hp rfl
      · exact hasLeft_mono (hasLeft_letOut n t p) (congrArg (·.2.2.2.1) ht) (congrArg (fun x => alGet x.2.2.2.2.1 32) ht)
          (congrArg (·.2.2.2.2.2) ht) (List.Subset.refl _) (List.Subset.refl _)
      · exact hasLeft_mono ht rfl rfl rfl (letOut_letOut n t q).net (letOut_letOut n t q).peerOut
    exact hasLeft_mono hleft rfl rfl rfl hover.net hover.peerOut

/-- After the bridge has opened at the cores of a list, each of them holds nothing, and what it held has left. -/
theorem foldl_openBridge {l : List Nat} {n : Nat} (hn : n ∈ l) (s : State) :
    ((l.foldl State.openBridge s).core n).bridgeHeld = [] ∧
      ∀ p ∈ (s.core n).bridgeHeld, s.hasLeft (l.foldl State.openBridge s) p := by
  refine foldl_meets (A := fun t => t.core n = s.core n ∧ t.bridgeView = s.bridgeView)
    (P := fun t => (t.core n).bridgeHeld = [] ∧ ∀ p ∈ (s.core n).bridgeHeld, s.hasLeft t p)
    (fun t m hm ht => ?_) (fun t ht => ?_) (fun t m ht => ?_) hn ⟨rfl, rfl⟩
  · have ho := opened_openBridge t m
    exact ⟨(ho.other n (Ne.symm hm)).trans ht.1, ho.view.trans ht.2⟩
  · obtain ⟨hcore, hview⟩ := ht
    have ho := opened_openBridge t n
    refine ⟨ho.empty, fun p hp => ?_⟩
    exact hasLeft_mono (ho.left p (hcore ▸ hp)) (congrArg (·.2.2.2.1) hview) (congrArg (fun x => alGet x.2.2.2.2.1 32) hview)
      (congrArg (·.2.2.2.2.2) hview) (List.Subset.refl _) (List.Subset.refl _)
  · have ho := opened_openBridge t m
    refine ⟨?_, fun p hp => hasLeft_mono (ht.2 p hp) rfl rfl rfl ho.net ho.peerOut⟩
    by_cases hm : n = m
    · subst hm
      exact ho.empty
    · rw [ho.other n hm]
      exact ht.1

theorem bridgeView_foldl_openBridge (l : List Nat) (s : State) : (l.foldl State.openBridge s).bridgeView = s.bridgeView :=
  foldl_keeps State.bridgeView (fun t n => (opened_openBridge t n).view) l s

/-! ## TORRENT_BRING_UP -/

/-- The island is powered, its time base loaded: the bridge is about to open. -/
def State.islandOn (s : State) : State :=
  { (if s.tstate = 0 then s.loadTime else s) with tstate := 2, bridge := true, tbusy := false, dramsr := false }

theorem bringUp_of_down {s : State} (h : s.tstate ≠ 2) :
    s.bringUp = ((List.range 9).map (0x800 + ·)).foldl State.openBridge s.islandOn := if_neg h

/-- What the opening of the bridge finds. -/
structure State.IslandOn (s t : State) : Prop where
  tstate : t.tstate = 2
  bridge : t.bridge = true
  dramsr : t.dramsr = false
  time : t.time = s.time
  skew : alGet t.skew 32 = alGet s.skew 32
  links : t.links = s.links
  core : ∀ n, t.core n = s.core n

theorem islandOn_islandOn (s : State) : s.IslandOn s.islandOn := by
  unfold State.islandOn
  split
  · obtain ⟨k, c, h, hk⟩ := loadTime_eq s
    rw [h]
    exact ⟨rfl, rfl, rfl, rfl, hk, rfl, fun _ => rfl⟩
  · exact ⟨rfl, rfl, rfl, rfl, rfl, rfl, fun _ => rfl⟩

/-- The bridge opens at the cores of a list: the packets that they held leave. -/
theorem bridge_opens {s u : State} (h : s.IslandOn u) (l : List Nat) :
    let t := l.foldl State.openBridge u
    t.tstate = 2 ∧ t.bridge = true ∧ t.dramsr = false ∧
      ∀ n ∈ l, (t.core n).bridgeHeld = [] ∧ ∀ p ∈ (s.core n).bridgeHeld, s.hasLeft t p := by
  have hview := bridgeView_foldl_openBridge l u
  refine ⟨(congrArg (·.1) hview).trans h.tstate, (congrArg (·.2.1) hview).trans h.bridge,
    (congrArg (·.2.2.1) hview).trans h.dramsr, fun n hn => ?_⟩
  obtain ⟨hempty, hleft⟩ := foldl_openBridge hn u
  rw [h.core] at hleft
  exact ⟨hempty, fun p hp => hasLeft_mono (hleft p hp) h.time h.skew h.links (List.Subset.refl _) (List.Subset.refl _)⟩

theorem bringUp_opens {s : State} (h : s.tstate ≠ 2) :
    s.bringUp.tstate = 2 ∧ s.bringUp.bridge = true ∧ s.bringUp.dramsr = false ∧
      ∀ n, 0x800 ≤ n → n ≤ 0x808 → (s.bringUp.core n).bridgeHeld = [] ∧ ∀ p ∈ (s.core n).bridgeHeld, s.hasLeft s.bringUp p := by
  obtain ⟨hon, hbridge, hdramsr, hcores⟩ := bridge_opens (islandOn_islandOn s) ((List.range 9).map (0x800 + ·))
  rw [bringUp_of_down h]
  refine ⟨hon, hbridge, hdramsr, fun n h1 h2 => hcores n ?_⟩
  exact List.mem_map.mpr ⟨n - 0x800, List.mem_range.mpr (by omega), by omega⟩

/-! ## The L2 empties (R76) -/

theorem l2_putUnit (s : State) (unit slot x : Nat) : (s.putUnit unit slot x).l2 = s.l2 := by
  refine foldl_keeps State.l2 (fun t j => ?_) _ s
  unfold State.putBlock
  split <;> rfl

/-- The DRAM units whose lines the L2 holds. -/
def State.l2Units (s : State) : List Nat := s.l2.map (·.unit)

theorem l2Units_l2WriteBack (s : State) (unit : Nat) : (s.l2WriteBack unit).l2Units = s.l2Units := by
  unfold State.l2WriteBack State.l2Units
  split
  · split
    · dsimp only
      rw [l2_putUnit, List.map_map]
      refine List.map_congr_left fun y _ => ?_
      show (if y.unit = unit then { y with dirty := false } else y).unit = y.unit
      split <;> rfl
    · rfl
  · rfl

theorem mem_l2Units_l2Evict {s : State} {unit u : Nat} : u ∈ (s.l2Evict unit).l2Units ↔ u ∈ s.l2Units ∧ u ≠ unit := by
  rw [← l2Units_l2WriteBack s unit]
  simp only [State.l2Evict, State.l2Units, List.mem_map, List.mem_filter, decide_eq_true_eq]
  constructor
  · rintro ⟨x, ⟨hx, hne⟩, rfl⟩
    exact ⟨⟨x, hx, rfl⟩, hne⟩
  · rintro ⟨⟨x, hx, rfl⟩, hne⟩
    exact ⟨x, ⟨hx, hne⟩, rfl⟩

/-- After the lines of every unit that the L2 held have been evicted, it holds none. -/
theorem l2_l2Flush (s : State) : (s.l2Flush fun _ => true).l2 = [] := by
  have hflush : s.l2Flush (fun _ => true) = s.l2Units.foldl State.l2Evict s := by
    unfold State.l2Flush
    rw [List.filter_true]
    rfl
  have hsub : ∀ u ∈ (s.l2Units.foldl State.l2Evict s).l2Units, u ∈ s.l2Units :=
    List.foldlRecOn _ State.l2Evict (motive := fun v => ∀ u ∈ v.l2Units, u ∈ s.l2Units) (fun _ h => h)
      fun v hv j _ u hu => hv u (mem_l2Units_l2Evict.mp hu).1
  have hgone : ∀ u ∈ s.l2Units, u ∉ (s.l2Units.foldl State.l2Evict s).l2Units := fun u hu =>
    foldl_reaches (P := fun v => u ∉ v.l2Units) (fun v h => (mem_l2Units_l2Evict.mp h).2 rfl)
      (fun v j hv h => hv (mem_l2Units_l2Evict.mp h).1) hu s
  rw [hflush]
  exact List.map_eq_nil_iff.mp (List.eq_nil_iff_forall_not_mem.mpr fun u hu => hgone u (hsub u hu) hu)

theorem cores_l2Flush (s : State) (p : Nat → Bool) : (s.l2Flush p).cores = s.cores :=
  foldl_keeps State.cores cores_l2Evict _ s

theorem l2Flush_of_empty {s : State} (h : s.l2 = []) (p : Nat → Bool) : s.l2Flush p = s := by
  unfold State.l2Flush
  rw [h]
  rfl

/-! ## TORRENT_LEAVE_ON -/

theorem any_groups (s : State) (p : Group → Bool) : s.groups.any p = true ↔ ∃ g < 32, p (s.group g) = true := by
  rw [Vector.any_eq_true]
  refine exists_congr fun g => ⟨fun ⟨hg, h⟩ => ⟨hg, ?_⟩, fun ⟨hg, h⟩ => ⟨hg, ?_⟩⟩
  · rwa [State.group, Vector.getElem?_eq_getElem hg]
  · rwa [State.group, Vector.getElem?_eq_getElem hg] at h

/-- The island has left ON: to NAP or OFF, the bridge isolated, the walkers' entries gone but Rill's. -/
def State.islandLeft (s : State) (nap : Bool) : State :=
  let t := s.l2Flush fun _ => true
  let u : State :=
    { t with tstate := if nap then 1 else 0, bridge := false, tbusy := false, wcache := t.wcache.filter (·.1 = 8) }
  if nap then u else { u with cores := u.cores.map fun p => if isRill p.1 then p else (p.1, p.2.unpowered) }

theorem islandLeft_spec (s : State) (nap : Bool) :
    let t := s.islandLeft nap
    t.bridge = false ∧ t.tbusy = false ∧ t.l2 = [] ∧ (s.l2 = [] → t.mem = s.mem) ∧ (nap = true → t.tstate = 1 ∧ t.cores = s.cores) ∧
      (nap = false → t.tstate = 0) := by
  have hmem (h : s.l2 = []) : (s.l2Flush fun _ => true).mem = s.mem := by rw [l2Flush_of_empty h]
  cases nap
  · exact ⟨rfl, rfl, l2_l2Flush s, hmem, fun h => Bool.noConfusion h, fun _ => rfl⟩
  · exact ⟨rfl, rfl, l2_l2Flush s, hmem, fun _ => ⟨rfl, cores_l2Flush s _⟩, fun h => Bool.noConfusion h⟩

theorem exec_torrentLeaveOn {s : State} (hon : s.tstate = 2) (hdown : s.allDown = true) (hwake : ∀ g < 32, (s.group g).wakeBy = 0)
    (hnet : ∀ p ∈ s.net, p.torrent = false) :
    ∃ a, exec .torrentLeaveOn s = .next { s.islandLeft (s.groups.any (·.state = 1)) with agenda := a } := by
  have hno : ¬ (!s.allDown || s.groups.any (·.wakeBy ≠ 0)) = true := by
    rw [hdown, Bool.not_true, Bool.false_or, any_groups]
    rintro ⟨g, hg, h⟩
    exact of_decide_eq_true h (hwake g hg)
  have hempty : ¬ s.net.any Packet.torrent = true := by
    rw [List.any_eq_true]
    rintro ⟨p, hp, h⟩
    exact Bool.false_ne_true ((hnet p hp).symm.trans h)
  have hexec : exec .torrentLeaveOn s = .next (
      if (s.islandLeft (s.groups.any (·.state = 1))).srallow then
        (s.islandLeft (s.groups.any (·.state = 1))).laterOnce .dramSelfRefreshEnter
      else s.islandLeft (s.groups.any (·.state = 1))) := by
    show execTorrentLeaveOn s = _
    unfold execTorrentLeaveOn
    rw [if_neg (not_not_intro hon), if_neg hno, if_neg hempty]
    rfl
  rw [hexec]
  split
  · obtain ⟨a, ha, -⟩ := laterOnce_eq (s.islandLeft (s.groups.any (·.state = 1))) .dramSelfRefreshEnter
    exact ⟨a, by rw [ha]⟩
  · exact ⟨_, rfl⟩

/-! ## The statement -/

theorem dramsr_laterOnce (s : State) (e : Event) : (s.laterOnce e).dramsr = s.dramsr := by
  obtain ⟨a, h, -⟩ := laterOnce_eq s e
  rw [h]

/-- The island's steps. -/
theorem island_steps (s : State) :
    (s.tstate = 2 → exec .torrentBringUp s = .next s) ∧
    (s.tstate ≠ 2 → ∃ t : State, exec .torrentBringUp s = .next t ∧ t.tstate = 2 ∧ t.bridge = true ∧ t.dramsr = false ∧
      ∀ n, 0x800 ≤ n → n ≤ 0x808 → (t.core n).bridgeHeld = [] ∧ ∀ p ∈ (s.core n).bridgeHeld,
        if isLink p.dst then (s.linkUp (p.dst - 0x450) = true → p ∈ t.peerOut)
        else isRill p.src = true → p.leaving (s.timeAt p.src) ∈ t.net) ∧
    (s.tstate ≠ 2 → exec .torrentLeaveOn s = .next s) ∧
    (s.tstate = 2 → s.allDown = true → (∀ g < 32, (s.group g).wakeBy = 0) → (∀ p ∈ s.net, p.torrent = false) →
      ∃ t : State, exec .torrentLeaveOn s = .next t ∧ t.bridge = false ∧ t.tbusy = false ∧ t.l2 = [] ∧ (s.l2 = [] → t.mem = s.mem) ∧
        ((∃ g < 32, (s.group g).state = 1) → t.tstate = 1 ∧ t.cores = s.cores) ∧
        ((∀ g < 32, (s.group g).state = 2) → t.tstate = 0)) ∧
    (s.srallow = true → s.tstate ≠ 2 →
      ∃ t : State, exec .dramSelfRefreshEnter s = .next t ∧ t.dramsr = true ∧ t.mem = s.mem) ∧
    ∃ t : State, exec .dramSelfRefreshExit s = .next t ∧ t.dramsr = false ∧ t.mem = s.mem := by
  refine ⟨fun h => congrArg Host.Outcome.next (if_pos h), fun h => ⟨s.bringUp, rfl, bringUp_opens h⟩,
    fun h => congrArg Host.Outcome.next (if_pos h), fun hon hdown hwake hnet => ?_, fun hs h => ?_, ?_⟩
  · obtain ⟨a, ha⟩ := exec_torrentLeaveOn hon hdown hwake hnet
    obtain ⟨hbridge, hbusy, hl2, hmem, hnap, hoff⟩ := islandLeft_spec s (s.groups.any (·.state = 1))
    refine ⟨_, ha, hbridge, hbusy, hl2, hmem, fun ⟨g, hg, h1⟩ => hnap ?_, fun hall => hoff ?_⟩
    · exact (any_groups s _).mpr ⟨g, hg, decide_eq_true h1⟩
    · refine Bool.eq_false_iff.mpr fun hany => ?_
      obtain ⟨g, hg, h1⟩ := (any_groups s _).mp hany
      exact absurd ((hall g hg).symm.trans (of_decide_eq_true h1)) (by decide)
  · have hyes : (s.srallow && decide (s.tstate ≠ 2)) = true := by rw [hs, Bool.true_and, decide_eq_true h]
    refine ⟨_, congrArg Host.Outcome.next (if_pos hyes), ?_, ?_⟩
    · rw [dramsr_laterOnce]
    · rw [mem_laterOnce]
  · refine ⟨_, rfl, ?_⟩
    split
    · exact ⟨dramsr_laterOnce { s with dramsr := false } _, mem_laterOnce { s with dramsr := false } _⟩
    · exact ⟨rfl, rfl⟩

/-- Settles O49: writes of WAKE, the triggers, the groups that come up, and the island. -/
theorem wakingSteps : Obligations.WakingSteps :=
  ⟨wakeWrites_steps, fun _ => rfl, armWrite_steps, cascadeFire_steps, groupComesUp, island_steps⟩

end Sys2Proof.Machine
end

section
/-! Proofs. Threads that leave, arrive and go on (R113 to R119, R122, R182, R192). -/

namespace Sys2Proof.Machine

open Sys2Proof.Claims

/-! ## What sending and recording leave of the threads of a core -/

/-- The threads of a core's user berths, and whether its own is away. -/
def Core.seats (c : Core) : Berth × Berth × Berth × Bool := (c.b1, c.b2, c.b3, c.away)

theorem seats_setCore {s : State} {n : Nat} {c : Core} (h : c.seats = (s.core n).seats) (k : Nat) :
    ((s.setCore n c).core k).seats = (s.core k).seats := by
  by_cases hk : k = n
  · subst hk
    rw [core_setCore, h]
  · rw [core_setCore_other s c hk]

theorem seats_record (s : State) (n cls typ : Nat) (p : Word) (k : Nat) :
    ((s.record n cls typ p).core k).seats = (s.core k).seats := by
  obtain ⟨r, h⟩ := core_record s n cls typ p k
  rw [h]
  rfl

theorem countSent_cases (s : State) (n : Nat) (p : Packet) :
    s.countSent n p = s ∨ ∃ l, s.countSent n p = s.setCore n { s.core n with sent := l } := by
  unfold State.countSent
  split
  · exact .inr ⟨_, rfl⟩
  · exact .inl rfl

/-- The NI of a core has counted a packet or holds it back. -/
def Core.sentOne (c : Core) (unacked : Nat × Nat) (held : List Packet) : Core := { c with unacked := unacked, bridgeHeld := held }

theorem count_eq (c : Core) (p : Packet) : ∃ u, (if p.ranked then c.count else c) = c.sentOne u c.bridgeHeld := by
  split <;> exact ⟨_, rfl⟩

/-- A packet that leaves an NI waits in the hold buffer, or enters the network: events are added, and of the core only its NI changes. -/
theorem depart_eq (s : State) (n : Nat) (p : Packet) : ∃ u held net agenda,
    s.depart n p = { s.setCore n ((s.core n).sentOne u held) with net := net, agenda := agenda } ∧ s.agenda ⊆ agenda := by
  obtain ⟨u, hu⟩ := count_eq (s.core n) p
  unfold State.depart
  dsimp only
  rw [hu]
  split
  · obtain ⟨a, ha, hsub⟩ := packetTriggers_eq (s.setCore n ((s.core n).sentOne u ((s.core n).bridgeHeld ++
      [if p.ranked then { p with epoch := (s.core n).epoch } else p]))) p
    exact ⟨u, _, s.net, a, ha, hsub⟩
  · exact ⟨u, _, _, _, rfl, List.subset_append_left _ _⟩

theorem depart_keeps (s : State) (n : Nat) (p : Packet) :
    s.agenda ⊆ (s.depart n p).agenda ∧ ∀ k, ((s.depart n p).core k).seats = (s.core k).seats := by
  obtain ⟨u, held, net, agenda, h, hsub⟩ := depart_eq s n p
  rw [h]
  exact ⟨hsub, seats_setCore (c := (s.core n).sentOne u held) rfl⟩

theorem send_keeps (s : State) (n : Nat) (p : Packet) :
    s.agenda ⊆ (s.send n p).agenda ∧ ∀ k, ((s.send n p).core k).seats = (s.core k).seats := by
  obtain ⟨ha, hs⟩ := depart_keeps (s.countSent n p) n p
  rcases countSent_cases s n p with h | ⟨l, h⟩
  · rw [h] at ha hs
    exact ⟨by rw [State.send, h]; exact ha, fun k => by rw [State.send, h]; exact hs k⟩
  · rw [h] at ha hs
    exact ⟨by rw [State.send, h]; exact ha, fun k => by rw [State.send, h]; exact (hs k).trans (seats_setCore (by rfl) k)⟩

theorem ack_keeps (s : State) (p : Packet) :
    s.agenda ⊆ (s.ack p).agenda ∧ ∀ k, ((s.ack p).core k).seats = (s.core k).seats := by
  unfold State.ack
  split
  · exact send_keeps s _ _
  · exact ⟨List.Subset.refl _, fun _ => rfl⟩

/-! ## A thread that has arrived -/

/-- A lease that follows its thread changes, in the thread's native B1, or stays (R454). -/
theorem moveLease_cases (s : State) (native n : Nat) : s.moveLease native n = s ∨
    ∃ l a, s.moveLease native n = s.setBerthAt native 1 { s.berthAt native 1 with lease := l, leaseAt := a } := by
  have hend (b : Berth) (fate : Nat) : ∃ l a, b.endLease s.time fate = { b with lease := l, leaseAt := a } := by
    unfold Berth.endLease
    dsimp only
    split
    · exact ⟨_, _, rfl⟩
    · exact ⟨_, _, rfl⟩
  have hended (fate : Nat) : ∃ l a, s.setBerthAt native 1 (((s.berthAt native 1).countLease s.time).endLease s.time fate) =
      s.setBerthAt native 1 { s.berthAt native 1 with lease := l, leaseAt := a } := by
    obtain ⟨l, a, h⟩ := hend ((s.berthAt native 1).countLease s.time) fate
    exact ⟨l, a, by rw [h]; rfl⟩
  unfold State.moveLease
  dsimp only
  split
  · exact .inl rfl
  · split
    · exact .inr (hended 5)
    · split
      · exact .inl rfl
      · split
        · exact .inr ⟨_, _, rfl⟩
        · exact .inr (hended 4)

/-- Of a core's threads, the arrival of one may change the lease of B1 at that thread's native core. -/
theorem seats_arrived (s : State) (n i : Nat) (t : Thread) (k : Nat) :
    (k ≠ t.nnode → ((s.arrived n i t).core k).seats = (s.core k).seats) ∧
      ∃ l a, ((s.arrived n i t).core k).seats =
        ({ (s.core k).b1 with lease := l, leaseAt := a }, (s.core k).b2, (s.core k).b3, (s.core k).away) := by
  have hseats : ((s.arrived n i t).core k).seats = ((s.moveLease t.nnode n).core k).seats := seats_record _ n 0 0xF2 t.pc k
  rw [hseats]
  rcases moveLease_cases s t.nnode n with h | ⟨l, a, h⟩ <;> rw [h]
  · exact ⟨fun _ => rfl, _, _, rfl⟩
  · unfold State.setBerthAt
    by_cases hk : k = t.nnode
    · subst hk
      rw [core_setCore]
      exact ⟨fun hne => absurd rfl hne, _, _, rfl⟩
    · rw [core_setCore_other s _ hk]
      exact ⟨fun _ => rfl, _, _, rfl⟩

theorem migResume_mem_arrived (s : State) (n i : Nat) (t : Thread) :
    .migResume (BitVec.ofNat 12 n) (BitVec.ofNat 2 i) ∈ (s.arrived n i t).agenda := mem_agenda_later _ _

theorem holdsThread_withThread (b : Berth) (t : Thread) (held : Bool) : holdsThread (b.withThread t held) t :=
  ⟨rfl, rfl, rfl, rfl, rfl, rfl, rfl, rfl, rfl, rfl, rfl, rfl⟩

/-! ## MIG_ARRIVE: a guest -/

/-- A guest enters the berth that is free. -/
theorem migIn_of_free {s : State} {p : Packet} {t : Thread} {i : Nat} (hr : p.ranked = true)
    (hres : (s.core p.dst).resident p.ctx p.drank = true) (hn : t.nnode ≠ p.dst) (hg : (s.core p.dst).noguest = false)
    (hfree : (s.core p.dst).freeGuest = some i) : s.migIn p t = some (s.placeGuest p.dst i t) := by
  unfold State.migIn
  dsimp only
  rw [hr, hg, hres, Bool.and_false, hfree, if_neg hn]
  rfl

theorem exec_migArrive {s u : State} {src dst : BitVec 12} {p : Packet} {t : Thread} (h : arrives s p src dst)
    (hb : p.body = .mig t) (hni : s.niTakes p = true) (hin : (without s p).migIn p t = some u) :
    exec (.migArrive src dst) s = .next (u.ack p) := by
  obtain ⟨hsrc, hdst⟩ := ends_of_arrives h
  have he : p.event = .migArrive src dst := by
    unfold Packet.event
    rw [hb, hsrc, hdst]
    simp
  have hvn : p.body.vn = 2 := by rw [hb]; rfl
  refine (arrival_of_arrives h he hvn (fun t q => t.takeMig (.migArrive src dst) q)).trans (congrArg Host.Outcome.next ?_)
  unfold State.takeMig
  rw [hb]
  dsimp only
  rw [if_pos (show (without s p).niTakes p = true from hni), hin]

/-- A guest that enters a berth of a core that is not its native one: the threads of the other berths stay. -/
theorem seats_placeGuest {s : State} {n : Nat} {t : Thread} (i : Nat) (hn : t.nnode ≠ n) :
    ((s.placeGuest n i t).core n).seats =
      ((s.core n).setBerth i (((s.core n).berth i).withThread t ((s.core n).stops i))).seats := by
  unfold State.placeGuest
  dsimp only
  rw [(seats_arrived _ n i t n).1 (Ne.symm hn), core_setCore]
  rfl

/-- A thread from another core enters the free guest berth, and goes on later. -/
theorem guest_arrives {s : State} {src dst : BitVec 12} {p : Packet} {t : Thread} {i : Nat} (h : arrives s p src dst)
    (hni : s.niTakes p = true) (hb : p.body = .mig t) (hr : p.ranked = true)
    (hres : (s.core dst.toNat).resident p.ctx p.drank = true) (hn : t.nnode ≠ dst.toNat)
    (hg : (s.core dst.toNat).noguest = false) (hfree : (s.core dst.toNat).freeGuest = some i) :
    ∃ u : State, exec (.migArrive src dst) s = .next u ∧ .migResume dst (BitVec.ofNat 2 i) ∈ u.agenda ∧
      (u.core dst.toNat).seats = ((s.core dst.toNat).setBerth i
        (((s.core dst.toNat).berth i).withThread t ((s.core dst.toNat).stops i))).seats := by
  have hdst := (ends_of_arrives h).2
  have hin : (without s p).migIn p t = some ((without s p).placeGuest p.dst i t) := by
    rw [← hdst] at hres hn hg hfree
    exact migIn_of_free hr hres hn hg hfree
  rw [hdst] at hin
  obtain ⟨hagenda, hseats⟩ := ack_keeps ((without s p).placeGuest dst.toNat i t) p
  refine ⟨_, exec_migArrive h hb hni hin, hagenda ?_, (hseats _).trans (seats_placeGuest i hn)⟩
  have hlater := migResume_mem_arrived ((without s p).setCore dst.toNat
    { ((without s p).core dst.toNat).setBerth i ((((without s p).core dst.toNat).berth i).withThread t
      (((without s p).core dst.toNat).stops i)) with guestAge := i = 3 }) dst.toNat i t
  rw [BitVec.ofNat_toNat, BitVec.setWidth_eq] at hlater
  exact hlater

/-! ## EVICT_ARRIVE -/

theorem exec_evictArrive {s : State} {src dst : BitVec 12} {p : Packet} {t : Thread} (h : arrives s p src dst)
    (hb : p.body = .evict t) (hni : s.niTakes p = true) :
    exec (.evictArrive src dst) s = .next ((without s p).arriveHome dst.toNat p.ctx t) := by
  obtain ⟨hsrc, hdst⟩ := ends_of_arrives h
  have he : p.event = .evictArrive src dst := by
    unfold Packet.event
    rw [hb, hsrc, hdst]
    simp
  have hvn : p.body.vn = 1 := by rw [hb]; rfl
  refine (arrival_of_arrives h he hvn State.takeEvict).trans (congrArg Host.Outcome.next ?_)
  unfold State.takeEvict
  rw [hb]
  dsimp only
  rw [if_pos (show (without s p).niTakes p = true from hni), hdst]

/-- The core whose own thread is back in B1: recalled, it stops before its next instruction, with reason 3 if it was. -/
def Core.broughtHome (c : Core) (t : Thread) : Core :=
  let held := c.recalled || c.stops 1
  let b := c.b1.withThread t held
  { c with
    away := false, recalled := false
    b1 := if held then { b with epc := t.pc &&& 0x0000FFFFFFFFFFFF } else b
    preempt := if c.recalled then some 3 else c.preempt }

theorem arriveHome_of_away {s : State} {n ctx : Nat} {t : Thread} (haway : (s.core n).away = true)
    (hres : (s.core n).resident ctx t.nrank = true) :
    s.arriveHome n ctx t = (s.setCore n ((s.core n).broughtHome t)).arrived n 1 t := by
  unfold State.arriveHome
  dsimp only
  rw [if_neg (by rw [haway, hres]; exact Bool.false_ne_true)]
  rfl

theorem holdsThread_broughtHome (c : Core) (t : Thread) : holdsThread (c.broughtHome t).b1 t := by
  unfold Core.broughtHome
  dsimp only
  split <;> exact holdsThread_withThread c.b1 t (c.recalled || c.stops 1)

/-- A thread that has been away comes back to its berth. -/
theorem arriveHome_back {s : State} {n ctx : Nat} {t : Thread} (haway : (s.core n).away = true)
    (hres : (s.core n).resident ctx t.nrank = true) :
    holdsThread ((s.arriveHome n ctx t).core n).b1 t ∧ ((s.arriveHome n ctx t).core n).away = false ∧
      .migResume (BitVec.ofNat 12 n) 1 ∈ (s.arriveHome n ctx t).agenda := by
  rw [arriveHome_of_away haway hres]
  obtain ⟨l, a, hseats⟩ := (seats_arrived (s.setCore n ((s.core n).broughtHome t)) n 1 t n).2
  rw [core_setCore] at hseats
  refine ⟨?_, congrArg (·.2.2.2) hseats, migResume_mem_arrived _ n 1 t⟩
  rw [show (((s.setCore n ((s.core n).broughtHome t)).arrived n 1 t).core n).b1 = _ from congrArg (·.1) hseats]
  exact holdsThread_broughtHome (s.core n) t

/-! ## MIG_DEPART -/

theorem migDepart_leaves {s u : State} {node : BitVec 12} {i : BitVec 2} {rank : BitVec 10} {k : Nat} :
    let n := node.toNat
    let b := s.berthAt n i.toNat
    s.findRank n (s.core n).ctxid rank.toNat = (u, .valid k) → { s with cur := n, cb := i.toNat }.sendsOpen 6 = false → i ≠ 0 →
    b.occupied = true → b.stopped = false → b.wait = .none → b.rsp = [] → b.gang = none → b.mspill.getLsbD 63 = false →
    exec (.migDepart node i rank) s = .next (u.sendAway n i.toNat rank.toNat k b.pc) := by
  intro n b hfind hsends hi hocc hstop hwait hrsp hgang hspill
  have hi0 : i.toNat ≠ 0 := fun h => hi (BitVec.eq_of_toNat_eq h)
  show execMigDepart node i rank s = _
  unfold execMigDepart
  dsimp only
  rw [hfind]
  refine congrArg Host.Outcome.next (if_pos ?_)
  have hsend : { s with cur := node.toNat, cb := i.toNat }.sendsOpen scDevice = false := hsends
  rw [hocc, hstop, hwait, hrsp, hgang, hsend, decide_eq_true hi0, show bitOf (s.berthAt n i.toNat).mspill 63 = false from hspill]
  rfl

/-! ## MIG_RESUME -/

/-- An arrived thread whose berth goes on to `w`; its core has acquired (R119). -/
def State.resumed (s : State) (n i : Nat) (w : Wait) : State :=
  (s.setCore n (s.core n).acquire).setBerthAt n i { s.berthAt n i with wait := w }

/-- What an arrived thread does next: it takes the trap it returned for, repeats its access after a refusal, or goes on (R116, R192). -/
def State.goOn (s : State) (node : BitVec 12) (i : BitVec 2) (tr : Option (Cause × Word)) (bounced : Bool) : State :=
  match tr with
  | some (c, v) =>
    if i.toNat = 1 then (s.resumed node.toNat i.toNat .none).enterUser node.toNat c v else s.resumed node.toNat i.toNat .none
  | none =>
    if bounced then (s.resumed node.toNat i.toNat .retry).later (.migRetry node) else s.resumed node.toNat i.toNat .none

theorem exec_migResume {s : State} {node : BitVec 12} {i : BitVec 2} {tdep : Word} {tr : Option (Cause × Word)} {bounced : Bool}
    (h : (s.berthAt node.toNat i.toNat).wait = .arrive tdep tr bounced) : exec (.migResume node i) s =
      .next (if timePassed (s.timeAt node.toNat) tdep then s.goOn node i tr bounced else s.later (.migResume node i)) := by
  show execMigResume node i s = _
  unfold execMigResume State.goOn
  dsimp only
  rw [h]
  dsimp only
  by_cases ht : timePassed (s.timeAt node.toNat) tdep = true
  · rw [if_pos ht, if_neg (by rw [ht]; exact Bool.false_ne_true)]
    rcases tr with - | ⟨c, v⟩ <;> rfl
  · rw [if_neg ht, if_pos (by rw [Bool.eq_false_iff.mpr ht]; rfl)]

theorem berthAt_resumed (s : State) (n i : Nat) (w : Wait) :
    (s.resumed n i w).berthAt n i = { s.berthAt n i with wait := w } := berthAt_setBerthAt_same _ n i _

/-- After an acquire no word of an L1 is V but the stale ones of pinned lines (R63, R79). -/
theorem l1_acquire {c : Core} {w : L1Word} (h : w ∈ c.acquire.l1) : w.st ≠ .v ∨ w.stale = true := by
  obtain ⟨x, -, hx⟩ := List.mem_filterMap.mp h
  split at hx
  · next ho =>
    cases hx
    exact .inl (by simpa [L1Word.owned] using ho)
  · split at hx
    · cases hx
      exact .inr rfl
    · cases hx

theorem l1_resumed {s : State} {n i : Nat} {w : Wait} {x : L1Word} (h : x ∈ ((s.resumed n i w).core n).l1) :
    x.st ≠ .v ∨ x.stale = true := by
  unfold State.resumed State.setBerthAt at h
  rw [core_setCore, core_setCore, l1_setBerth] at h
  exact l1_acquire h

/-! ## Threads as a whole -/

/-- R113 to R119, R122, R182, R192: threads leave, arrive and go on. -/
theorem threadsArrive : Claims.ThreadsArrive := by
  refine ⟨fun s u node i rank k => migDepart_leaves, fun s src dst p th h => ?_, fun s node i tdep tr bounced => ?_,
    fun s node h => congrArg Host.Outcome.next (if_pos h)⟩
  · intro n c hni
    refine ⟨fun hb hr hres hn hg => ⟨fun h2 => ?_, fun h2 h3 => ?_⟩, fun hb haway hres hrec => ?_⟩
    · have hfree : c.freeGuest = some 2 := by simp [Core.freeGuest, h2]
      obtain ⟨t, ht, hresume, hseats⟩ := guest_arrives h hni hb hr hres hn hg hfree
      refine ⟨t, ht, ?_, hresume, congrArg (·.2.2.1) hseats, congrArg (·.1) hseats⟩
      rw [show (t.core n).b2 = _ from congrArg (·.2.1) hseats]
      exact holdsThread_withThread c.b2 th _
    · have hfree : c.freeGuest = some 3 := by simp [Core.freeGuest, h2, h3]
      obtain ⟨t, ht, hresume, hseats⟩ := guest_arrives h hni hb hr hres hn hg hfree
      refine ⟨t, ht, ?_, hresume, congrArg (·.2.1) hseats⟩
      rw [show (t.core n).b3 = _ from congrArg (·.2.2.1) hseats]
      exact holdsThread_withThread c.b3 th _
    · obtain ⟨hholds, haway', hresume⟩ := arriveHome_back (s := without s p) (n := n) (ctx := p.ctx) haway hres
      rw [BitVec.ofNat_toNat, BitVec.setWidth_eq] at hresume
      exact ⟨_, exec_evictArrive h hb hni, hholds, haway', hresume⟩
  · intro n hw
    rw [exec_migResume hw]
    refine ⟨fun hlate => ?_, fun c v hpast htr hi => ?_, fun hpast htr hb => ?_, fun hpast htr hb => ?_⟩
    · rw [if_neg (ne_true_of_eq_false hlate)]
    · subst htr hi
      rw [if_pos hpast]
      rfl
    · subst htr hb
      rw [if_pos hpast]
      refine ⟨_, rfl, ?_, mem_agenda_later _ _⟩
      exact congrArg Berth.wait (berthAt_resumed s n i.toNat .retry)
    · subst htr hb
      rw [if_pos hpast]
      exact ⟨_, rfl, berthAt_resumed s n i.toNat .none, rfl, fun w hx => l1_resumed hx⟩

end Sys2Proof.Machine
end

section
/-! Proofs. TLBI at the cores, and its completion (R45 to R47, R105 to R108, R147, R156). -/

namespace Sys2Proof.Machine

/-! ## What endings of reservations and the NI's rereading leave -/

/-- The cores' answers to a TLBI, the epoch of their NIs, and their TLBs. -/
def Core.tlbView (c : Core) : Option Nat × Bool × List Tlb := (c.tlbiAck, c.epoch, c.tlb)

/-- What an NI knows of ranks: the packets that it holds and the entries of its cache. -/
def Core.rankView (c : Core) : List Packet × List RankEntry := (c.heldPkts, c.rankCache)

/-- The TLBs of the groups and of a core, its NI's epoch and its TLBI. -/
def State.tlbView (n : Nat) (s : State) : List (Nat × List Tlb) × Option Nat × Bool × List Tlb := (s.gtlb, (s.core n).tlbView)

theorem tlbView_setCore {s : State} {n : Nat} {c : Core} (h : c.tlbView = (s.core n).tlbView) (k : Nat) :
    (s.setCore n c).tlbView k = s.tlbView k := by
  unfold State.tlbView
  by_cases hk : k = n
  · subst hk
    rw [core_setCore, h]
    rfl
  · rw [core_setCore_other s c hk]
    rfl

theorem tlbView_setBerth (c : Core) (i : Nat) (b : Berth) : (c.setBerth i b).tlbView = c.tlbView := by
  unfold Core.setBerth
  split <;> rfl

theorem rankView_setBerth (c : Core) (i : Nat) (b : Berth) : (c.setBerth i b).rankView = c.rankView := by
  unfold Core.setBerth
  split <;> rfl

theorem tlbView_setBerthAt (s : State) (n i : Nat) (b : Berth) (k : Nat) : (s.setBerthAt n i b).tlbView k = s.tlbView k :=
  tlbView_setCore (tlbView_setBerth _ _ _) k

theorem rankView_setBerthAt (s : State) (n i : Nat) (b : Berth) (k : Nat) :
    ((s.setBerthAt n i b).core k).rankView = (s.core k).rankView := by
  unfold State.setBerthAt
  by_cases hk : k = n
  · subst hk
    rw [core_setCore, rankView_setBerth]
  · rw [core_setCore_other s _ hk]

/-- The end of reservations changes the reservations and the threads in their queues alone. -/
theorem endResvs_keeps {α : Type} (get : State → α) (resv : ∀ s l, get { s with resv := l } = get s)
    (berth : ∀ s n i b, get (s.setBerthAt n i b) = get s) (s : State) (n : Nat) (q : TlbiReq) :
    get (s.endResvs n q) = get s := by
  have grant (t : State) (r : Resv) : get (t.grantNext (keyLoc r.gran r.ctx r.slot)) = get t := by
    unfold State.grantNext
    split
    · rfl
    · exact (berth _ _ _ _).trans (resv _ _)
  unfold State.endResvs
  dsimp only
  rw [foldl_keeps get grant]
  exact (foldl_keeps get (f := State.answerLost) (fun t r => berth _ _ _ _) _ _).trans (resv _ _)

/-- A rank's entry is read: the cache may change, in which a freely chosen entry makes room. -/
theorem lookRank_cases (s : State) (n ctx rank : Nat) : (s.lookRank n ctx rank).1 = s ∨
    ∃ f l, (s.lookRank n ctx rank).1 = { s with freeCtr := f }.setCore n { s.core n with rankCache := l } := by
  have keep (x : RankEntry) : ∃ f l, (s.roomIn 64 (s.core n).rankCache).1.setCore n
      { s.core n with rankCache := x :: (s.roomIn 64 (s.core n).rankCache).2 } =
        { s with freeCtr := f }.setCore n { s.core n with rankCache := l } := by
    unfold State.roomIn
    split <;> exact ⟨_, _, rfl⟩
  unfold State.lookRank
  dsimp only
  split
  · exact .inl rfl
  · split
    · exact .inr (keep _)
    · exact .inr (keep _)
    · exact .inl rfl

theorem tlbView_lookRank (s : State) (n ctx rank k : Nat) : (s.lookRank n ctx rank).1.tlbView k = s.tlbView k := by
  rcases lookRank_cases s n ctx rank with h | ⟨f, l, h⟩ <;> rw [h]
  exact tlbView_setCore (s := { s with freeCtr := f }) (by rfl) k

theorem tlbView_unhold (s : State) (n : Nat) (p : Packet) (k : Nat) : (s.unhold n p).tlbView k = s.tlbView k := by
  unfold State.unhold
  split
  · dsimp only
    split
    · exact tlbView_setBerthAt _ _ _ _ k
    · rfl
  · rfl

theorem tlbView_depart (s : State) (n : Nat) (p : Packet) (k : Nat) : (s.depart n p).tlbView k = s.tlbView k := by
  obtain ⟨u, held, net, agenda, h, -⟩ := depart_eq s n p
  rw [h]
  exact tlbView_setCore (c := (s.core n).sentOne u held) rfl k

theorem tlbView_setPort (c : Core) (i : Nat) (x : Port) : (c.setPort i x).tlbView = c.tlbView := by
  unfold Core.setPort
  split <;> rfl

theorem tlbView_refuseHeld (s : State) (n : Nat) (p : Packet) (k : Nat) : (s.refuseHeld n p).tlbView k = s.tlbView k := by
  have hcount : (s.countIn n p).tlbView k = s.tlbView k := by
    rcases countIn_cases s n p with h | ⟨l, h⟩ <;> rw [h]
    exact tlbView_setCore (by rfl) k
  rw [← hcount]
  unfold State.refuseHeld
  dsimp only
  split
  · exact tlbView_setBerthAt _ _ _ _ k
  · exact tlbView_setCore (tlbView_setPort _ _ _) k
  · rfl

/-- The held packet of a rank whose entry a TLBI has removed, as its entry reads now (R108). -/
def State.rereadOne (n : Nat) (t : State) (p : Packet) : State :=
  let (t1, st) := t.lookRank n p.ctx p.drank
  match st with
  | .valid k => (t1.unhold n p).depart n { p with dst := k }
  | .transit => let d := t1.core n; t1.setCore n { d with heldPkts := d.heldPkts ++ [p] }
  | .invalid => t1.refuseHeld n p

theorem reread_eq (s : State) (n : Nat) (q : TlbiReq) : s.reread n q =
    ((s.core n).heldPkts.filter fun p => q.hitsRank p.ctx p.drank).foldl (State.rereadOne n)
      (s.setCore n { s.core n with heldPkts := (s.core n).heldPkts.filter fun p => !q.hitsRank p.ctx p.drank }) := rfl

theorem tlbView_rereadOne (n : Nat) (s : State) (p : Packet) (k : Nat) : (s.rereadOne n p).tlbView k = s.tlbView k := by
  rw [← tlbView_lookRank s n p.ctx p.drank k]
  unfold State.rereadOne
  split
  next t st h =>
  rw [h]
  cases st with
  | valid m => exact (tlbView_depart _ _ _ k).trans (tlbView_unhold _ _ _ k)
  | transit => exact tlbView_setCore (by rfl) k
  | invalid => exact tlbView_refuseHeld _ _ _ k

theorem tlbView_reread (s : State) (n : Nat) (q : TlbiReq) (k : Nat) : (s.reread n q).tlbView k = s.tlbView k := by
  rw [reread_eq, foldl_keeps (State.tlbView k) fun t p => tlbView_rereadOne n t p k]
  exact tlbView_setCore (by rfl) k

/-- An NI that holds no packet has none to read the rank again for. -/
theorem rankCache_reread {s : State} {n : Nat} (h : (s.core n).heldPkts = []) (q : TlbiReq) :
    ((s.reread n q).core n).rankCache = (s.core n).rankCache := by
  have hnone : ((s.core n).heldPkts.filter fun p => q.hitsRank p.ctx p.drank) = [] := by
    rw [h]
    rfl
  rw [reread_eq, hnone, List.foldl_nil, core_setCore]

/-! ## TLBI_ARRIVE: what a core drops -/

/-- The NI of a core has flipped its epoch; it acknowledges `q` when the accesses of the old one are over (R107). -/
def Core.answering (c : Core) (q : TlbiReq) : Core :=
  { c with epoch := !c.epoch, tlbiAck := some q.id, tlbiCopies := c.nextCopy }

/-- A core without the entries that `q` names in its TLB and its rank-translation cache. -/
def Core.forgetting (c : Core) (q : TlbiReq) : Core :=
  { c with tlb := c.tlb.filter fun t => !q.hitsLeaf t, rankCache := c.rankCache.filter fun r => !q.hitsRank r.ctx r.rank }

theorem core_dropEntries (s : State) (n : Nat) (q : TlbiReq) : (s.dropEntries n q).core n = (s.core n).forgetting q :=
  core_setCore s n _

/-- The TLBs have dropped what `q` names, and the NI has flipped its epoch; the reservations stand. -/
def State.entriesDropped (s : State) (n : Nat) (q : TlbiReq) : State :=
  (s.dropEntries n q).setCore n (((s.core n).forgetting q).answering q)

theorem dropFor_eq (s : State) (n : Nat) (q : TlbiReq) : s.dropFor n q = ((s.entriesDropped n q).endResvs n q).reread n q := by
  show (((s.dropEntries n q).setCore n (((s.dropEntries n q).core n).answering q)).endResvs n q).reread n q = _
  rw [core_dropEntries]
  rfl

theorem tlbView_dropFor (s : State) (n : Nat) (q : TlbiReq) : (s.dropFor n q).tlbView n =
    (alSet s.gtlb (routerOf n) ((s.groupTlb n).filter fun t => !q.hitsLeaf t), some q.id, !(s.core n).epoch,
      (s.core n).tlb.filter fun t => !q.hitsLeaf t) := by
  rw [dropFor_eq, tlbView_reread,
    endResvs_keeps (State.tlbView n) (fun _ _ => rfl) fun s m i b => tlbView_setBerthAt s m i b n]
  unfold State.tlbView State.entriesDropped
  rw [core_setCore]
  rfl

theorem rankCache_dropFor {s : State} {n : Nat} (h : (s.core n).heldPkts = []) (q : TlbiReq) :
    ((s.dropFor n q).core n).rankCache = (s.core n).rankCache.filter fun r => !q.hitsRank r.ctx r.rank := by
  have hview : (((s.entriesDropped n q).endResvs n q).core n).rankView = (((s.core n).forgetting q).answering q).rankView := by
    rw [endResvs_keeps (fun t => (t.core n).rankView) (fun _ _ => rfl) fun s m i b => rankView_setBerthAt s m i b n]
    exact congrArg Core.rankView (core_setCore _ n _)
  rw [dropFor_eq, rankCache_reread ((congrArg (·.1) hview).trans h)]
  exact congrArg (·.2) hview

/-- No entry is left that the TLBI names. -/
theorem dropFor_drops (s : State) (n : Nat) (q : TlbiReq) :
    let t := s.dropFor n q
    (t.core n).tlbiAck = some q.id ∧ (t.core n).epoch = (!(s.core n).epoch) ∧ (∀ e ∈ (t.core n).tlb, q.hitsLeaf e = false) ∧
      (∀ e ∈ t.groupTlb n, q.hitsLeaf e = false) ∧
      ((s.core n).heldPkts = [] → ∀ e ∈ (t.core n).rankCache, q.hitsRank e.ctx e.rank = false) := by
  have hv := tlbView_dropFor s n q
  refine ⟨congrArg (·.2.1) hv, congrArg (·.2.2.1) hv, fun e he => ?_, fun e he => ?_, fun h e he => ?_⟩
  · rw [show ((s.dropFor n q).core n).tlb = _ from congrArg (·.2.2.2) hv] at he
    exact (Bool.not_eq_true' _).mp (List.mem_filter.mp he).2
  · have hg : (s.dropFor n q).gtlb = _ := congrArg (·.1) hv
    unfold State.groupTlb at he
    rw [hg, alGet_alSet_same] at he
    exact (Bool.not_eq_true' _).mp (List.mem_filter.mp he).2
  · rw [rankCache_dropFor h] at he
    exact (Bool.not_eq_true' _).mp (List.mem_filter.mp he).2

/-! ## The acknowledgement, and the waits that end with it -/

/-- A TLBI with the acknowledgement of node `n` to the one with the number `id`. -/
def TlbiReq.acked (n id : Nat) (q : TlbiReq) : TlbiReq := if q.id = id then { q with left := q.left.filter (· ≠ n) } else q

theorem ackTlbi_eq (s : State) (n id : Nat) : ∃ a, s.ackTlbi n id =
    { s.setCore n { s.core n with tlbiAck := none } with tlbis := s.tlbis.map (TlbiReq.acked n id), agenda := a } := by
  unfold State.ackTlbi
  dsimp only
  split
  · obtain ⟨a, h, -⟩ := laterOnce_eq
      { s.setCore n { s.core n with tlbiAck := none } with tlbis := s.tlbis.map (TlbiReq.acked n id) }
      (.tlbiComplete (BitVec.ofNat 16 id))
    exact ⟨a, h⟩
  · exact ⟨_, rfl⟩

/-- After its acknowledgement a node is waited for no longer. -/
theorem left_ackTlbi {s : State} {n id : Nat} {r : TlbiReq} (h : r ∈ (s.ackTlbi n id).tlbis) (hr : r.id = id) : n ∉ r.left := by
  obtain ⟨a, ha⟩ := ackTlbi_eq s n id
  rw [ha] at h
  obtain ⟨q, -, rfl⟩ := List.mem_map.mp h
  by_cases hq : q.id = id
  · rw [TlbiReq.acked, if_pos hq]
    exact fun hn => of_decide_eq_true (List.mem_filter.mp hn).2 rfl
  · rw [TlbiReq.acked, if_neg hq] at hr
    exact absurd hr hq

/-- Of the core's own state an acknowledgement changes which TLBI it answers. -/
theorem ackTlbi_keeps (s : State) (n id : Nat) :
    ((s.ackTlbi n id).core n).tlbiAck = none ∧ ((s.ackTlbi n id).core n).tlb = (s.core n).tlb ∧
      (s.ackTlbi n id).mem = s.mem ∧ (s.ackTlbi n id).words = s.words := by
  obtain ⟨a, ha⟩ := ackTlbi_eq s n id
  have hcore : (s.ackTlbi n id).core n = { s.core n with tlbiAck := none } := by
    rw [ha]
    exact core_setCore s n _
  rw [hcore, ha]
  exact ⟨rfl, rfl, rfl, rfl⟩

theorem clearWait_eq (s : State) (w : Waiter) : ∃ m l, s.clearWait w = { s with mem := m, l2 := l } := by
  unfold State.clearWait
  dsimp only
  split
  · exact ⟨_, _, rfl⟩
  · split
    · split <;> exact ⟨_, _, rfl⟩
    · split
      · exact ⟨_, _, rfl⟩
      · split <;> exact ⟨_, _, rfl⟩

/-- Whether a registration is that of berth `i` of node `n`. -/
def Waiter.ofBerth (n i : Nat) (w : Waiter) : Bool := w.node = n && w.berth = i

/-- A berth that no longer waits has no registration at a word and at a barrier; without one at a barrier, memory stays. -/
theorem dropWaits_spec (s : State) (n i : Nat) :
    (s.dropWaits n i).words = s.words.filter (fun w => !w.ofBerth n i) ∧
      (s.dropWaits n i).barriers = s.barriers.filter (fun w => !w.ofBerth n i) ∧
      ((∀ w ∈ s.barriers, w.node ≠ n) → (s.dropWaits n i).mem = s.mem) := by
  have hwords (t : State) (w : Waiter) : (t.clearWait w).words = t.words := by
    obtain ⟨m, l, h⟩ := clearWait_eq t w
    rw [h]
  refine ⟨foldl_keeps State.words hwords _ (s.unwait n i), rfl, fun h => ?_⟩
  have hmine : (s.barriers.filter fun w => w.node = n && w.berth = i) = [] :=
    List.filter_eq_nil_iff.mpr fun w hw hof => h w hw (of_decide_eq_true ((Bool.and_eq_true _ _).mp hof).1)
  unfold State.dropWaits
  dsimp only
  rw [hmine]
  rfl

theorem tlb_waitAgain (s : State) (w : Waiter) (k : Nat) : ((s.waitAgain w).core k).tlb = (s.core k).tlb := by
  have hclear (t : State) (x : Waiter) : (t.clearWait x).tlbView k = t.tlbView k := by
    obtain ⟨m, l, h⟩ := clearWait_eq t x
    rw [h]
    rfl
  have hdrop : (s.dropWaits w.node w.berth).tlbView k = s.tlbView k :=
    foldl_keeps (State.tlbView k) hclear _ (s.unwait w.node w.berth)
  exact congrArg (·.2.2.2) ((tlbView_setBerthAt _ _ _ _ k).trans hdrop)

theorem words_waitAgain (s : State) (w : Waiter) : (s.waitAgain w).words = s.words.filter fun x => !x.ofBerth w.node w.berth :=
  (dropWaits_spec s w.node w.berth).1

theorem barriers_waitAgain (s : State) (w : Waiter) :
    (s.waitAgain w).barriers = s.barriers.filter fun x => !x.ofBerth w.node w.berth :=
  (dropWaits_spec s w.node w.berth).2.1

/-- The waits of node `n`'s threads whose translation is gone. -/
def State.staleWaits (s : State) (n : Nat) : List Waiter :=
  (s.barriers.filter fun w => w.node = n && !s.waitStands w true) ++ (s.words.filter fun w => w.node = n && !s.waitStands w false)

theorem dropStale_eq (s : State) (n : Nat) : s.dropStale n = (s.staleWaits n).foldl State.waitAgain s := rfl

theorem node_of_mem_staleWaits {s : State} {n : Nat} {w : Waiter} (h : w ∈ s.staleWaits n) : w.node = n := by
  rcases List.mem_append.mp h with h | h <;>
    exact of_decide_eq_true ((Bool.and_eq_true _ _).mp (List.mem_filter.mp h).2).1

/-- A core's wait at a word that is left stood before, and its translation stands. -/
theorem words_dropStale {s : State} {n : Nat} {w : Waiter} (h : w ∈ (s.dropStale n).words) (hn : w.node = n) :
    w ∈ s.words ∧ s.waitStands w false = true := by
  rw [dropStale_eq] at h
  have hsub : ((s.staleWaits n).foldl State.waitAgain s).words ⊆ s.words :=
    List.foldlRecOn _ State.waitAgain (motive := fun t => t.words ⊆ s.words) (List.Subset.refl _) fun t ht x _ => by
      rw [words_waitAgain]
      exact List.Subset.trans (List.filter_subset_self _) ht
  refine ⟨hsub h, Bool.not_eq_false _ |>.mp fun hgone => ?_⟩
  have hstale : w ∈ s.staleWaits n :=
    List.mem_append_right _ (List.mem_filter.mpr ⟨hsub h, by rw [decide_eq_true hn, hgone]; rfl⟩)
  refine foldl_reaches (P := fun t => w ∉ t.words) (fun t hw => ?_) (fun t x ht hw => ?_) hstale s h
  · rw [words_waitAgain] at hw
    simpa [Waiter.ofBerth] using (List.mem_filter.mp hw).2
  · rw [words_waitAgain] at hw
    exact ht (List.mem_filter.mp hw).1

/-- Without a registration at a barrier no W is cleared. -/
theorem mem_dropStale {s : State} {n : Nat} (h : ∀ w ∈ s.barriers, w.node ≠ n) : (s.dropStale n).mem = s.mem := by
  refine (List.foldlRecOn (s.staleWaits n) State.waitAgain
    (motive := fun t => t.mem = s.mem ∧ ∀ w ∈ t.barriers, w.node ≠ n) ⟨rfl, h⟩ fun t ht x hx => ?_).1
  obtain ⟨hmem, hbar⟩ := ht
  have hx : x.node = n := node_of_mem_staleWaits hx
  refine ⟨((dropWaits_spec t x.node x.berth).2.2 (hx ▸ hbar)).trans hmem, fun w hw => ?_⟩
  rw [barriers_waitAgain] at hw
  exact hbar w (List.mem_filter.mp hw).1

theorem tlb_dropStale (s : State) (n k : Nat) : ((s.dropStale n).core k).tlb = (s.core k).tlb :=
  foldl_keeps (fun t => (t.core k).tlb) (fun t w => tlb_waitAgain t w k) _ s

/-! ## The statements -/

/-- What the arrival `e` of the TLBI `q` at node `n` does (R46, R98, R107, R147). -/
def State.tlbiArrived (s : State) (e : Event) (n : Nat) (q : TlbiReq) : State :=
  if s.tlbiBefore n q then s.again e
  else if !s.niUp n then ((((s.dropEntries n q).endResvs n q).reread n q).dropStale n).ackTlbi n q.id
  else
    match (s.core n).tlbiAck with
    | none => (s.dropFor n q).again e
    | some k => if k = q.id && (s.core n).drained then (s.dropStale n).ackTlbi n q.id else s.again e

theorem exec_tlbiArrive {s : State} {id : BitVec 16} {q : TlbiReq} (node : BitVec 12)
    (h : (s.tlbis.find? fun r => r.id = id.toNat) = some q) :
    exec (.tlbiArrive id node) s = .next (s.tlbiArrived (.tlbiArrive id node) node.toNat q) := by
  show execTlbiArrive id node s = _
  unfold execTlbiArrive
  dsimp only
  rw [h]
  rfl

section

variable {s : State} {e : Event} {n : Nat} {q : TlbiReq}

theorem tlbiArrived_behind (h : s.tlbiBefore n q = true) : s.tlbiArrived e n q = s.again e := if_pos h

theorem tlbiArrived_down (h : s.tlbiBefore n q = false) (hup : s.niUp n = false) :
    s.tlbiArrived e n q = ((((s.dropEntries n q).endResvs n q).reread n q).dropStale n).ackTlbi n q.id := by
  unfold State.tlbiArrived
  rw [h, hup]
  rfl

theorem tlbiArrived_first (h : s.tlbiBefore n q = false) (hup : s.niUp n = true) (hack : (s.core n).tlbiAck = none) :
    s.tlbiArrived e n q = (s.dropFor n q).again e := by
  unfold State.tlbiArrived
  rw [h, hup, hack]
  rfl

theorem tlbiArrived_again (h : s.tlbiBefore n q = false) (hup : s.niUp n = true) (hack : (s.core n).tlbiAck = some q.id) :
    s.tlbiArrived e n q = if (s.core n).drained then (s.dropStale n).ackTlbi n q.id else s.again e := by
  unfold State.tlbiArrived
  rw [h, hup, hack]
  show (if decide (q.id = q.id) && (s.core n).drained then _ else _) = _
  rw [decide_eq_true rfl, Bool.true_and]

end

/-- A TLBI completes when no acknowledgement is left: it alone is over. -/
theorem tlbiComplete_steps (s : State) (id : BitVec 16) : ∃ t : State, exec (.tlbiComplete id) s = .next t ∧
    (∀ r ∈ t.tlbis, r ∈ s.tlbis) ∧ (∀ r ∈ s.tlbis, r ∉ t.tlbis → r.id = id.toNat ∧ r.left = []) ∧
      ∀ r ∈ t.tlbis, r.id = id.toNat → r.left ≠ [] := by
  refine ⟨_, rfl, fun r hr => (List.mem_filter.mp hr).1, fun r hr hgone => ?_, fun r hr hid hleft => ?_⟩
  · have hover : ¬ (!(r.id = id.toNat && r.left.isEmpty)) = true := fun h => hgone (List.mem_filter.mpr ⟨hr, h⟩)
    simpa using hover
  · have hkept := (List.mem_filter.mp hr).2
    simp [hid, hleft] at hkept

/-- R42, R45 to R47, R98, R105, R107, R147: a TLBI at a core, and its completion. -/
theorem tlbiSteps : Claims.TlbiSteps := by
  refine ⟨fun s id node q => ?_, tlbiComplete_steps⟩
  intro n c h acks behind
  have hid : q.id = id.toNat := of_decide_eq_true (List.find?_some h :)
  have hexec := exec_tlbiArrive node h
  refine ⟨fun hb => ?_, fun hb hup => ?_, fun hb hup hack => ?_, fun hb hup hack hdr => ?_, fun hb hup hack hdr => ?_⟩
  · rw [hexec, tlbiArrived_behind hb]
  · rw [tlbiArrived_down hb hup] at hexec
    exact ⟨_, hexec, fun r hr hr' => left_ackTlbi hr (hr'.trans hid.symm)⟩
  · rw [tlbiArrived_first hb hup hack] at hexec
    obtain ⟨hack', hepoch, htlb, hgtlb, hrank⟩ := dropFor_drops s n q
    exact ⟨_, hexec, hack'.trans (congrArg some hid), hepoch, htlb, hgtlb, hrank, List.mem_cons_self⟩
  · rw [← hid] at hack
    rw [hexec, tlbiArrived_again hb hup hack, if_neg (ne_true_of_eq_false hdr)]
  · rw [← hid] at hack
    rw [tlbiArrived_again hb hup hack, if_pos hdr] at hexec
    obtain ⟨hack', htlb, hmem, hwords⟩ := ackTlbi_keeps (s.dropStale n) n q.id
    refine ⟨_, ⟨hexec, fun r hr hr' => left_ackTlbi hr (hr'.trans hid.symm)⟩, hack', fun hbar => hmem.trans (mem_dropStale hbar),
      htlb.trans (tlb_dropStale s n n), fun w hw hn => words_dropStale (hwords ▸ hw) hn⟩

/-- Settles O47: threads that leave, arrive and go on, and TLBI at the cores. -/
theorem threadsAndTlbi : Obligations.ThreadsAndTlbi := ⟨threadsArrive, tlbiSteps⟩

end Sys2Proof.Machine
end

section
/-! Proofs. Barriers at their homes: the rows of R170's table, the flip, and the threads that wait (R168 to R171; O14). -/

namespace Sys2Proof.Machine

open Sys2Proof.Claims

/-! ## Fields of words -/

theorem getF_eq (w : Word) (lo len : Nat) : getF w lo len = w.toNat / 2 ^ lo % 2 ^ len := by
  simp [getF, BitVec.extractLsb'_toNat, Nat.shiftRight_eq_div_pow]

theorem barArrive_eq (x : Word) : barArrive x = x.toNat % 2 ^ 32 := by simp [barArrive, getF_eq]

theorem barBytes_eq (x : Word) : barBytes x = x.toNat % 2 ^ 48 := by simp [barBytes, getF_eq]

theorem barExpect_eq (x : Word) : barExpect x = x.toNat / 2 ^ 32 := by
  have he : x.toNat / 2 ^ 32 < 2 ^ 32 := Nat.div_lt_of_lt_mul x.isLt
  rw [barExpect, getF_eq, Nat.mod_eq_of_lt he]

/-- ARRIVE is EXPECT again. -/
theorem setF_barExpect (x : Word) :
    setF x 0 32 (barExpect x) = BitVec.ofNat 64 (x.toNat / 2 ^ 32 * 2 ^ 32 + x.toNat / 2 ^ 32) := by
  have he : x.toNat / 2 ^ 32 < 2 ^ 32 := Nat.div_lt_of_lt_mul x.isLt
  have hv : (BitVec.ofNat 32 (x.toNat / 2 ^ 32)).toNat = x.toNat / 2 ^ 32 := Nat.mod_eq_of_lt he
  rw [barExpect_eq, ← hv, (setF_half x _).1]
  apply BitVec.eq_of_toNat_eq
  simp only [BitVec.toNat_or, BitVec.toNat_shiftLeft, BitVec.toNat_ushiftRight, BitVec.toNat_setWidth, hv, BitVec.toNat_ofNat,
    Nat.shiftRight_eq_div_pow]
  rw [Nat.mod_eq_of_lt (a := x.toNat / 2 ^ 32) (by omega), Nat.mod_eq_of_lt (by rw [Nat.shiftLeft_eq]; omega),
    ← Nat.shiftLeft_add_eq_or_of_lt he, Nat.shiftLeft_eq, Nat.mod_eq_of_lt (by omega)]

/-! ## Threads and barriers after a store at a granule -/

theorem threads_putGranule (s : State) (l : Loc) (x0 x1 : Word) (t : Nat) : s.Threads (s.putGranule l x0 x1 t) :=
  ((threads_putWords s l x0 x1 t).trans (threads_changed _ _ _)).trans (threads_changed _ _ _)

@[simp] theorem barriers_putGranule (s : State) (l : Loc) (x0 x1 : Word) (t : Nat) :
    (s.putGranule l x0 x1 t).barriers = s.barriers := by
  simp [State.putGranule, State.putWords]

/-- An answer to a thread leaves all of it but its wait. -/
theorem threads_answer (s : State) (n i : Nat) (x y : Word) : s.Threads (s.answer n i x y) :=
  threads_setCore fun j => by
    match i, j with
    | 0, 0 | 0, 1 | 0, 2 | 0, _ + 3 | 1, 0 | 1, 1 | 1, 2 | 1, _ + 3 | 2, 0 | 2, 1 | 2, 2 | 2, _ + 3
    | _ + 3, 0 | _ + 3, 1 | _ + 3, 2 | _ + 3, _ + 3 => exact ⟨_, rfl⟩

theorem threads_wakeThose (s : State) (st : Word) (p : Waiter → Bool) : s.Threads (s.wakeThose st p) :=
  (threads_of_cores rfl rfl rfl rfl : s.Threads { s with barriers := s.barriers.filter fun w => !p w }).trans
    (threads_foldl (fun t (w : Waiter) => threads_answer t w.node w.berth st 0) _ _)

/-! ## The flip (R169) -/

/-- A waiter of a barrier: one of its granule's address that sees its context and key slot (R57). -/
def Waiter.atBarrier (w : Waiter) (k : Loc) : Bool := w.addr = k.key && w.sees k

theorem Waiter.atBarrier_iff {w : Waiter} {k : Loc} : w.atBarrier k = true ↔ w.addr = k.key ∧ w.sees k = true := by
  simp [Waiter.atBarrier]

/-- A wake of a barrier's waiters leaves memory, and the other waiters; the wait of each that it wakes is over with its status. -/
theorem wakeBarrier_spec (s : State) (k : Loc) (st : Word) :
    let t := s.wakeBarrier k st
    t.mem = s.mem ∧ t.barriers = s.barriers.filter (fun w => !w.atBarrier k) ∧
      ∀ w ∈ s.barriers, w.atBarrier k = true → (t.berthAt w.node w.berth).wait = .done st 0 := by
  refine ⟨foldl_keeps State.mem (f := State.answerWoken st) (fun _ _ => rfl) _ _,
    (wakeThose_keeps s st fun w => w.atBarrier k).1, fun w hw hk => ?_⟩
  exact foldl_reaches (P := fun t => (t.berthAt w.node w.berth).wait = .done st 0) (f := State.answerWoken st) (i := w)
    (fun t => wait_answer_same t _ _ st 0) (fun t q ht => wait_answer_again _ _ ht) (List.mem_filter.mpr ⟨hw, hk⟩) _

theorem putBarrier_of_flip (s : State) (k : Loc) {x0 x1 : Word} (h0 : x0.toNat % 2 ^ 32 = 0) (h1 : x1.toNat % 2 ^ 48 = 0) :
    s.putBarrier k x0 x1 = (s.putGranule k (BitVec.ofNat 64 (x0.toNat / 2 ^ 32 * 2 ^ 32 + x0.toNat / 2 ^ 32))
      (setF (setF x1 48 8 (getF x1 48 8 + 1)) 56 1 0) 2).wakeBarrier k 0 := by
  rw [← setF_barExpect]
  exact if_pos (by rw [barArrive_eq, barBytes_eq, h0, h1]; rfl)

theorem putBarrier_of_count (s : State) (k : Loc) {x0 x1 : Word} (h : x0.toNat % 2 ^ 32 ≠ 0 ∨ x1.toNat % 2 ^ 48 ≠ 0) :
    s.putBarrier k x0 x1 = s.putGranule k x0 x1 2 := by
  refine if_neg fun hc => ?_
  rw [barArrive_eq, barBytes_eq, Bool.and_eq_true, decide_eq_true_eq, decide_eq_true_eq] at hc
  exact h.elim (· hc.1) (· hc.2)

theorem threads_putBarrier (s : State) (k : Loc) (x0 x1 : Word) : s.Threads (s.putBarrier k x0 x1) := by
  unfold State.putBarrier
  split
  · exact (threads_putGranule s k _ _ _).trans (threads_wakeThose _ _ _)
  · exact threads_putGranule s k _ _ _

/-- R169, R170, R57: the flip, and what a store that only counts does. -/
theorem barrierFlips : BarrierFlips := by
  intro s k x0 x1 t
  refine ⟨fun h0 h1 => ?_, putBarrier_of_count s k⟩
  have ht : t = _ := putBarrier_of_flip s k h0 h1
  obtain ⟨hmem, hbar, hover⟩ := wakeBarrier_spec (s.putGranule k (BitVec.ofNat 64 (x0.toNat / 2 ^ 32 * 2 ^ 32 + x0.toNat / 2 ^ 32))
    (setF (setF x1 48 8 (getF x1 48 8 + 1)) 56 1 0) 2) k 0
  rw [barriers_putGranule] at hbar hover
  rw [ht]
  refine ⟨hmem, fun w hw hk => ?_, fun w hw hk => ?_, fun w hw ha hk _ => hover w hw (Waiter.atBarrier_iff.mpr ⟨ha, hk⟩)⟩
  · have hleft := (List.mem_filter.mp (hbar ▸ hw)).2
    rw [Waiter.atBarrier_iff.mpr hk] at hleft
    cases hleft
  · rw [hbar]
    exact List.mem_filter.mpr ⟨hw, by rw [Bool.eq_false_iff.mpr (mt Waiter.atBarrier_iff.mp hk)]; rfl⟩

/-! ## The rows of R170's table -/

theorem words_of_granuleAt {u w : State} {k : Loc} {x0 x1 : Word} {obj : Bool} (h : u.granuleAt k = some (w, x0, x1, obj)) :
    (w.homeWord k).1 = x0 ∧ (w.homeWord (k.plus 8)).1 = x1 := by
  have h := granule_of_granuleAt h
  unfold State.granule at h
  dsimp only at h
  split_ifs at h
  cases h
  exact ⟨rfl, rfl⟩

section
variable {s : State} {k : Loc} {p : Nat} (n i va : Nat)

theorem waitPhase_passes (h : getF (s.homeWord (k.plus 8)).1 48 8 ≠ p) : s.waitPhase k n i va p = (s, .val 0) := if_pos h

theorem waitPhase_joins (h : getF (s.homeWord (k.plus 8)).1 48 8 = p) : s.waitPhase k n i va p =
    (s.joinBarrier k (s.homeWord k).1 (s.homeWord (k.plus 8)).1 n i va, .waits (w64 p)) := if_neg (not_not_intro h)

end

/-- An arrival at a live barrier: ARRIVE is one less (R170). -/
def State.barArrived (s : State) (k : Loc) (x0 x1 : Word) : State := s.putBarrier k (setF x0 0 32 (x0.toNat % 2 ^ 32 - 1)) x1

/-- What the barrier instructions but BINIT and BQRY answer at a DATA granule (R170). -/
def dataAnswer (op : Nat) : Word :=
  match op with
  | 1 => BitVec.allOnes 64
  | 2 | 3 => 1
  | _ => 0

section
variable {u w : State} {k : Loc} {x0 x1 : Word} {obj : Bool} (hg : u.granuleAt k = some (w, x0, x1, obj)) (i va : Nat) (v : Word)
include hg

/-- BQRY reads word 1 of any granule. -/
theorem barrier_bqry : u.barrier u.cur i va k 6 v = .ok (w, .val x1) := by
  unfold State.barrier
  rw [granule_of_granuleAt hg]
  rfl

/-- BKILL ends any object. -/
theorem barrier_bkill_object (hobj : obj = true) :
    u.barrier u.cur i va k 5 v = .ok (w.killObject k x0 x1, .val 0) := by
  subst hobj
  unfold State.barrier
  rw [granule_of_granuleAt hg]
  by_cases h : objKind x1 = kindBar
  · simp only [bind, Except.bind, h]
    rfl
  · simp only [bind, Except.bind, h]
    rfl

/-- Any other instruction refuses an object of another kind. -/
theorem barrier_other (h : obj = true ∧ getF x1 60 4 ≠ 0xB) {op : Nat} (h5 : op ≠ 5) (h6 : op ≠ 6) :
    u.barrier u.cur i va k op v = .error (.barstate, k.key) := by
  obtain ⟨rfl, hk⟩ := h
  have hkind : objKind x1 ≠ kindBar := hk
  unfold State.barrier
  rw [granule_of_granuleAt hg]
  simp only [bind, Except.bind, h5, h6, hkind]
  rfl

/-- BINIT makes a DATA granule a barrier. -/
theorem barrier_binit_data (hobj : obj = false) (hv : v.toNat < 2 ^ 32) : u.barrier u.cur i va k 0 v =
    .ok (w.putGranule k (BitVec.ofNat 64 (v.toNat * 2 ^ 32 + v.toNat)) 0xB000000000000000 2, .val 0) := by
  subst hobj
  unfold State.barrier
  rw [granule_of_granuleAt hg]
  simp only [bind, Except.bind, Nat.mod_eq_of_lt hv]
  rfl

/-- Any other instruction answers at a DATA granule, and changes nothing. -/
theorem barrier_data (hobj : obj = false) {op : Nat} (h0 : op ≠ 0) (h6 : op ≠ 6) :
    u.barrier u.cur i va k op v = .ok (w, .val (dataAnswer op)) := by
  subst hobj
  unfold State.barrier
  rw [granule_of_granuleAt hg]
  simp only [bind, Except.bind, h6]
  match op with
  | 0 => exact absurd rfl h0
  | 1 | 2 | 3 | _ + 4 => rfl

end

section
variable {u w : State} {k : Loc} {x0 x1 : Word} {obj : Bool} (hg : u.granuleAt k = some (w, x0, x1, obj))
  (hlive : obj = true ∧ getF x1 60 4 = 0xB) (i va : Nat) (v : Word)
include hg hlive

theorem barrier_binit_live (hv : v.toNat < 2 ^ 32) : u.barrier u.cur i va k 0 v =
    if (w.barriers.any fun r => r.atBarrier k) = true then .error (.barstate, k.key)
    else .ok (w.putGranule k (BitVec.ofNat 64 (v.toNat * 2 ^ 32 + v.toNat))
      (setF (setF x1 0 48 0) 48 8 (getF x1 48 8 + 1)) 2, .val 0) := by
  obtain ⟨rfl, hk⟩ := hlive
  have hkind : objKind x1 = kindBar := hk
  unfold State.barrier
  rw [granule_of_granuleAt hg]
  simp only [bind, Except.bind, hkind, Nat.mod_eq_of_lt hv]
  rfl

theorem barrier_barr_live : u.barrier u.cur i va k 1 v =
    if x0.toNat % 2 ^ 32 = 0 then .error (.barstate, k.key)
    else .ok (w.barArrived k x0 x1, .val (w64 (getF x1 48 8))) := by
  obtain ⟨rfl, hk⟩ := hlive
  have hkind : objKind x1 = kindBar := hk
  unfold State.barrier
  rw [granule_of_granuleAt hg]
  simp only [bind, Except.bind, hkind, barArrive_eq]
  rfl

theorem barrier_bwait_live : u.barrier u.cur i va k 2 v = .ok (w.waitPhase k u.cur i va (v.toNat % 256)) := by
  obtain ⟨rfl, hk⟩ := hlive
  have hkind : objKind x1 = kindBar := hk
  unfold State.barrier
  rw [granule_of_granuleAt hg]
  simp only [bind, Except.bind, hkind]
  rfl

theorem barrier_baw_live : u.barrier u.cur i va k 3 v =
    if x0.toNat % 2 ^ 32 = 0 then .error (.barstate, k.key)
    else .ok ((w.barArrived k x0 x1).waitPhase k u.cur i va (getF x1 48 8)) := by
  obtain ⟨rfl, hk⟩ := hlive
  have hkind : objKind x1 = kindBar := hk
  unfold State.barrier
  rw [granule_of_granuleAt hg]
  simp only [bind, Except.bind, hkind, barArrive_eq]
  rfl

theorem barrier_bexp_live : u.barrier u.cur i va k 4 v =
    .ok (w.putBarrier k x0 (setF x1 0 48 (getF x1 0 48 + v.toNat)), .val 0) := by
  obtain ⟨rfl, hk⟩ := hlive
  have hkind : objKind x1 = kindBar := hk
  unfold State.barrier
  rw [granule_of_granuleAt hg]
  simp only [bind, Except.bind, hkind]
  rfl

theorem barrier_bwait_passes (h : getF x1 48 8 ≠ v.toNat % 256) : u.barrier u.cur i va k 2 v = .ok (w, .val 0) :=
  (barrier_bwait_live hg hlive i va v).trans
    (congrArg Except.ok (waitPhase_passes _ _ _ ((words_of_granuleAt hg).2.symm ▸ h)))

theorem barrier_bwait_joins (h : getF x1 48 8 = v.toNat % 256) : u.barrier u.cur i va k 2 v =
    .ok (w.joinBarrier k x0 x1 u.cur i va, .waits (w64 (v.toNat % 256))) := by
  obtain ⟨rfl, rfl⟩ := words_of_granuleAt hg
  exact (barrier_bwait_live hg hlive i va v).trans (congrArg Except.ok (waitPhase_joins _ _ _ h))

section
variable (harr : x0.toNat % 2 ^ 32 ≠ 0)
include harr

theorem barrier_baw_passes (h : getF ((w.barArrived k x0 x1).homeWord (k.plus 8)).1 48 8 ≠ getF x1 48 8) :
    u.barrier u.cur i va k 3 v = .ok (w.barArrived k x0 x1, .val 0) :=
  (barrier_baw_live hg hlive i va v).trans ((if_neg harr).trans (congrArg Except.ok (waitPhase_passes _ _ _ h)))

theorem barrier_baw_joins (h : getF ((w.barArrived k x0 x1).homeWord (k.plus 8)).1 48 8 = getF x1 48 8) :
    u.barrier u.cur i va k 3 v = .ok ((w.barArrived k x0 x1).joinBarrier k ((w.barArrived k x0 x1).homeWord k).1
      ((w.barArrived k x0 x1).homeWord (k.plus 8)).1 u.cur i va, .waits (w64 (getF x1 48 8))) :=
  (barrier_baw_live hg hlive i va v).trans ((if_neg harr).trans (congrArg Except.ok (waitPhase_joins _ _ _ h)))

end

end

section
variable {u w : State} {k : Loc} {x0 x1 : Word} {obj : Bool} (hg : u.granuleAt k = some (w, x0, x1, obj))
  (hbad : ((obj = true ∧ getF x1 60 4 = 0xB) ∧ x0.toNat % 2 ^ 32 = 0) ∨ (obj = true ∧ getF x1 60 4 ≠ 0xB)) (i va : Nat) (v : Word)
include hg hbad

/-- An arrival is refused where ARRIVE is 0 already, and at another object. -/
theorem barrier_barr_refused : u.barrier u.cur i va k 1 v = .error (.barstate, k.key) := by
  rcases hbad with ⟨hlive, harr⟩ | hother
  · exact (barrier_barr_live hg hlive i va v).trans (if_pos harr)
  · exact barrier_other hg i va v hother (by decide) (by decide)

theorem barrier_baw_refused : u.barrier u.cur i va k 3 v = .error (.barstate, k.key) := by
  rcases hbad with ⟨hlive, harr⟩ | hother
  · exact (barrier_baw_live hg hlive i va v).trans (if_pos harr)
  · exact barrier_other hg i va v hother (by decide) (by decide)

end

end Sys2Proof.Machine
end

section
/-! Proofs. The barrier instructions of the core's own memory (R131, R168 to R171, R173; O14). -/

namespace Sys2Proof.Machine

open Sys2Proof.Claims

/-! ## A barrier instruction at a home of the core's own -/

/-- An operation at a home of the core's own, after its checks. -/
theorem homeOp_own {s u : State} {a : Need} {k : Loc} (h : s.homeAt a = some (u, k)) (gate : M Unit)
    (here : State → Loc → M HomeRes) (ev : Nat → BitVec 12 → Event) (baw : Option (Nat × Word)) :
    homeOp s a gate here ev baw = (do
      gate
      let r ← here u k
      match r with
      | .done t x y => .ok (t, x, y)
      | .waits t => .error (.wait t)) := by
  obtain ⟨hw, p, r, hr⟩ := reach_of_homeAt h
  unfold State.reach at hr
  split at hr
  · cases hr
  · next hpre =>
    split at hr
    · next hloc =>
      cases hr
      unfold homeOp
      rw [hw]
      dsimp only
      rw [hpre, hloc]
      rfl
    · cases hr

/-- What a barrier instruction needs of its granule: BQRY reads it, the others write it too (R152). -/
def barNeed (o : Nat) (base : GReg) (a : BitVec 6) : Need :=
  if o = 6 then bqryNeed base a.toNat base.val else granNeed base a.toNat base.val

theorem homeAt_barNeed {s u : State} {o : Nat} {base : GReg} {a : BitVec 6} {k : Loc}
    (h : s.homeAt (updateAt base a.toNat 16 35 true) = some (u, k)) (ho : o ≠ 6) : s.homeAt (barNeed o base a) = some (u, k) := by
  unfold barNeed
  rw [if_neg ho]
  exact h

/-- A thread that waits at a barrier; for a BAW the wait keeps its destination and its phase, and WARR is 0 (R173). -/
def State.waitsAt (t : State) (k : Loc) (p : Word) (baw : Option Nat) : State :=
  t.setMe { (if baw.isSome then t.me.setWarr false else t.me) with wait := .barrier k.key (baw.map fun d => (d, p)) }

section
variable {s u t : State} {base : GReg} {a : BitVec 6} {o : Nat} {v : Word} {gate : M Unit} {baw : Option Nat} {k : Loc}
  (hat : s.homeAt (barNeed o base a) = some (u, k))
include hat

/-- A barrier instruction whose own check fails. -/
theorem barOp_gated {e : Stop} (hgate : gate = .error e) : barOp s base a o v gate baw = .error e :=
  bind_of_error ((homeOp_own hat _ _ _ _).trans (bind_of_error (bind_of_error hgate _) _)) _

variable (hgate : gate = .ok ()) (hopen : barReleases o = true → s.sendsOpen 6 = false)
include hgate hopen

theorem barOp_own : barOp s base a o v gate baw = (do
    let r ← barHere u k base.val o v baw
    match r with
    | .done t x _ => .ok (t, x)
    | .waits t => .error (.wait t)) := by
  have hall : (do gate; if barReleases o then released s scDevice else .ok () : M Unit) = .ok () := by
    refine (bind_of_ok hgate _).trans ?_
    by_cases ho : barReleases o = true
    · exact (if_pos ho).trans (if_neg (ne_true_of_eq_false (hopen ho)))
    · exact if_neg ho
  show (homeOp s (barNeed o base a) _ _ _ _ >>= _) = _
  rw [homeOp_own hat, bind_of_ok hall]
  cases barHere u k base.val o v baw with
  | error e => rfl
  | ok r => cases r <;> rfl

theorem barOp_val {x : Word} (h : u.barrier u.cur u.cb base.val.toNat k o v = .ok (t, .val x)) :
    barOp s base a o v gate baw = .ok (t, x) := by
  have hh : barHere u k base.val o v baw = .ok (.done t x 0) := by
    unfold barHere
    rw [h]
    rfl
  exact (barOp_own hat hgate hopen).trans (bind_of_ok hh _)

theorem barOp_waits {p : Word} (h : u.barrier u.cur u.cb base.val.toNat k o v = .ok (t, .waits p)) :
    barOp s base a o v gate baw = .error (.wait (t.waitsAt k p baw)) := by
  have hh : barHere u k base.val o v baw = .ok (.waits (t.waitsAt k p baw)) := by
    unfold barHere
    rw [h]
    rfl
  exact (barOp_own hat hgate hopen).trans (bind_of_ok hh _)

theorem barOp_refused (h : u.barrier u.cur u.cb base.val.toNat k o v = .error (.barstate, k.key)) :
    barOp s base a o v gate baw = .error (.trap .barstate base.val) := by
  have hea : homeEval base.val k.key k.key = base.val := by
    unfold homeEval
    rw [Nat.add_sub_cancel]
    exact BitVec.ofNat_toNat _ _
  have hh : barHere u k base.val o v baw = .error (.trap .barstate base.val) := by
    unfold barHere
    rw [h]
    exact congrArg (fun e => Except.error (Stop.trap .barstate e)) hea
  exact (barOp_own hat hgate hopen).trans (bind_of_error hh _)

end

section
variable {s u w : State} {base : GReg} {a : BitVec 6} {o : Nat} {gate : M Unit} {k : Loc} {x0 x1 : Word} {obj : Bool}
  (hat : s.homeAt (barNeed o base a) = some (u, k)) (hgate : gate = .ok ()) (hopen : barReleases o = true → s.sendsOpen 6 = false)
  (hg : u.granuleAt k = some (w, x0, x1, obj)) (v : Word) (baw : Option Nat)
include hat hgate hopen hg

theorem barOp_data (hobj : obj = false) (h0 : o ≠ 0) (h6 : o ≠ 6) : barOp s base a o v gate baw = .ok (w, dataAnswer o) :=
  barOp_val hat hgate hopen (barrier_data hg _ _ v hobj h0 h6)

theorem barOp_other (h : obj = true ∧ getF x1 60 4 ≠ 0xB) (h5 : o ≠ 5) (h6 : o ≠ 6) :
    barOp s base a o v gate baw = .error (.trap .barstate base.val) :=
  barOp_refused hat hgate hopen (barrier_other hg _ _ v h h5 h6)

end

/-! ## A thread that waits -/

/-- An instruction that leaves its thread waiting at the barrier of a granule, memory as in `t`. -/
def WaitsAtBarrier (s : State) (k : Loc) (o : Out) (t : State) (q : Option (Nat × Word)) (warr : Bool) : Prop :=
  ∃ z : State, o = .next z ∧ z.me.wait = .barrier k.key q ∧ z.me.pc = s.me.pc ∧ z.me.warr = warr ∧
    (∃ va : Nat, ⟨k.key, s.cur, s.cb, k.ctx, k.slot, va⟩ ∈ z.barriers) ∧ z.mem = t.mem ∧ z.tags = t.tags

/-- A thread that joins a barrier's waiters goes no further than its instruction. -/
theorem waitsAtBarrier_of_join {s u c : State} {a : Need} {k : Loc} {y0 y1 q : Word} {va : Nat} {baw : Option Nat} {o : Out}
    (hat : s.homeAt a = some (u, k)) (hc : u.Threads c)
    (ho : o = .next ((c.joinBarrier k y0 y1 u.cur u.cb va).waitsAt k q baw)) :
    WaitsAtBarrier s k o (c.putGranule k y0 (setF y1 56 1 1) 2) (baw.map fun d => (d, q)) (!baw.isSome && s.me.warr) := by
  obtain ⟨hcur, hcb, hme⟩ := me_of_homeAt hat
  obtain ⟨x, hx⟩ := (hc.trans (threads_putGranule c k y0 (setF y1 56 1 1) 2)).me
  have hjoin : (c.joinBarrier k y0 y1 u.cur u.cb va).me = { s.me with wait := x } := hme ▸ hx
  rw [hcur, hcb] at ho hjoin
  have hz : ((c.joinBarrier k y0 y1 s.cur s.cb va).waitsAt k q baw).me = _ := me_setMe _ _
  refine ⟨_, ho, congrArg Berth.wait hz, ?_, ?_, ⟨va, List.mem_append_right _ (List.mem_singleton_self _)⟩, rfl, rfl⟩
  · rw [hz, hjoin]
    cases baw <;> rfl
  · rw [hz, hjoin]
    cases baw
    · rfl
    · exact warr_setWarr_false _

/-! ## BINIT's own checks -/

theorem checkBinit_ok {v ea : Word} (h1 : 1 ≤ v.toNat) (h2 : v.toNat < 2 ^ 32) :
    check (1 ≤ v.toNat && v.toNat < 2 ^ 32) .barstate ea = .ok () := by
  unfold check
  rw [decide_eq_true h1, decide_eq_true h2]
  rfl

theorem checkBinit_refused {v ea : Word} (h : v.toNat = 0 ∨ 2 ^ 32 ≤ v.toNat) :
    check (1 ≤ v.toNat && v.toNat < 2 ^ 32) .barstate ea = .error (.trap .barstate ea) := by
  refine if_neg fun hc => ?_
  simp only [Bool.and_eq_true, decide_eq_true_eq] at hc
  omega

theorem any_atBarrier {l : List Waiter} {k : Loc} :
    (l.any fun r => r.atBarrier k) = true ↔ ∃ r ∈ l, r.addr = k.key ∧ r.sees k = true := by
  simp only [List.any_eq_true, Waiter.atBarrier_iff]

/-! ## BAW (R173) -/

/-- What BAW does at the home: it arrives, or, stopped before, waits for the phase in its destination. -/
def bawOp (s : State) (base : GReg) (a d : BitVec 6) : M (State × Word) :=
  barOp s base a (if s.me.warr then 2 else 3) (if s.me.warr then s.me.g[d.toNat].val else w64 d.toNat) (.ok ()) (some d.toNat)

/-- A BAW that waits no more. -/
def State.bawOver (t : State) : State := (t.setMe (t.me.setWarr false)).acquireHere

section
variable {s u w : State} {d a : BitVec 6} {k : Loc} {x0 x1 : Word} {obj : Bool} (hr : s.ready [.g a] [.g d] = true)
include hr

theorem exec_baw_ok {t : State} {x : Word} (h : bawOp s (s.gv [.g a] 0) a d = .ok (t, x)) :
    exec (.baw d a) s = .next (t.bawOver.finish [.g a] [.g d] [.data x] 4) :=
  op_ready hr (bind_of_ok h _)

theorem exec_baw_trap {c : Cause} {v : Word} (h : bawOp s (s.gv [.g a] 0) a d = .error (.trap c v)) :
    exec (.baw d a) s = .next (s.takeSync c v) :=
  op_trap hr (bind_of_error h _)

theorem exec_baw_wait {t : State} (h : bawOp s (s.gv [.g a] 0) a d = .error (.wait t)) : exec (.baw d a) s = .next t :=
  op_wait hr (bind_of_error h _)

variable (hat : s.homeAt (updateAt (s.gv [.g a] 0) a.toNat 16 35 true) = some (u, k))
  (hg : u.granuleAt k = some (w, x0, x1, obj))
include hat hg

section
variable (hwarr : s.me.warr = false) (hopen : s.sendsOpen 6 = false)
include hwarr

omit hr hat hg in
theorem bawOp_first (base : GReg) : bawOp s base a d = barOp s base a 3 (w64 d.toNat) (.ok ()) (some d.toNat) := by
  unfold bawOp
  rw [hwarr]
  rfl

include hopen

theorem exec_baw_data (hobj : obj = false) : exec (.baw d a) s = .next (w.bawOver.finish [.g a] [.g d] [.data 1] 4) :=
  exec_baw_ok hr ((bawOp_first hwarr _).trans
    (barOp_data (homeAt_barNeed hat (by decide)) rfl (fun _ => hopen) hg _ _ hobj (by decide) (by decide)))

theorem exec_baw_refused
    (hbad : ((obj = true ∧ getF x1 60 4 = 0xB) ∧ x0.toNat % 2 ^ 32 = 0) ∨ (obj = true ∧ getF x1 60 4 ≠ 0xB)) :
    exec (.baw d a) s = .next (s.takeSync .barstate (s.wv [.g a] 0)) :=
  exec_baw_trap hr ((bawOp_first hwarr _).trans
    (barOp_refused (homeAt_barNeed hat (by decide)) rfl (fun _ => hopen) (barrier_baw_refused hg hbad _ _ _)))

variable (hlive : obj = true ∧ getF x1 60 4 = 0xB) (harr : x0.toNat % 2 ^ 32 ≠ 0)
include hlive harr

/-- BAW whose arrival ends its phase. -/
theorem exec_baw_passes (hne : getF ((w.barArrived k x0 x1).homeWord (k.plus 8)).1 48 8 ≠ getF x1 48 8) :
    exec (.baw d a) s = .next ((w.barArrived k x0 x1).bawOver.finish [.g a] [.g d] [.data 0] 4) :=
  exec_baw_ok hr ((bawOp_first hwarr _).trans
    (barOp_val (homeAt_barNeed hat (by decide)) rfl (fun _ => hopen) (barrier_baw_passes hg hlive _ _ _ harr hne)))

/-- BAW that waits for the phase that its arrival met. -/
theorem exec_baw_joins (heq : getF ((w.barArrived k x0 x1).homeWord (k.plus 8)).1 48 8 = getF x1 48 8) :
    WaitsAtBarrier s k (exec (.baw d a) s) ((w.barArrived k x0 x1).putGranule k ((w.barArrived k x0 x1).homeWord k).1
      (setF ((w.barArrived k x0 x1).homeWord (k.plus 8)).1 56 1 1) 2) (some (d.toNat, w64 (getF x1 48 8))) false :=
  have hc := (threads_of_granule (granule_of_granuleAt hg)).trans (threads_putBarrier w k _ x1)
  waitsAtBarrier_of_join hat hc (exec_baw_wait hr ((bawOp_first hwarr _).trans
    (barOp_waits (homeAt_barNeed hat (by decide)) rfl (fun _ => hopen) (barrier_baw_joins hg hlive _ _ _ harr heq))))

end

section
variable (hwarr : s.me.warr = true)
include hwarr

omit hr hat hg in
theorem bawOp_again (base : GReg) : bawOp s base a d = barOp s base a 2 s.me.g[d.toNat].val (.ok ()) (some d.toNat) := by
  unfold bawOp
  rw [hwarr]
  rfl

theorem exec_baw_again_data (hobj : obj = false) :
    exec (.baw d a) s = .next (w.bawOver.finish [.g a] [.g d] [.data 1] 4) :=
  exec_baw_ok hr ((bawOp_again hwarr _).trans
    (barOp_data (homeAt_barNeed (o := 2) hat (by decide)) rfl nofun hg _ _ hobj (by decide) (by decide)))

theorem exec_baw_again_refused (hother : obj = true ∧ getF x1 60 4 ≠ 0xB) :
    exec (.baw d a) s = .next (s.takeSync .barstate (s.wv [.g a] 0)) :=
  exec_baw_trap hr ((bawOp_again hwarr _).trans
    (barOp_other (homeAt_barNeed (o := 2) hat (by decide)) rfl nofun hg _ _ hother (by decide) (by decide)))

variable (hlive : obj = true ∧ getF x1 60 4 = 0xB)
include hlive

theorem exec_baw_again_passes (hne : getF x1 48 8 ≠ s.me.g[d.toNat].val.toNat % 256) :
    exec (.baw d a) s = .next (w.bawOver.finish [.g a] [.g d] [.data 0] 4) :=
  exec_baw_ok hr ((bawOp_again hwarr _).trans
    (barOp_val (homeAt_barNeed (o := 2) hat (by decide)) rfl nofun (barrier_bwait_passes hg hlive _ _ _ hne)))

theorem exec_baw_again_joins (heq : getF x1 48 8 = s.me.g[d.toNat].val.toNat % 256) :
    WaitsAtBarrier s k (exec (.baw d a) s) (w.putGranule k x0 (setF x1 56 1 1) 2)
      (some (d.toNat, w64 (s.me.g[d.toNat].val.toNat % 256))) false :=
  waitsAtBarrier_of_join hat (threads_of_granule (granule_of_granuleAt hg)) (exec_baw_wait hr ((bawOp_again hwarr _).trans
    (barOp_waits (homeAt_barNeed (o := 2) hat (by decide)) rfl nofun (barrier_bwait_joins hg hlive _ _ _ heq))))

end

end

/-! ## The statement -/

/-- R168 to R171, R173, R131: the barrier instructions, by what stands in the granule. -/
theorem barriersComplete : BarriersComplete := by
  intro s u w d a b k x0 x1 obj l1 l2 v need arrive live other both waits hg _
  refine ⟨fun hr hat => ?_, fun hr hat => ?_, fun hr hat => ?_, fun hr hat hopen => ?_, fun hr hat => ?_⟩
  · have h0 := homeAt_barNeed (o := 0) hat (by decide)
    have h4 := homeAt_barNeed (o := 4) hat (by decide)
    refine ⟨fun hopen hv1 hv2 => ?_, fun hv => op_trap hr (bind_of_error (barOp_gated h0 (checkBinit_refused hv)) _),
      fun hobj => ?_, fun hlive => ?_, fun hother => ?_⟩
    · have hv : check _ _ (s.wv l2 0) = .ok () := checkBinit_ok hv1 hv2
      have hlivev := fun hlive => barrier_binit_live hg hlive u.cb (s.wv l2 0).toNat v hv2
      refine ⟨fun hobj => ?_, fun hlive hno => ?_, fun hlive hsome => ?_, fun hother => ?_⟩
      · exact op_ready hr (bind_of_ok (barOp_val h0 hv (fun _ => hopen) (barrier_binit_data hg _ _ _ hobj hv2)) _)
      · have hidle := mt any_atBarrier.mp fun ⟨r, hm, hk⟩ => hno r hm hk
        exact op_ready hr (bind_of_ok (barOp_val h0 hv (fun _ => hopen) ((hlivev hlive).trans (if_neg hidle))) _)
      · have hbusy := any_atBarrier.mpr hsome
        exact op_trap hr (bind_of_error (barOp_refused h0 hv (fun _ => hopen) ((hlivev hlive).trans (if_pos hbusy))) _)
      · exact op_trap hr (bind_of_error (barOp_other h0 hv (fun _ => hopen) hg _ _ hother (by decide) (by decide)) _)
    · exact op_ready hr (bind_of_ok (barOp_data h4 rfl nofun hg _ _ hobj (by decide) (by decide)) _)
    · exact op_ready hr (bind_of_ok (barOp_val h4 rfl nofun (barrier_bexp_live hg hlive _ _ _)) _)
    · exact op_trap hr (bind_of_error (barOp_other h4 rfl nofun hg _ _ hother (by decide) (by decide)) _)
  · have h2 := homeAt_barNeed (o := 2) hat (by decide)
    refine ⟨fun hobj => ?_, fun hlive hne => ?_, fun hlive heq => ?_, fun hother => ?_⟩
    · exact op_ready hr (bind_of_ok (barOp_data h2 rfl nofun hg _ _ hobj (by decide) (by decide)) _)
    · exact op_ready hr (bind_of_ok (barOp_val h2 rfl nofun (barrier_bwait_passes hg hlive _ _ _ hne)) _)
    · exact waitsAtBarrier_of_join (baw := none) (o := exec (.bwait d a b) s) hat (threads_of_granule (granule_of_granuleAt hg))
        (op_wait hr (bind_of_error (barOp_waits h2 rfl nofun (barrier_bwait_joins hg hlive _ _ _ heq)) _))
    · exact op_trap hr (bind_of_error (barOp_other h2 rfl nofun hg _ _ hother (by decide) (by decide)) _)
  · have h1 := homeAt_barNeed (o := 1) hat (by decide)
    refine ⟨fun hopen => ⟨fun hobj => ?_, fun hlive harr => ?_, fun hbad => ?_⟩, fun hwarr hopen => ?_, fun hwarr => ?_⟩
    · exact op_ready hr (bind_of_ok (barOp_data h1 rfl (fun _ => hopen) hg _ _ hobj (by decide) (by decide)) _)
    · exact op_ready hr (bind_of_ok (barOp_val h1 rfl (fun _ => hopen) ((barrier_barr_live hg hlive _ _ _).trans (if_neg harr))) _)
    · exact op_trap hr (bind_of_error (barOp_refused h1 rfl (fun _ => hopen) (barrier_barr_refused hg hbad _ _ _)) _)
    · exact ⟨exec_baw_data hr hat hg hwarr hopen, exec_baw_refused hr hat hg hwarr hopen,
        exec_baw_passes hr hat hg hwarr hopen, exec_baw_joins hr hat hg hwarr hopen⟩
    · exact ⟨exec_baw_again_data hr hat hg hwarr, exec_baw_again_passes hr hat hg hwarr,
        exec_baw_again_joins hr hat hg hwarr, exec_baw_again_refused hr hat hg hwarr⟩
  · have h5 := homeAt_barNeed (o := 5) hat (by decide)
    refine ⟨fun hobj => ?_, fun hobj => ?_⟩
    · exact op_ready hr (bind_of_ok (barOp_data h5 rfl (fun _ => hopen) hg _ _ hobj (by decide) (by decide)) _)
    · exact op_ready hr (bind_of_ok (barOp_val h5 rfl (fun _ => hopen) (barrier_bkill_object hg _ _ _ hobj)) _)
  · exact op_ready hr (bind_of_ok (barOp_val (o := 6) hat rfl nofun (barrier_bqry hg _ _ _)) _)

/-- Settles O14: the barrier instructions by the rows of R170's table, and the flip. -/
theorem barriers : Obligations.Barriers := ⟨barriersComplete, barrierFlips⟩

end Sys2Proof.Machine
end

section
/-! Proofs. Words as fields side by side (R213, R215 to R218): the word of a list of fields, what stands in its bits, and the sum of an
encoding as such a word (O59). -/

namespace Sys2Proof.Encoding

/-! ## Bits of a number -/

theorem bits_lt (w lo len : Nat) : bits w lo len < 2 ^ len := Nat.mod_lt _ (Nat.two_pow_pos len)

theorem bits_of_lt {w len : Nat} (h : w < 2 ^ len) : bits w 0 len = w := by
  rw [bits, pow_zero, Nat.div_one, Nat.mod_eq_of_lt h]

theorem bits_add (w lo m n : Nat) : bits w lo (m + n) = bits w lo m + 2 ^ m * bits w (lo + m) n := by
  rw [bits, bits, bits, Nat.pow_add, Nat.pow_add, ← Nat.div_div_eq_div_mul, Nat.mod_mul]

/-- A number is known by its bits below a cut and those from it on. -/
theorem add_two_pow_mul_eq_iff {x k : Nat} (h : x < 2 ^ k) (y c : Nat) :
    x + 2 ^ k * y = c ↔ x = c % 2 ^ k ∧ y = c / 2 ^ k := by
  constructor
  · rintro rfl
    rw [Nat.add_mul_mod_self_left, Nat.mod_eq_of_lt h, Nat.add_mul_div_left _ _ (Nat.two_pow_pos _), Nat.div_eq_of_lt h,
      Nat.zero_add]
    exact ⟨rfl, rfl⟩
  · rintro ⟨rfl, rfl⟩
    exact Nat.mod_add_div c _

/-! ## Fields -/

theorem toNat_fld (x lo n : Nat) : (fld x lo n).toNat = bits x lo n := by
  rw [fld, BitVec.toNat_ofNat, Nat.mod_eq_of_lt (bits_lt x lo n)]

/-- Half of a split immediate is a field of its own. -/
theorem bits_toNat {m : Nat} (v : BitVec m) (lo n : Nat) : bits v.toNat lo n = (fld v.toNat lo n).toNat := (toNat_fld ..).symm

@[simp] theorem fld_eq_iff {w lo n : Nat} {v : BitVec n} : fld w lo n = v ↔ bits w lo n = v.toNat := by
  rw [← BitVec.toNat_inj, toNat_fld]

theorem fld2_eq_iff {w lo₁ m lo₂ n : Nat} {v : BitVec (m + n)} :
    fld2 w lo₁ m lo₂ n = v ↔ bits w lo₁ m = bits v.toNat n m ∧ bits w lo₂ n = bits v.toNat 0 n := by
  have hw : bits w lo₂ n + 2 ^ n * bits w lo₁ m < 2 ^ (m + n) := by
    calc _ < 2 ^ n * (bits w lo₁ m + 1) := by rw [Nat.mul_succ]; linarith [bits_lt w lo₂ n]
      _ ≤ 2 ^ n * 2 ^ m := Nat.mul_le_mul_left _ (bits_lt w lo₁ m)
      _ = 2 ^ (m + n) := by rw [Nat.pow_add, Nat.mul_comm]
  have hhigh : bits v.toNat n m = v.toNat / 2 ^ n :=
    Nat.mod_eq_of_lt (Nat.div_lt_of_lt_mul (by rw [← Nat.pow_add, Nat.add_comm n m]; exact v.isLt))
  have hlow : bits v.toNat 0 n = v.toNat % 2 ^ n := by rw [bits, pow_zero, Nat.div_one]
  rw [← BitVec.toNat_inj, fld2, BitVec.toNat_ofNat, Nat.mul_comm, Nat.add_comm, Nat.mod_eq_of_lt hw,
    add_two_pow_mul_eq_iff (bits_lt ..), hhigh, hlow, and_comm]

/-- The split immediates of R216: 12 bits of scalar instructions, 18 of LUI, AUIPC and JAL, 7 of lane numbers. -/
@[simp] theorem imm12_eq_iff {w lo₁ lo₂ : Nat} {v : BitVec 12} :
    fld2 w lo₁ 2 lo₂ 10 = v ↔ bits w lo₁ 2 = bits v.toNat 10 2 ∧ bits w lo₂ 10 = bits v.toNat 0 10 := fld2_eq_iff

@[simp] theorem imm18_eq_iff {w lo₁ lo₂ : Nat} {v : BitVec 18} :
    fld2 w lo₁ 2 lo₂ 16 = v ↔ bits w lo₁ 2 = bits v.toNat 16 2 ∧ bits w lo₂ 16 = bits v.toNat 0 16 := fld2_eq_iff

@[simp] theorem imm7_eq_iff {w lo₁ lo₂ : Nat} {v : BitVec 7} :
    fld2 w lo₁ 2 lo₂ 5 = v ↔ bits w lo₁ 2 = bits v.toNat 5 2 ∧ bits w lo₂ 5 = bits v.toNat 0 5 := fld2_eq_iff

/-- A field of an encoding: its width and what stands in it. -/
structure Field where
  width : Nat
  val : BitVec width

/-- A field of `n` bits that holds a number. -/
@[simp] def Field.ofNat (n c : Nat) : Field := ⟨n, BitVec.ofNat n c⟩

/-- The word whose fields, from bit 0 up, are those of a list. -/
def pack : List Field → Nat
  | [] => 0
  | f :: r => f.val.toNat + 2 ^ f.width * pack r

/-- How many bits the fields take together. -/
@[simp] def span : List Field → Nat
  | [] => 0
  | f :: r => f.width + span r

theorem pack_lt (l : List Field) : pack l < 2 ^ span l := by
  induction l with
  | nil => exact Nat.one_pos
  | cons f r ih =>
    have hf := f.val.isLt
    calc f.val.toNat + 2 ^ f.width * pack r < 2 ^ f.width + 2 ^ f.width * pack r := by omega
      _ = 2 ^ f.width * (pack r + 1) := by ring
      _ ≤ 2 ^ f.width * 2 ^ span r := Nat.mul_le_mul_left _ ih
      _ = 2 ^ (f.width + span r) := (Nat.pow_add ..).symm

/-! ## What stands in the bits of a packed word -/

/-- Bits [lo + len - 1 : lo] of a field. -/
@[simp] def Field.part (f : Field) (lo len : Nat) : Nat :=
  if lo = 0 ∧ len = f.width then f.val.toNat else f.val.toNat / 2 ^ lo % 2 ^ len

/-- Bits [lo + len - 1 : lo] of the word of a list of fields. -/
@[simp] def slice : List Field → Nat → Nat → Nat
  | [], _, _ => 0
  | f :: r, lo, len =>
    if f.width ≤ lo then slice r (lo - f.width) len
    else if lo + len ≤ f.width then f.part lo len
    else f.part lo (f.width - lo) + 2 ^ (f.width - lo) * slice r 0 (lo + len - f.width)

/-- Bits [lo + len - 1 : lo] of the word of a list of fields are those of `c`, said field by field: a fixed field that differs settles
it, whatever the others hold. -/
@[simp] def Shows : List Field → Nat → Nat → Nat → Prop
  | [], _, _, c => c = 0
  | f :: r, lo, len, c =>
    if f.width ≤ lo then Shows r (lo - f.width) len c
    else if lo + len ≤ f.width then f.part lo len = c
    else f.part lo (f.width - lo) = c % 2 ^ (f.width - lo) ∧ Shows r 0 (lo + len - f.width) (c / 2 ^ (f.width - lo))

theorem Field.part_eq (f : Field) (lo len : Nat) : f.part lo len = bits f.val.toNat lo len := by
  unfold Field.part
  split
  · next h => rw [h.1, h.2, bits_of_lt f.val.isLt]
  · rfl

theorem bits_pack_above {f : Field} (r : List Field) {lo : Nat} (len : Nat) (h : f.width ≤ lo) :
    bits (pack (f :: r)) lo len = bits (pack r) (lo - f.width) len := by
  obtain ⟨m, rfl⟩ := Nat.exists_eq_add_of_le h
  rw [bits, bits, pack, Nat.pow_add, ← Nat.div_div_eq_div_mul, Nat.add_mul_div_left _ _ (Nat.two_pow_pos _),
    Nat.div_eq_of_lt f.val.isLt, Nat.zero_add, Nat.add_sub_cancel_left]

theorem bits_pack_within {f : Field} (r : List Field) {lo len : Nat} (h : lo + len ≤ f.width) :
    bits (pack (f :: r)) lo len = f.part lo len := by
  have hp : 2 ^ f.width * pack r = 2 ^ lo * (2 ^ len * (2 ^ (f.width - (lo + len)) * pack r)) := by
    rw [← Nat.mul_assoc, ← Nat.mul_assoc, ← Nat.pow_add, ← Nat.pow_add, Nat.add_sub_cancel' h]
  rw [Field.part_eq, bits, bits, pack, hp, Nat.add_mul_div_left _ _ (Nat.two_pow_pos _), Nat.add_mul_mod_self_left]

theorem bits_pack_across (f : Field) (r : List Field) {lo len : Nat} (h : ¬f.width ≤ lo) (h' : ¬lo + len ≤ f.width) :
    bits (pack (f :: r)) lo len =
      f.part lo (f.width - lo) + 2 ^ (f.width - lo) * bits (pack r) 0 (lo + len - f.width) := by
  have hl : len = (f.width - lo) + (lo + len - f.width) := by omega
  have hf : lo + (f.width - lo) = f.width := by omega
  conv_lhs => rw [hl]
  rw [bits_add, bits_pack_within r (by omega), hf, bits_pack_above r _ (Nat.le_refl _), Nat.sub_self]

@[simp] theorem bits_pack (l : List Field) (lo len : Nat) : bits (pack l) lo len = slice l lo len := by
  induction l generalizing lo len with
  | nil => simp [pack, bits]
  | cons f r ih =>
    rw [slice]
    split
    · next h => rw [bits_pack_above r len h, ih]
    · next h =>
      split
      · next h' => exact bits_pack_within r h'
      · next h' => rw [bits_pack_across f r h h', ih]

theorem bits_pack_eq (l : List Field) (lo len c : Nat) : bits (pack l) lo len = c ↔ Shows l lo len c := by
  induction l generalizing lo len c with
  | nil => simp [pack, bits, eq_comm]
  | cons f r ih =>
    rw [Shows]
    split
    · next h => rw [bits_pack_above r len h, ih]
    · next h =>
      split
      · next h' => rw [bits_pack_within r h']
      · next h' =>
        rw [bits_pack_across f r h h', add_two_pow_mul_eq_iff (Field.part_eq f .. ▸ bits_lt ..), ih]

/-! ## An encoding's sum as fields, from the highest term down -/

/-- A constant whose low bits are 0 fills the gap between the fields above it and the one below. -/
@[simp] theorem put_pack_add_const_put (l : List Field) {lo n c : Nat} (v : BitVec n) (j : Nat) (h : c % 2 ^ (j + n) = 0)
    (h' : j + n ≤ lo) (hc : c < 2 ^ lo) :
    put (pack l) lo + c + put v.toNat j = put (pack (⟨n, v⟩ :: .ofNat (lo - (j + n)) (c / 2 ^ (j + n)) :: l)) j := by
  obtain ⟨m, rfl⟩ := Nat.exists_eq_add_of_le h'
  obtain ⟨q, rfl⟩ := Nat.dvd_of_mod_eq_zero h
  have hq : q < 2 ^ m := Nat.lt_of_mul_lt_mul_left (Nat.pow_add 2 (j + n) m ▸ hc)
  rw [Nat.mul_div_cancel_left _ (Nat.two_pow_pos _), Nat.add_sub_cancel_left]
  simp only [put, pack, Field.ofNat, BitVec.toNat_ofNat, Nat.mod_eq_of_lt hq, Nat.pow_add]
  ring

@[simp] theorem put_pack_add_put (l : List Field) {lo n : Nat} (v : BitVec n) (j : Nat) (h : j + n ≤ lo) :
    put (pack l) lo + put v.toNat j = put (pack (⟨n, v⟩ :: .ofNat (lo - (j + n)) 0 :: l)) j := by
  simpa only [Nat.add_zero, Nat.zero_div] using put_pack_add_const_put l v j (Nat.zero_mod _) h (Nat.two_pow_pos lo)

theorem put_zero (x : Nat) : put x 0 = x := by rw [put, pow_zero, Nat.mul_one]

@[simp] theorem put_pack_add_const_toNat (l : List Field) {lo n c : Nat} (v : BitVec n) (h : c % 2 ^ n = 0) (h' : n ≤ lo)
    (hc : c < 2 ^ lo) : put (pack l) lo + c + v.toNat = pack (⟨n, v⟩ :: .ofNat (lo - n) (c / 2 ^ n) :: l) := by
  simpa only [put_zero, Nat.zero_add] using
    put_pack_add_const_put l v 0 (by rwa [Nat.zero_add]) (by rwa [Nat.zero_add]) hc

@[simp] theorem put_pack_add_toNat (l : List Field) {lo n : Nat} (v : BitVec n) (h : n ≤ lo) :
    put (pack l) lo + v.toNat = pack (⟨n, v⟩ :: .ofNat (lo - n) 0 :: l) := by
  simpa only [Nat.add_zero, Nat.zero_div] using put_pack_add_const_toNat l v (Nat.zero_mod _) h (Nat.two_pow_pos lo)

theorem put_pack_add_const (l : List Field) {k c : Nat} (h : c < 2 ^ k) : put (pack l) k + c = pack (.ofNat k c :: l) := by
  rw [put, pack, Field.ofNat, BitVec.toNat_ofNat, Nat.mod_eq_of_lt h, Nat.mul_comm, Nat.add_comm]

end Sys2Proof.Encoding
end

section
/-! Proofs. Every word that the encoder makes is read back by its row of the opcode map (R252 to R254, R257; O59). -/

namespace Sys2Proof.Encoding

/-! ## Words that a map reads -/

/-- A word of `n` bits whose bit 15 is `b` (R213) and in which a map finds the instruction. -/
structure Holds (n b : Nat) (row : Nat → Option Instr) (i : Instr) (w : Nat) : Prop where
  lt : w < 2 ^ n
  bit15 : bits w 15 1 = b
  found : row w = some i

section
variable {n b : Nat} {row : Nat → Option Instr} {i : Instr} {l : List Field}

@[simp] theorem holds_pack (h : span l = n) :
    Holds n b row i (pack l) ↔ Shows l 15 1 b ∧ row (pack l) = some i :=
  ⟨fun ⟨_, hb, hf⟩ => ⟨(bits_pack_eq ..).mp hb, hf⟩, fun ⟨hb, hf⟩ => ⟨h ▸ pack_lt l, (bits_pack_eq ..).mpr hb, hf⟩⟩

/-- A sum that ends with a constant has been read to its end. -/
@[simp] theorem holds_put_pack_add {k c : Nat} (h : c < 2 ^ k) :
    Holds n b row i (put (pack l) k + c) ↔ Holds n b row i (pack (.ofNat k c :: l)) := by rw [put_pack_add_const l h]

@[simp] theorem holds_put_pack {k : Nat} : Holds n b row i (put (pack l) k) ↔ Holds n b row i (pack (.ofNat k 0 :: l)) :=
  holds_put_pack_add (Nat.two_pow_pos k)

end

/-- An instruction whose encoding, a word with no field read yet above it, is found by the map of its length. -/
inductive ReadsBack (i : Instr) : Prop
  | long {w : Nat} (e : encode i = some (32, w)) (h : Holds 32 1 decMaj i (put (pack []) 32 + w))
  | short {w : Nat} (e : encode i = some (16, w)) (h : Holds 16 0 decOp5 i (put (pack []) 16 + w))

theorem put_pack_nil (n w : Nat) : put (pack []) n + w = w := by rw [put, pack, Nat.zero_mul, Nat.zero_add]

theorem bytesToNat_natToBytes (n x : Nat) : bytesToNat (natToBytes n x) = x % 256 ^ n := by
  induction n generalizing x with
  | zero => rw [pow_zero, Nat.mod_one]; rfl
  | succ n ih =>
    rw [natToBytes, bytesToNat, ih, BitVec.toNat_ofNat]
    exact Nat.mod_mul.symm.trans (congrArg (x % ·) Nat.pow_succ'.symm)

theorem decodeBytes_natToBytes {x : Nat} (h : x < 2 ^ 32) : decodeBytes (natToBytes 4 x) = decodeBits x := by
  rw [decodeBytes, List.take_of_length_le (by rfl), bytesToNat_natToBytes]
  exact congrArg decodeBits (Nat.mod_eq_of_lt h)

theorem Holds.decode_long {i : Instr} {w : Nat} (h : Holds 32 1 decMaj i w) (hw : i.wellFormed = true) :
    decodeTableWord 32 w = some i := by
  obtain ⟨hlt, hb, hf⟩ := h
  have hd : decode32 w = some i := by rw [decode32, if_pos hb, hf, keepWellFormed, if_pos hw]
  rw [decodeTableWord, bits_of_lt hlt, decodeBytes_natToBytes hlt, decodeBits, hb, bits_of_lt hlt, hd]
  rfl

theorem Holds.decode_short {i : Instr} {w : Nat} (h : Holds 16 0 decOp5 i w) (hw : i.wellFormed = true) :
    decodeTableWord 16 w = some i := by
  obtain ⟨hlt, hb, hf⟩ := h
  have hd : decode16 w = some i := by rw [decode16, if_pos hb, hf, keepWellFormed, if_pos hw]
  rw [decodeTableWord, bits_of_lt hlt, decodeBytes_natToBytes (hlt.trans (by decide)), decodeBits, if_pos hb, bits_of_lt hlt, hd]
  rfl

theorem ReadsBack.decode {i : Instr} {n w : Nat} (h : ReadsBack i) (hw : i.wellFormed = true) (e : encode i = some (n, w)) :
    decodeTableWord n w = some i := by
  cases h with
  | long e' h =>
    obtain ⟨rfl, rfl⟩ := Prod.mk.inj (Option.some.inj (e.symm.trans e'))
    exact (put_pack_nil 32 w ▸ h).decode_long hw
  | short e' h =>
    obtain ⟨rfl, rfl⟩ := Prod.mk.inj (Option.some.inj (e.symm.trans e'))
    exact (put_pack_nil 16 w ▸ h).decode_short hw

/-! ## The rows of the maps, by major opcode: the encoding's sum is read as fields, and of the rows of its major only its own shows in
them -/

/-- Major 0x00: integer operations on two registers (R252). -/
theorem readsBack_integer (d a b : BitVec 6) (w : BitVec 1) :
    ∀ x ∈ [Instr.add d a b w, .sub d a b w, .and d a b w, .or d a b w, .xor d a b w, .andn d a b w, .shl d a b w, .shr d a b w,
      .sar d a b w, .rol d a b w, .min d a b w, .max d a b w, .minu d a b w, .maxu d a b w, .slt d a b w,
      .sltu d a b w], ReadsBack x := by
  refine List.forall_iff_forall_mem.mp ?_
  and_intros
  all_goals exact .long rfl (by simp [← Nat.add_assoc, ↓bits_pack_eq, decMaj, decMaj00])

/-- Major 0x01: products, quotients, counts and bit shuffles (R252). -/
theorem readsBack_product (d a b : BitVec 6) (w : BitVec 1) :
    ∀ x ∈ [Instr.mul d a b w, .mulh d a b w, .mulhu d a b w, .mulhsu d a b w, .div d a b w, .divu d a b w, .rem d a b w,
      .remu d a b w, .clz d a w, .ctz d a w, .popc d a w, .brev d a w, .bswap d a w, .ilv2 d a b,
      .ilv3 d a b], ReadsBack x := by
  refine List.forall_iff_forall_mem.mp ?_
  and_intros
  all_goals exact .long rfl (by simp [← Nat.add_assoc, ↓bits_pack_eq, decMaj, decMaj01])

/-- Majors 0x02 to 0x0C: integer operations on an immediate (R252). -/
theorem readsBack_immediate (d a s : BitVec 6) (imm : BitVec 12) (imm18 : BitVec 18) :
    ∀ x ∈ [Instr.addi d a imm, .andi d a imm, .ori d a imm, .xori d a imm, .shli d a s, .shri d a s, .sari d a s,
      .slti d a imm, .sltui d a imm, .lui d imm18, .auipc d imm18], ReadsBack x := by
  refine List.forall_iff_forall_mem.mp ?_
  and_intros
  all_goals exact .long rfl (by simp [← Nat.add_assoc, ↓bits_pack_eq, bits_toNat, decMaj, decMaj02, decMaj03, decMaj04,
    decMaj05, decMaj06, decMaj07, decMaj08, decMaj09, decMaj0A, decMaj0B, decMaj0C])

/-- Majors 0x10 to 0x1A: branches, jumps and REP (R252). -/
theorem readsBack_control (a b d : BitVec 6) (off imm : BitVec 12) (t : BitVec 2) (off18 : BitVec 18) (n : BitVec 4) (s : BitVec 5) :
    ∀ x ∈ [Instr.beq a b off, .bne a b off, .blt a b off, .bge a b off, .bltu a b off, .bgeu a b off, .btag a off t,
      .dbnz d off, .jal d off18, .jalr d a imm, .rep a n s], ReadsBack x := by
  refine List.forall_iff_forall_mem.mp ?_
  and_intros
  all_goals exact .long rfl (by simp [← Nat.add_assoc, ↓bits_pack_eq, bits_toNat, decMaj, decMaj10, decMaj11, decMaj12,
    decMaj13, decMaj14, decMaj15, decMaj16, decMaj17, decMaj18, decMaj19, decMaj1A])

/-- Majors 0x20 and 0x21: capabilities and tags of registers (R252). -/
theorem readsBack_capability (d a b c f : BitVec 6) :
    ∀ x ∈ [Instr.csetb d a b, .csetbx d a b, .candp d a b, .cseta d a b, .cgetb d a, .cgett d a, .cgetp d a, .ctod d a,
      .gtag d a, .gclr d c, .gmap d f], ReadsBack x := by
  refine List.forall_iff_forall_mem.mp ?_
  and_intros
  all_goals exact .long rfl (by simp [← Nat.add_assoc, ↓bits_pack_eq, decMaj, decMaj20, decMaj21])

/-- Majors 0x28 to 0x2F: loads (R252). -/
theorem readsBack_load (d a : BitVec 6) (imm : BitVec 12) :
    ∀ x ∈ [Instr.ldb d a imm, .ldbu d a imm, .ldh d a imm, .ldhu d a imm, .ldw d a imm, .ldwu d a imm, .ldd d a imm,
      .ldc d a imm], ReadsBack x := by
  refine List.forall_iff_forall_mem.mp ?_
  and_intros
  all_goals exact .long rfl (by simp [← Nat.add_assoc, ↓bits_pack_eq, bits_toNat, decMaj, decMaj28, decMaj29, decMaj2A,
    decMaj2B, decMaj2C, decMaj2D, decMaj2E, decMaj2F])

/-- Majors 0x30 to 0x37: stores, RLD, the indexed forms and DISC (R252). -/
theorem readsBack_store (d a b : BitVec 6) (imm : BitVec 12) (s : BitVec 2) :
    ∀ x ∈ [Instr.stb d a imm, .sth d a imm, .stw d a imm, .std d a imm, .stc d a imm, .rld d a imm, .ldx d a b s, .stx d a b s,
      .disc a b], ReadsBack x := by
  refine List.forall_iff_forall_mem.mp ?_
  and_intros
  all_goals exact .long rfl (by simp [← Nat.add_assoc, ↓bits_pack_eq, bits_toNat, decMaj, decMaj30, decMaj31, decMaj32,
    decMaj33, decMaj34, decMaj35, decMaj36, decMaj37])

/-- Major 0x38: AMOs of 64 bits (R252). -/
theorem readsBack_atomic (d a b : BitVec 6) (q : BitVec 2) :
    ∀ x ∈ [Instr.aadd d a b q, .aand d a b q, .aor d a b q, .axor d a b q, .amin d a b q, .amax d a b q, .aminu d a b q,
      .amaxu d a b q, .aswap d a b q, .acas d a b q], ReadsBack x := by
  refine List.forall_iff_forall_mem.mp ?_
  and_intros
  all_goals exact .long rfl (by simp [← Nat.add_assoc, ↓bits_pack_eq, decMaj, decMaj38])

/-- Major 0x39: AMOs of 32 bits (R252). -/
theorem readsBack_atomicW (d a b : BitVec 6) (q : BitVec 2) :
    ∀ x ∈ [Instr.aaddW d a b q, .aandW d a b q, .aorW d a b q, .axorW d a b q, .aminW d a b q, .amaxW d a b q, .aminuW d a b q,
      .amaxuW d a b q, .aswapW d a b q, .acasW d a b q], ReadsBack x := by
  refine List.forall_iff_forall_mem.mp ?_
  and_intros
  all_goals exact .long rfl (by simp [← Nat.add_assoc, ↓bits_pack_eq, decMaj, decMaj39])

/-- Major 0x3A: REDs (R252). -/
theorem readsBack_reduce (a b : BitVec 6) (w : BitVec 1) :
    ∀ x ∈ [Instr.radd a b w, .rand a b w, .ror a b w, .rxor a b w, .rmin a b w, .rmax a b w, .rminu a b w, .rmaxu a b w,
      .rfadd a b], ReadsBack x := by
  refine List.forall_iff_forall_mem.mp ?_
  and_intros
  all_goals exact .long rfl (by simp [← Nat.add_assoc, ↓bits_pack_eq, decMaj, decMaj3A])

/-- Majors 0x3B to 0x3E: reservations, logs, fences and waits (R252). -/
theorem readsBack_sync (d a b : BitVec 6) (s : BitVec 3) :
    ∀ x ∈ [Instr.lrw d a b, .sch d a b, .relq d a, .loga d a b, .merge a b, .fenceAcq s, .fenceRel s, .fenceAr s, .fenceSc s,
      .waitge a b, .waitne a b], ReadsBack x := by
  refine List.forall_iff_forall_mem.mp ?_
  and_intros
  all_goals exact .long rfl (by simp [← Nat.add_assoc, ↓bits_pack_eq, decMaj, decMaj3B, decMaj3C, decMaj3D, decMaj3E])

/-- Major 0x3F: barriers (R252). -/
theorem readsBack_barrier (a b d : BitVec 6) :
    ∀ x ∈ [Instr.binit a b, .barr d a, .bwait d a b, .baw d a, .bexp a b, .bkill a, .bqry d a], ReadsBack x := by
  refine List.forall_iff_forall_mem.mp ?_
  and_intros
  all_goals exact .long rfl (by simp [← Nat.add_assoc, ↓bits_pack_eq, decMaj, decMaj3F])

/-- Majors 0x40 and 0x41: copies and tags (R252). -/
theorem readsBack_copy (a : BitVec 4) (b d a6 : BitVec 6) (q : BitVec 1) :
    ∀ x ∈ [Instr.copy a b, .copynb d a b, .copyd a b, .copyc a b, .twany d a6 q, .twall d a6 q, .tff d a6 q, .tclr a6,
      .tget d a6], ReadsBack x := by
  refine List.forall_iff_forall_mem.mp ?_
  and_intros
  all_goals exact .long rfl (by simp [← Nat.add_assoc, ↓bits_pack_eq, decMaj, decMaj40, decMaj41])

/-- Majors 0x42 to 0x44: messages, migration and ports (R252). -/
theorem readsBack_message (a d : BitVec 4) (b d6 a6 : BitVec 6) (u : BitVec 1) :
    ∀ x ∈ [Instr.send a b u, .recv d b, .recvnb d b, .inq d6 a6, .migrate a6, .home, .rank d6, .portb a6 b,
      .portq d6 a6], ReadsBack x := by
  refine List.forall_iff_forall_mem.mp ?_
  and_intros
  all_goals exact .long rfl (by simp [← Nat.add_assoc, ↓bits_pack_eq, decMaj, decMaj42, decMaj43, decMaj44])

/-- Major 0x45: tasks (R252). -/
theorem readsBack_task (d a b : BitVec 6) :
    ∀ x ∈ [Instr.launch d a b, .texit, .tyield, .lbnd a], ReadsBack x := by
  refine List.forall_iff_forall_mem.mp ?_
  and_intros
  all_goals exact .long rfl (by simp [← Nat.add_assoc, ↓bits_pack_eq, decMaj, decMaj45])

/-- Major 0x50: integer lanes (R252). -/
theorem readsBack_vecInt (d a b : BitVec 5) (t k : BitVec 2) :
    ∀ x ∈ [Instr.vadd d a b t k, .vsub d a b t k, .vmul d a b t k, .vmin d a b t k, .vmax d a b t k, .vand d a b t k,
      .vor d a b t k, .vxor d a b t k, .vshl d a b t k, .vshr d a b t k, .vsar d a b t k, .vsadd d a b t k, .vssub d a b t k,
      .vabs d a t k], ReadsBack x := by
  refine List.forall_iff_forall_mem.mp ?_
  and_intros
  all_goals exact .long rfl (by simp [← Nat.add_assoc, ↓bits_pack_eq, decMaj, decMaj50])

/-- Major 0x51: float lanes (R252). -/
theorem readsBack_vecFloat (d a b : BitVec 5) (t k : BitVec 2) :
    ∀ x ∈ [Instr.vfadd d a b t k, .vfsub d a b t k, .vfmul d a b t k, .vfdiv d a b t k, .vfmin d a b t k, .vfmax d a b t k,
      .vfabs d a t k, .vfneg d a t k, .vfsqrt d a t k, .vfrcp d a t k, .vfrsq d a t k, .vfexp2 d a t k,
      .vflog2 d a t k], ReadsBack x := by
  refine List.forall_iff_forall_mem.mp ?_
  and_intros
  all_goals exact .long rfl (by simp [← Nat.add_assoc, ↓bits_pack_eq, decMaj, decMaj51])

/-- Major 0x52: fused and four-way products (R252). -/
theorem readsBack_vecFused (d a b : BitVec 5) (t k : BitVec 2) (t1 : BitVec 1) :
    ∀ x ∈ [Instr.vfma d a b t k, .vfms d a b t k, .vfnma d a b t k, .vdot4 d a b t1 k], ReadsBack x := by
  refine List.forall_iff_forall_mem.mp ?_
  and_intros
  all_goals exact .long rfl (by simp [← Nat.add_assoc, ↓bits_pack_eq, decMaj, decMaj52])

/-- Major 0x53: comparisons of lanes (R252). -/
theorem readsBack_vecCompare (d k t2 : BitVec 2) (a b : BitVec 5) (t : BitVec 3) :
    ∀ x ∈ [Instr.vceq d a b t k, .vcne d a b t k, .vclt d a b t k, .vcle d a b t k, .vcltu d a b t2 k,
      .vcleu d a b t2 k], ReadsBack x := by
  refine List.forall_iff_forall_mem.mp ?_
  and_intros
  all_goals exact .long rfl (by simp [← Nat.add_assoc, ↓bits_pack_eq, decMaj, decMaj53])

/-- Majors 0x54 and 0x55: conversions and reductions of lanes (R252). -/
theorem readsBack_vecConvert (d a : BitVec 5) (r : BitVec 1) (f : BitVec 4) (t : BitVec 3) (k t2 : BitVec 2) :
    ∀ x ∈ [Instr.vcvt d a r f t k, .vcvts d a f t2 k, .vrsum d a t k, .vrmin d a t k, .vrmax d a t k], ReadsBack x := by
  refine List.forall_iff_forall_mem.mp ?_
  and_intros
  all_goals exact .long rfl (by simp [← Nat.add_assoc, ↓bits_pack_eq, decMaj, decMaj54, decMaj55])

/-- Major 0x56: permutations of lanes (R252). -/
theorem readsBack_vecPermute (d a b : BitVec 5) (t : BitVec 3) (k : BitVec 2) (sl idx : BitVec 7) :
    ∀ x ∈ [Instr.vperm d a b t k, .vslide d a sl t, .vbcast d a t k, .vext d a idx t, .vins d a idx t,
      .vrot d a sl t], ReadsBack x := by
  refine List.forall_iff_forall_mem.mp ?_
  and_intros
  all_goals exact .long rfl (by simp [← Nat.add_assoc, ↓bits_pack_eq, bits_toNat, decMaj, decMaj56])

/-- Majors 0x57 and 0x58: vector memory and ternary products (R252). -/
theorem readsBack_vecMemory (d a i b s : BitVec 5) (t : BitVec 3) (k t2 : BitVec 2) :
    ∀ x ∈ [Instr.vld d a i t k, .vst d a i t k, .vlds d a b t k, .vsts d a b t k, .vgath d a b t k, .vscat d a b t k,
      .vunpk3 d a s t2 k, .vtacc d a b k], ReadsBack x := by
  refine List.forall_iff_forall_mem.mp ?_
  and_intros
  all_goals exact .long rfl (by simp [← Nat.add_assoc, ↓bits_pack_eq, decMaj, decMaj57, decMaj58])

/-- Major 0x59: selections and masks (R252). -/
theorem readsBack_mask (d a b : BitVec 5) (t : BitVec 3) (k d2 a2 b2 : BitVec 2) :
    ∀ x ∈ [Instr.vsel d a b t k, .kand d2 a2 b2, .kor d2 a2 b2, .kxor d2 a2 b2, .knot d2 a2, .kpop d a2 t], ReadsBack x := by
  refine List.forall_iff_forall_mem.mp ?_
  and_intros
  all_goals exact .long rfl (by simp [← Nat.add_assoc, ↓bits_pack_eq, decMaj, decMaj59])

/-- Major 0x60: the matrix engine (R252). -/
theorem readsBack_matrix (d : BitVec 2) (a b d6 : BitVec 6) (f e : BitVec 1) :
    ∀ x ∈ [Instr.mma d a b, .mzero d f, .mld d a f, .mst d a e, .msave d6 a, .mrst a b, .gang d6, .mpf a], ReadsBack x := by
  refine List.forall_iff_forall_mem.mp ?_
  and_intros
  all_goals exact .long rfl (by simp [← Nat.add_assoc, ↓bits_pack_eq, decMaj, decMaj60])

/-- Major 0x68: sampling, grammars and taps (R252). -/
theorem readsBack_sample (d a b : BitVec 6) :
    ∀ x ∈ [Instr.smax d a b, .smass d a b, .sdraw d b, .sloc d a b, .grmask d a b, .grstep d a b, .tap d a b,
      .tsteer a b], ReadsBack x := by
  refine List.forall_iff_forall_mem.mp ?_
  and_intros
  all_goals exact .long rfl (by simp [← Nat.add_assoc, ↓bits_pack_eq, decMaj, decMaj68])

/-- Majors 0x70 and 0x71: the system instructions (R252). -/
theorem readsBack_system (a d b : BitVec 6) (a4 d4 : BitVec 4) (r n12 : BitVec 12) (n f : BitVec 2) (s : BitVec 3) :
    ∀ x ∈ [Instr.trap a, .eret a4, .srr d r, .srw d r, .srx d r, .oxw a n, .sleep a, .time d, .rqpush d a4, .rqpop d4,
      .rqpeek d, .gsave a b, .grst a b, .ifence s, .tlbi a b f, .brk n12, .silt a b, .lease d a], ReadsBack x := by
  refine List.forall_iff_forall_mem.mp ?_
  and_intros
  all_goals exact .long rfl (by simp [← Nat.add_assoc, ↓bits_pack_eq, decMaj, decMaj70, decMaj71])

/-- R257: the 16-bit map. -/
theorem readsBack_short (d a i off c : BitVec 5) (off10 : BitVec 10) (r : BitVec 3) :
    ∀ x ∈ [Instr.cMov d a, .cAdd d a, .cSub d a, .cAnd d a, .cOr d a, .cXor d a, .cAddi d i, .cLi d i, .cShli d i, .cShri d i,
      .cSari d i, .cLdd d i, .cStd d i, .cLdw d i, .cStw d i, .cBeqz d off, .cBnez d off, .cJ off10, .cJr d, .cRet, .cRecv r,
      .cTff d a, .cTwany d a, .cGclr d c], ReadsBack x := by
  refine List.forall_iff_forall_mem.mp ?_
  and_intros
  all_goals exact .short rfl (by simp [← Nat.add_assoc, ↓bits_pack_eq, decOp5])

/-! ## The statement -/

/-- Every instruction that has an encoding stands in the row of a map. -/
theorem readsBack_of_encode {i : Instr} {n w : Nat} (he : encode i = some (n, w)) : ReadsBack i := by
  cases i with
  | add d a b w | sub d a b w | and d a b w | or d a b w | xor d a b w | andn d a b w | shl d a b w | shr d a b w | sar d a b w
  | rol d a b w | min d a b w | max d a b w | minu d a b w | maxu d a b w | slt d a b w | sltu d a b w =>
    exact readsBack_integer d a b w _ (by simp)
  | mul d a b w | mulh d a b w | mulhu d a b w | mulhsu d a b w | div d a b w | divu d a b w | rem d a b w | remu d a b w =>
    exact readsBack_product d a b w _ (by simp)
  | clz d a w | ctz d a w | popc d a w | brev d a w | bswap d a w => exact readsBack_product d a 0 w _ (by simp)
  | ilv2 d a b | ilv3 d a b => exact readsBack_product d a b 0 _ (by simp)
  | addi d a imm | andi d a imm | ori d a imm | xori d a imm | slti d a imm | sltui d a imm =>
    exact readsBack_immediate d a 0 imm 0 _ (by simp)
  | shli d a s | shri d a s | sari d a s => exact readsBack_immediate d a s 0 0 _ (by simp)
  | lui d imm18 | auipc d imm18 => exact readsBack_immediate d 0 0 0 imm18 _ (by simp)
  | beq a b off | bne a b off | blt a b off | bge a b off | bltu a b off | bgeu a b off =>
    exact readsBack_control a b 0 off 0 0 0 0 0 _ (by simp)
  | btag a off t => exact readsBack_control a 0 0 off 0 t 0 0 0 _ (by simp)
  | dbnz d off => exact readsBack_control 0 0 d off 0 0 0 0 0 _ (by simp)
  | jal d off18 => exact readsBack_control 0 0 d 0 0 0 off18 0 0 _ (by simp)
  | jalr d a imm => exact readsBack_control a 0 d 0 imm 0 0 0 0 _ (by simp)
  | rep a n s => exact readsBack_control a 0 0 0 0 0 0 n s _ (by simp)
  | csetb d a b | csetbx d a b | candp d a b | cseta d a b => exact readsBack_capability d a b 0 0 _ (by simp)
  | cgetb d a | cgett d a | cgetp d a | ctod d a | gtag d a => exact readsBack_capability d a 0 0 0 _ (by simp)
  | gclr d c => exact readsBack_capability d 0 0 c 0 _ (by simp)
  | gmap d f => exact readsBack_capability d 0 0 0 f _ (by simp)
  | ldb d a imm | ldbu d a imm | ldh d a imm | ldhu d a imm | ldw d a imm | ldwu d a imm | ldd d a imm | ldc d a imm =>
    exact readsBack_load d a imm _ (by simp)
  | stb d a imm | sth d a imm | stw d a imm | std d a imm | stc d a imm | rld d a imm =>
    exact readsBack_store d a 0 imm 0 _ (by simp)
  | ldx d a b s | stx d a b s => exact readsBack_store d a b 0 s _ (by simp)
  | disc a b => exact readsBack_store 0 a b 0 0 _ (by simp)
  | aadd d a b q | aand d a b q | aor d a b q | axor d a b q | amin d a b q | amax d a b q | aminu d a b q | amaxu d a b q
  | aswap d a b q | acas d a b q => exact readsBack_atomic d a b q _ (by simp)
  | aaddW d a b q | aandW d a b q | aorW d a b q | axorW d a b q | aminW d a b q | amaxW d a b q | aminuW d a b q
  | amaxuW d a b q | aswapW d a b q | acasW d a b q => exact readsBack_atomicW d a b q _ (by simp)
  | radd a b w | rand a b w | ror a b w | rxor a b w | rmin a b w | rmax a b w | rminu a b w | rmaxu a b w =>
    exact readsBack_reduce a b w _ (by simp)
  | rfadd a b => exact readsBack_reduce a b 0 _ (by simp)
  | lrw d a b | sch d a b | loga d a b => exact readsBack_sync d a b 0 _ (by simp)
  | relq d a => exact readsBack_sync d a 0 0 _ (by simp)
  | merge a b | waitge a b | waitne a b => exact readsBack_sync 0 a b 0 _ (by simp)
  | fenceAcq s | fenceRel s | fenceAr s | fenceSc s => exact readsBack_sync 0 0 0 s _ (by simp)
  | binit a b | bexp a b => exact readsBack_barrier a b 0 _ (by simp)
  | barr d a | baw d a | bqry d a => exact readsBack_barrier a 0 d _ (by simp)
  | bwait d a b => exact readsBack_barrier a b d _ (by simp)
  | bkill a => exact readsBack_barrier a 0 0 _ (by simp)
  | copy a b | copyd a b | copyc a b => exact readsBack_copy a b 0 0 0 _ (by simp)
  | copynb d a b => exact readsBack_copy a b d 0 0 _ (by simp)
  | twany d a6 q | twall d a6 q | tff d a6 q => exact readsBack_copy 0 0 d a6 q _ (by simp)
  | tclr a6 => exact readsBack_copy 0 0 0 a6 0 _ (by simp)
  | tget d a6 => exact readsBack_copy 0 0 d a6 0 _ (by simp)
  | send a b u => exact readsBack_message a 0 b 0 0 u _ (by simp)
  | recv d b | recvnb d b => exact readsBack_message 0 d b 0 0 0 _ (by simp)
  | inq d6 a6 | portq d6 a6 => exact readsBack_message 0 0 0 d6 a6 0 _ (by simp)
  | migrate a6 => exact readsBack_message 0 0 0 0 a6 0 _ (by simp)
  | home => exact readsBack_message 0 0 0 0 0 0 _ (by simp)
  | rank d6 => exact readsBack_message 0 0 0 d6 0 0 _ (by simp)
  | portb a6 b => exact readsBack_message 0 0 b 0 a6 0 _ (by simp)
  | launch d a b => exact readsBack_task d a b _ (by simp)
  | texit | tyield => exact readsBack_task 0 0 0 _ (by simp)
  | lbnd a => exact readsBack_task 0 a 0 _ (by simp)
  | vadd d a b t k | vsub d a b t k | vmul d a b t k | vmin d a b t k | vmax d a b t k | vand d a b t k | vor d a b t k
  | vxor d a b t k | vshl d a b t k | vshr d a b t k | vsar d a b t k | vsadd d a b t k | vssub d a b t k =>
    exact readsBack_vecInt d a b t k _ (by simp)
  | vabs d a t k => exact readsBack_vecInt d a 0 t k _ (by simp)
  | vfadd d a b t k | vfsub d a b t k | vfmul d a b t k | vfdiv d a b t k | vfmin d a b t k | vfmax d a b t k =>
    exact readsBack_vecFloat d a b t k _ (by simp)
  | vfabs d a t k | vfneg d a t k | vfsqrt d a t k | vfrcp d a t k | vfrsq d a t k | vfexp2 d a t k | vflog2 d a t k =>
    exact readsBack_vecFloat d a 0 t k _ (by simp)
  | vfma d a b t k | vfms d a b t k | vfnma d a b t k => exact readsBack_vecFused d a b t k 0 _ (by simp)
  | vdot4 d a b t1 k => exact readsBack_vecFused d a b 0 k t1 _ (by simp)
  | vceq d a b t k | vcne d a b t k | vclt d a b t k | vcle d a b t k => exact readsBack_vecCompare d k 0 a b t _ (by simp)
  | vcltu d a b t2 k | vcleu d a b t2 k => exact readsBack_vecCompare d k t2 a b 0 _ (by simp)
  | vcvt d a r f t k => exact readsBack_vecConvert d a r f t k 0 _ (by simp)
  | vcvts d a f t2 k => exact readsBack_vecConvert d a 0 f 0 k t2 _ (by simp)
  | vrsum d a t k | vrmin d a t k | vrmax d a t k => exact readsBack_vecConvert d a 0 0 t k 0 _ (by simp)
  | vperm d a b t k => exact readsBack_vecPermute d a b t k 0 0 _ (by simp)
  | vslide d a sl t | vrot d a sl t => exact readsBack_vecPermute d a 0 t 0 sl 0 _ (by simp)
  | vbcast d a t k => exact readsBack_vecPermute d a 0 t k 0 0 _ (by simp)
  | vext d a idx t | vins d a idx t => exact readsBack_vecPermute d a 0 t 0 0 idx _ (by simp)
  | vld d a i t k | vst d a i t k => exact readsBack_vecMemory d a i 0 0 t k 0 _ (by simp)
  | vlds d a b t k | vsts d a b t k | vgath d a b t k | vscat d a b t k => exact readsBack_vecMemory d a 0 b 0 t k 0 _ (by simp)
  | vunpk3 d a s t2 k => exact readsBack_vecMemory d a 0 0 s 0 k t2 _ (by simp)
  | vtacc d a b k => exact readsBack_vecMemory d a 0 b 0 0 k 0 _ (by simp)
  | vsel d a b t k => exact readsBack_mask d a b t k 0 0 0 _ (by simp)
  | kand d2 a2 b2 | kor d2 a2 b2 | kxor d2 a2 b2 => exact readsBack_mask 0 0 0 0 0 d2 a2 b2 _ (by simp)
  | knot d2 a2 => exact readsBack_mask 0 0 0 0 0 d2 a2 0 _ (by simp)
  | kpop d a2 t => exact readsBack_mask d 0 0 t 0 0 a2 0 _ (by simp)
  | mma d a b => exact readsBack_matrix d a b 0 0 0 _ (by simp)
  | mzero d f => exact readsBack_matrix d 0 0 0 f 0 _ (by simp)
  | mld d a f => exact readsBack_matrix d a 0 0 f 0 _ (by simp)
  | mst d a e => exact readsBack_matrix d a 0 0 0 e _ (by simp)
  | msave d6 a => exact readsBack_matrix 0 a 0 d6 0 0 _ (by simp)
  | mrst a b => exact readsBack_matrix 0 a b 0 0 0 _ (by simp)
  | gang d6 => exact readsBack_matrix 0 0 0 d6 0 0 _ (by simp)
  | mpf a => exact readsBack_matrix 0 a 0 0 0 0 _ (by simp)
  | smax d a b | smass d a b | sloc d a b | grmask d a b | grstep d a b | tap d a b => exact readsBack_sample d a b _ (by simp)
  | sdraw d b => exact readsBack_sample d 0 b _ (by simp)
  | tsteer a b => exact readsBack_sample 0 a b _ (by simp)
  | trap a | sleep a => exact readsBack_system a 0 0 0 0 0 0 0 0 0 _ (by simp)
  | eret a4 => exact readsBack_system 0 0 0 a4 0 0 0 0 0 0 _ (by simp)
  | srr d r | srw d r | srx d r => exact readsBack_system 0 d 0 0 0 r 0 0 0 0 _ (by simp)
  | oxw a n => exact readsBack_system a 0 0 0 0 0 0 n 0 0 _ (by simp)
  | time d | rqpeek d => exact readsBack_system 0 d 0 0 0 0 0 0 0 0 _ (by simp)
  | rqpush d a4 => exact readsBack_system 0 d 0 a4 0 0 0 0 0 0 _ (by simp)
  | rqpop d4 => exact readsBack_system 0 0 0 0 d4 0 0 0 0 0 _ (by simp)
  | gsave a b | grst a b | silt a b => exact readsBack_system a 0 b 0 0 0 0 0 0 0 _ (by simp)
  | ifence s => exact readsBack_system 0 0 0 0 0 0 0 0 0 s _ (by simp)
  | tlbi a b f => exact readsBack_system a 0 b 0 0 0 0 0 f 0 _ (by simp)
  | brk n12 => exact readsBack_system 0 0 0 0 0 0 n12 0 0 0 _ (by simp)
  | lease d a => exact readsBack_system a d 0 0 0 0 0 0 0 0 _ (by simp)
  | cMov d a | cAdd d a | cSub d a | cAnd d a | cOr d a | cXor d a | cTff d a | cTwany d a =>
    exact readsBack_short d a 0 0 0 0 0 _ (by simp)
  | cAddi d i | cLi d i | cShli d i | cShri d i | cSari d i | cLdd d i | cStd d i | cLdw d i | cStw d i =>
    exact readsBack_short d 0 i 0 0 0 0 _ (by simp)
  | cBeqz d off | cBnez d off => exact readsBack_short d 0 0 off 0 0 0 _ (by simp)
  | cJ off10 => exact readsBack_short 0 0 0 0 0 off10 0 _ (by simp)
  | cJr d => exact readsBack_short d 0 0 0 0 0 0 _ (by simp)
  | cRet => exact readsBack_short 0 0 0 0 0 0 0 _ (by simp)
  | cRecv r => exact readsBack_short 0 0 0 0 0 0 r _ (by simp)
  | cGclr d c => exact readsBack_short d 0 0 0 c 0 0 _ (by simp)
  | _ => cases he

/-- Settles O59: the word of an encoding is its fields side by side, the map of its length finds the instruction in them, and a
well-formed instruction is kept. -/
theorem decodeEncode : Obligations.DecodeEncode := fun _ _ _ hw e => (readsBack_of_encode e).decode hw e

end Sys2Proof.Encoding
end

section
/-! Proofs. What an instruction's pops and writes leave alone (R202, R208; O55), and the fixed registers (R204; O54). -/

namespace Sys2Proof.Machine

/-! ## Cores and their ports -/

/-- A core with its ports replaced. -/
def Core.withPorts (c : Core) (ps : Vector Port 10) : Core := { c with ports := ps }

@[simp] theorem berth_withPorts (c : Core) (ps : Vector Port 10) (i : Nat) : (c.withPorts ps).berth i = c.berth i := by
  match i with
  | 0 | 1 | 2 | _ + 3 => rfl

@[simp] theorem setBerth_withPorts (c : Core) (ps : Vector Port 10) (i : Nat) (b : Berth) :
    (c.withPorts ps).setBerth i b = (c.setBerth i b).withPorts ps := by
  match i with
  | 0 | 1 | 2 | _ + 3 => rfl

@[simp] theorem withPorts_withPorts (c : Core) (ps qs : Vector Port 10) : (c.withPorts ps).withPorts qs = c.withPorts qs := rfl

@[simp] theorem setBerth_setBerth (c : Core) (i : Nat) (a b : Berth) : (c.setBerth i a).setBerth i b = c.setBerth i b := by
  match i with
  | 0 | 1 | 2 | _ + 3 => rfl

@[simp] theorem setBerth_berth (c : Core) (i : Nat) : c.setBerth i (c.berth i) = c := by
  match i with
  | 0 | 1 | 2 | _ + 3 => rfl

@[simp] theorem port_setBerth (c : Core) (i : Nat) (b : Berth) (p : Nat) : (c.setBerth i b).port p = c.port p := by
  match i with
  | 0 | 1 | 2 | _ + 3 => rfl

theorem setPort_withPorts (c : Core) (p : Nat) (x : Port) : ∃ ps, c.setPort p x = c.withPorts ps := by
  unfold Core.setPort
  split
  · exact ⟨_, rfl⟩
  · exact ⟨c.ports, rfl⟩

theorem port_setPort_other (c : Core) {p q : Nat} (x : Port) (h : q ≠ p) : (c.setPort p x).port q = c.port q := by
  unfold Core.setPort
  split
  · next hp =>
    unfold Core.port
    split
    · exact Vector.getElem_set_ne hp _ h.symm
    · rfl
  · rfl

theorem foldl_popPort_withPorts (l : List Nat) (c : Core) : ∃ ps, l.foldl Core.popPort c = c.withPorts ps := by
  refine List.foldlRecOn (motive := fun d => ∃ ps, d = c.withPorts ps) l _ ⟨c.ports, rfl⟩ ?_
  rintro _ ⟨ps, rfl⟩ p -
  exact setPort_withPorts ..

theorem port_foldl_popPort {p : Nat} {l : List Nat} (h : p ∉ l) (c : Core) : (l.foldl Core.popPort c).port p = c.port p :=
  List.foldlRecOn (motive := fun d => d.port p = c.port p) l _ rfl fun d hd _ hq =>
    (port_setPort_other d _ (ne_of_mem_of_not_mem hq h).symm).trans hd

/-! ## The frame of pops and writes -/

/-- A berth with the register files of another. -/
def Berth.withFiles (b c : Berth) : Berth := { b with g := c.g, v := c.v, k := c.k }

/-- Only ports of the executing core have been popped and pushed, and registers of the executing berth written. -/
structure State.Operated (s t : State) : Prop where
  part : t = { s with cores := t.cores, agenda := t.agenda }
  others : ∀ n, n ≠ s.cur → t.core n = s.core n
  here : ∃ ps, t.here = (s.here.setBerth s.cb t.me).withPorts ps
  me : t.me = s.me.withFiles t.me

theorem State.Operated.refl (s : State) : s.Operated s :=
  ⟨rfl, fun _ _ => rfl, ⟨s.here.ports, ((setBerth_withPorts ..).symm.trans (setBerth_berth s.here s.cb)).symm⟩, rfl⟩

theorem State.Operated.cur {s t : State} (h : s.Operated t) : t.cur = s.cur := by rw [h.part]

theorem State.Operated.cb {s t : State} (h : s.Operated t) : t.cb = s.cb := by rw [h.part]

theorem State.Operated.trans {s t u : State} (h : s.Operated t) (k : t.Operated u) : s.Operated u where
  part := k.part.trans (by rw [h.part])
  others n hn := (k.others n (h.cur ▸ hn)).trans (h.others n hn)
  here := by
    obtain ⟨ps, hh⟩ := h.here
    obtain ⟨qs, hk⟩ := k.here
    exact ⟨qs, hk.trans (by rw [hh, h.cb]; simp)⟩
  me := k.me.trans (by rw [h.me]; rfl)

@[simp] theorem me_setHere_withPorts (s : State) (ps : Vector Port 10) : (s.setHere (s.here.withPorts ps)).me = s.me := by
  simp [State.me]

theorem operated_setHere_withPorts (s : State) (ps : Vector Port 10) : s.Operated (s.setHere (s.here.withPorts ps)) := by
  refine ⟨rfl, fun _ => core_setHere_other s _, ⟨ps, ?_⟩, ?_⟩
  · rw [me_setHere_withPorts, here_setHere, State.me, setBerth_berth]
  · rw [me_setHere_withPorts]; rfl

theorem operated_later (s : State) (e : Event) : s.Operated (s.later e) :=
  ⟨rfl, fun _ _ => rfl, (State.Operated.refl s).here, rfl⟩

theorem operated_setMe (s : State) {b : Berth} (h : b = s.me.withFiles b) : s.Operated (s.setMe b) := by
  refine ⟨rfl, fun _ => core_setMe_other s _, ⟨(s.here.setBerth s.cb b).ports, ?_⟩, ?_⟩
  · rw [here_setMe, me_setMe]; rfl
  · rw [me_setMe]; exact h

theorem setG_withFiles (b : Berth) (n : BitVec 6) (r : GReg) : b.setG n r = b.withFiles (b.setG n r) := by
  unfold Berth.setG
  split <;> rfl

theorem setK_withFiles (b : Berth) (n : BitVec 2) (x : Word) : b.setK n x = b.withFiles (b.setK n x) := by
  unfold Berth.setK
  split <;> rfl

/-! ## Ports -/

theorem pushPort_cases (s : State) (p : Nat) (x : Val) :
    s.pushPort p x = s ∨ ∃ y e, s.pushPort p x = (s.setHere (s.here.setPort p y)).later e := by
  unfold State.pushPort
  split
  · exact .inl rfl
  · exact .inr ⟨_, _, rfl⟩

theorem operated_setHere_setPort (s : State) (p : Nat) (x : Port) :
    s.Operated (s.setHere (s.here.setPort p x)) ∧ (s.setHere (s.here.setPort p x)).me = s.me := by
  obtain ⟨ps, hps⟩ := setPort_withPorts s.here p x
  rw [hps]
  exact ⟨operated_setHere_withPorts s ps, me_setHere_withPorts s ps⟩

theorem operated_pushPort (s : State) (p : Nat) (x : Val) : s.Operated (s.pushPort p x) := by
  obtain h | ⟨y, e, h⟩ := pushPort_cases s p x
  · rw [h]; exact .refl s
  · rw [h]; exact (operated_setHere_setPort s p y).1.trans (operated_later _ e)

theorem me_pushPort (s : State) (p : Nat) (x : Val) : (s.pushPort p x).me = s.me := by
  obtain h | ⟨y, e, h⟩ := pushPort_cases s p x
  · rw [h]
  · rw [h]; exact (operated_setHere_setPort s p y).2

theorem port_pushPort (s : State) {p q : Nat} (x : Val) (hq : q ≠ p) : (s.pushPort p x).here.port q = s.here.port q := by
  obtain h | ⟨y, e, h⟩ := pushPort_cases s p x
  · rw [h]
  · rw [h]
    show (s.setHere (s.here.setPort p y)).here.port q = _
    rw [here_setHere, port_setPort_other _ _ hq]

/-! ## Destinations -/

theorem operated_writeDst (s : State) (d : Dst) (x : Val) : s.Operated (s.writeDst d x) := by
  unfold State.writeDst
  split
  · exact operated_pushPort ..
  · match d with
    | .g n => exact operated_setMe s (setG_withFiles ..)
    | .v n => exact operated_setMe s rfl
    | .k n => exact operated_setMe s (setK_withFiles ..)

theorem getG_writeDst {s : State} {d : Dst} {r : BitVec 6} (x : Val) (h : .g r ≠ d) :
    (s.writeDst d x).me.getG r = s.me.getG r := by
  unfold State.writeDst
  split
  · rw [me_pushPort]
  · match d with
    | .g n => rw [me_setMe]; exact getG_setG_other _ _ fun e => h (congrArg _ e)
    | .v n => rw [me_setMe]; rfl
    | .k n => rw [me_setMe]; simp [Berth.getG]

theorem getV_writeDst {s : State} {d : Dst} {r : BitVec 5} (x : Val) (h : .v r ≠ d) :
    (s.writeDst d x).me.getV r = s.me.getV r := by
  unfold State.writeDst
  split
  · rw [me_pushPort]
  · match d with
    | .g n => rw [me_setMe]; simp [Berth.getV]
    | .v n => rw [me_setMe]; exact getV_setV_other _ _ fun e => h (congrArg _ e)
    | .k n => rw [me_setMe]; simp [Berth.getV]

theorem getK_writeDst {s : State} {d : Dst} {r : BitVec 2} (x : Val) (h : .k r ≠ d) :
    (s.writeDst d x).me.getK r = s.me.getK r := by
  unfold State.writeDst
  split
  · rw [me_pushPort]
  · match d with
    | .g n => rw [me_setMe]; simp [Berth.getK]
    | .v n => rw [me_setMe]; rfl
    | .k n => rw [me_setMe]; exact getK_setK_other _ _ fun e => h (congrArg _ e)

theorem port_writeDst {s : State} {d : Dst} {p : Nat} (x : Val) (h : d.port ≠ some p) :
    (s.writeDst d x).here.port p = s.here.port p := by
  unfold State.writeDst
  split
  · next q hq => exact port_pushPort s x fun e => h (e ▸ hq)
  · match d with
    | .g n | .v n | .k n => rw [here_setMe, port_setBerth]

/-- What every write of one destination keeps, the writes of several keep. -/
theorem writeDsts_induction {P : State → State → Prop} {Q : Dst → Prop} (refl : ∀ s, P s s)
    (trans : ∀ {s t u}, P s t → P t u → P s u) (one : ∀ s d x, Q d → P s (s.writeDst d x)) :
    ∀ (ds : List Dst) (xs : List Val) (s : State), (∀ d ∈ ds, Q d) → P s (s.writeDsts ds xs)
  | [], _, s, _ => refl s
  | _ :: _, [], s, _ => refl s
  | d :: ds, x :: xs, s, h => trans (one s d x (h d List.mem_cons_self))
      (writeDsts_induction refl trans one ds xs _ fun e he => h e (List.mem_cons_of_mem _ he))

theorem writeDsts_keeps {α : Type} {f : State → α} {Q : Dst → Prop} (one : ∀ s d x, Q d → f (s.writeDst d x) = f s)
    {ds : List Dst} (h : ∀ d ∈ ds, Q d) (xs : List Val) (s : State) : f (s.writeDsts ds xs) = f s :=
  writeDsts_induction (P := fun s t => f t = f s) (fun _ => rfl) (fun a b => b.trans a) one ds xs s h

/-! ## Instructions -/

/-- The state in which an instruction's sources have been popped. -/
def State.popped (s : State) (srcs : List Src) : State :=
  if (popList srcs).isEmpty then s else s.setHere ((popList srcs).foldl Core.popPort s.here)

theorem commit_eq (s : State) (srcs : List Src) (dsts : List Dst) (rs : List Val) :
    s.commit srcs dsts rs = (s.popped srcs).writeDsts dsts rs := rfl

theorem operated_popped (s : State) (srcs : List Src) : s.Operated (s.popped srcs) ∧ (s.popped srcs).me = s.me := by
  unfold State.popped
  split
  · exact ⟨.refl s, rfl⟩
  · obtain ⟨ps, hps⟩ := foldl_popPort_withPorts (popList srcs) s.here
    rw [hps]
    exact ⟨operated_setHere_withPorts s ps, me_setHere_withPorts s ps⟩

theorem port_popped {s : State} {srcs : List Src} {p : Nat} (h : p ∉ popList srcs) :
    (s.popped srcs).here.port p = s.here.port p := by
  unfold State.popped
  split
  · rfl
  · rw [here_setHere, port_foldl_popPort h]

theorem operated_commit (s : State) (srcs : List Src) (dsts : List Dst) (rs : List Val) : s.Operated (s.commit srcs dsts rs) :=
  (operated_popped s srcs).1.trans (writeDsts_induction (Q := fun _ => True) State.Operated.refl
    State.Operated.trans (fun s d x _ => operated_writeDst s d x) dsts rs _ fun _ _ => trivial)

section
variable (s : State) (srcs : List Src) {dsts : List Dst} (rs : List Val)

theorem getG_commit {r : BitVec 6} (h : .g r ∉ dsts) : (s.commit srcs dsts rs).me.getG r = s.me.getG r :=
  (writeDsts_keeps (f := fun t => t.me.getG r) (fun _ _ x hd => getG_writeDst x hd)
    (fun _ hd => (ne_of_mem_of_not_mem hd h).symm) rs _).trans (congrArg (·.getG r) (operated_popped s srcs).2)

theorem getV_commit {r : BitVec 5} (h : .v r ∉ dsts) : (s.commit srcs dsts rs).me.getV r = s.me.getV r :=
  (writeDsts_keeps (f := fun t => t.me.getV r) (fun _ _ x hd => getV_writeDst x hd)
    (fun _ hd => (ne_of_mem_of_not_mem hd h).symm) rs _).trans (congrArg (·.getV r) (operated_popped s srcs).2)

theorem getK_commit {r : BitVec 2} (h : .k r ∉ dsts) : (s.commit srcs dsts rs).me.getK r = s.me.getK r :=
  (writeDsts_keeps (f := fun t => t.me.getK r) (fun _ _ x hd => getK_writeDst x hd)
    (fun _ hd => (ne_of_mem_of_not_mem hd h).symm) rs _).trans (congrArg (·.getK r) (operated_popped s srcs).2)

theorem port_commit {p : Nat} (h : p ∉ popList srcs) (h' : p ∉ pushList dsts) :
    (s.commit srcs dsts rs).here.port p = s.here.port p :=
  (writeDsts_keeps (f := fun t => t.here.port p) (fun _ _ x hd => port_writeDst x hd)
    (fun _ hd e => h' (List.mem_filterMap.mpr ⟨_, hd, e⟩)) rs _).trans (port_popped h)

end

theorem advance_eq (b : Berth) (n : Nat) :
    b.advance n = { b with pc := (b.advance n).pc, repst := (b.advance n).repst, seqOn := (b.advance n).seqOn } := by
  unfold Berth.advance
  split
  · split
    · rfl
    · split <;> rfl
  · rfl

theorem advance_of_withFiles {b c : Berth} (h : b = c.withFiles b) (n : Nat) :
    b.advance n = { c with g := (b.advance n).g, v := (b.advance n).v, k := (b.advance n).k, pc := (b.advance n).pc,
                           repst := (b.advance n).repst, seqOn := (b.advance n).seqOn } := by
  rw [g_advance, v_advance, k_advance]
  exact (advance_eq b n).trans (congrArg (fun x : Berth =>
    { x with pc := (b.advance n).pc, repst := (b.advance n).repst, seqOn := (b.advance n).seqOn }) h)

/-- Settles O55: pops and writes touch the executing core's ports and its berth's registers only, each write its own destination, and
the berth then goes on. -/
theorem operandFrame : Obligations.OperandFrame := by
  intro s srcs dsts rs len
  obtain ⟨hpart, hothers, ⟨ps, hhere⟩, hme⟩ := operated_commit s srcs dsts rs
  have field {α : Type} (f : State → α) := congrArg f hpart
  refine ⟨field State.mem, field State.tags, field State.net, field State.resv, field State.barriers, field State.words,
    field State.units, field State.owners, field State.l2, field State.gtlb, field State.wcache, field State.tlbis,
    field State.time, field State.cur, field State.cb, fun n hn => ?_, ⟨(s.finish srcs dsts rs len).me, ps, ?_, ?_⟩,
    fun r hr => ?_, fun r hr => ?_, fun r hr => ?_, fun p hp hp' => ?_, fun hrep => ?_⟩
  · exact (core_setMe_other _ _ (field State.cur ▸ hn)).trans (hothers n hn)
  · rw [State.finish, State.retire, here_setMe, me_setMe, hhere, field State.cb]
    exact (setBerth_withPorts ..).trans (congrArg (·.withPorts ps) (setBerth_setBerth ..))
  · rw [State.finish, me_retire]
    exact congrArg (fun x : Berth => { x with wait := .none, rsp := [], fetched := none }) (advance_of_withFiles hme len)
  · rw [State.finish, me_retire]
    exact (getG_advance ..).trans (getG_commit s srcs rs hr)
  · rw [State.finish, me_retire]
    exact (getV_advance ..).trans (getV_commit s srcs rs hr)
  · rw [State.finish, me_retire]
    exact (getK_advance ..).trans (getK_commit s srcs rs hr)
  · rw [State.finish, State.retire, here_setMe, port_setBerth, port_commit s srcs rs hp hp']
  · rw [State.finish, me_retire, advance_plain _ _ (by rw [hme]; exact hrep)]
    rw [hme]; rfl

theorem files_retire (s : State) (n : Nat) :
    (s.retire n).me.g = s.me.g ∧ (s.retire n).me.v = s.me.v ∧ (s.retire n).me.k = s.me.k := by
  rw [me_retire]
  exact ⟨g_advance .., v_advance .., k_advance ..⟩

/-- Settles O54: the reads and discards by evaluation; an instruction with such a destination only pops its sources' ports and goes
on. -/
theorem fixedRegisters : Obligations.FixedRegisters := by
  refine ⟨fun b r x => ⟨rfl, rfl, rfl, rfl, rfl, rfl, fun n hn => ?_, fun n hn => ?_⟩, fun s u => ⟨rfl, rfl⟩,
    fun s srcs r len => ?_⟩
  · simp [Berth.isEmpty, hn]
  · simp [Berth.isEmpty, hn]
  · have hpop := (operated_popped s srcs).2
    have hg : (s.commit srcs [.g 0] [r]).me = s.me := (me_setMe ..).trans hpop
    have hk : (s.commit srcs [.k 0] [r]).me = s.me := (me_setMe ..).trans hpop
    obtain ⟨hgg, hgv, hgk⟩ := files_retire (s.commit srcs [.g 0] [r]) len
    obtain ⟨hkg, hkv, hkk⟩ := files_retire (s.commit srcs [.k 0] [r]) len
    rw [hg] at hgg hgv hgk
    rw [hk] at hkg hkv hkk
    exact ⟨hgg, hgv, hgk, hkg, hkv, hkk⟩

end Sys2Proof.Machine
end

section
/-! Proofs. Every instruction and every step of the part ends in a next state (R219; O56). -/

namespace Sys2Proof.Machine

/-- An outcome that is a next state: neither a fault nor a refusal. -/
def GoesOn (o : Out) : Prop := ∃ t : State, o = .next t

theorem goesOn_next (t : State) : GoesOn (.next t) := ⟨t, rfl⟩

theorem goesOn_ite {c : Prop} {_ : Decidable c} {o p : Out} (ho : GoesOn o) (hp : GoesOn p) : GoesOn (if c then o else p) := by
  split
  · exact ho
  · exact hp

/-- Whatever stops an instruction, a trap, a wait or its thread's departure, has its effect. -/
theorem goesOn_run (s : State) (r : M State) : GoesOn (run s r) := by
  unfold run
  split <;> exact goesOn_next _

theorem goesOn_writeBy (s : State) (n : Nat) (r : M State) : GoesOn (writeBy s n r) := by
  unfold writeBy
  split <;> exact goesOn_next _

theorem goesOn_execGeomWrite (node : BitVec 12) (berth : BitVec 2) (v : BitVec 64) (s : State) :
    GoesOn (execGeomWrite node berth v s) := by
  unfold execGeomWrite
  dsimp only
  split <;> exact goesOn_next _

theorem goesOn_execRegisterWrite (node : BitVec 12) (berth : BitVec 2) (r v : BitVec 64) (s : State) :
    GoesOn (execRegisterWrite node berth r v s) := by
  refine goesOn_ite (goesOn_next _) (goesOn_ite (goesOn_next _) ?_)
  split
  · exact goesOn_writeBy ..
  · exact goesOn_next _
  · exact goesOn_next _

theorem goesOn_kslotStep (slot : BitVec 12) (s t : State) : GoesOn (kslotStep slot s t) := by
  unfold kslotStep
  split <;> exact goesOn_next _

/-- Instructions run to an outcome; the part's own steps change the state outright, but for the writes of registers that may trap and
the commands of the key slots. -/
theorem goesOn_exec (i : Instr) (s : State) : GoesOn (exec i s) := by
  cases i with
  | ctxidWrite | ovfbaseWrite | mspillWrite | prioWrite => exact goesOn_writeBy ..
  | geomWrite => exact goesOn_execGeomWrite ..
  | registerWrite => exact goesOn_execRegisterWrite ..
  | kslotLoad | kslotRetire | kslotPurge => exact goesOn_kslotStep ..
  | gclr | brk | cJ | cGclr | rankWrite | inqstatWrite | tvecWrite | tapenWrite | tapinvWrite | repeatWrite | tagsWrite
  | rqstatRecall | rqstatEvict | kslotTagclr | kslotDone | l2colGo | columnFold | columnUnfold | homeFill | homeRegistration
  | ownershipRevoke | homeWriteback | homeAmo | homeRed | homeLoga | homeLrw | homeSch | homeBarrier | homeWaitRegister
  | waitValue | homeDisc | tlbWalk | memoryError | nmsgArrive | umsgArrive | gportArrive | vportArrive | portOutboundSend
  | rwreqArrive | rwrspArrive | rwreqRetry | dackArrive | gangbArrive | migDepart | migArrive | migResume | migRetry
  | evictArrive | tlbiArrive | tlbiComplete | ifenceComplete | copyStart | copyComplete | mergePass | mergeComplete
  | engineSpill | engineReload | timerExpire | trapEntry | machineEntry | coreStart | dispatchSlot | dependencyDecrement
  | launchSweep | launchEnd | occupancyWindow | poolRebind | groupQuiesce | groupDrain | groupResume | gretSaveRetain
  | gretSaveImage | gretSaveRestore | gretSaveDone | gclkGateWrite | grailCtlWrite | railOk | wakeGmask | wakeTon | wakeSrcRead
  | wakeArmWrite | cascadeFire | groupWake | torrentBringUp | torrentLeaveOn | dramSelfRefreshEnter | dramSelfRefreshExit
  | rillCoreRet | rillCoreWake | leaseExpire | portageGo | portageAbort | portageTransit | portageCopy | portageRelease
  | siltFreeze | siltResume | siltRelease | freezeArrive | siltStop | capsuleBuild | capsuleRead | capsuleRelease | queueBase
  | keyBind | windowSet | mailboxBadCommand | hostSubmission | hostSubmissionRetry | hostRead | hostWrite | getVersion
  | getCapabilities | negotiateAlgorithms | getDigests | getCertificate | challenge | getMeasurements | keyExchange | finish
  | heartbeat | endSession | linkDown | coldReset | warmReset | sleepDeadline | mrspArrive | mmaComplete | thermalLimit
  | powerOverBudget | rutuquaPairing | tdispMessage => exact goesOn_next _
  | _ => exact goesOn_run ..

/-! ## Steps -/

theorem goesOn_issue (w : Nat) (s : State) : GoesOn (issue w s) := by
  unfold issue
  split
  · exact goesOn_next _
  · split
    · split
      · exact goesOn_exec ..
      · exact goesOn_next _
    · exact goesOn_exec ..

theorem goesOn_fetchIssue (s : State) : GoesOn (fetchIssue s) := by
  unfold fetchIssue
  split
  · exact goesOn_next _
  · split
    · exact goesOn_issue ..
    · split
      · exact goesOn_next _
      · exact goesOn_issue ..

theorem goesOn_runBerth (s : State) (n i : Nat) : GoesOn (runBerth s n i) := by
  obtain ⟨t, ht⟩ := goesOn_fetchIssue (s.turn n i)
  unfold runBerth
  rw [ht]
  dsimp only
  split <;> exact goesOn_next _

theorem goesOn_moverStep (s : State) (m : Mover) : GoesOn (moverStep s m) := by
  cases m with
  | event i e => exact goesOn_exec ..
  | entry n => exact goesOn_exec (Event.toInstr (.trapEntry (BitVec.ofNat 12 n))) s
  | berth n i => exact goesOn_runBerth s n i
  | ret n => exact goesOn_ite (goesOn_exec ..) (goesOn_next s)
  | wakeRill n => exact goesOn_ite (goesOn_next s) (goesOn_exec ..)
  | _ => exact goesOn_next _

theorem goesOn_tickOut {o : Out} (h : GoesOn o) : GoesOn (tickOut o) := by
  obtain ⟨t, rfl⟩ := h
  exact goesOn_next t.tick

theorem goesOn_step (s : State) : GoesOn (step s) := by
  unfold step
  split
  · exact goesOn_next s.tick
  · exact goesOn_tickOut (goesOn_moverStep ..)

/-- Settles O56: no arm of `exec` answers a fault or a refusal, and neither does what a step does around it. -/
theorem stepNeverStops : Obligations.StepNeverStops := ⟨goesOn_exec, goesOn_step⟩

end Sys2Proof.Machine
end

section
/-! Proofs. A berth's step runs the instruction that its word decodes to (R181, R219; O58), and words written out (R213; O60). -/

namespace Sys2Proof.Machine

theorem runBerth_eq {s : State} {n i : Nat} (h : i ≠ 1 ∨ (s.core n).b1.stopped = false) :
    runBerth s n i = fetchIssue (s.turn n i) := by
  refine if_neg ?_
  rcases h with h | h
  · simp [h]
  · have : (s.berthAt n 1).stopped = false := h
    simp [this]

theorem fetchIssue_of_held {s : State} {a : Word} {w : Nat} (hwait : ∀ c v, s.me.wait ≠ .failed c v)
    (h : s.me.fetched.filter (·.1 = s.me.pc) = some (a, w)) : fetchIssue s = issue w s := by
  unfold fetchIssue
  split
  · next c v hw => exact absurd hw (hwait c v)
  · rw [h]

theorem fetchIssue_of_fetch {s t : State} {w : Nat} (hwait : ∀ c v, s.me.wait ≠ .failed c v)
    (h : s.me.fetched.filter (·.1 = s.me.pc) = none) (hf : s.fetch s.me.pc = .ok (t, w)) :
    fetchIssue s = issue w (t.setMe { t.me with fetched := some (s.me.pc, w) }) := by
  unfold fetchIssue
  split
  · next c v hw => exact absurd hw (hwait c v)
  · rw [h, hf]

theorem issue_plain {s : State} {w len : Nat} {k : Instr} (hd : decodeBits w = .instr k len) (h : s.me.repAct = false) :
    issue w s = exec k s := by
  simp only [issue, hd, h]; rfl

theorem issue_repeated {s : State} {w len : Nat} {k : Instr} (hd : decodeBits w = .instr k len) (h : s.me.repAct = true)
    (hb : repBody w = true) : issue w s = exec (advanceV (BitVec.ofNat 5 (s.me.repJ * s.me.repS)) k) s := by
  simp only [issue, hd, h, hb]; rfl

theorem time_tick_of_lt {t : State} (h : t.time.toNat + Config.ticks t.freeCtr + 2 < 2 ^ 64) :
    t.tick.time.toNat = t.time.toNat + Config.ticks t.freeCtr := by
  have : t.tick.time = w64 (t.time.toNat + Config.ticks t.freeCtr) := if_pos h
  rw [this, w64, BitVec.toNat_ofNat, Nat.mod_eq_of_lt (by omega)]

theorem time_le_tick (t : State) : t.time.toNat ≤ t.tick.time.toNat := by
  by_cases h : t.time.toNat + Config.ticks t.freeCtr + 2 < 2 ^ 64
  · rw [time_tick_of_lt h]; exact Nat.le_add_right _ _
  · exact Nat.le_of_eq (congrArg BitVec.toNat (if_neg h).symm)

theorem step_of_berth {s : State} {m : Mover} {l : List Mover} {n i : Nat} (hm : s.movers = m :: l)
    (hc : s.choose m l = .berth n i) : step s = tickOut (runBerth s n i) := by
  simp only [step, hm, hc]; rfl

/-- Settles O58: a step of a berth that has not stopped fetches or holds its word, issues it and ticks; each outcome of the
execution passes the tick as it is. -/
theorem stepRunsDecoded : Obligations.StepRunsDecoded := by
  intro s u m l n i w len k hm hc hstop hwait v before hu hd
  have hissue : step s = tickOut (issue w u) := by
    rw [step_of_berth hm hc, runBerth_eq hstop]
    rcases hu with ⟨hb, x, hx, rfl⟩ | ⟨⟨a, ha⟩, rfl⟩
    · rw [fetchIssue_of_fetch hwait hb hx]
    · rw [fetchIssue_of_held hwait ha]
  refine ⟨fun hr t ht => ?_, fun hr hb t ht => ?_, fun t => ⟨rfl, rfl, time_tick_of_lt, time_le_tick t⟩⟩
  · rw [hissue, issue_plain hd hr, ht]; rfl
  · rw [hissue, issue_repeated hd hr hb, ht]; rfl

/-- Settles O60: each word by evaluating the decoder on it. -/
theorem decodeWords : Obligations.DecodeWords := by
  unfold Obligations.DecodeWords
  and_intros <;> rfl

end Sys2Proof.Machine
end
